-- ==== Sys2Proof/Word.lean ====
section
/-! DEFINITION. The fabric's 64-bit word and the byte (spec/00 R6, R8): the word types of the model. -/

namespace Sys2Proof

/-- One 64-bit token, live value, scratchpad word or register (R8, R27). -/
abbrev Word := BitVec 64

/-- One byte of an address space (R6). -/
abbrev Byte := BitVec 8

/-- The signed 27-bit immediate of the ALU layout (R50). -/
abbrev Imm := BitVec 27

end Sys2Proof
end

