-- ==== Sys2Proof/Syntax.lean ====
section
/-! DEFINITION. The instructions: one constructor per row of the opcode table. The 151 instruction forms of the opcode
map (spec/02 R58) carry the fields of their words; the 100 events and commands carry the names of the things they act
on (a core, a context, a queue, a port) and the choices the spec leaves to the part. -/

namespace Sys2Proof

/-- Operand slots of an instruction (R48). -/
inductive Slot
  | a | b | c | p
  deriving DecidableEq, Repr

/-- A target: the consumer's index and operand slot (R47, R48). -/
structure Target where
  idx : BitVec 7
  slot : Slot
  deriving DecidableEq, Repr

/-- Predicate match PM (R47, R54); 0b11 is not a value of this type. -/
inductive Pred
  | always | onTrue | onFalse
  deriving DecidableEq, Repr

/-- The fields every instruction word has (R47): predicate match, urgency, two targets. -/
structure Fields where
  pm : Pred
  hot : Bool
  t0 : Option Target
  t1 : Option Target
  deriving DecidableEq, Repr

/-- Integer types of FN[1:0] (R49). -/
inductive IntTy
  | i32 | n32 | i64 | n64
  deriving DecidableEq, Repr

/-- Rounding modes 0-5 (R49, R79). -/
inductive RMode
  | rne | rtz | rup | rdn | rna | hsr
  deriving DecidableEq, Repr

/-- The conditions of CMP (R111). -/
inductive Cond
  | eq | ne | lt | ge
  deriving DecidableEq, Repr

/-- The widths of EXT (R117). -/
inductive ExtWidth
  | b8 | b16 | b32
  deriving DecidableEq, Repr

/-- The polynomials and byte counts of CRC (R120). -/
inductive CrcPoly
  | c32 | c32c | c32b | c32cb
  deriving DecidableEq, Repr

/-- Storage formats, in the order of their codes 0-16 (R82). -/
inductive Fmt
  | raw64 | i8 | i16 | i32 | n8 | n16 | n32 | fp32 | fp16 | bf16 | e4m3 | e5m2 | e2m1 | t8 | t6 | s12 | e8m0
  deriving DecidableEq, Repr

/-- Memory classes of the memory layout: G chunked global, S streamed global, P scratchpad (R51). -/
inductive MemClass
  | g | s | p
  deriving DecidableEq, Repr

/-- Scopes (R51, R158). -/
inductive Scope
  | core | die | pkg | sys
  deriving DecidableEq, Repr

/-- Cache policies: normal, keep, no-allocate, uncached (R51). -/
inductive CachePol
  | normal | keep | noAlloc | uncached
  deriving DecidableEq, Repr

/-- The memory layout of OPS (R51). -/
structure MemOps where
  cls : MemClass
  scope : Scope
  fmt : Fmt
  cp : CachePol
  oe : Bool
  disp : BitVec 16
  deriving DecidableEq, Repr

/-- Modes of TEST (R319). -/
inductive TestMode
  | any | all | none
  deriving DecidableEq, Repr

/-- Folds of VOTE (R324). -/
inductive VoteOp
  | any | all | cnt
  deriving DecidableEq, Repr

/-- Folds of the collectives and of RED, in the order of OPK 0-8 (R154, R214). -/
inductive FoldOp
  | add | min | max | and | or | xor | fadd | fmin | fmax
  deriving DecidableEq, Repr

/-- Conditions of WAITA, in the order of COND 0-5 (R219). -/
inductive WaitCond
  | eq | ne | lt | ge | any | none
  deriving DecidableEq, Repr

/-- A stream port: a bank of the issuing core, or a stream edge of the running graph (R225). -/
structure PortRef where
  edge : Bool
  port : BitVec 6
  deriving DecidableEq, Repr

/-- The instructions and events of the opcode table. -/
inductive Instr
  /-- MOV, opcode 0x01 (R304). -/
  | mov (f : Fields)
  /-- MOVI, opcode 0x02 (R304). -/
  | movi (f : Fields) (imm : Imm)
  /-- MOVX, opcode 0x03 (R304). -/
  | movx (f : Fields) (imm : Word)
  /-- FAN, opcode 0x04 (R304). -/
  | fan (f : Fields) (t2 t3 : Option Target)
  /-- NULL, opcode 0x05 (R305). -/
  | null (f : Fields)
  /-- READ, opcode 0x06 (R307). -/
  | read (f : Fields) (lk : BitVec 6)
  /-- WRITE, opcode 0x07 (R308). -/
  | write (f : Fields) (lk : BitVec 6)
  /-- SEL, opcode 0x08 (R304). -/
  | sel (f : Fields) (imm : Option Imm)
  /-- STEER, opcode 0x09 (R309). -/
  | steer (f : Fields)
  /-- MERGE, opcode 0x0A (R310). -/
  | merge (f : Fields)
  /-- CARRY, opcode 0x0B (R311). -/
  | carry (f : Fields)
  /-- INVAR, opcode 0x0C (R313). -/
  | invar (f : Fields)
  /-- EXIT, opcode 0x0D (R314). -/
  | exit (f : Fields) (xn : BitVec 3)
  /-- CALL, opcode 0x0E (R314). -/
  | call (f : Fields) (lk : BitVec 6) (xr xn : BitVec 3)
  /-- RET, opcode 0x0F (R314). -/
  | ret (f : Fields)
  /-- DROP, opcode 0x10 (R306). -/
  | drop (f : Fields)
  /-- TEST, opcode 0x11 (R319). -/
  | test (f : Fields) (mode : TestMode) (mask : BitVec 12)
  /-- SPAWN, opcode 0x14 (R317). -/
  | spawn (f : Fields) (xn : BitVec 3)
  /-- END, opcode 0x15 (R314). -/
  | endThread (f : Fields)
  /-- GNEW, opcode 0x16 (R321). -/
  | gnew (f : Fields)
  /-- GFREE, opcode 0x17 (R321). -/
  | gfree (f : Fields)
  /-- JOIN, opcode 0x18 (R321). -/
  | join (f : Fields)
  /-- LEAVE, opcode 0x19 (R321). -/
  | leave (f : Fields)
  /-- BAR, opcode 0x1A (R323). -/
  | bar (f : Fields)
  /-- BARINIT, opcode 0x1B (R321). -/
  | barinit (f : Fields)
  /-- ELECT, opcode 0x1C (R324). -/
  | elect (f : Fields) (ls : BitVec 6)
  /-- VOTE, opcode 0x1D (R324). -/
  | vote (f : Fields) (opk : VoteOp) (ls : BitVec 6)
  /-- SETF, opcode 0x1E (R318). -/
  | setf (f : Fields) (mask : BitVec 12)
  /-- CLRF, opcode 0x1F (R318). -/
  | clrf (f : Fields) (mask : BitVec 12)
  /-- GROW, opcode 0x20 (R325). -/
  | grow (f : Fields) (imm : Option Imm)
  /-- SHRINK, opcode 0x21 (R325). -/
  | shrink (f : Fields) (imm : Option Imm)
  /-- SREAD, opcode 0x22 (R326). -/
  | sread (f : Fields) (which : BitVec 4)
  /-- YIELD, opcode 0x23 (R316). -/
  | yield (f : Fields)
  /-- ADD, opcode 0x28 (R106). -/
  | add (f : Fields) (ty : IntTy) (chk : Bool) (imm : Option Imm)
  /-- SUB, opcode 0x29 (R106). -/
  | sub (f : Fields) (ty : IntTy) (chk : Bool) (imm : Option Imm)
  /-- MUL, opcode 0x2A (R106). -/
  | mul (f : Fields) (ty : IntTy) (chk : Bool) (imm : Option Imm)
  /-- MULH, opcode 0x2B (R108). -/
  | mulh (f : Fields) (ty : IntTy) (imm : Option Imm)
  /-- MAD, opcode 0x2C (R106). -/
  | mad (f : Fields) (ty : IntTy) (chk : Bool) (imm : Option Imm)
  /-- DIV, opcode 0x2D (R109). -/
  | div (f : Fields) (ty : IntTy) (chk : Bool) (imm : Option Imm)
  /-- REM, opcode 0x2E (R109). -/
  | rem (f : Fields) (ty : IntTy) (chk : Bool) (imm : Option Imm)
  /-- NEG, opcode 0x2F (R106). -/
  | neg (f : Fields) (ty : IntTy) (chk : Bool)
  /-- ABS, opcode 0x30 (R106). -/
  | abs (f : Fields) (ty : IntTy) (chk : Bool)
  /-- MIN, opcode 0x31 (R110). -/
  | min (f : Fields) (ty : IntTy) (imm : Option Imm)
  /-- MAX, opcode 0x32 (R110). -/
  | max (f : Fields) (ty : IntTy) (imm : Option Imm)
  /-- CLAMP, opcode 0x33 (R110). -/
  | clamp (f : Fields) (ty : IntTy) (imm : Option Imm)
  /-- ABSD, opcode 0x34 (R106). -/
  | absd (f : Fields) (ty : IntTy) (chk : Bool) (imm : Option Imm)
  /-- ADDS, opcode 0x35 (R107). -/
  | adds (f : Fields) (ty : IntTy) (imm : Option Imm)
  /-- SUBS, opcode 0x36 (R107). -/
  | subs (f : Fields) (ty : IntTy) (imm : Option Imm)
  /-- CMP, opcode 0x37 (R111). -/
  | cmp (f : Fields) (ty : IntTy) (cond : Cond) (imm : Option Imm)
  /-- AND, opcode 0x38 (R112). -/
  | and (f : Fields) (ty : IntTy) (imm : Option Imm)
  /-- OR, opcode 0x39 (R112). -/
  | or (f : Fields) (ty : IntTy) (imm : Option Imm)
  /-- XOR, opcode 0x3A (R112). -/
  | xor (f : Fields) (ty : IntTy) (imm : Option Imm)
  /-- ANDN, opcode 0x3B (R112). -/
  | andn (f : Fields) (ty : IntTy) (imm : Option Imm)
  /-- NOT, opcode 0x3C (R112). -/
  | not (f : Fields) (ty : IntTy)
  /-- SHL, opcode 0x3D (R113). -/
  | shl (f : Fields) (ty : IntTy) (imm : Option Imm)
  /-- SHR, opcode 0x3E (R113). -/
  | shr (f : Fields) (ty : IntTy) (imm : Option Imm)
  /-- SAR, opcode 0x3F (R113). -/
  | sar (f : Fields) (ty : IntTy) (imm : Option Imm)
  /-- ROL, opcode 0x40 (R114). -/
  | rol (f : Fields) (ty : IntTy) (imm : Option Imm)
  /-- ROR, opcode 0x41 (R114). -/
  | ror (f : Fields) (ty : IntTy) (imm : Option Imm)
  /-- FSH, opcode 0x42 (R114). -/
  | fsh (f : Fields) (ty : IntTy) (right : Bool) (imm : Option Imm)
  /-- CLZ, opcode 0x43 (R115). -/
  | clz (f : Fields) (ty : IntTy)
  /-- CTZ, opcode 0x44 (R115). -/
  | ctz (f : Fields) (ty : IntTy)
  /-- POPC, opcode 0x45 (R115). -/
  | popc (f : Fields) (ty : IntTy)
  /-- BREV, opcode 0x46 (R115). -/
  | brev (f : Fields) (ty : IntTy)
  /-- BFX, opcode 0x47 (R116). -/
  | bfx (f : Fields) (ty : IntTy) (imm : Option Imm)
  /-- BFI, opcode 0x48 (R116). -/
  | bfi (f : Fields) (ty : IntTy) (imm : Option Imm)
  /-- EXT, opcode 0x49 (R117). -/
  | ext (f : Fields) (ty : IntTy) (width : ExtWidth)
  /-- PERM, opcode 0x4A (R118). -/
  | perm (f : Fields) (ty : IntTy) (imm : Option Imm)
  /-- LEA, opcode 0x4B (R119). -/
  | lea (f : Fields) (ty : IntTy) (scale : BitVec 2) (imm : Option Imm)
  /-- CRC, opcode 0x4C (R120). -/
  | crc (f : Fields) (ty : IntTy) (poly : CrcPoly) (imm : Option Imm)
  /-- FADD, opcode 0x50 (R123). -/
  | fadd (f : Fields) (rm : RMode) (imm : Option Imm)
  /-- FSUB, opcode 0x51 (R123). -/
  | fsub (f : Fields) (rm : RMode) (imm : Option Imm)
  /-- FMUL, opcode 0x52 (R123). -/
  | fmul (f : Fields) (rm : RMode) (imm : Option Imm)
  /-- FMA, opcode 0x53 (R124). -/
  | fma (f : Fields) (rm : RMode) (imm : Option Imm)
  /-- FNMA, opcode 0x54 (R124). -/
  | fnma (f : Fields) (rm : RMode) (imm : Option Imm)
  /-- FDIV, opcode 0x55 (R123). -/
  | fdiv (f : Fields) (rm : RMode) (imm : Option Imm)
  /-- FSQRT, opcode 0x56 (R123). -/
  | fsqrt (f : Fields) (rm : RMode)
  /-- FRCP, opcode 0x57 (R125). -/
  | frcp (f : Fields) (rm : RMode)
  /-- FRSQ, opcode 0x58 (R125). -/
  | frsq (f : Fields) (rm : RMode)
  /-- FMIN, opcode 0x59 (R127). -/
  | fmin (f : Fields) (rm : RMode) (alt : Bool) (imm : Option Imm)
  /-- FMAX, opcode 0x5A (R127). -/
  | fmax (f : Fields) (rm : RMode) (alt : Bool) (imm : Option Imm)
  /-- FABS, opcode 0x5B (R129). -/
  | fabs (f : Fields) (rm : RMode)
  /-- FNEG, opcode 0x5C (R129). -/
  | fneg (f : Fields) (rm : RMode)
  /-- FSGN, opcode 0x5D (R129). -/
  | fsgn (f : Fields) (rm : RMode) (alt : Bool) (imm : Option Imm)
  /-- FCMP, opcode 0x5E (R130). -/
  | fcmp (f : Fields) (rm : RMode) (alt : Bool) (imm : Option Imm)
  /-- FCLASS, opcode 0x5F (R131). -/
  | fclass (f : Fields) (rm : RMode)
  /-- FRINT, opcode 0x60 (R132). -/
  | frint (f : Fields) (rm : RMode)
  /-- FTOI, opcode 0x61 (R133). -/
  | ftoi (f : Fields) (rm : RMode) (ty : IntTy)
  /-- ITOF, opcode 0x62 (R134). -/
  | itof (f : Fields) (rm : RMode) (ty : IntTy)
  /-- FSCALE, opcode 0x63 (R135). -/
  | fscale (f : Fields) (rm : RMode)
  /-- FLOGB, opcode 0x64 (R135). -/
  | flogb (f : Fields) (rm : RMode)
  /-- FMANT, opcode 0x65 (R135). -/
  | fmant (f : Fields) (rm : RMode)
  /-- FEXP2, opcode 0x66 (R126). -/
  | fexp2 (f : Fields) (rm : RMode)
  /-- FLOG2, opcode 0x67 (R126). -/
  | flog2 (f : Fields) (rm : RMode)
  /-- FSIN, opcode 0x68 (R126). -/
  | fsin (f : Fields) (rm : RMode)
  /-- FCOS, opcode 0x69 (R126). -/
  | fcos (f : Fields) (rm : RMode)
  /-- FTANH, opcode 0x6A (R126). -/
  | ftanh (f : Fields) (rm : RMode)
  /-- FERF, opcode 0x6B (R126). -/
  | ferf (f : Fields) (rm : RMode)
  /-- FCLAMP, opcode 0x6C (R128). -/
  | fclamp (f : Fields) (rm : RMode) (imm : Option Imm)
  /-- LD, opcode 0x78 (R201). -/
  | ld (f : Fields) (m : MemOps)
  /-- ST, opcode 0x79 (R201). -/
  | st (f : Fields) (m : MemOps) (rm : RMode)
  /-- LDT, opcode 0x7A (R205). -/
  | ldt (f : Fields) (map : BitVec 12) (oe : Bool)
  /-- STT, opcode 0x7B (R205). -/
  | stt (f : Fields) (map : BitVec 12) (oe : Bool) (rm : RMode)
  /-- PREF, opcode 0x7C (R207). -/
  | pref (f : Fields) (m : MemOps)
  /-- EVICT, opcode 0x7D (R207). -/
  | evict (f : Fields) (m : MemOps)
  /-- AADD, opcode 0x90 (R210). -/
  | aadd (f : Fields) (m : MemOps)
  /-- AMIN, opcode 0x91 (R210). -/
  | amin (f : Fields) (m : MemOps)
  /-- AMAX, opcode 0x92 (R210). -/
  | amax (f : Fields) (m : MemOps)
  /-- AAND, opcode 0x93 (R210). -/
  | aand (f : Fields) (m : MemOps)
  /-- AOR, opcode 0x94 (R210). -/
  | aor (f : Fields) (m : MemOps)
  /-- AXOR, opcode 0x95 (R210). -/
  | axor (f : Fields) (m : MemOps)
  /-- AXCHG, opcode 0x96 (R210). -/
  | axchg (f : Fields) (m : MemOps)
  /-- ACAS, opcode 0x97 (R210). -/
  | acas (f : Fields) (m : MemOps)
  /-- AINCW, opcode 0x98 (R210). -/
  | aincw (f : Fields) (m : MemOps)
  /-- ADECW, opcode 0x99 (R210). -/
  | adecw (f : Fields) (m : MemOps)
  /-- AFADD, opcode 0x9A (R211). -/
  | afadd (f : Fields) (m : MemOps) (rm : RMode)
  /-- AFMIN, opcode 0x9B (R211). -/
  | afmin (f : Fields) (m : MemOps) (rm : RMode)
  /-- AFMAX, opcode 0x9C (R211). -/
  | afmax (f : Fields) (m : MemOps) (rm : RMode)
  /-- RED, opcode 0x9D (R214). -/
  | red (f : Fields) (m : MemOps) (rm : RMode) (nu : Bool) (opk : FoldOp)
  /-- OJOIN, opcode 0x9E (R215). -/
  | ojoin (f : Fields)
  /-- REL, opcode 0x9F (R216). -/
  | rel (f : Fields) (scope : Scope)
  /-- ACQ, opcode 0xA0 (R217). -/
  | acq (f : Fields) (scope : Scope)
  /-- FENCE, opcode 0xA1 (R218). -/
  | fence (f : Fields) (scope : Scope)
  /-- WAITA, opcode 0xA2 (R219). -/
  | waita (f : Fields) (cls : MemClass) (fmt : Fmt) (oe : Bool) (cond : WaitCond)
  /-- BANKMODE, opcode 0xB0 (R222). -/
  | bankmode (f : Fields) (oe : Bool)
  /-- PUSH, opcode 0xB1 (R226). -/
  | push (f : Fields) (port : PortRef) (oe : Bool)
  /-- POP, opcode 0xB2 (R227). -/
  | pop (f : Fields) (port : PortRef) (oe : Bool)
  /-- PEEK, opcode 0xB3 (R227). -/
  | peek (f : Fields) (port : PortRef) (oe : Bool)
  /-- WFEED, opcode 0xB4 (R230). -/
  | wfeed (f : Fields) (port : PortRef) (oe : Bool)
  /-- WEMIT, opcode 0xB5 (R230). -/
  | wemit (f : Fields) (port : PortRef) (oe : Bool)
  /-- GATH, opcode 0xB6 (R231). -/
  | gath (f : Fields) (m : MemOps)
  /-- GRECV, opcode 0xB7 (R232). -/
  | grecv (f : Fields)
  /-- MBLD, opcode 0xC0 (R147). -/
  | mbld (f : Fields) (cls : MemClass) (scope : Scope) (fmt : Fmt) (cp : CachePol) (oe : Bool) (flag : Option (BitVec 4))
  /-- MMA, opcode 0xC1 (R148). -/
  | mma (f : Fields) (oe : Bool) (flag : Option (BitVec 4))
  /-- MZERO, opcode 0xC2 (R150). -/
  | mzero (f : Fields) (oe : Bool) (flag : Option (BitVec 4)) (tile : BitVec 2)
  /-- MSTORE, opcode 0xC3 (R151). -/
  | mstore (f : Fields) (cls : MemClass) (scope : Scope) (fmt : Fmt) (cp : CachePol) (oe : Bool) (flag : Option (BitVec 4)) (tile : BitVec 2) (rm : RMode)
  /-- MREAD, opcode 0xC4 (R152). -/
  | mread (f : Fields) (oe : Bool) (tile : BitVec 2)
  /-- REDUCE, opcode 0xC5 (R154). -/
  | reduce (f : Fields) (opk : FoldOp) (ty : IntTy) (rm : RMode) (ls : BitVec 6)
  /-- SCAN, opcode 0xC6 (R154). -/
  | scan (f : Fields) (opk : FoldOp) (ty : IntTy) (rm : RMode) (ls : BitVec 6) (exclusive : Bool)
  /-- BCAST, opcode 0xC7 (R154). -/
  | bcast (f : Fields) (ls : BitVec 6)
  /-- COPY, opcode 0xD0 (R249). -/
  | copy (f : Fields) (cls : MemClass) (oe : Bool) (flag : Option (BitVec 4))
  /-- CREDIT, opcode 0xD1 (R256). -/
  | credit (f : Fields) (oe : Bool)
  /-- CSTAT, opcode 0xD2 (R257). -/
  | cstat (f : Fields) (oe : Bool)
  /-- TRAP, opcode 0xE0 (R419). -/
  | trap (f : Fields) (code : BitVec 6)
  /-- BRK, opcode 0xE1 (R419). -/
  | brk (f : Fields) (tag : BitVec 16)
  /-- SYSRD, opcode 0xE2 (R420). -/
  | sysrd (f : Fields) (oe : Bool) (num : BitVec 8)
  /-- SYSWR, opcode 0xE3 (R421). -/
  | syswr (f : Fields) (oe : Bool) (num : BitVec 8)
  /-- TLBINV, opcode 0xE4 (R422). -/
  | tlbinv (f : Fields) (all : Bool) (oe : Bool) (flag : Option (BitVec 4))
  /-- CFGINV, opcode 0xE5 (R423). -/
  | cfginv (f : Fields) (all : Bool) (oe : Bool) (flag : Option (BitVec 4))
  /-- RESUME, opcode 0xE6 (R424). -/
  | resume (f : Fields) (link : Bool)
  /-- HALT, opcode 0xE7 (R425). -/
  | halt (f : Fields) (ic : Bool) (cause : BitVec 9)
  /-- MARSHAL_BLOCK_CHOICE (R266): The marshal chooses a block by the overdue, eligible and drain rules and fixes the admission set. -/
  | marshalBlockChoice (core ctx : Nat)
  /-- AGE_THRESHOLD_REACHED (R265): A block's age count reaches AGE or 2 × AGE, which makes the block eligible or overdue. -/
  | ageThresholdReached (core ctx blk : Nat)
  /-- CONFIGURATION_LOAD_DONE (R59): A block image finishes loading into a configuration slot, after its re-check; a failing block traps the threads chosen for it. -/
  | configurationLoadDone (core ctx : Nat)
  /-- THREAD_ADMISSION (R268): One thread of the admission set is admitted per core cycle, created if pending and refetched if spilled. -/
  | threadAdmission (core ctx : Nat)
  /-- LOAD_DATA_RETURN (R196): A memory read returns its value, which sends the value and done tokens. -/
  | loadDataReturn (core ctx tidx idx : Nat)
  /-- GATHER_RETURN (R231): An outstanding gather's row read returns for the merger. -/
  | gatherReturn (core ctx tidx ticket : Nat)
  /-- PASS_END (R269): Streaming ends, and the end-of-pass checks of links, groups and BANKMODE are made. -/
  | passEnd (core ctx : Nat)
  /-- ARBITER_GRANT (R162): A die arbiter issues a read or write grant to the next request of its queue. -/
  | arbiterGrant (die : Nat)
  /-- CHUNK_COMMIT (R163): A chunk that holds all its grants linearizes, publishes, applies C updates and broadcasts W∪C. -/
  | chunkCommit (core ctx : Nat)
  /-- W_C_BROADCAST_ARRIVAL (R163): A W∪C broadcast reaches a core, discarding L1 copies and squashing in-flight chunks whose R∪W it meets. -/
  | wcBroadcastArrival (core : Nat) (falseMatch : Bool)
  /-- PASS_REPLAY (R285): A squashed pass is replayed in its slot with the same admission set. -/
  | passReplay (core ctx : Nat)
  /-- SOLO_TICKET_GRANT (R286): The module's solo ticket is granted in FIFO order to a twice-squashed pass, which is then replayed. -/
  | soloTicketGrant
  /-- S_STORE_PUBLISH (R183): A deferred S store reaches its line's home and becomes visible to every observer. -/
  | sStorePublish (core ctx : Nat)
  /-- HOST_PEER_STORE_SEND (R190): A deferred store, AADD or RED to a host or peer page is sent out by its port. -/
  | hostPeerStoreSend (core ctx : Nat)
  /-- SPAWN_PLACE (R263): A spawned thread is placed in its spawn bin, or in the siding. -/
  | spawnPlace (core ctx : Nat)
  /-- CREDIT_APPLY (R256): A credit reaches its ring and raises its free count. -/
  | creditApply (core ctx : Nat)
  /-- SYSWR_TAKE_EFFECT (R37): A system-register write takes effect on a core once no pass of the context is being admitted there. -/
  | syswrTakeEffect (core ctx : Nat)
  /-- SHOOTDOWN_START (R348): A shootdown takes its grants in ascending die order and broadcasts the dropping of translations. -/
  | shootdownStart (core ctx : Nat)
  /-- SHOOTDOWN_COMPLETE (R348): Accesses that used dropped translations have drained; the grants are released and completion is reported. -/
  | shootdownComplete (id : Nat)
  /-- CFGINV_MARK (R423): The configuration slots of the region that overlap the range are marked stale. -/
  | cfginvMark (core ctx : Nat)
  /-- COPY_HANDOVER (R251): A committed COPY is handed to a dray, which asks for leave if the copy is large. -/
  | copyHandover (core ctx die dray : Nat)
  /-- RANGE_LOCK_REGISTER (R187): Source and destination ranges are registered in range-lock tables, squashing conflicting chunks. -/
  | rangeLockRegister (id : Nat)
  /-- DRAY_ENGINE_COMMIT (R189): A dray publishes destination lines in one engine commit, which releases their locks. -/
  | drayEngineCommit (id : Nat)
  /-- RING_TILE_WRITE (R251): Once free > 0, a MODE 1 copy writes one tile into its slot, commits it and writes the completion word. -/
  | ringTileWrite (id : Nat)
  /-- DRAY_FIFO_ENTRY (R251): A MODE 2 copy enters an entry into the FIFO bank when it has space. -/
  | drayFifoEntry (id : Nat)
  /-- COMPLETION_WORD_WRITE (R189): The copy's completion word is written as a second engine commit. -/
  | completionWordWrite (id : Nat)
  /-- COMPLETION_RECORD_APPEND (R252): A completion record is appended to the context's ring, or counted in CROVF. -/
  | completionRecordAppend (id : Nat)
  /-- COPY_FAIL (R253): A copy stops at a fault, publishes what it wrote, writes CWFAIL and records the failure. -/
  | copyFail (id : Nat)
  /-- LEAVE_GRANT (R144): A voltage/frequency island grants leave to a waiting MMA or large copy. -/
  | leaveGrant (site : Nat)
  /-- LEAVE_WAIT_EXPIRY (R291): The 4096-cycle wait for leave expires, and the operation starts anyway. -/
  | leaveWaitExpiry (site : Nat)
  /-- MBLD_ENTRY_RUN (R147): A queued MBLD entry reads rows of B into the B-registers. -/
  | mbldEntryRun (core : Nat)
  /-- MMA_ENTRY_START (R148): A queued MMA entry checks its shape and accumulates into its tile. -/
  | mmaEntryStart (core : Nat)
  /-- MZERO_ENTRY_RUN (R150): A queued MZERO entry sets a tile to +0. -/
  | mzeroEntryRun (core : Nat)
  /-- MSTORE_ENTRY_RUN (R151): A queued MSTORE entry encodes and writes the tile rows. -/
  | mstoreEntryRun (core : Nat)
  /-- MATRIX_ENTRY_FINISH (R141): A matrix entry finishes or fails, which records any failure and clears its flag count. -/
  | matrixEntryFinish (core : Nat)
  /-- MIGRATION_START (R242): A migration dray takes a requested migration and registers the page as a source. -/
  | migrationStart (id : Nat)
  /-- MIGRATION_COMMIT (R242): The page copy ends in an engine commit that rewrites the entry, shoots down translations and resumes the parked threads. -/
  | migrationCommit (id : Nat)
  /-- MIGRATION_FAIL (R243): A migration fails, records a FAILED record and traps the parked threads. -/
  | migrationFail (id reason : Nat)
  /-- CXL_LINK_DOWN (R244): A CXL port's link goes down: outstanding accesses trap and its pages are marked unreachable. -/
  | cxlLinkDown (port : Nat)
  /-- CXL_COMPLETION_TIMEOUT (R244): A completion on a CXL port times out by its local count and is treated as a lost link. -/
  | cxlCompletionTimeout (port : Nat)
  /-- LINK_RETRAIN (R402): The Tarat control core retrains a lost CXL or coupler link, up to LINKRETRY times. -/
  | linkRetrain (port : Nat) (ok : Bool)
  /-- HOST_PORT_LINK_DOWN (R403): A host port goes down, and its outstanding accesses record link-lost. -/
  | hostPortLinkDown (port : Nat)
  /-- COUPLER_LINK_DOWN (R403): A coupler port goes down, and its outstanding accesses record link-lost. -/
  | couplerLinkDown (port : Nat)
  /-- HOST_COMPLETION_ERROR (R391): A host or peer returns a completion error, and the access records completer-abort. -/
  | hostCompletionError (core ctx tidx idx : Nat)
  /-- HOST_COMPLETION_TIMEOUT (R391): A host or coupler completion times out with the link still up. -/
  | hostCompletionTimeout (core ctx tidx idx : Nat)
  /-- HOST_WRITE_ARRIVAL (R191): A posted host or peer write to device memory becomes one engine commit per line at its home. -/
  | hostWriteArrival (port : Nat)
  /-- APERTURE_READ (R356): A host read through an aperture is translated as a context load, or refused with Completer Abort. -/
  | apertureRead (port fn ap off len : Nat)
  /-- APERTURE_WRITE (R356): A host write through an aperture is translated as a context store, or dropped. -/
  | apertureWrite (port fn ap off len data : Nat)
  /-- LINK_TAG_FAIL (R357): A GCM tag on the die-to-base-die session link fails; read data traps its consumer and write data is resent. -/
  | linkTagFail (die : Nat) (write : Bool) (core ctx tidx idx : Nat)
  /-- SESSION_REKEY (R357): A session link is re-keyed before a message counter passes 2^40. -/
  | sessionRekey (die : Nat)
  /-- DIE_FAILED (R404): A compute die is reported failed: DIEFAIL is set and the affected contexts are reset. -/
  | dieFailed (die : Nat)
  /-- RATE_WINDOW_EXPIRY (R290): A rate-limiter window ends and the token count restarts. -/
  | rateWindowExpiry (core ctx : Nat)
  /-- QUIESCENT_STALL (R294): Every quiescence count reaches 2^QLIMIT: the region is frozen and squashed, a snapshot is written and the packet fails. -/
  | quiescentStall (ctx : Nat)
  /-- YIELD_RELEASE (R316): A yielding thread becomes countable once other blocks have run or AGE has passed. -/
  | yieldRelease (core ctx tidx : Nat)
  /-- DOORBELL_WRITE (R367): A write to QWPTR is accepted, or refused with DBERR. -/
  | doorbellWrite (ctx q v : Nat)
  /-- PACKET_TAKE (R367): The front strip reads the next packet by an S load and advances QRPTR. -/
  | packetTake (ctx q : Nat)
  /-- LAUNCH (R374): A LAUNCH packet is acquired, opened if measured, and requests its region. -/
  | launch (ctx q : Nat)
  /-- GRAPH (R374): A GRAPH packet is acquired, opened if measured, requests its region and binds its edges. -/
  | graph (ctx q : Nat)
  /-- COPY_PACKET (R375): A COPY packet's parameter block is read and checked, and the copy is handed to a dray. -/
  | copyPacket (ctx q : Nat)
  /-- BARRIER_AND (R379): A BARRIER-AND packet begins and makes its first reading of its signals. -/
  | barrierAnd (ctx q : Nat)
  /-- BARRIER_OR (R379): A BARRIER-OR packet begins and makes its first reading of its signals. -/
  | barrierOr (ctx q : Nat)
  /-- BARRIER_READING (R379): A waiting barrier reads its signals again after a commit meets their line, or after its host poll timer. -/
  | barrierReading (ctx q : Nat)
  /-- SIGNAL_PACKET (R376): A SIGNAL packet stores or adds VALUE atomically to its target. -/
  | signalPacket (ctx q : Nat)
  /-- MEASURE (R381): A MEASURE packet is opened, hashes its result ranges and extends the chain. -/
  | measure (ctx q : Nat)
  /-- REGION_ASSIGN (R339): The head request of the region queue is met at the first free origin. -/
  | regionAssign
  /-- REGION_SHARE (R406): The head request shares a region of the same domain under soft pre-emption. -/
  | regionShare
  /-- GATE_OPEN (R374): After every core acknowledges its entry block, the gates open and the packet is dispatched. -/
  | gateOpen (ctx : Nat)
  /-- PACKET_RETIRE (R32): A packet retires once its last grants, deferred effects, matrix entries and copies are done. -/
  | packetRetire (ctx q i : Nat)
  /-- PACKET_CLOSE (R386): A measured packet locks and hashes its result ranges. -/
  | packetClose (ctx q i : Nat)
  /-- CHAIN_EXTEND (R383): The record of index n is extended into the chain once index n − 1 has been extended; the waybill and signal follow. -/
  | chainExtend (ctx : Nat)
  /-- QUEUE_CLEAR (R368): Writing CLR in QCTL clears the error state, and processing resumes at QRPTR. -/
  | queueClear (ctx q : Nat)
  /-- QUEUE_ENABLE (R368): Writing EN in QCTL starts or stops the beginning of packets of a queue. -/
  | queueEnable (ctx q : Nat) (en : Bool) (log2sz : Nat)
  /-- OBJECT_LOAD (R365): The OBJCMD LOAD command checks a code object, copies its DATA and TMAPS, and binds a handle. -/
  | objectLoad (ctx handle : Nat)
  /-- OBJECT_UNLOAD (R365): The OBJCMD UNLOAD command unbinds a handle once no running packet names it. -/
  | objectUnload (ctx handle : Nat)
  /-- INVALIDATE_RANGE (R348): INVCMD with ALL 0 starts a shootdown of pages from INVVA. -/
  | invalidateRange (ctx pages : Nat)
  /-- INVALIDATE_ALL (R348): INVCMD with ALL 1 starts a shootdown of every translation of the context. -/
  | invalidateAll (ctx : Nat)
  /-- SYSREG_WRITE (R364): An MMIO write to a system register is sent to the region's cores, as a SYSWR is. -/
  | sysregWrite (ctx num v : Nat)
  /-- CROVF_READ (R363): A read of CROVF returns the overflow count and clears it. -/
  | crovfRead (ctx : Nat)
  /-- HOSTFAULT_READ (R328): A read of HOSTFAULT returns the refusal count and clears it. -/
  | hostfaultRead (port fn : Nat)
  /-- CREATE (R336): The CTXCMD CREATE command checks a creation record and creates a context with keys and a chain. -/
  | create (port fn : Nat)
  /-- DESTROY (R336): The CTXCMD DESTROY command resets a context, shoots down its translations, destroys its keys and frees it. -/
  | destroy (port fn ctx : Nat)
  /-- GRANT (R333): The CTXCMD GRANT command passes a quota and ranges from the PF to a VF. -/
  | grant (port fn : Nat)
  /-- TAKE (R361): The ownership command TAKE installs owner keys on an unowned module, after resetting every context. -/
  | take (port : Nat)
  /-- TRANSFER (R359): The ownership command TRANSFER names the next owner's key hash and enters TRANSFER_PENDING. -/
  | transfer (port : Nat)
  /-- ACCEPT (R361): The ownership command ACCEPT installs the next owner, after resetting every context and key. -/
  | accept (port : Nat)
  /-- CANCEL (R359): The ownership command CANCEL returns from TRANSFER_PENDING to OWNED. -/
  | cancel (port : Nat)
  /-- RELEASE (R361): The ownership command RELEASE clears the owner and returns the module to UNOWNED. -/
  | release (port : Nat)
  /-- STAGE_FW (R358): The ownership command STAGE_FW fetches and stages a firmware image. -/
  | stageFw (port : Nat)
  /-- SETSVN (R360): The ownership command SETSVN raises the fused minimum SVN. -/
  | setsvn (port : Nat)
  /-- PARTITION (R332): The ownership command PARTITION checks a partition record, which takes effect at the next module reset. -/
  | partition (port : Nat)
  /-- MODULE_RESET (R358): Module reset verifies and runs the staged firmware and resets the module's registers. -/
  | moduleReset
  /-- REGISTER_WRITE (R11): A write to a register that has no behaviour of its own. -/
  | registerWrite (port fn off v : Nat)
  /-- QUANTUM_EXPIRY (R409): The head region request has waited 2^QUANTUM cycles, and the overlapping regions are chosen for hard pre-emption. -/
  | quantumExpiry
  /-- HARD_PREEMPT_FREEZE (R410): The region is frozen, and uncommitted chunks whose last grant did not precede the freeze are squashed. -/
  | hardPreemptFreeze (ctx : Nat)
  /-- HARD_PREEMPT_SAVE (R412): After engine work ends, each core's committed state is sealed into the save area and the region is released. -/
  | hardPreemptSave (ctx : Nat)
  /-- RESUME_RESTORE (R415): A pre-empted packet's region is met: the images are checked, loaded and replayed. -/
  | resumeRestore (ctx : Nat)
  /-- GRAPH_RELINK (R416): The turntable re-places a saved graph onto a free region, matching edges by name. -/
  | graphRelink (ctx : Nat)
  /-- REGION_HANDOVER (R408): The holder of a shared region releases it, and the region passes to the sharer. -/
  | regionHandover (ctx : Nat)
  /-- HOST_PORT_LINK_UP (R403): A host port that went down comes back up through the host's own link recovery and accepts traffic again. -/
  | hostPortLinkUp (port : Nat)
  /-- PEER_READ (R191): A read of device memory arrives from a peer over a coupler port and returns committed values, or is held at the home while its line is locked. -/
  | peerRead (q addr len : Nat)
  deriving DecidableEq, Repr

/-- Codes of the storage formats (R82). -/
def Fmt.code : Fmt → Nat
  | .raw64 => 0 | .i8 => 1 | .i16 => 2 | .i32 => 3 | .n8 => 4 | .n16 => 5 | .n32 => 6 | .fp32 => 7 | .fp16 => 8
  | .bf16 => 9 | .e4m3 => 10 | .e5m2 => 11 | .e2m1 => 12 | .t8 => 13 | .t6 => 14 | .s12 => 15 | .e8m0 => 16

/-- The integer formats and RAW64, which take no rounding mode (R81). -/
def Fmt.isInt : Fmt → Bool
  | .raw64 | .i8 | .i16 | .i32 | .n8 | .n16 | .n32 => true
  | _ => false

end Sys2Proof
end

