-- ==== Sys2Proof/WellFormed.lean ====
section
/-! DEFINITION. What a well-formed instruction word may hold, one check per statement of the spec; the slots, the unit
and the static kinds of each instruction; the causes of a failed load (R60). -/

namespace Sys2Proof

/-- The causes of a failed configuration load, in the order of their CONFIG details 0x00-0x13 (R60). -/
inductive LoadFault
  | imageFormat | imageHash | noImage | erratum | kernel | header | count | exitTable | rank | flag | opcode | fn
  | predicate | target | field | extension | placement | cycle | attr | stage
  deriving DecidableEq, Repr

/-- The CONFIG detail of a failed load (R60). -/
def LoadFault.detail : LoadFault → Nat
  | .imageFormat => 0x00 | .imageHash => 0x01 | .noImage => 0x02 | .erratum => 0x03 | .kernel => 0x04
  | .header => 0x05 | .count => 0x06 | .exitTable => 0x07 | .rank => 0x08 | .flag => 0x09 | .opcode => 0x0A
  | .fn => 0x0B | .predicate => 0x0C | .target => 0x0D | .field => 0x0E | .extension => 0x0F | .placement => 0x10
  | .cycle => 0x11 | .attr => 0x12 | .stage => 0x13

/-- Every failure, in the order of the details. -/
def LoadFault.all : List LoadFault :=
  [.imageFormat, .imageHash, .noImage, .erratum, .kernel, .header, .count, .exitTable, .rank, .flag, .opcode, .fn, .predicate,
   .target, .field, .extension, .placement, .cycle, .attr, .stage]

/-- The units of a core that run instructions (R25): compute element, live-value port, memory edge unit. -/
inductive UnitKind
  | compute | live | memory
  deriving DecidableEq, Repr

/-- Slot p and targets are allowed, or must be absent (R300). -/
def Fields.ok (f : Fields) (predOk targetsOk : Bool) : Bool :=
  (predOk || decide (f.pm = .always)) && (targetsOk || (f.t0.isNone && f.t1.isNone))

/-- SCOPE is 0b00 for classes G and P (R51). -/
def MemOps.scopeOk (m : MemOps) : Bool := decide (m.cls = .s) || decide (m.scope = .core)

/-- Formats that LD, ST and GATH take: every byte-aligned one (R195, R198). -/
def Fmt.plain (x : Fmt) : Bool := decide (x ≠ .e2m1) && decide (x ≠ .t6)

/-- Formats of the integer and exchange atomics (R210). -/
def Fmt.atomicInt (x : Fmt) : Bool := decide (x = .i32) || decide (x = .n32) || decide (x = .raw64)

/-- Formats of the floating atomics (R211). -/
def Fmt.atomicFloat (x : Fmt) : Bool :=
  decide (x = .fp32) || decide (x = .fp16) || decide (x = .bf16) || decide (x = .raw64)

/-- Operand formats of the matrix engine (R138). -/
def Fmt.matrixOperand (x : Fmt) : Bool := decide (9 ≤ x.code) && decide (x.code ≤ 14)

/-- Formats MSTORE writes: 0 and 7-14 (R151). -/
def Fmt.matrixStore (x : Fmt) : Bool := decide (x = .raw64) || (decide (7 ≤ x.code) && decide (x.code ≤ 14))

/-- Integer formats and RAW64 take no rounding mode in a store (R81). -/
def Fmt.rmOk (x : Fmt) (rm : RMode) : Bool := !x.isInt || decide (rm = .rne)

/-- The memory layout as each instruction restricts it (R195, R207, R210, R211, R231). -/
inductive MemSet
  | ld | pref | evict | atomic | acas | atomicU | atomicF | gath
  deriving DecidableEq, Repr

/-- The memory-layout fields an instruction accepts (R51, R195). -/
def MemSet.ok (k : MemSet) (m : MemOps) : Bool :=
  m.scopeOk &&
  match k with
  | .ld => m.fmt.plain
  | .pref => decide (m.cls ≠ .p) && decide (m.fmt = .raw64)
  | .evict => decide (m.cls ≠ .p) && decide (m.fmt = .raw64) && decide (m.cp = .normal)
  | .atomic => decide (m.cls ≠ .s) && m.fmt.atomicInt
  | .acas => decide (m.cls ≠ .s) && m.fmt.atomicInt && !m.oe
  | .atomicU => decide (m.cls ≠ .s) && (decide (m.fmt = .n32) || decide (m.fmt = .raw64))
  | .atomicF => decide (m.cls ≠ .s) && m.fmt.atomicFloat
  | .gath => decide (m.cls = .s) && m.fmt.plain

/-- The floating folds of a collective or a RED (R154, R214). -/
def FoldOp.isFloat : FoldOp → Bool
  | .fadd | .fmin | .fmax => true
  | _ => false

/-- OPK and FMT of a RED match, and NU is 1 only for MIN and MAX on RAW64 (R214). -/
def redOk (m : MemOps) (nu : Bool) (opk : FoldOp) : Bool :=
  m.scopeOk && decide (m.cls ≠ .s) &&
  (if opk.isFloat then m.fmt.atomicFloat else m.fmt.atomicInt) &&
  (!nu || ((decide (opk = .min) || decide (opk = .max)) && decide (m.fmt = .raw64)))

/-- The rounding mode of a RED: any for a floating fold, none for an integer one (R81). -/
def redRmOk (opk : FoldOp) (rm : RMode) : Bool := opk.isFloat || decide (rm = .rne)

/-- TYPE is for the integer folds, RM for FADD only (R154). -/
def foldOk (opk : FoldOp) (ty : IntTy) (rm : RMode) : Bool :=
  (!opk.isFloat || decide (ty = .i32)) && (decide (opk = .fadd) || decide (rm = .rne))

/-- A named completion flag is F0-F11 (R141, R146). -/
def flagOk (flag : Option (BitVec 4)) : Bool :=
  match flag with
  | some k => decide (k.toNat ≤ 11)
  | none => true

/-- Class and scope of MBLD and MSTORE: S with any scope, or P with CORE (R146). -/
def matrixClassOk (cls : MemClass) (scope : Scope) : Bool :=
  decide (cls = .s) || (decide (cls = .p) && decide (scope = .core))

/-- The checks of one instruction word on its own that the types of its fields leave open; an event has no word. -/
def Instr.wellFormed : Instr → Bool
  | .mov f => f.ok true true
  | .movi f _ => f.ok true true
  | .movx f _ => f.ok true true
  | .fan f _ _ => f.ok true true
  | .null f => f.ok true true
  | .read f _ => f.ok false true
  | .write f _ => f.ok true false
  | .sel f _ => f.ok true true
  | .steer f => f.ok true true
  | .merge f => f.ok false true
  | .carry f => f.ok false true
  | .invar f => f.ok false true
  | .exit f _ => f.ok true false
  | .call f _ _ _ => f.ok true false
  | .ret f => f.ok true false
  | .drop f => f.ok false false
  | .test f _ mask => f.ok true true && decide (mask ≠ 0)
  | .spawn f _ => f.ok true true
  | .endThread f => f.ok true false
  | .gnew f => f.ok true true
  | .gfree f => f.ok true true
  | .join f => f.ok true true
  | .leave f => f.ok true true
  | .bar f => f.ok false false
  | .barinit f => f.ok true true
  | .elect f _ => f.ok true false
  | .vote f _ _ => f.ok true false
  | .setf f mask => f.ok true true && decide (mask ≠ 0)
  | .clrf f mask => f.ok true true && decide (mask ≠ 0)
  | .grow f _ => f.ok true true
  | .shrink f _ => f.ok true true
  | .sread f which => f.ok true true && decide (which.toNat ≤ 11)
  | .yield f => f.ok true true
  | .add f _ _ _ => f.ok true true
  | .sub f _ _ _ => f.ok true true
  | .mul f _ _ _ => f.ok true true
  | .mulh f _ _ => f.ok true true
  | .mad f _ _ _ => f.ok true true
  | .div f _ _ _ => f.ok true true
  | .rem f _ _ _ => f.ok true true
  | .neg f _ _ => f.ok true true
  | .abs f _ _ => f.ok true true
  | .min f _ _ => f.ok true true
  | .max f _ _ => f.ok true true
  | .clamp f _ _ => f.ok true true
  | .absd f _ _ _ => f.ok true true
  | .adds f _ _ => f.ok true true
  | .subs f _ _ => f.ok true true
  | .cmp f _ _ _ => f.ok true true
  | .and f _ _ => f.ok true true
  | .or f _ _ => f.ok true true
  | .xor f _ _ => f.ok true true
  | .andn f _ _ => f.ok true true
  | .not f _ => f.ok true true
  | .shl f _ _ => f.ok true true
  | .shr f _ _ => f.ok true true
  | .sar f _ _ => f.ok true true
  | .rol f _ _ => f.ok true true
  | .ror f _ _ => f.ok true true
  | .fsh f _ _ _ => f.ok true true
  | .clz f _ => f.ok true true
  | .ctz f _ => f.ok true true
  | .popc f _ => f.ok true true
  | .brev f _ => f.ok true true
  | .bfx f _ _ => f.ok true true
  | .bfi f _ _ => f.ok true true
  | .ext f _ _ => f.ok true true
  | .perm f _ _ => f.ok true true
  | .lea f _ _ _ => f.ok true true
  | .crc f _ _ _ => f.ok true true
  | .fadd f _ _ => f.ok true true
  | .fsub f _ _ => f.ok true true
  | .fmul f _ _ => f.ok true true
  | .fma f _ _ => f.ok true true
  | .fnma f _ _ => f.ok true true
  | .fdiv f _ _ => f.ok true true
  | .fsqrt f _ => f.ok true true
  | .frcp f _ => f.ok true true
  | .frsq f _ => f.ok true true
  | .fmin f _ _ _ => f.ok true true
  | .fmax f _ _ _ => f.ok true true
  | .fabs f _ => f.ok true true
  | .fneg f _ => f.ok true true
  | .fsgn f _ _ _ => f.ok true true
  | .fcmp f _ _ _ => f.ok true true
  | .fclass f _ => f.ok true true
  | .frint f _ => f.ok true true
  | .ftoi f _ _ => f.ok true true
  | .itof f _ _ => f.ok true true
  | .fscale f _ => f.ok true true
  | .flogb f _ => f.ok true true
  | .fmant f _ => f.ok true true
  | .fexp2 f _ => f.ok true true
  | .flog2 f _ => f.ok true true
  | .fsin f _ => f.ok true true
  | .fcos f _ => f.ok true true
  | .ftanh f _ => f.ok true true
  | .ferf f _ => f.ok true true
  | .fclamp f _ _ => f.ok true true
  | .ld f m => f.ok true true && MemSet.ok .ld m
  | .st f m rm => f.ok true true && MemSet.ok .ld m && m.fmt.rmOk rm
  | .ldt f _ _ => f.ok true true
  | .stt f _ _ _ => f.ok true true
  | .pref f m => f.ok true true && MemSet.ok .pref m
  | .evict f m => f.ok true true && MemSet.ok .evict m
  | .aadd f m => f.ok true true && MemSet.ok .atomic m
  | .amin f m => f.ok true true && MemSet.ok .atomic m
  | .amax f m => f.ok true true && MemSet.ok .atomic m
  | .aand f m => f.ok true true && MemSet.ok .atomic m
  | .aor f m => f.ok true true && MemSet.ok .atomic m
  | .axor f m => f.ok true true && MemSet.ok .atomic m
  | .axchg f m => f.ok true true && MemSet.ok .atomic m
  | .acas f m => f.ok true true && MemSet.ok .acas m
  | .aincw f m => f.ok true true && MemSet.ok .atomicU m
  | .adecw f m => f.ok true true && MemSet.ok .atomicU m
  | .afadd f m _ => f.ok true true && MemSet.ok .atomicF m
  | .afmin f m _ => f.ok true true && MemSet.ok .atomicF m
  | .afmax f m _ => f.ok true true && MemSet.ok .atomicF m
  | .red f m rm nu opk => f.ok true true && redOk m nu opk && redRmOk opk rm
  | .ojoin f => f.ok true true
  | .rel f _ => f.ok true true
  | .acq f _ => f.ok true true
  | .fence f _ => f.ok true true
  | .waita f cls fmt _ _ => f.ok true true && decide (cls ≠ .s) && fmt.atomicInt
  | .bankmode f _ => f.ok true true
  | .push f port _ => f.ok true true && (port.edge || decide (port.port.toNat < 32))
  | .pop f port _ => f.ok true true && (port.edge || decide (port.port.toNat < 32))
  | .peek f port _ => f.ok true true && (port.edge || decide (port.port.toNat < 32))
  | .wfeed f port _ => f.ok true true && (port.edge || decide (port.port.toNat < 32))
  | .wemit f port _ => f.ok true true && (port.edge || decide (port.port.toNat < 32))
  | .gath f m => f.ok true true && MemSet.ok .gath m
  | .grecv f => f.ok true true
  | .mbld f cls scope fmt _ _ flag => f.ok true true && matrixClassOk cls scope && fmt.matrixOperand && flagOk flag
  | .mma f _ flag => f.ok true true && flagOk flag
  | .mzero f _ flag _ => f.ok true true && flagOk flag
  | .mstore f cls scope fmt _ _ flag _ _ => f.ok true true && matrixClassOk cls scope && fmt.matrixStore && flagOk flag
  | .mread f _ _ => f.ok true true
  | .reduce f opk ty rm _ => f.ok true false && foldOk opk ty rm
  | .scan f opk ty rm _ _ => f.ok true false && foldOk opk ty rm
  | .bcast f _ => f.ok true false
  | .copy f cls _ flag => f.ok true true && decide (cls ≠ .s) && flagOk flag
  | .credit f _ => f.ok true true
  | .cstat f _ => f.ok true true
  | .trap f _ => f.ok true false
  | .brk f _ => f.ok true false
  | .sysrd f _ _ => f.ok true true
  | .syswr f _ _ => f.ok true true
  | .tlbinv f _ _ flag => f.ok true true && flagOk flag
  | .cfginv f _ _ flag => f.ok true true && flagOk flag
  | .resume f _ => f.ok true false
  | .halt f _ _ => f.ok true false
  | .marshalBlockChoice _ _ | .ageThresholdReached _ _ _ | .configurationLoadDone _ _ | .threadAdmission _ _
  | .loadDataReturn _ _ _ _ | .gatherReturn _ _ _ _ | .passEnd _ _ | .arbiterGrant _ | .chunkCommit _ _
  | .wcBroadcastArrival _ _ | .passReplay _ _ | .soloTicketGrant | .sStorePublish _ _
  | .hostPeerStoreSend _ _ | .spawnPlace _ _ | .creditApply _ _ | .syswrTakeEffect _ _ | .shootdownStart _ _
  | .shootdownComplete _ | .cfginvMark _ _ | .copyHandover _ _ _ _ | .rangeLockRegister _
  | .drayEngineCommit _ | .ringTileWrite _ | .drayFifoEntry _ | .completionWordWrite _
  | .completionRecordAppend _ | .copyFail _ | .leaveGrant _ | .leaveWaitExpiry _ | .mbldEntryRun _
  | .mmaEntryStart _ | .mzeroEntryRun _ | .mstoreEntryRun _ | .matrixEntryFinish _ | .migrationStart _
  | .migrationCommit _ | .migrationFail _ _ | .cxlLinkDown _ | .cxlCompletionTimeout _ | .linkRetrain _ _
  | .hostPortLinkDown _ | .couplerLinkDown _ | .hostCompletionError _ _ _ _ | .hostCompletionTimeout _ _ _ _
  | .hostWriteArrival _ | .apertureRead _ _ _ _ _ | .apertureWrite _ _ _ _ _ _ | .linkTagFail _ _ _ _ _ _
  | .sessionRekey _ | .dieFailed _ | .rateWindowExpiry _ _ | .quiescentStall _ | .yieldRelease _ _ _
  | .doorbellWrite _ _ _ | .packetTake _ _ | .launch _ _ | .graph _ _ | .copyPacket _ _ | .barrierAnd _ _
  | .barrierOr _ _ | .barrierReading _ _ | .signalPacket _ _ | .measure _ _ | .regionAssign | .regionShare
  | .gateOpen _ | .packetRetire _ _ _ | .packetClose _ _ _ | .chainExtend _ | .queueClear _ _
  | .queueEnable _ _ _ _ | .objectLoad _ _ | .objectUnload _ _ | .invalidateRange _ _ | .invalidateAll _
  | .sysregWrite _ _ _ | .crovfRead _ | .hostfaultRead _ _ | .create _ _ | .destroy _ _ _ | .grant _ _
  | .take _ | .transfer _ | .accept _ | .cancel _ | .release _ | .stageFw _ | .setsvn _ | .partition _
  | .moduleReset | .registerWrite _ _ _ _ | .quantumExpiry | .hardPreemptFreeze _ | .hardPreemptSave _
  | .resumeRestore _ | .graphRelink _ | .regionHandover _ | .hostPortLinkUp _ | .peerRead _ _ _ => false

/-- The fields every instruction word has; an event has none. -/
def Instr.fields? : Instr → Option Fields
  | .mov f | .movi f _ | .movx f _ | .fan f _ _ | .null f | .read f _ | .write f _ | .sel f _ | .steer f
  | .merge f | .carry f | .invar f | .exit f _ | .call f _ _ _ | .ret f | .drop f | .test f _ _ | .spawn f _
  | .endThread f | .gnew f | .gfree f | .join f | .leave f | .bar f | .barinit f | .elect f _ | .vote f _ _
  | .setf f _ | .clrf f _ | .grow f _ | .shrink f _ | .sread f _ | .yield f | .add f _ _ _ | .sub f _ _ _
  | .mul f _ _ _ | .mulh f _ _ | .mad f _ _ _ | .div f _ _ _ | .rem f _ _ _ | .neg f _ _ | .abs f _ _
  | .min f _ _ | .max f _ _ | .clamp f _ _ | .absd f _ _ _ | .adds f _ _ | .subs f _ _ | .cmp f _ _ _
  | .and f _ _ | .or f _ _ | .xor f _ _ | .andn f _ _ | .not f _ | .shl f _ _ | .shr f _ _ | .sar f _ _
  | .rol f _ _ | .ror f _ _ | .fsh f _ _ _ | .clz f _ | .ctz f _ | .popc f _ | .brev f _ | .bfx f _ _
  | .bfi f _ _ | .ext f _ _ | .perm f _ _ | .lea f _ _ _ | .crc f _ _ _ | .fadd f _ _ | .fsub f _ _
  | .fmul f _ _ | .fma f _ _ | .fnma f _ _ | .fdiv f _ _ | .fsqrt f _ | .frcp f _ | .frsq f _ | .fmin f _ _ _
  | .fmax f _ _ _ | .fabs f _ | .fneg f _ | .fsgn f _ _ _ | .fcmp f _ _ _ | .fclass f _ | .frint f _
  | .ftoi f _ _ | .itof f _ _ | .fscale f _ | .flogb f _ | .fmant f _ | .fexp2 f _ | .flog2 f _ | .fsin f _
  | .fcos f _ | .ftanh f _ | .ferf f _ | .fclamp f _ _ | .ld f _ | .st f _ _ | .ldt f _ _ | .stt f _ _ _
  | .pref f _ | .evict f _ | .aadd f _ | .amin f _ | .amax f _ | .aand f _ | .aor f _ | .axor f _
  | .axchg f _ | .acas f _ | .aincw f _ | .adecw f _ | .afadd f _ _ | .afmin f _ _ | .afmax f _ _
  | .red f _ _ _ _ | .ojoin f | .rel f _ | .acq f _ | .fence f _ | .waita f _ _ _ _ | .bankmode f _
  | .push f _ _ | .pop f _ _ | .peek f _ _ | .wfeed f _ _ | .wemit f _ _ | .gath f _ | .grecv f
  | .mbld f _ _ _ _ _ _ | .mma f _ _ | .mzero f _ _ _ | .mstore f _ _ _ _ _ _ _ _ | .mread f _ _
  | .reduce f _ _ _ _ | .scan f _ _ _ _ _ | .bcast f _ | .copy f _ _ _ | .credit f _ | .cstat f _ | .trap f _
  | .brk f _ | .sysrd f _ _ | .syswr f _ _ | .tlbinv f _ _ _ | .cfginv f _ _ _ | .resume f _ | .halt f _ _ => some f
  | .marshalBlockChoice _ _ | .ageThresholdReached _ _ _ | .configurationLoadDone _ _ | .threadAdmission _ _
  | .loadDataReturn _ _ _ _ | .gatherReturn _ _ _ _ | .passEnd _ _ | .arbiterGrant _ | .chunkCommit _ _
  | .wcBroadcastArrival _ _ | .passReplay _ _ | .soloTicketGrant | .sStorePublish _ _
  | .hostPeerStoreSend _ _ | .spawnPlace _ _ | .creditApply _ _ | .syswrTakeEffect _ _ | .shootdownStart _ _
  | .shootdownComplete _ | .cfginvMark _ _ | .copyHandover _ _ _ _ | .rangeLockRegister _
  | .drayEngineCommit _ | .ringTileWrite _ | .drayFifoEntry _ | .completionWordWrite _
  | .completionRecordAppend _ | .copyFail _ | .leaveGrant _ | .leaveWaitExpiry _ | .mbldEntryRun _
  | .mmaEntryStart _ | .mzeroEntryRun _ | .mstoreEntryRun _ | .matrixEntryFinish _ | .migrationStart _
  | .migrationCommit _ | .migrationFail _ _ | .cxlLinkDown _ | .cxlCompletionTimeout _ | .linkRetrain _ _
  | .hostPortLinkDown _ | .couplerLinkDown _ | .hostCompletionError _ _ _ _ | .hostCompletionTimeout _ _ _ _
  | .hostWriteArrival _ | .apertureRead _ _ _ _ _ | .apertureWrite _ _ _ _ _ _ | .linkTagFail _ _ _ _ _ _
  | .sessionRekey _ | .dieFailed _ | .rateWindowExpiry _ _ | .quiescentStall _ | .yieldRelease _ _ _
  | .doorbellWrite _ _ _ | .packetTake _ _ | .launch _ _ | .graph _ _ | .copyPacket _ _ | .barrierAnd _ _
  | .barrierOr _ _ | .barrierReading _ _ | .signalPacket _ _ | .measure _ _ | .regionAssign | .regionShare
  | .gateOpen _ | .packetRetire _ _ _ | .packetClose _ _ _ | .chainExtend _ | .queueClear _ _
  | .queueEnable _ _ _ _ | .objectLoad _ _ | .objectUnload _ _ | .invalidateRange _ _ | .invalidateAll _
  | .sysregWrite _ _ _ | .crovfRead _ | .hostfaultRead _ _ | .create _ _ | .destroy _ _ _ | .grant _ _
  | .take _ | .transfer _ | .accept _ | .cancel _ | .release _ | .stageFw _ | .setsvn _ | .partition _
  | .moduleReset | .registerWrite _ _ _ _ | .quantumExpiry | .hardPreemptFreeze _ | .hardPreemptSave _
  | .resumeRestore _ | .graphRelink _ | .regionHandover _ | .hostPortLinkUp _ | .peerRead _ _ _ => none

/-- Slot b is present as an operand unless the immediate stands there (R48, R50). -/
def immSlot (imm : Option Imm) : List Slot := if imm.isSome then [] else [.b]

/-- Slot c of a memory instruction is an order slot exactly when OE is 1 (R51). -/
def orderSlot (oe : Bool) : List Slot := if oe then [.c] else []

/-- The operand slots a, b, c of an instruction in the form encoded (R48; R105, R122, R195, R303, R418). -/
def Instr.opSlots : Instr → List Slot
  | .mov _ => [.a]
  | .movi _ _ => [.a]
  | .movx _ _ => [.a]
  | .fan _ _ _ => [.a]
  | .null _ => [.a]
  | .read _ _ => []
  | .write _ _ => [.a]
  | .sel _ imm => [.a] ++ immSlot imm ++ [.c]
  | .steer _ => [.a, .b]
  | .merge _ => [.a, .b, .c]
  | .carry _ => [.a, .b]
  | .invar _ => [.a, .b]
  | .exit _ _ => [.a]
  | .call _ _ _ _ => [.a]
  | .ret _ => [.a]
  | .drop _ => [.a]
  | .test _ _ _ => [.a]
  | .spawn _ _ => [.a, .b, .c]
  | .endThread _ => [.a]
  | .gnew _ => [.a]
  | .gfree _ => [.a]
  | .join _ => [.a]
  | .leave _ => [.a]
  | .bar _ => []
  | .barinit _ => [.a]
  | .elect _ _ => [.a]
  | .vote _ _ _ => [.a]
  | .setf _ _ => [.a]
  | .clrf _ _ => [.a]
  | .grow _ imm => [.a] ++ immSlot imm
  | .shrink _ imm => [.a] ++ immSlot imm
  | .sread _ _ => [.a]
  | .yield _ => [.a]
  | .add _ _ _ imm => [.a] ++ immSlot imm
  | .sub _ _ _ imm => [.a] ++ immSlot imm
  | .mul _ _ _ imm => [.a] ++ immSlot imm
  | .mulh _ _ imm => [.a] ++ immSlot imm
  | .mad _ _ _ imm => [.a] ++ immSlot imm ++ [.c]
  | .div _ _ _ imm => [.a] ++ immSlot imm
  | .rem _ _ _ imm => [.a] ++ immSlot imm
  | .neg _ _ _ => [.a]
  | .abs _ _ _ => [.a]
  | .min _ _ imm => [.a] ++ immSlot imm
  | .max _ _ imm => [.a] ++ immSlot imm
  | .clamp _ _ imm => [.a] ++ immSlot imm ++ [.c]
  | .absd _ _ _ imm => [.a] ++ immSlot imm
  | .adds _ _ imm => [.a] ++ immSlot imm
  | .subs _ _ imm => [.a] ++ immSlot imm
  | .cmp _ _ _ imm => [.a] ++ immSlot imm
  | .and _ _ imm => [.a] ++ immSlot imm
  | .or _ _ imm => [.a] ++ immSlot imm
  | .xor _ _ imm => [.a] ++ immSlot imm
  | .andn _ _ imm => [.a] ++ immSlot imm
  | .not _ _ => [.a]
  | .shl _ _ imm => [.a] ++ immSlot imm
  | .shr _ _ imm => [.a] ++ immSlot imm
  | .sar _ _ imm => [.a] ++ immSlot imm
  | .rol _ _ imm => [.a] ++ immSlot imm
  | .ror _ _ imm => [.a] ++ immSlot imm
  | .fsh _ _ _ imm => [.a] ++ immSlot imm ++ [.c]
  | .clz _ _ => [.a]
  | .ctz _ _ => [.a]
  | .popc _ _ => [.a]
  | .brev _ _ => [.a]
  | .bfx _ _ imm => [.a] ++ immSlot imm
  | .bfi _ _ imm => [.a] ++ immSlot imm ++ [.c]
  | .ext _ _ _ => [.a]
  | .perm _ _ imm => [.a] ++ immSlot imm
  | .lea _ _ _ imm => [.a] ++ immSlot imm
  | .crc _ _ _ imm => [.a] ++ immSlot imm
  | .fadd _ _ imm => [.a] ++ immSlot imm
  | .fsub _ _ imm => [.a] ++ immSlot imm
  | .fmul _ _ imm => [.a] ++ immSlot imm
  | .fma _ _ imm => [.a] ++ immSlot imm ++ [.c]
  | .fnma _ _ imm => [.a] ++ immSlot imm ++ [.c]
  | .fdiv _ _ imm => [.a] ++ immSlot imm
  | .fsqrt _ _ => [.a]
  | .frcp _ _ => [.a]
  | .frsq _ _ => [.a]
  | .fmin _ _ _ imm => [.a] ++ immSlot imm
  | .fmax _ _ _ imm => [.a] ++ immSlot imm
  | .fabs _ _ => [.a]
  | .fneg _ _ => [.a]
  | .fsgn _ _ _ imm => [.a] ++ immSlot imm
  | .fcmp _ _ _ imm => [.a] ++ immSlot imm
  | .fclass _ _ => [.a]
  | .frint _ _ => [.a]
  | .ftoi _ _ _ => [.a]
  | .itof _ _ _ => [.a]
  | .fscale _ _ => [.a, .b]
  | .flogb _ _ => [.a]
  | .fmant _ _ => [.a]
  | .fexp2 _ _ => [.a]
  | .flog2 _ _ => [.a]
  | .fsin _ _ => [.a]
  | .fcos _ _ => [.a]
  | .ftanh _ _ => [.a]
  | .ferf _ _ => [.a]
  | .fclamp _ _ imm => [.a] ++ immSlot imm ++ [.c]
  | .ld _ m => [.a] ++ orderSlot m.oe
  | .st _ m _ => [.a, .b] ++ orderSlot m.oe
  | .ldt _ _ oe => [.a] ++ orderSlot oe
  | .stt _ _ oe _ => [.a, .b] ++ orderSlot oe
  | .pref _ m => [.a] ++ orderSlot m.oe
  | .evict _ m => [.a] ++ orderSlot m.oe
  | .aadd _ m => [.a, .b] ++ orderSlot m.oe
  | .amin _ m => [.a, .b] ++ orderSlot m.oe
  | .amax _ m => [.a, .b] ++ orderSlot m.oe
  | .aand _ m => [.a, .b] ++ orderSlot m.oe
  | .aor _ m => [.a, .b] ++ orderSlot m.oe
  | .axor _ m => [.a, .b] ++ orderSlot m.oe
  | .axchg _ m => [.a, .b] ++ orderSlot m.oe
  | .acas _ _ => [.a, .b, .c]
  | .aincw _ m => [.a, .b] ++ orderSlot m.oe
  | .adecw _ m => [.a, .b] ++ orderSlot m.oe
  | .afadd _ m _ => [.a, .b] ++ orderSlot m.oe
  | .afmin _ m _ => [.a, .b] ++ orderSlot m.oe
  | .afmax _ m _ => [.a, .b] ++ orderSlot m.oe
  | .red _ m _ _ _ => [.a, .b] ++ orderSlot m.oe
  | .ojoin _ => [.a, .b, .c]
  | .rel _ _ => [.a, .b, .c]
  | .acq _ _ => [.a, .b, .c]
  | .fence _ _ => [.a, .b, .c]
  | .waita _ _ _ oe _ => [.a, .b] ++ orderSlot oe
  | .bankmode _ oe => [.a, .b] ++ orderSlot oe
  | .push _ _ oe => [.a] ++ orderSlot oe
  | .pop _ _ oe => orderSlot oe
  | .peek _ _ oe => [.b] ++ orderSlot oe
  | .wfeed _ _ oe => [.a] ++ orderSlot oe
  | .wemit _ _ oe => [.a, .b] ++ orderSlot oe
  | .gath _ m => [.a] ++ orderSlot m.oe
  | .grecv _ => [.a]
  | .mbld _ _ _ _ _ oe _ => [.a, .b] ++ orderSlot oe
  | .mma _ oe _ => [.a] ++ orderSlot oe
  | .mzero _ oe _ _ => orderSlot oe
  | .mstore _ _ _ _ _ oe _ _ _ => [.a, .b] ++ orderSlot oe
  | .mread _ oe _ => [.a] ++ orderSlot oe
  | .reduce _ _ _ _ _ => [.a]
  | .scan _ _ _ _ _ _ => [.a]
  | .bcast _ _ => [.a]
  | .copy _ _ oe _ => [.a] ++ orderSlot oe
  | .credit _ oe => [.a] ++ orderSlot oe
  | .cstat _ oe => [.a] ++ orderSlot oe
  | .trap _ _ => [.a]
  | .brk _ _ => [.a]
  | .sysrd _ oe _ => orderSlot oe
  | .syswr _ oe _ => [.b] ++ orderSlot oe
  | .tlbinv _ _ oe _ => [.a, .b] ++ orderSlot oe
  | .cfginv _ _ oe _ => [.a, .b] ++ orderSlot oe
  | .resume _ _ => [.a]
  | .halt _ _ _ => [.a]
  | .marshalBlockChoice _ _ | .ageThresholdReached _ _ _ | .configurationLoadDone _ _ | .threadAdmission _ _
  | .loadDataReturn _ _ _ _ | .gatherReturn _ _ _ _ | .passEnd _ _ | .arbiterGrant _ | .chunkCommit _ _
  | .wcBroadcastArrival _ _ | .passReplay _ _ | .soloTicketGrant | .sStorePublish _ _
  | .hostPeerStoreSend _ _ | .spawnPlace _ _ | .creditApply _ _ | .syswrTakeEffect _ _ | .shootdownStart _ _
  | .shootdownComplete _ | .cfginvMark _ _ | .copyHandover _ _ _ _ | .rangeLockRegister _
  | .drayEngineCommit _ | .ringTileWrite _ | .drayFifoEntry _ | .completionWordWrite _
  | .completionRecordAppend _ | .copyFail _ | .leaveGrant _ | .leaveWaitExpiry _ | .mbldEntryRun _
  | .mmaEntryStart _ | .mzeroEntryRun _ | .mstoreEntryRun _ | .matrixEntryFinish _ | .migrationStart _
  | .migrationCommit _ | .migrationFail _ _ | .cxlLinkDown _ | .cxlCompletionTimeout _ | .linkRetrain _ _
  | .hostPortLinkDown _ | .couplerLinkDown _ | .hostCompletionError _ _ _ _ | .hostCompletionTimeout _ _ _ _
  | .hostWriteArrival _ | .apertureRead _ _ _ _ _ | .apertureWrite _ _ _ _ _ _ | .linkTagFail _ _ _ _ _ _
  | .sessionRekey _ | .dieFailed _ | .rateWindowExpiry _ _ | .quiescentStall _ | .yieldRelease _ _ _
  | .doorbellWrite _ _ _ | .packetTake _ _ | .launch _ _ | .graph _ _ | .copyPacket _ _ | .barrierAnd _ _
  | .barrierOr _ _ | .barrierReading _ _ | .signalPacket _ _ | .measure _ _ | .regionAssign | .regionShare
  | .gateOpen _ | .packetRetire _ _ _ | .packetClose _ _ _ | .chainExtend _ | .queueClear _ _
  | .queueEnable _ _ _ _ | .objectLoad _ _ | .objectUnload _ _ | .invalidateRange _ _ | .invalidateAll _
  | .sysregWrite _ _ _ | .crovfRead _ | .hostfaultRead _ _ | .create _ _ | .destroy _ _ _ | .grant _ _
  | .take _ | .transfer _ | .accept _ | .cancel _ | .release _ | .stageFw _ | .setsvn _ | .partition _
  | .moduleReset | .registerWrite _ _ _ _ | .quantumExpiry | .hardPreemptFreeze _ | .hardPreemptSave _
  | .resumeRestore _ | .graphRelink _ | .regionHandover _ | .hostPortLinkUp _ | .peerRead _ _ _ => []

/-- The slots of an instruction that a target may name: its operand slots, and p when it is predicated (R48). -/
def Instr.slots (i : Instr) : List Slot :=
  i.opSlots ++ match i.fields? with
    | some f => if f.pm = .always then [] else [.p]
    | none => []

/-- The unit of each instruction (R58); an event runs on none and is listed with the compute class. -/
def Instr.unit : Instr → UnitKind
  | .read _ _ | .write _ _ => .live
  | .ld _ _ | .st _ _ _ | .ldt _ _ _ | .stt _ _ _ _ | .pref _ _ | .evict _ _ | .aadd _ _ | .amin _ _
  | .amax _ _ | .aand _ _ | .aor _ _ | .axor _ _ | .axchg _ _ | .acas _ _ | .aincw _ _ | .adecw _ _
  | .afadd _ _ _ | .afmin _ _ _ | .afmax _ _ _ | .red _ _ _ _ _ | .ojoin _ | .rel _ _ | .acq _ _ | .fence _ _
  | .waita _ _ _ _ _ | .bankmode _ _ | .push _ _ _ | .pop _ _ _ | .peek _ _ _ | .wfeed _ _ _ | .wemit _ _ _
  | .gath _ _ | .grecv _ | .mbld _ _ _ _ _ _ _ | .mma _ _ _ | .mzero _ _ _ _ | .mstore _ _ _ _ _ _ _ _ _
  | .mread _ _ _ | .copy _ _ _ _ | .credit _ _ | .cstat _ _ | .sysrd _ _ _ | .syswr _ _ _ | .tlbinv _ _ _ _
  | .cfginv _ _ _ _ => .memory
  | _ => .compute

/-- The store-class instructions (R56). -/
def Instr.storeClass : Instr → Bool
  | .st _ _ _ | .stt _ _ _ _ | .aadd _ _ | .amin _ _ | .amax _ _ | .aand _ _ | .aor _ _ | .axor _ _
  | .axchg _ _ | .acas _ _ | .aincw _ _ | .adecw _ _ | .afadd _ _ _ | .afmin _ _ _ | .afmax _ _ _
  | .red _ _ _ _ _ | .push _ _ _ | .wfeed _ _ _ | .mstore _ _ _ _ _ _ _ _ _ | .syswr _ _ _ => true
  | _ => false

/-- The exit-class instructions (R56). -/
def Instr.exitClass : Instr → Bool
  | .exit _ _ | .call _ _ _ _ | .ret _ | .endThread _ | .resume _ _ | .halt _ _ _ => true
  | _ => false

/-- Instructions that call for the S attribute of a block (R44). -/
def Instr.streams : Instr → Bool
  | .push _ _ _ | .pop _ _ _ | .peek _ _ _ | .wfeed _ _ _ | .wemit _ _ _ | .gath _ _ | .grecv _ => true
  | _ => false

/-- Instructions that call for the D attribute of a block, but for an STT whose map is of class S (R44). -/
def Instr.deferredKind : Instr → Bool
  | .st _ m _ => decide (m.cls = .s)
  | .spawn _ _ | .copy _ _ _ _ | .credit _ _ | .syswr _ _ _ => true
  | _ => false

/-- The group collectives (R154, R324), with the live-value slot they write. -/
def Instr.collective? : Instr → Option Nat
  | .reduce _ _ _ _ ls => some ls.toNat
  | .scan _ _ _ _ ls _ => some ls.toNat
  | .bcast _ ls => some ls.toNat
  | .elect _ ls => some ls.toNat
  | .vote _ _ ls => some ls.toNat
  | _ => none

/-- The completion flag an instruction names (R141, R249, R418). -/
def Instr.flag? : Instr → Option Nat
  | .mbld _ _ _ _ _ _ fl => fl.map BitVec.toNat
  | .mma _ _ fl => fl.map BitVec.toNat
  | .mzero _ _ fl _ => fl.map BitVec.toNat
  | .mstore _ _ _ _ _ _ fl _ _ => fl.map BitVec.toNat
  | .copy _ _ _ fl => fl.map BitVec.toNat
  | .tlbinv _ _ _ fl => fl.map BitVec.toNat
  | .cfginv _ _ _ fl => fl.map BitVec.toNat
  | _ => none

/-- The tensor map an instruction names (R205). -/
def Instr.map? : Instr → Option Nat
  | .ldt _ m _ => some m.toNat
  | .stt _ m _ _ => some m.toNat
  | _ => none

/-- The port of a stream instruction (R225). -/
def Instr.port? : Instr → Option PortRef
  | .push _ p _ | .pop _ p _ | .peek _ p _ | .wfeed _ p _ | .wemit _ p _ => some p
  | _ => none

/-- Every target an instruction names, FAN's T2 and T3 included (R47, R52). -/
def Instr.targets (i : Instr) : List Target :=
  match i with
  | .fan f t2 t3 => [f.t0, f.t1, t2, t3].filterMap id
  | i =>
    match i.fields? with
    | some f => [f.t0, f.t1].filterMap id
    | none => []

end Sys2Proof
end

