-- ==== Sys2Proof/Decode.lean ====
section
/-! DEFINITION. The instruction word (spec/02 R47-R52): the decoder, total on every word, rejecting by the load check of
R60 that fails with the lowest detail; and after it the encoder, from the same tables. -/

namespace Sys2Proof

/-- The `len` bits of `n` from bit `lo` upwards. -/
def field (n lo len : Nat) : Nat := n / 2 ^ lo % 2 ^ len

/-- The fields of an instruction word (R47), with its extension word (0 when X is 0). -/
structure Raw where
  op : Nat
  fn : Nat
  pm : Nat
  u : Nat
  x : Nat
  t0 : Nat
  t1 : Nat
  ops : Nat
  ext : Nat
  deriving DecidableEq, Repr

/-- The fields of a 64-bit instruction word (R47). -/
def Raw.ofWord (w ext : Nat) : Raw :=
  { op := field w 56 8, fn := field w 52 4, pm := field w 50 2, u := field w 49 1, x := field w 48 1
    t0 := field w 38 10, t1 := field w 28 10, ops := field w 0 28, ext := ext }

/-- The 64-bit word of its fields (R47). -/
def Raw.word (r : Raw) : Nat :=
  r.op * 2 ^ 56 + r.fn * 2 ^ 52 + r.pm * 2 ^ 50 + r.u * 2 ^ 49 + r.x * 2 ^ 48 + r.t0 * 2 ^ 38 + r.t1 * 2 ^ 28 + r.ops

/-! ### The codes of the fields -/

/-- Slot of its code (R48). -/
def Slot.ofCode (n : Nat) : Slot :=
  if n = 0 then .a else if n = 1 then .b else if n = 2 then .c else .p

/-- Code of a slot (R48). -/
def Slot.code : Slot → Nat
  | .a => 0 | .b => 1 | .c => 2 | .p => 3

/-- Integer type of FN[1:0] (R49). -/
def IntTy.ofCode (n : Nat) : IntTy :=
  if n = 0 then .i32 else if n = 1 then .n32 else if n = 2 then .i64 else .n64

/-- Code of an integer type (R49). -/
def IntTy.code : IntTy → Nat
  | .i32 => 0 | .n32 => 1 | .i64 => 2 | .n64 => 3

/-- Rounding mode of its code; 6 and 7 have none (R49). -/
def RMode.ofCode? (n : Nat) : Option RMode :=
  if n = 0 then some .rne else if n = 1 then some .rtz else if n = 2 then some .rup
  else if n = 3 then some .rdn else if n = 4 then some .rna else if n = 5 then some .hsr else none

/-- Code of a rounding mode (R79). -/
def RMode.code : RMode → Nat
  | .rne => 0 | .rtz => 1 | .rup => 2 | .rdn => 3 | .rna => 4 | .hsr => 5

/-- Storage format of its code; 17-31 have none (R51, R82). -/
def Fmt.ofCode? (n : Nat) : Option Fmt :=
  if n = 0 then some .raw64 else if n = 1 then some .i8 else if n = 2 then some .i16 else if n = 3 then some .i32
  else if n = 4 then some .n8 else if n = 5 then some .n16 else if n = 6 then some .n32 else if n = 7 then some .fp32
  else if n = 8 then some .fp16 else if n = 9 then some .bf16 else if n = 10 then some .e4m3
  else if n = 11 then some .e5m2 else if n = 12 then some .e2m1 else if n = 13 then some .t8
  else if n = 14 then some .t6 else if n = 15 then some .s12 else if n = 16 then some .e8m0 else none

/-- Memory class of its code; 0b11 has none (R51). -/
def MemClass.ofCode? (n : Nat) : Option MemClass :=
  if n = 0 then some .g else if n = 1 then some .s else if n = 2 then some .p else none

/-- Code of a memory class (R51). -/
def MemClass.code : MemClass → Nat
  | .g => 0 | .s => 1 | .p => 2

/-- Scope of its code (R51). -/
def Scope.ofCode (n : Nat) : Scope :=
  if n = 0 then .core else if n = 1 then .die else if n = 2 then .pkg else .sys

/-- Code of a scope (R51). -/
def Scope.code : Scope → Nat
  | .core => 0 | .die => 1 | .pkg => 2 | .sys => 3

/-- Cache policy of its code (R51). -/
def CachePol.ofCode (n : Nat) : CachePol :=
  if n = 0 then .normal else if n = 1 then .keep else if n = 2 then .noAlloc else .uncached

/-- Code of a cache policy (R51). -/
def CachePol.code : CachePol → Nat
  | .normal => 0 | .keep => 1 | .noAlloc => 2 | .uncached => 3

/-- Condition of CMP (R105). -/
def Cond.ofCode (n : Nat) : Cond :=
  if n = 0 then .eq else if n = 1 then .ne else if n = 2 then .lt else .ge

/-- Code of a condition of CMP (R105). -/
def Cond.code : Cond → Nat
  | .eq => 0 | .ne => 1 | .lt => 2 | .ge => 3

/-- Width of EXT; 0b11 has none (R105). -/
def ExtWidth.ofCode? (n : Nat) : Option ExtWidth :=
  if n = 0 then some .b8 else if n = 1 then some .b16 else if n = 2 then some .b32 else none

/-- Code of a width of EXT (R105). -/
def ExtWidth.code : ExtWidth → Nat
  | .b8 => 0 | .b16 => 1 | .b32 => 2

/-- Polynomial of CRC (R105). -/
def CrcPoly.ofCode (n : Nat) : CrcPoly :=
  if n = 0 then .c32 else if n = 1 then .c32c else if n = 2 then .c32b else .c32cb

/-- Code of a polynomial of CRC (R105). -/
def CrcPoly.code : CrcPoly → Nat
  | .c32 => 0 | .c32c => 1 | .c32b => 2 | .c32cb => 3

/-- Mode of TEST; 3 has none (R319). -/
def TestMode.ofCode? (n : Nat) : Option TestMode :=
  if n = 0 then some .any else if n = 1 then some .all else if n = 2 then some .none else Option.none

/-- Code of a mode of TEST (R319). -/
def TestMode.code : TestMode → Nat
  | .any => 0 | .all => 1 | .none => 2

/-- Fold of VOTE; 3-15 have none (R324). -/
def VoteOp.ofCode? (n : Nat) : Option VoteOp :=
  if n = 0 then some .any else if n = 1 then some .all else if n = 2 then some .cnt else none

/-- Code of a fold of VOTE (R324). -/
def VoteOp.code : VoteOp → Nat
  | .any => 0 | .all => 1 | .cnt => 2

/-- Fold of OPK; 9-15 have none (R154, R214). -/
def FoldOp.ofCode? (n : Nat) : Option FoldOp :=
  if n = 0 then some .add else if n = 1 then some .min else if n = 2 then some .max else if n = 3 then some .and
  else if n = 4 then some .or else if n = 5 then some .xor else if n = 6 then some .fadd
  else if n = 7 then some .fmin else if n = 8 then some .fmax else none

/-- Code of a fold (R154, R214). -/
def FoldOp.code : FoldOp → Nat
  | .add => 0 | .min => 1 | .max => 2 | .and => 3 | .or => 4 | .xor => 5 | .fadd => 6 | .fmin => 7 | .fmax => 8

/-- Condition of WAITA; 6 and 7 have none (R219). -/
def WaitCond.ofCode? (n : Nat) : Option WaitCond :=
  if n = 0 then some .eq else if n = 1 then some .ne else if n = 2 then some .lt else if n = 3 then some .ge
  else if n = 4 then some .any else if n = 5 then some .none else Option.none

/-- Code of a condition of WAITA (R219). -/
def WaitCond.code : WaitCond → Nat
  | .eq => 0 | .ne => 1 | .lt => 2 | .ge => 3 | .any => 4 | .none => 5

/-- Code of a Bool field. -/
def boolCode (b : Bool) : Nat := if b then 1 else 0

/-- Code of PM (R47). -/
def Pred.code : Pred → Nat
  | .always => 0 | .onTrue => 1 | .onFalse => 2

/-! ### Reading the fields, each with the check that fails on a bad value -/

/-- A value, or the load fault of its check. -/
def orFault (x : Option α) (e : LoadFault) : Except LoadFault α :=
  match x with
  | some v => .ok v
  | none => .error e

/-- A check of R60. -/
def require (c : Bool) (e : LoadFault) : Except LoadFault Unit := if c then .ok () else .error e

/-- A target field: invalid and all zero, or valid (R48). -/
def getTarget (n : Nat) : Except LoadFault (Option Target) :=
  if n = 0 then .ok none
  else if n < 512 then .error .target
  else .ok (some { idx := BitVec.ofNat 7 (field n 2 7), slot := Slot.ofCode (field n 0 2) })

/-- The bits of a target field (R47). -/
def putTarget : Option Target → Nat
  | none => 0
  | some t => 512 + t.idx.toNat * 4 + t.slot.code

/-- PM, U, T0 and T1, with the checks PREDICATE and TARGET of R60 and R300. -/
def getFields (predOk targetsOk : Bool) (r : Raw) : Except LoadFault Fields := do
  let pm ← if r.pm = 0 then .ok Pred.always
    else if predOk && r.pm = 1 then .ok Pred.onTrue
    else if predOk && r.pm = 2 then .ok Pred.onFalse
    else .error .predicate
  let t0 ← getTarget r.t0
  let t1 ← getTarget r.t1
  require (targetsOk || (t0.isNone && t1.isNone)) .target
  return { pm := pm, hot := r.u = 1, t0 := t0, t1 := t1 }

/-- FN is 0 (R49). -/
def fnZero (r : Raw) : Except LoadFault Unit := require (r.fn = 0) .fn

/-- Type with no modifier (R49, R105). -/
def getTy (r : Raw) : Except LoadFault IntTy := do
  require (r.fn < 4) .fn
  return IntTy.ofCode (r.fn % 4)

/-- Type with the modifier .CHK (R104). -/
def getTyChk (r : Raw) : Except LoadFault (IntTy × Bool) := do
  require (r.fn < 8) .fn
  return (IntTy.ofCode (r.fn % 4), decide (r.fn / 4 = 1))

/-- Rounding mode with FN[3] = 0 (R49, R121). -/
def getRm (r : Raw) : Except LoadFault RMode := orFault (RMode.ofCode? r.fn) .fn

/-- Rounding mode with the modifier of FN[3] (R121). -/
def getRmAlt (r : Raw) : Except LoadFault (RMode × Bool) := do
  let rm ← orFault (RMode.ofCode? (r.fn % 8)) .fn
  return (rm, decide (r.fn / 8 = 1))

/-- The optional immediate of the ALU layout (R50, R102). -/
def getImm (r : Raw) : Except LoadFault (Option Imm) :=
  if r.ops / 2 ^ 27 = 1 then .ok (some (BitVec.ofNat 27 (r.ops % 2 ^ 27)))
  else if r.ops = 0 then .ok none else .error .field

/-- OPS of an optional immediate (R50). -/
def putImm : Option Imm → Nat
  | none => 0
  | some v => 2 ^ 27 + v.toNat

/-- OPS holds nothing above its low `n` bits (R102, R300). -/
def opsBelow (n : Nat) (r : Raw) : Except LoadFault Unit := require (r.ops < 2 ^ n) .field

/-- X is 0 (R52). -/
def noExt (r : Raw) : Except LoadFault Unit := require (r.x = 0) .extension

/-- X is 1 (R52). -/
def needExt (r : Raw) : Except LoadFault Unit := require (r.x = 1) .extension

/-- The memory layout (R51), restricted as the instruction states (R195). -/
def getMem (k : MemSet) (r : Raw) : Except LoadFault MemOps := do
  let cls ← orFault (MemClass.ofCode? (field r.ops 26 2)) .field
  let fmt ← orFault (Fmt.ofCode? (field r.ops 19 5)) .field
  let m : MemOps :=
    { cls := cls, scope := Scope.ofCode (field r.ops 24 2), fmt := fmt, cp := CachePol.ofCode (field r.ops 17 2)
      oe := field r.ops 16 1 = 1, disp := BitVec.ofNat 16 (field r.ops 0 16) }
  require (k.ok m) .field
  return m

/-- OPS of the memory layout (R51). -/
def putMem (m : MemOps) : Nat :=
  m.cls.code * 2 ^ 26 + m.scope.code * 2 ^ 24 + m.fmt.code * 2 ^ 19 + m.cp.code * 2 ^ 17 + boolCode m.oe * 2 ^ 16
    + m.disp.toNat

/-- FV and FLAG at OPS[15:11] (R146, R249, R418): checked before every other check of the word, since FLAG has the
lowest detail. FLAG 12-15 are CONFIG/FLAG whether FV is set or not. -/
def getFlag (r : Raw) : Except LoadFault (Option (BitVec 4)) :=
  if 11 < field r.ops 11 4 then .error .flag
  else if field r.ops 15 1 = 1 then .ok (some (BitVec.ofNat 4 (field r.ops 11 4)))
  else .ok none

/-- The bits of FV and FLAG (R146). -/
def putFlag : Option (BitVec 4) → Nat
  | none => 0
  | some k => 2 ^ 15 + k.toNat * 2 ^ 11

/-- FLAG is 0 when FV is 0 (R146). -/
def flagZero (r : Raw) : Except LoadFault Unit :=
  require (field r.ops 15 1 = 1 || field r.ops 11 4 = 0) .field

/-! ### One reader per layout: the fields in the order of the details of R60 -/

/-- A word with no field of its own in OPS (R303). -/
def decPlain (k : Fields → Instr) (p t : Bool) (r : Raw) : Except LoadFault Instr := do
  fnZero r
  let f ← getFields p t r
  opsBelow 0 r
  noExt r
  return k f

/-- One BitVec field at OPS[n-1:0]: LK, XN, CODE, TAG (R303, R418). -/
def decLow (n : Nat) (k : Fields → BitVec n → Instr) (p t : Bool) (r : Raw) : Except LoadFault Instr := do
  fnZero r
  let f ← getFields p t r
  opsBelow n r
  noExt r
  return k f (BitVec.ofNat n r.ops)

/-- MOVI: IR is 1 (R304). -/
def decImm (k : Fields → Imm → Instr) (r : Raw) : Except LoadFault Instr := do
  fnZero r
  let f ← getFields true true r
  require (r.ops / 2 ^ 27 = 1) .field
  noExt r
  return k f (BitVec.ofNat 27 (r.ops % 2 ^ 27))

/-- MOVX: the extension word is the immediate (R52). -/
def decExt64 (k : Fields → Word → Instr) (r : Raw) : Except LoadFault Instr := do
  fnZero r
  let f ← getFields true true r
  opsBelow 0 r
  needExt r
  return k f (BitVec.ofNat 64 r.ext)

/-- FAN: T2 and T3 in the extension word (R52). Their TARGET check comes before FIELD and EXTENSION. -/
def decFan (k : Fields → Option Target → Option Target → Instr) (r : Raw) : Except LoadFault Instr := do
  fnZero r
  let f ← getFields true true r
  let t2 ← if r.x = 1 then getTarget (field r.ext 54 10) else .ok none
  let t3 ← if r.x = 1 then getTarget (field r.ext 44 10) else .ok none
  opsBelow 0 r
  require (r.x = 0 || field r.ext 0 44 = 0) .field
  needExt r
  return k f t2 t3

/-- An optional immediate b (R303). -/
def decOptImm (k : Fields → Option Imm → Instr) (r : Raw) : Except LoadFault Instr := do
  fnZero r
  let f ← getFields true true r
  let imm ← getImm r
  noExt r
  return k f imm

/-- CALL: LK, XR and XN (R303). -/
def decCall (k : Fields → BitVec 6 → BitVec 3 → BitVec 3 → Instr) (r : Raw) : Except LoadFault Instr := do
  fnZero r
  let f ← getFields true false r
  opsBelow 12 r
  noExt r
  return k f (BitVec.ofNat 6 (field r.ops 6 6)) (BitVec.ofNat 3 (field r.ops 3 3)) (BitVec.ofNat 3 (field r.ops 0 3))

/-- TEST: MODE and a nonzero MASK (R319). -/
def decTest (k : Fields → TestMode → BitVec 12 → Instr) (r : Raw) : Except LoadFault Instr := do
  fnZero r
  let f ← getFields true true r
  opsBelow 14 r
  let mode ← orFault (TestMode.ofCode? (field r.ops 12 2)) .field
  require (field r.ops 0 12 ≠ 0) .field
  noExt r
  return k f mode (BitVec.ofNat 12 (field r.ops 0 12))

/-- SETF and CLRF: a nonzero MASK (R318). -/
def decMask (k : Fields → BitVec 12 → Instr) (r : Raw) : Except LoadFault Instr := do
  fnZero r
  let f ← getFields true true r
  opsBelow 12 r
  require (r.ops ≠ 0) .field
  noExt r
  return k f (BitVec.ofNat 12 r.ops)

/-- ELECT and BCAST: LS at OPS[17:12] (R154, R303). -/
def decLs (k : Fields → BitVec 6 → Instr) (r : Raw) : Except LoadFault Instr := do
  fnZero r
  let f ← getFields true false r
  require (r.ops < 2 ^ 18 && field r.ops 0 12 = 0) .field
  noExt r
  return k f (BitVec.ofNat 6 (field r.ops 12 6))

/-- VOTE: OPK and LS (R324). -/
def decVote (k : Fields → VoteOp → BitVec 6 → Instr) (r : Raw) : Except LoadFault Instr := do
  fnZero r
  let f ← getFields true false r
  require (r.ops < 2 ^ 27 && field r.ops 18 5 = 0 && field r.ops 0 12 = 0) .field
  let opk ← orFault (VoteOp.ofCode? (field r.ops 23 4)) .field
  noExt r
  return k f opk (BitVec.ofNat 6 (field r.ops 12 6))

/-- SREAD: SEL 0-11 (R326). -/
def decSread (k : Fields → BitVec 4 → Instr) (r : Raw) : Except LoadFault Instr := do
  fnZero r
  let f ← getFields true true r
  require (r.ops ≤ 11) .field
  noExt r
  return k f (BitVec.ofNat 4 r.ops)

/-- An integer instruction with .CHK and an optional immediate (R105). -/
def decIntChkImm (k : Fields → IntTy → Bool → Option Imm → Instr) (r : Raw) : Except LoadFault Instr := do
  let (ty, chk) ← getTyChk r
  let f ← getFields true true r
  let imm ← getImm r
  noExt r
  return k f ty chk imm

/-- An integer instruction with an optional immediate (R105). -/
def decIntImm (k : Fields → IntTy → Option Imm → Instr) (r : Raw) : Except LoadFault Instr := do
  let ty ← getTy r
  let f ← getFields true true r
  let imm ← getImm r
  noExt r
  return k f ty imm

/-- An integer instruction with .CHK and no operand b (R105). -/
def decIntChk (k : Fields → IntTy → Bool → Instr) (r : Raw) : Except LoadFault Instr := do
  let (ty, chk) ← getTyChk r
  let f ← getFields true true r
  opsBelow 0 r
  noExt r
  return k f ty chk

/-- An integer instruction with no operand b (R105). -/
def decInt (k : Fields → IntTy → Instr) (r : Raw) : Except LoadFault Instr := do
  let ty ← getTy r
  let f ← getFields true true r
  opsBelow 0 r
  noExt r
  return k f ty

/-- CMP: the condition in FN[3:2] (R105). -/
def decIntCond (k : Fields → IntTy → Cond → Option Imm → Instr) (r : Raw) : Except LoadFault Instr := do
  let f ← getFields true true r
  let imm ← getImm r
  noExt r
  return k f (IntTy.ofCode (r.fn % 4)) (Cond.ofCode (r.fn / 4)) imm

/-- FSH: the direction in FN[3:2] (R105). -/
def decIntDir (k : Fields → IntTy → Bool → Option Imm → Instr) (r : Raw) : Except LoadFault Instr := do
  let (ty, right) ← getTyChk r
  let f ← getFields true true r
  let imm ← getImm r
  noExt r
  return k f ty right imm

/-- EXT: the width in FN[3:2] (R105). -/
def decIntWidth (k : Fields → IntTy → ExtWidth → Instr) (r : Raw) : Except LoadFault Instr := do
  let width ← orFault (ExtWidth.ofCode? (r.fn / 4)) .fn
  let f ← getFields true true r
  opsBelow 0 r
  noExt r
  return k f (IntTy.ofCode (r.fn % 4)) width

/-- LEA: the scale in FN[3:2] (R105). -/
def decIntScale (k : Fields → IntTy → BitVec 2 → Option Imm → Instr) (r : Raw) : Except LoadFault Instr := do
  let f ← getFields true true r
  let imm ← getImm r
  noExt r
  return k f (IntTy.ofCode (r.fn % 4)) (BitVec.ofNat 2 (r.fn / 4)) imm

/-- CRC: the polynomial and byte count in FN[3:2] (R105). -/
def decIntPoly (k : Fields → IntTy → CrcPoly → Option Imm → Instr) (r : Raw) : Except LoadFault Instr := do
  let f ← getFields true true r
  let imm ← getImm r
  noExt r
  return k f (IntTy.ofCode (r.fn % 4)) (CrcPoly.ofCode (r.fn / 4)) imm

/-- A W-float instruction with an optional immediate (R122). -/
def decFltImm (k : Fields → RMode → Option Imm → Instr) (r : Raw) : Except LoadFault Instr := do
  let rm ← getRm r
  let f ← getFields true true r
  let imm ← getImm r
  noExt r
  return k f rm imm

/-- A W-float instruction with IR "no" (R102, R122). -/
def decFlt (k : Fields → RMode → Instr) (r : Raw) : Except LoadFault Instr := do
  let rm ← getRm r
  let f ← getFields true true r
  opsBelow 0 r
  noExt r
  return k f rm

/-- A W-float instruction with the modifier of FN[3] (R122). -/
def decFltModImm (k : Fields → RMode → Bool → Option Imm → Instr) (r : Raw) : Except LoadFault Instr := do
  let (rm, alt) ← getRmAlt r
  let f ← getFields true true r
  let imm ← getImm r
  noExt r
  return k f rm alt imm

/-- FTOI and ITOF: the type in OPS[1:0] (R133, R134). -/
def decFltTy (k : Fields → RMode → IntTy → Instr) (r : Raw) : Except LoadFault Instr := do
  let rm ← getRm r
  let f ← getFields true true r
  opsBelow 2 r
  noExt r
  return k f rm (IntTy.ofCode r.ops)

/-- A memory instruction with FN 0 (R195). -/
def decMem (s : MemSet) (k : Fields → MemOps → Instr) (r : Raw) : Except LoadFault Instr := do
  fnZero r
  let f ← getFields true true r
  let m ← getMem s r
  noExt r
  return k f m

/-- ST: the rounding mode, which an integer format or RAW64 does not take (R81, R201). -/
def decMemRm (s : MemSet) (k : Fields → MemOps → RMode → Instr) (r : Raw) : Except LoadFault Instr := do
  let rm ← getRm r
  require (6 < field r.ops 19 5 || r.fn = 0) .fn
  let f ← getFields true true r
  let m ← getMem s r
  noExt r
  return k f m rm

/-- A floating atomic: the rounding mode (R211). -/
def decMemFlt (s : MemSet) (k : Fields → MemOps → RMode → Instr) (r : Raw) : Except LoadFault Instr := do
  let rm ← getRm r
  let f ← getFields true true r
  let m ← getMem s r
  noExt r
  return k f m rm

/-- LDT: the map in DISP[11:0] (R205). -/
def decMap (k : Fields → BitVec 12 → Bool → Instr) (r : Raw) : Except LoadFault Instr := do
  fnZero r
  let f ← getFields true true r
  require (r.ops < 2 ^ 17 && field r.ops 12 4 = 0) .field
  noExt r
  return k f (BitVec.ofNat 12 (field r.ops 0 12)) (decide (field r.ops 16 1 = 1))

/-- STT: the map in DISP[11:0], the rounding mode in FN (R205). -/
def decMapRm (k : Fields → BitVec 12 → Bool → RMode → Instr) (r : Raw) : Except LoadFault Instr := do
  let rm ← getRm r
  let f ← getFields true true r
  require (r.ops < 2 ^ 17 && field r.ops 12 4 = 0) .field
  noExt r
  return k f (BitVec.ofNat 12 (field r.ops 0 12)) (decide (field r.ops 16 1 = 1)) rm

/-- RED: OPK and NU in the extension word (R214). FN of an integer RED is 0 (R81); with X 0 the word fails EXTENSION
only where no earlier check of the base word fails. -/
def decRed (k : Fields → MemOps → RMode → Bool → FoldOp → Instr) (r : Raw) : Except LoadFault Instr := do
  let rm ← getRm r
  require (r.x = 0 || 6 ≤ field r.ext 0 4 || r.fn = 0) .fn
  let f ← getFields true true r
  let cls ← orFault (MemClass.ofCode? (field r.ops 26 2)) .field
  let fmt ← orFault (Fmt.ofCode? (field r.ops 19 5)) .field
  let m : MemOps :=
    { cls := cls, scope := Scope.ofCode (field r.ops 24 2), fmt := fmt, cp := CachePol.ofCode (field r.ops 17 2)
      oe := field r.ops 16 1 = 1, disp := BitVec.ofNat 16 (field r.ops 0 16) }
  require (m.scopeOk && decide (m.cls ≠ .s) && (fmt.atomicInt || fmt.atomicFloat)) .field
  let opk ← if r.x = 1 then orFault (FoldOp.ofCode? (field r.ext 0 4)) .field else .ok .add
  require (r.x = 0 || (field r.ext 5 59 = 0 && redOk m (field r.ext 4 1 = 1) opk)) .field
  needExt r
  return k f m rm (field r.ext 4 1 = 1) opk

/-- REL, ACQ and FENCE: SCOPE (R215). -/
def decScope (k : Fields → Scope → Instr) (r : Raw) : Except LoadFault Instr := do
  fnZero r
  let f ← getFields true true r
  require (r.ops < 2 ^ 26 && field r.ops 0 24 = 0) .field
  noExt r
  return k f (Scope.ofCode (field r.ops 24 2))

/-- WAITA (R219). -/
def decWaita (k : Fields → MemClass → Fmt → Bool → WaitCond → Instr) (r : Raw) : Except LoadFault Instr := do
  fnZero r
  let f ← getFields true true r
  let cls ← orFault (MemClass.ofCode? (field r.ops 26 2)) .field
  require (decide (cls ≠ .s) && field r.ops 24 2 = 0 && field r.ops 17 2 = 0 && field r.ops 0 13 = 0) .field
  let fmt ← orFault (Fmt.ofCode? (field r.ops 19 5)) .field
  require fmt.atomicInt .field
  let cond ← orFault (WaitCond.ofCode? (field r.ops 13 3)) .field
  noExt r
  return k f cls fmt (field r.ops 16 1 = 1) cond

/-- OE at OPS[16] and nothing else (R222, R256, R257). -/
def decOe (k : Fields → Bool → Instr) (r : Raw) : Except LoadFault Instr := do
  fnZero r
  let f ← getFields true true r
  require (r.ops < 2 ^ 17 && field r.ops 0 16 = 0) .field
  noExt r
  return k f (decide (field r.ops 16 1 = 1))

/-- A stream port (R225). -/
def decPort (k : Fields → PortRef → Bool → Instr) (r : Raw) : Except LoadFault Instr := do
  fnZero r
  let f ← getFields true true r
  require (field r.ops 17 4 = 0 && field r.ops 0 16 = 0) .field
  require (field r.ops 27 1 = 1 || decide (field r.ops 21 6 < 32)) .field
  noExt r
  return k f { edge := field r.ops 27 1 = 1, port := BitVec.ofNat 6 (field r.ops 21 6) } (field r.ops 16 1 = 1)

/-- MBLD (R146). -/
def decMbld (k : Fields → MemClass → Scope → Fmt → CachePol → Bool → Option (BitVec 4) → Instr) (r : Raw) : Except LoadFault Instr := do
  let flag ← getFlag r
  fnZero r
  let f ← getFields true true r
  let cls ← orFault (MemClass.ofCode? (field r.ops 26 2)) .field
  let fmt ← orFault (Fmt.ofCode? (field r.ops 19 5)) .field
  require (matrixClassOk cls (Scope.ofCode (field r.ops 24 2)) && fmt.matrixOperand) .field
  flagZero r
  require (field r.ops 0 11 = 0) .field
  noExt r
  return k f cls (Scope.ofCode (field r.ops 24 2)) fmt (CachePol.ofCode (field r.ops 17 2)) (field r.ops 16 1 = 1) flag

/-- MMA (R146). -/
def decMma (k : Fields → Bool → Option (BitVec 4) → Instr) (r : Raw) : Except LoadFault Instr := do
  let flag ← getFlag r
  fnZero r
  let f ← getFields true true r
  require (r.ops < 2 ^ 17 && field r.ops 0 11 = 0) .field
  flagZero r
  noExt r
  return k f (field r.ops 16 1 = 1) flag

/-- MZERO (R146). -/
def decMzero (k : Fields → Bool → Option (BitVec 4) → BitVec 2 → Instr) (r : Raw) : Except LoadFault Instr := do
  let flag ← getFlag r
  fnZero r
  let f ← getFields true true r
  require (r.ops < 2 ^ 17 && field r.ops 0 9 = 0) .field
  flagZero r
  noExt r
  return k f (field r.ops 16 1 = 1) flag (BitVec.ofNat 2 (field r.ops 9 2))

/-- MSTORE (R146, R151). -/
def decMstore (k : Fields → MemClass → Scope → Fmt → CachePol → Bool → Option (BitVec 4) → BitVec 2 → RMode → Instr) (r : Raw) : Except LoadFault Instr := do
  let flag ← getFlag r
  let rm ← getRm r
  let f ← getFields true true r
  let cls ← orFault (MemClass.ofCode? (field r.ops 26 2)) .field
  let fmt ← orFault (Fmt.ofCode? (field r.ops 19 5)) .field
  require (matrixClassOk cls (Scope.ofCode (field r.ops 24 2)) && fmt.matrixStore) .field
  flagZero r
  require (field r.ops 0 9 = 0) .field
  noExt r
  return k f cls (Scope.ofCode (field r.ops 24 2)) fmt (CachePol.ofCode (field r.ops 17 2)) (field r.ops 16 1 = 1) flag
    (BitVec.ofNat 2 (field r.ops 9 2)) rm

/-- MREAD (R146). -/
def decMread (k : Fields → Bool → BitVec 2 → Instr) (r : Raw) : Except LoadFault Instr := do
  require (field r.ops 11 4 ≤ 11) .flag
  fnZero r
  let f ← getFields true true r
  require (r.ops < 2 ^ 17 && field r.ops 11 5 = 0 && field r.ops 0 9 = 0) .field
  noExt r
  return k f (field r.ops 16 1 = 1) (BitVec.ofNat 2 (field r.ops 9 2))

/-- REDUCE (R154). RM 6 and 7 are CONFIG/FN where RM is read. -/
def decReduce (k : Fields → FoldOp → IntTy → RMode → BitVec 6 → Instr) (r : Raw) : Except LoadFault Instr := do
  fnZero r
  require (field r.ops 23 4 ≠ 6 || field r.ops 18 3 < 6) .fn
  let f ← getFields true false r
  require (r.ops < 2 ^ 27 && field r.ops 0 12 = 0) .field
  let opk ← orFault (FoldOp.ofCode? (field r.ops 23 4)) .field
  let rm ← orFault (RMode.ofCode? (field r.ops 18 3)) .field
  require (foldOk opk (IntTy.ofCode (field r.ops 21 2)) rm) .field
  noExt r
  return k f opk (IntTy.ofCode (field r.ops 21 2)) rm (BitVec.ofNat 6 (field r.ops 12 6))

/-- SCAN (R154). -/
def decScan (k : Fields → FoldOp → IntTy → RMode → BitVec 6 → Bool → Instr) (r : Raw) : Except LoadFault Instr := do
  fnZero r
  require (field r.ops 23 4 ≠ 6 || field r.ops 18 3 < 6) .fn
  let f ← getFields true false r
  require (r.ops < 2 ^ 27 && field r.ops 0 11 = 0) .field
  let opk ← orFault (FoldOp.ofCode? (field r.ops 23 4)) .field
  let rm ← orFault (RMode.ofCode? (field r.ops 18 3)) .field
  require (foldOk opk (IntTy.ofCode (field r.ops 21 2)) rm) .field
  noExt r
  return k f opk (IntTy.ofCode (field r.ops 21 2)) rm (BitVec.ofNat 6 (field r.ops 12 6)) (field r.ops 11 1 = 1)

/-- COPY (R249). -/
def decCopy (k : Fields → MemClass → Bool → Option (BitVec 4) → Instr) (r : Raw) : Except LoadFault Instr := do
  let flag ← getFlag r
  fnZero r
  let f ← getFields true true r
  let cls ← orFault (MemClass.ofCode? (field r.ops 26 2)) .field
  require (decide (cls ≠ .s) && field r.ops 17 9 = 0 && field r.ops 0 11 = 0) .field
  flagZero r
  noExt r
  return k f cls (field r.ops 16 1 = 1) flag

/-- SYSRD and SYSWR (R418). -/
def decSys (k : Fields → Bool → BitVec 8 → Instr) (r : Raw) : Except LoadFault Instr := do
  fnZero r
  let f ← getFields true true r
  require (r.ops < 2 ^ 17 && field r.ops 8 8 = 0) .field
  noExt r
  return k f (field r.ops 16 1 = 1) (BitVec.ofNat 8 (field r.ops 0 8))

/-- TLBINV and CFGINV (R418). -/
def decInv (k : Fields → Bool → Bool → Option (BitVec 4) → Instr) (r : Raw) : Except LoadFault Instr := do
  let flag ← getFlag r
  fnZero r
  let f ← getFields true true r
  require (field r.ops 17 10 = 0 && field r.ops 0 11 = 0) .field
  flagZero r
  noExt r
  return k f (field r.ops 27 1 = 1) (field r.ops 16 1 = 1) flag

/-- RESUME (R418). -/
def decResume (k : Fields → Bool → Instr) (r : Raw) : Except LoadFault Instr := do
  fnZero r
  let f ← getFields true false r
  opsBelow 1 r
  noExt r
  return k f (r.ops = 1)

/-- HALT (R418). -/
def decHalt (k : Fields → Bool → BitVec 9 → Instr) (r : Raw) : Except LoadFault Instr := do
  fnZero r
  let f ← getFields true false r
  opsBelow 10 r
  noExt r
  return k f (field r.ops 9 1 = 1) (BitVec.ofNat 9 (field r.ops 0 9))

/-- The instruction of an instruction word's fields: the opcode map (R58), then the layout of the opcode. -/
def decodeRaw (r : Raw) : Except LoadFault Instr :=
  match r.op with
  | 0x01 => decPlain .mov true true r
  | 0x02 => decImm .movi r
  | 0x03 => decExt64 .movx r
  | 0x04 => decFan .fan r
  | 0x05 => decPlain .null true true r
  | 0x06 => decLow 6 .read false true r
  | 0x07 => decLow 6 .write true false r
  | 0x08 => decOptImm .sel r
  | 0x09 => decPlain .steer true true r
  | 0x0A => decPlain .merge false true r
  | 0x0B => decPlain .carry false true r
  | 0x0C => decPlain .invar false true r
  | 0x0D => decLow 3 .exit true false r
  | 0x0E => decCall .call r
  | 0x0F => decPlain .ret true false r
  | 0x10 => decPlain .drop false false r
  | 0x11 => decTest .test r
  | 0x14 => decLow 3 .spawn true true r
  | 0x15 => decPlain .endThread true false r
  | 0x16 => decPlain .gnew true true r
  | 0x17 => decPlain .gfree true true r
  | 0x18 => decPlain .join true true r
  | 0x19 => decPlain .leave true true r
  | 0x1A => decPlain .bar false false r
  | 0x1B => decPlain .barinit true true r
  | 0x1C => decLs .elect r
  | 0x1D => decVote .vote r
  | 0x1E => decMask .setf r
  | 0x1F => decMask .clrf r
  | 0x20 => decOptImm .grow r
  | 0x21 => decOptImm .shrink r
  | 0x22 => decSread .sread r
  | 0x23 => decPlain .yield true true r
  | 0x28 => decIntChkImm .add r
  | 0x29 => decIntChkImm .sub r
  | 0x2A => decIntChkImm .mul r
  | 0x2B => decIntImm .mulh r
  | 0x2C => decIntChkImm .mad r
  | 0x2D => decIntChkImm .div r
  | 0x2E => decIntChkImm .rem r
  | 0x2F => decIntChk .neg r
  | 0x30 => decIntChk .abs r
  | 0x31 => decIntImm .min r
  | 0x32 => decIntImm .max r
  | 0x33 => decIntImm .clamp r
  | 0x34 => decIntChkImm .absd r
  | 0x35 => decIntImm .adds r
  | 0x36 => decIntImm .subs r
  | 0x37 => decIntCond .cmp r
  | 0x38 => decIntImm .and r
  | 0x39 => decIntImm .or r
  | 0x3A => decIntImm .xor r
  | 0x3B => decIntImm .andn r
  | 0x3C => decInt .not r
  | 0x3D => decIntImm .shl r
  | 0x3E => decIntImm .shr r
  | 0x3F => decIntImm .sar r
  | 0x40 => decIntImm .rol r
  | 0x41 => decIntImm .ror r
  | 0x42 => decIntDir .fsh r
  | 0x43 => decInt .clz r
  | 0x44 => decInt .ctz r
  | 0x45 => decInt .popc r
  | 0x46 => decInt .brev r
  | 0x47 => decIntImm .bfx r
  | 0x48 => decIntImm .bfi r
  | 0x49 => decIntWidth .ext r
  | 0x4A => decIntImm .perm r
  | 0x4B => decIntScale .lea r
  | 0x4C => decIntPoly .crc r
  | 0x50 => decFltImm .fadd r
  | 0x51 => decFltImm .fsub r
  | 0x52 => decFltImm .fmul r
  | 0x53 => decFltImm .fma r
  | 0x54 => decFltImm .fnma r
  | 0x55 => decFltImm .fdiv r
  | 0x56 => decFlt .fsqrt r
  | 0x57 => decFlt .frcp r
  | 0x58 => decFlt .frsq r
  | 0x59 => decFltModImm .fmin r
  | 0x5A => decFltModImm .fmax r
  | 0x5B => decFlt .fabs r
  | 0x5C => decFlt .fneg r
  | 0x5D => decFltModImm .fsgn r
  | 0x5E => decFltModImm .fcmp r
  | 0x5F => decFlt .fclass r
  | 0x60 => decFlt .frint r
  | 0x61 => decFltTy .ftoi r
  | 0x62 => decFltTy .itof r
  | 0x63 => decFlt .fscale r
  | 0x64 => decFlt .flogb r
  | 0x65 => decFlt .fmant r
  | 0x66 => decFlt .fexp2 r
  | 0x67 => decFlt .flog2 r
  | 0x68 => decFlt .fsin r
  | 0x69 => decFlt .fcos r
  | 0x6A => decFlt .ftanh r
  | 0x6B => decFlt .ferf r
  | 0x6C => decFltImm .fclamp r
  | 0x78 => decMem .ld .ld r
  | 0x79 => decMemRm .ld .st r
  | 0x7A => decMap .ldt r
  | 0x7B => decMapRm .stt r
  | 0x7C => decMem .pref .pref r
  | 0x7D => decMem .evict .evict r
  | 0x90 => decMem .atomic .aadd r
  | 0x91 => decMem .atomic .amin r
  | 0x92 => decMem .atomic .amax r
  | 0x93 => decMem .atomic .aand r
  | 0x94 => decMem .atomic .aor r
  | 0x95 => decMem .atomic .axor r
  | 0x96 => decMem .atomic .axchg r
  | 0x97 => decMem .acas .acas r
  | 0x98 => decMem .atomicU .aincw r
  | 0x99 => decMem .atomicU .adecw r
  | 0x9A => decMemFlt .atomicF .afadd r
  | 0x9B => decMemFlt .atomicF .afmin r
  | 0x9C => decMemFlt .atomicF .afmax r
  | 0x9D => decRed .red r
  | 0x9E => decPlain .ojoin true true r
  | 0x9F => decScope .rel r
  | 0xA0 => decScope .acq r
  | 0xA1 => decScope .fence r
  | 0xA2 => decWaita .waita r
  | 0xB0 => decOe .bankmode r
  | 0xB1 => decPort .push r
  | 0xB2 => decPort .pop r
  | 0xB3 => decPort .peek r
  | 0xB4 => decPort .wfeed r
  | 0xB5 => decPort .wemit r
  | 0xB6 => decMem .gath .gath r
  | 0xB7 => decPlain .grecv true true r
  | 0xC0 => decMbld .mbld r
  | 0xC1 => decMma .mma r
  | 0xC2 => decMzero .mzero r
  | 0xC3 => decMstore .mstore r
  | 0xC4 => decMread .mread r
  | 0xC5 => decReduce .reduce r
  | 0xC6 => decScan .scan r
  | 0xC7 => decLs .bcast r
  | 0xD0 => decCopy .copy r
  | 0xD1 => decOe .credit r
  | 0xD2 => decOe .cstat r
  | 0xE0 => decLow 6 .trap true false r
  | 0xE1 => decLow 16 .brk true false r
  | 0xE2 => decSys .sysrd r
  | 0xE3 => decSys .syswr r
  | 0xE4 => decInv .tlbinv r
  | 0xE5 => decInv .cfginv r
  | 0xE6 => decResume .resume r
  | 0xE7 => decHalt .halt r
  | _ => .error .opcode

/-- The instruction of an instruction word and its extension word (0 where X is 0). -/
def decodeWord (w ext : Nat) : Except LoadFault Instr := decodeRaw (Raw.ofWord w ext)

/-- A target field, or none where it is malformed. -/
def soundTarget (n : Nat) : Nat := if n ≠ 0 && n < 512 then 0 else n

/-- The extension word of a FAN with each target that fails the reading of R48 put to "none", the other one kept (R301). -/
def soundFan (ext : Nat) : Nat := soundTarget (field ext 54 10) * 2 ^ 54 + soundTarget (field ext 44 10) * 2 ^ 44 + ext % 2 ^ 44

/-- OPS values that keep what they can of a faulty one: OE and the low fields, which say what slots, exits and maps an instruction
names, are given up last, and the fields above them first. The values put in their place are ones that some layout takes. -/
def soundOps (ops : Nat) : List Nat :=
  [field ops 16 1, 0].flatMap (fun oe =>
    [field ops 0 3, 0, 1].flatMap (fun low => [field ops 3 9, 0].flatMap (fun mid => [field ops 12 4, 0].flatMap (fun up =>
      [field ops 17 11, 0, 2 ^ 10, 2 ^ 9, 3 * 2 ^ 2, 7 * 2 ^ 2, 2 ^ 9 + 9 * 2 ^ 2].map (fun hi =>
        hi * 2 ^ 17 + oe * 2 ^ 16 + up * 2 ^ 12 + mid * 2 ^ 3 + low)))))

/-- Extension words that keep what they can of a faulty one: the targets of a FAN, the fold of a RED. -/
def soundExt (ext : Nat) : List Nat := [ext, ext / 2 ^ 44 * 2 ^ 44, ext % 32, ext % 16, 0, 6]

/-- Whether a word passes the checks of its OPS and extension fields, FN apart. -/
def Raw.opsRead (r : Raw) : Bool :=
  match decodeRaw { r with fn := 0 } with
  | .error .fn | .error .flag | .error .field => false
  | _ => true

/-- A word with a field of its OPS or extension at fault, that field replaced. -/
def Raw.withSoundOps (r : Raw) : Option Raw :=
  ((soundExt r.ext).flatMap (fun e => (soundOps r.ops).map (fun o => { r with ops := o, ext := e }))).find? Raw.opsRead

/-- The next word to try where one fails a check (R60): the field at fault repaired. -/
def Raw.repaired (e : LoadFault) (r : Raw) : Option Raw :=
  match e with
  | .fn => if r.fn = 0 then r.withSoundOps else some { r with fn := 0 }
  | .predicate => if r.pm = 0 then none else some { r with pm := 0 }
  | .target =>
    let t0 := soundTarget r.t0
    let t1 := soundTarget r.t1
    let ext := soundFan r.ext
    if t0 ≠ r.t0 || t1 ≠ r.t1 then some { r with t0 := t0, t1 := t1 }
    else if ext ≠ r.ext then some { r with ext := ext }
    else if r.ext ≠ 0 then some { r with ext := 0 }
    else if r.t0 = 0 && r.t1 = 0 then none
    else some { r with t0 := 0, t1 := 0 }
  | .extension => some { r with x := 1 - r.x }
  | .field | .flag => r.withSoundOps
  | _ => none

/-- An instruction read from a word that fails some of its checks, each field at fault repaired in turn; none for a reserved
opcode. -/
def readThrough : Nat → Raw → Option Instr
  | 0, _ => none
  | fuel + 1, r =>
    match decodeRaw r with
    | .ok i => some i
    | .error e =>
      match r.repaired e with
      | some q => readThrough fuel q
      | none => none

/-- Whether an extension word follows an instruction word (R47, R52). -/
def wordHasExt (w : Nat) : Bool := field w 48 1 = 1

/-- What the decoder reads from the bits of an instruction: the instruction word in bits 63:0, its extension word above. -/
def decodeTableWord (_nbits w : Nat) : Option Instr :=
  match decodeWord (w % 2 ^ 64) (w / 2 ^ 64 % 2 ^ 64) with
  | .ok i => some i
  | .error _ => none

/-- The little-endian 64-bit number of the first eight bytes (R6). -/
def wordOfBytes (bs : List Byte) : Nat := (bs.take 8).foldr (fun b n => b.toNat + 256 * n) 0

/-- The decoder over bytes: the instruction word and, where X is 1, its extension word; the instruction and the rest of
the bytes. Too few bytes fail the block's header check, as a block image that runs past its section does. -/
def decodeBytes (bs : List Byte) : Except LoadFault (Instr × List Byte) :=
  if bs.length < 8 then .error .header
  else if wordHasExt (wordOfBytes bs) then
    if bs.length < 16 then .error .header
    else do
      let i ← decodeWord (wordOfBytes bs) (wordOfBytes (bs.drop 8))
      return (i, bs.drop 16)
  else do
    let i ← decodeWord (wordOfBytes bs) 0
    return (i, bs.drop 8)

/-! ### The encoder, from the same tables -/

/-- The fields of a word whose X is 0. -/
def rawOf (op fn : Nat) (f : Fields) (ops : Nat) : Raw :=
  { op := op, fn := fn, pm := f.pm.code, u := boolCode f.hot, x := 0, t0 := putTarget f.t0, t1 := putTarget f.t1
    ops := ops, ext := 0 }

/-- The fields of a word with an extension word. -/
def rawExt (op fn : Nat) (f : Fields) (ops ext : Nat) : Raw := { rawOf op fn f ops with x := 1, ext := ext }

/-- The fields of an instruction's word; an event has none, and is given the reserved opcode 0. -/
def encodeRaw : Instr → Raw
  | .mov f => rawOf 0x01 0 f 0
  | .movi f imm => rawOf 0x02 0 f (2 ^ 27 + imm.toNat)
  | .movx f imm => rawExt 0x03 0 f 0 imm.toNat
  | .fan f t2 t3 => rawExt 0x04 0 f 0 (putTarget t2 * 2 ^ 54 + putTarget t3 * 2 ^ 44)
  | .null f => rawOf 0x05 0 f 0
  | .read f lk => rawOf 0x06 0 f lk.toNat
  | .write f lk => rawOf 0x07 0 f lk.toNat
  | .sel f imm => rawOf 0x08 0 f (putImm imm)
  | .steer f => rawOf 0x09 0 f 0
  | .merge f => rawOf 0x0A 0 f 0
  | .carry f => rawOf 0x0B 0 f 0
  | .invar f => rawOf 0x0C 0 f 0
  | .exit f xn => rawOf 0x0D 0 f xn.toNat
  | .call f lk xr xn => rawOf 0x0E 0 f (lk.toNat * 2 ^ 6 + xr.toNat * 2 ^ 3 + xn.toNat)
  | .ret f => rawOf 0x0F 0 f 0
  | .drop f => rawOf 0x10 0 f 0
  | .test f mode mask => rawOf 0x11 0 f (mode.code * 2 ^ 12 + mask.toNat)
  | .spawn f xn => rawOf 0x14 0 f xn.toNat
  | .endThread f => rawOf 0x15 0 f 0
  | .gnew f => rawOf 0x16 0 f 0
  | .gfree f => rawOf 0x17 0 f 0
  | .join f => rawOf 0x18 0 f 0
  | .leave f => rawOf 0x19 0 f 0
  | .bar f => rawOf 0x1A 0 f 0
  | .barinit f => rawOf 0x1B 0 f 0
  | .elect f ls => rawOf 0x1C 0 f (ls.toNat * 2 ^ 12)
  | .vote f opk ls => rawOf 0x1D 0 f (opk.code * 2 ^ 23 + ls.toNat * 2 ^ 12)
  | .setf f mask => rawOf 0x1E 0 f mask.toNat
  | .clrf f mask => rawOf 0x1F 0 f mask.toNat
  | .grow f imm => rawOf 0x20 0 f (putImm imm)
  | .shrink f imm => rawOf 0x21 0 f (putImm imm)
  | .sread f which => rawOf 0x22 0 f which.toNat
  | .yield f => rawOf 0x23 0 f 0
  | .add f ty chk imm => rawOf 0x28 (ty.code + 4 * boolCode chk) f (putImm imm)
  | .sub f ty chk imm => rawOf 0x29 (ty.code + 4 * boolCode chk) f (putImm imm)
  | .mul f ty chk imm => rawOf 0x2A (ty.code + 4 * boolCode chk) f (putImm imm)
  | .mulh f ty imm => rawOf 0x2B ty.code f (putImm imm)
  | .mad f ty chk imm => rawOf 0x2C (ty.code + 4 * boolCode chk) f (putImm imm)
  | .div f ty chk imm => rawOf 0x2D (ty.code + 4 * boolCode chk) f (putImm imm)
  | .rem f ty chk imm => rawOf 0x2E (ty.code + 4 * boolCode chk) f (putImm imm)
  | .neg f ty chk => rawOf 0x2F (ty.code + 4 * boolCode chk) f 0
  | .abs f ty chk => rawOf 0x30 (ty.code + 4 * boolCode chk) f 0
  | .min f ty imm => rawOf 0x31 ty.code f (putImm imm)
  | .max f ty imm => rawOf 0x32 ty.code f (putImm imm)
  | .clamp f ty imm => rawOf 0x33 ty.code f (putImm imm)
  | .absd f ty chk imm => rawOf 0x34 (ty.code + 4 * boolCode chk) f (putImm imm)
  | .adds f ty imm => rawOf 0x35 ty.code f (putImm imm)
  | .subs f ty imm => rawOf 0x36 ty.code f (putImm imm)
  | .cmp f ty cond imm => rawOf 0x37 (ty.code + 4 * cond.code) f (putImm imm)
  | .and f ty imm => rawOf 0x38 ty.code f (putImm imm)
  | .or f ty imm => rawOf 0x39 ty.code f (putImm imm)
  | .xor f ty imm => rawOf 0x3A ty.code f (putImm imm)
  | .andn f ty imm => rawOf 0x3B ty.code f (putImm imm)
  | .not f ty => rawOf 0x3C ty.code f 0
  | .shl f ty imm => rawOf 0x3D ty.code f (putImm imm)
  | .shr f ty imm => rawOf 0x3E ty.code f (putImm imm)
  | .sar f ty imm => rawOf 0x3F ty.code f (putImm imm)
  | .rol f ty imm => rawOf 0x40 ty.code f (putImm imm)
  | .ror f ty imm => rawOf 0x41 ty.code f (putImm imm)
  | .fsh f ty right imm => rawOf 0x42 (ty.code + 4 * boolCode right) f (putImm imm)
  | .clz f ty => rawOf 0x43 ty.code f 0
  | .ctz f ty => rawOf 0x44 ty.code f 0
  | .popc f ty => rawOf 0x45 ty.code f 0
  | .brev f ty => rawOf 0x46 ty.code f 0
  | .bfx f ty imm => rawOf 0x47 ty.code f (putImm imm)
  | .bfi f ty imm => rawOf 0x48 ty.code f (putImm imm)
  | .ext f ty width => rawOf 0x49 (ty.code + 4 * width.code) f 0
  | .perm f ty imm => rawOf 0x4A ty.code f (putImm imm)
  | .lea f ty scale imm => rawOf 0x4B (ty.code + 4 * scale.toNat) f (putImm imm)
  | .crc f ty poly imm => rawOf 0x4C (ty.code + 4 * poly.code) f (putImm imm)
  | .fadd f rm imm => rawOf 0x50 rm.code f (putImm imm)
  | .fsub f rm imm => rawOf 0x51 rm.code f (putImm imm)
  | .fmul f rm imm => rawOf 0x52 rm.code f (putImm imm)
  | .fma f rm imm => rawOf 0x53 rm.code f (putImm imm)
  | .fnma f rm imm => rawOf 0x54 rm.code f (putImm imm)
  | .fdiv f rm imm => rawOf 0x55 rm.code f (putImm imm)
  | .fsqrt f rm => rawOf 0x56 rm.code f 0
  | .frcp f rm => rawOf 0x57 rm.code f 0
  | .frsq f rm => rawOf 0x58 rm.code f 0
  | .fmin f rm alt imm => rawOf 0x59 (rm.code + 8 * boolCode alt) f (putImm imm)
  | .fmax f rm alt imm => rawOf 0x5A (rm.code + 8 * boolCode alt) f (putImm imm)
  | .fabs f rm => rawOf 0x5B rm.code f 0
  | .fneg f rm => rawOf 0x5C rm.code f 0
  | .fsgn f rm alt imm => rawOf 0x5D (rm.code + 8 * boolCode alt) f (putImm imm)
  | .fcmp f rm alt imm => rawOf 0x5E (rm.code + 8 * boolCode alt) f (putImm imm)
  | .fclass f rm => rawOf 0x5F rm.code f 0
  | .frint f rm => rawOf 0x60 rm.code f 0
  | .ftoi f rm ty => rawOf 0x61 rm.code f ty.code
  | .itof f rm ty => rawOf 0x62 rm.code f ty.code
  | .fscale f rm => rawOf 0x63 rm.code f 0
  | .flogb f rm => rawOf 0x64 rm.code f 0
  | .fmant f rm => rawOf 0x65 rm.code f 0
  | .fexp2 f rm => rawOf 0x66 rm.code f 0
  | .flog2 f rm => rawOf 0x67 rm.code f 0
  | .fsin f rm => rawOf 0x68 rm.code f 0
  | .fcos f rm => rawOf 0x69 rm.code f 0
  | .ftanh f rm => rawOf 0x6A rm.code f 0
  | .ferf f rm => rawOf 0x6B rm.code f 0
  | .fclamp f rm imm => rawOf 0x6C rm.code f (putImm imm)
  | .ld f m => rawOf 0x78 0 f (putMem m)
  | .st f m rm => rawOf 0x79 rm.code f (putMem m)
  | .ldt f map oe => rawOf 0x7A 0 f (boolCode oe * 2 ^ 16 + map.toNat)
  | .stt f map oe rm => rawOf 0x7B rm.code f (boolCode oe * 2 ^ 16 + map.toNat)
  | .pref f m => rawOf 0x7C 0 f (putMem m)
  | .evict f m => rawOf 0x7D 0 f (putMem m)
  | .aadd f m => rawOf 0x90 0 f (putMem m)
  | .amin f m => rawOf 0x91 0 f (putMem m)
  | .amax f m => rawOf 0x92 0 f (putMem m)
  | .aand f m => rawOf 0x93 0 f (putMem m)
  | .aor f m => rawOf 0x94 0 f (putMem m)
  | .axor f m => rawOf 0x95 0 f (putMem m)
  | .axchg f m => rawOf 0x96 0 f (putMem m)
  | .acas f m => rawOf 0x97 0 f (putMem m)
  | .aincw f m => rawOf 0x98 0 f (putMem m)
  | .adecw f m => rawOf 0x99 0 f (putMem m)
  | .afadd f m rm => rawOf 0x9A rm.code f (putMem m)
  | .afmin f m rm => rawOf 0x9B rm.code f (putMem m)
  | .afmax f m rm => rawOf 0x9C rm.code f (putMem m)
  | .red f m rm nu opk => rawExt 0x9D rm.code f (putMem m) (boolCode nu * 2 ^ 4 + opk.code)
  | .ojoin f => rawOf 0x9E 0 f 0
  | .rel f scope => rawOf 0x9F 0 f (scope.code * 2 ^ 24)
  | .acq f scope => rawOf 0xA0 0 f (scope.code * 2 ^ 24)
  | .fence f scope => rawOf 0xA1 0 f (scope.code * 2 ^ 24)
  | .waita f cls fmt oe cond =>
      rawOf 0xA2 0 f (cls.code * 2 ^ 26 + fmt.code * 2 ^ 19 + boolCode oe * 2 ^ 16 + cond.code * 2 ^ 13)
  | .bankmode f oe => rawOf 0xB0 0 f (boolCode oe * 2 ^ 16)
  | .push f port oe => rawOf 0xB1 0 f (boolCode port.edge * 2 ^ 27 + port.port.toNat * 2 ^ 21 + boolCode oe * 2 ^ 16)
  | .pop f port oe => rawOf 0xB2 0 f (boolCode port.edge * 2 ^ 27 + port.port.toNat * 2 ^ 21 + boolCode oe * 2 ^ 16)
  | .peek f port oe => rawOf 0xB3 0 f (boolCode port.edge * 2 ^ 27 + port.port.toNat * 2 ^ 21 + boolCode oe * 2 ^ 16)
  | .wfeed f port oe => rawOf 0xB4 0 f (boolCode port.edge * 2 ^ 27 + port.port.toNat * 2 ^ 21 + boolCode oe * 2 ^ 16)
  | .wemit f port oe => rawOf 0xB5 0 f (boolCode port.edge * 2 ^ 27 + port.port.toNat * 2 ^ 21 + boolCode oe * 2 ^ 16)
  | .gath f m => rawOf 0xB6 0 f (putMem m)
  | .grecv f => rawOf 0xB7 0 f 0
  | .mbld f cls scope fmt cp oe flag =>
      rawOf 0xC0 0 f (cls.code * 2 ^ 26 + scope.code * 2 ^ 24 + fmt.code * 2 ^ 19 + cp.code * 2 ^ 17
        + boolCode oe * 2 ^ 16 + putFlag flag)
  | .mma f oe flag => rawOf 0xC1 0 f (boolCode oe * 2 ^ 16 + putFlag flag)
  | .mzero f oe flag tile => rawOf 0xC2 0 f (boolCode oe * 2 ^ 16 + putFlag flag + tile.toNat * 2 ^ 9)
  | .mstore f cls scope fmt cp oe flag tile rm =>
      rawOf 0xC3 rm.code f (cls.code * 2 ^ 26 + scope.code * 2 ^ 24 + fmt.code * 2 ^ 19 + cp.code * 2 ^ 17
        + boolCode oe * 2 ^ 16 + putFlag flag + tile.toNat * 2 ^ 9)
  | .mread f oe tile => rawOf 0xC4 0 f (boolCode oe * 2 ^ 16 + tile.toNat * 2 ^ 9)
  | .reduce f opk ty rm ls =>
      rawOf 0xC5 0 f (opk.code * 2 ^ 23 + ty.code * 2 ^ 21 + rm.code * 2 ^ 18 + ls.toNat * 2 ^ 12)
  | .scan f opk ty rm ls exclusive =>
      rawOf 0xC6 0 f (opk.code * 2 ^ 23 + ty.code * 2 ^ 21 + rm.code * 2 ^ 18 + ls.toNat * 2 ^ 12
        + boolCode exclusive * 2 ^ 11)
  | .bcast f ls => rawOf 0xC7 0 f (ls.toNat * 2 ^ 12)
  | .copy f cls oe flag => rawOf 0xD0 0 f (cls.code * 2 ^ 26 + boolCode oe * 2 ^ 16 + putFlag flag)
  | .credit f oe => rawOf 0xD1 0 f (boolCode oe * 2 ^ 16)
  | .cstat f oe => rawOf 0xD2 0 f (boolCode oe * 2 ^ 16)
  | .trap f code => rawOf 0xE0 0 f code.toNat
  | .brk f tag => rawOf 0xE1 0 f tag.toNat
  | .sysrd f oe num => rawOf 0xE2 0 f (boolCode oe * 2 ^ 16 + num.toNat)
  | .syswr f oe num => rawOf 0xE3 0 f (boolCode oe * 2 ^ 16 + num.toNat)
  | .tlbinv f all oe flag => rawOf 0xE4 0 f (boolCode all * 2 ^ 27 + boolCode oe * 2 ^ 16 + putFlag flag)
  | .cfginv f all oe flag => rawOf 0xE5 0 f (boolCode all * 2 ^ 27 + boolCode oe * 2 ^ 16 + putFlag flag)
  | .resume f link => rawOf 0xE6 0 f (boolCode link)
  | .halt f ic cause => rawOf 0xE7 0 f (boolCode ic * 2 ^ 9 + cause.toNat)
  | .marshalBlockChoice _ _ | .ageThresholdReached _ _ _ | .configurationLoadDone _ _ | .threadAdmission _ _
  | .loadDataReturn _ _ _ _ | .gatherReturn _ _ _ _ | .passEnd _ _ | .arbiterGrant _ | .chunkCommit _ _
  | .wcBroadcastArrival _ _ | .passReplay _ _ | .soloTicketGrant | .sStorePublish _ _
  | .hostPeerStoreSend _ _ | .spawnPlace _ _ | .creditApply _ _ | .syswrTakeEffect _ _ | .shootdownStart _ _
  | .shootdownComplete _ | .cfginvMark _ _ | .copyHandover _ _ _ _ | .rangeLockRegister _
  | .drayEngineCommit _ | .ringTileWrite _ | .drayFifoEntry _ | .completionWordWrite _
  | .completionRecordAppend _ | .copyFail _ | .leaveGrant _ | .leaveWaitExpiry _ | .mbldEntryRun _
  | .mmaEntryStart _ | .mzeroEntryRun _ | .mstoreEntryRun _ | .matrixEntryFinish _ | .migrationStart _
  | .migrationCommit _ | .migrationFail _ _ | .cxlLinkDown _ | .cxlCompletionTimeout _ | .linkRetrain _ _
  | .hostPortLinkDown _ | .couplerLinkDown _ | .hostCompletionError _ _ _ _ | .hostCompletionTimeout _ _ _ _
  | .hostWriteArrival _ | .apertureRead _ _ _ _ _ | .apertureWrite _ _ _ _ _ _ | .linkTagFail _ _ _ _ _ _
  | .sessionRekey _ | .dieFailed _ | .rateWindowExpiry _ _ | .quiescentStall _ | .yieldRelease _ _ _
  | .doorbellWrite _ _ _ | .packetTake _ _ | .launch _ _ | .graph _ _ | .copyPacket _ _ | .barrierAnd _ _
  | .barrierOr _ _ | .barrierReading _ _ | .signalPacket _ _ | .measure _ _ | .regionAssign | .regionShare
  | .gateOpen _ | .packetRetire _ _ _ | .packetClose _ _ _ | .chainExtend _ | .queueClear _ _
  | .queueEnable _ _ _ _ | .objectLoad _ _ | .objectUnload _ _ | .invalidateRange _ _ | .invalidateAll _
  | .sysregWrite _ _ _ | .crovfRead _ | .hostfaultRead _ _ | .create _ _ | .destroy _ _ _ | .grant _ _
  | .take _ | .transfer _ | .accept _ | .cancel _ | .release _ | .stageFw _ | .setsvn _ | .partition _
  | .moduleReset | .registerWrite _ _ _ _ | .quantumExpiry | .hardPreemptFreeze _ | .hardPreemptSave _
  | .resumeRestore _ | .graphRelink _ | .regionHandover _ | .hostPortLinkUp _ | .peerRead _ _ _ => rawOf 0 0 { pm := .always, hot := false, t0 := none, t1 := none } 0

/-- The words of an instruction: its instruction word and, where it has one, its extension word (R42, R47). -/
def encode (i : Instr) : List Nat :=
  let r := encodeRaw i
  if r.x = 1 then [r.word, r.ext] else [r.word]

/-- The bits of an instruction as one number: the instruction word, then the extension word above it. -/
def encodeBits (i : Instr) : Nat := (encodeRaw i).word + 2 ^ 64 * (encodeRaw i).ext

end Sys2Proof
end

