-- ==== Sys2Proof/Config.lean ====
section
/-! DEFINITION. The values the spec leaves open: opaque constants that nothing in Lean can evaluate, so that a statement
holds whatever they are; and what is fixed outside the spec (keys, certificates, the maker's translation). -/

namespace Sys2Proof.Config

/-- A free word: a gather's ticket (R231), a TINFO that the spec does not state. Applied to the state's counter `freeCtr`. -/
opaque freeWord : Nat → Word

/-- A free byte: what the marshal writes into the siding and the save area (R282, R412). -/
opaque freeByte : Nat → Byte

/-- A free choice among allowed outcomes, taken modulo their number (R34, R172, R236, R345, R346). -/
opaque freeChoice : Nat → Nat

/-- Which of the two roundings between which an elementary function's value lies is taken where no precision of the model's ladder
decides it (R126): for the function's opcode, the operand's word and the rounding mode's code. -/
opaque freeElementary : Nat → Word → Nat → Bool

/-- An exit of a native block that a hyperblock has become: to a block of the same hyperblock, to the hyperblock that its own exit XN
names, or the bits of the header as they stand. -/
inductive VpbExit
  | own (k : Nat)
  | hyper (xn : Nat)
  | bits (n : Nat)
  deriving DecidableEq, Repr

/-- A native block that a hyperblock has become (R44-R46): header word 0, SET0 and SET1, the eight exits, and the instruction words,
each with its extension word and with the record of the hyperblock that it is made of, none for one that the loader added. -/
structure VpbBlock where
  word0 : Nat
  set : Nat
  exits : List VpbExit
  words : List (Nat × Nat)
  origins : List (Option Nat)
  deriving DecidableEq, Repr

/-- The blocks into which the loader splits a hyperblock that exceeds the native limits (R67): a function of the firmware that runs, of
the section's bytes and of the hyperblock's place in it. The model takes it only where it is such a split (`Hyper.splitInto`). -/
opaque vpbSplit : List Byte → List Byte → Nat → List VpbBlock

/-- The bit of a 2048-bit signature that a line key sets, modulo 2048 (R160): the fixed hash, which the spec does not give. -/
opaque signatureBit : Nat → Nat

/-- Device certificate chain in DER, as fused (R363). -/
opaque certChain : List Byte

/-- ML-DSA-65 signature of a message under the attestation key, pure form, empty context string (R387). -/
opaque mldsaSign : List Byte → List Byte

/-- ECDSA P-384 signature with SHA-384 under the attestation key, r then s (R387). -/
opaque ecdsaSign : List Byte → List Byte

/-- Whether a firmware image carries a valid maker signature, and valid countersignatures (R358). -/
opaque makerSigned : List Byte → Bool

/-- Whether a firmware image carries a valid signature of the owner key given (R358). -/
opaque ownerSigned : List Byte → List Byte → Bool

/-- The security version number an image carries (R358). -/
opaque imageSvn : List Byte → Nat

/-- Whether an image carries the PROVISION mark (R358). -/
opaque imageProvision : List Byte → Bool

/-- Whether the bytes after an ownership record's payload are a valid signature of the record under the key given (R359,
R360): key, signed bytes, signature bytes. -/
opaque recordSigned : List Byte → List Byte → List Byte → Bool

/-- The ownership nonce after so many commands (R360). -/
opaque freshNonce : Nat → List Byte

end Sys2Proof.Config
end

