-- ==== Sys2Proof/Machine/Sha.lean ====
section
/-! DEFINITION. SHA-384 (FIPS 180-4), which the spec names for measurement and ownership (spec/00 R17, spec/12
R381-R384). -/

namespace Sys2Proof.Machine

/-- The largest number whose `k`-th power is at most `n`, found bit by bit from bit `b` - 1 down, above the bits already found. -/
def rootFrom (k n : Nat) : Nat → Nat → Nat
  | 0, r => r
  | b + 1, r => rootFrom k n b (if (r + 2 ^ b) ^ k ≤ n then r + 2 ^ b else r)

/-- The first 64 bits of the fraction of the `k`-th root of a number below 512. -/
def rootFraction (k p : Nat) : Word := BitVec.ofNat 64 (rootFrom k (p * 2 ^ (64 * k)) 69 0)

/-- The first 80 primes. -/
def shaPrimes : List Nat :=
  (List.range 410).filter (fun n => decide (2 ≤ n) && (List.range 21).all (fun d => decide (d < 2) || decide (n ≤ d) || n % d ≠ 0))

/-- The round constants of FIPS 180-4: from the cube roots of the first 80 primes. -/
def shaK : List Word := shaPrimes.map (rootFraction 3)

/-- The eight working words. -/
structure ShaState where
  a : Word
  b : Word
  c : Word
  d : Word
  e : Word
  f : Word
  g : Word
  h : Word
  deriving DecidableEq, Repr

/-- The state whose words are those of a list. -/
def ShaState.ofList (ws : List Word) : ShaState :=
  let w := fun (k : Nat) => ws.getD k 0
  { a := w 0, b := w 1, c := w 2, d := w 3, e := w 4, f := w 5, g := w 6, h := w 7 }

/-- SHA-384's initial words: from the square roots of the ninth to sixteenth primes. -/
def shaInit : ShaState := ShaState.ofList (((shaPrimes.drop 8).take 8).map (rootFraction 2))

/-- The word rotated right. -/
def shaRot (x : Word) (n : Nat) : Word := (x >>> n) ||| (x <<< (64 - n))

/-- One round, with the sum of its constant and its schedule word. -/
def shaRound (s : ShaState) (kw : Word) : ShaState :=
  let t1 := s.h + (shaRot s.e 14 ^^^ shaRot s.e 18 ^^^ shaRot s.e 41) + ((s.e &&& s.f) ^^^ (~~~s.e &&& s.g)) + kw
  let t2 := (shaRot s.a 28 ^^^ shaRot s.a 34 ^^^ shaRot s.a 39) + ((s.a &&& s.b) ^^^ (s.a &&& s.c) ^^^ (s.b &&& s.c))
  { a := t1 + t2, b := s.a, c := s.b, d := s.c, e := s.d + t1, f := s.e, g := s.f, h := s.g }

/-- The message schedule's next word from the last sixteen, oldest first. -/
def shaNext (w : List Word) : Word :=
  let x := w.getD 1 0
  let y := w.getD 14 0
  (shaRot y 19 ^^^ shaRot y 61 ^^^ (y >>> 6)) + w.getD 9 0 + (shaRot x 1 ^^^ shaRot x 8 ^^^ (x >>> 7)) + w.getD 0 0

/-- The rounds of a block over the constants left, with the last sixteen schedule words. -/
def shaRounds : List Word → List Word → ShaState → ShaState
  | [], _, s => s
  | k :: ks, w, s => shaRounds ks (w.drop 1 ++ [shaNext w]) (shaRound s (k + w.getD 0 0))

/-- The sum of two states, word by word. -/
def ShaState.add (s t : ShaState) : ShaState :=
  { a := s.a + t.a, b := s.b + t.b, c := s.c + t.c, d := s.d + t.d
    e := s.e + t.e, f := s.f + t.f, g := s.g + t.g, h := s.h + t.h }

/-- The big-endian word of eight bytes. -/
def beWord (bytes : List Byte) : Word := bytes.foldl (fun w b => (w <<< 8) ||| b.setWidth 64) 0

/-- The sixteen words of a 128-byte block. -/
def shaWords (blk : List Byte) : List Word := (List.range 16).map (fun i => beWord ((blk.drop (8 * i)).take 8))

/-- The state after `n` blocks of the padded message. -/
def shaBlocks : Nat → List Byte → ShaState → ShaState
  | 0, _, s => s
  | n + 1, m, s => shaBlocks n (m.drop 128) (s.add (shaRounds shaK (shaWords m) s))

/-- The `n` bytes of a number, most significant first. -/
def beBytes : Nat → Nat → List Byte
  | 0, _ => []
  | n + 1, v => BitVec.ofNat 8 (v / 256 ^ n) :: beBytes n v

/-- SHA-384 of a byte string: 48 bytes. -/
def sha384 (m : List Byte) : List Byte :=
  let zeros := (111 + 128 - m.length % 128) % 128
  let padded := m ++ [0x80] ++ List.replicate zeros 0 ++ beBytes 16 (8 * m.length)
  let s := shaBlocks (padded.length / 128) padded shaInit
  [s.a, s.b, s.c, s.d, s.e, s.f].flatMap (fun w => beBytes 8 w.toNat)

end Sys2Proof.Machine
end

