-- ==== Sys2Proof/Machine/State.lean ====
section
/-! DEFINITION. The machine's state as plain data: everything the spec names (spec/01 R20-R37, R328, R363, R366, R405),
the work in progress that its events act on, and the schedule that says which agent moves next. -/

namespace Sys2Proof.Machine

/-! ### Faults and refusals -/

/-- Why a step stops. -/
inductive Fault
  /-- A firing names an index of a configured block whose word does not decode. Raised by `step` alone. The load checks
  of R59 and R60 rule it out for every block that a configuration load has placed, so stopping there is safe. -/
  | undecodable
  deriving DecidableEq, Repr

/-- Why an instruction has no step. -/
inductive Refusal
  /-- An instruction whose arm has no meaning yet, by its mnemonic. Raised by `exec`; safe. -/
  | notModelled (mnemonic : String)
  deriving DecidableEq, Repr

/-! ### Threads, tokens and runs -/

/-- One pass on one core, by its context and the number the model gives it. -/
structure PassRef where
  core : Nat
  ctx : Nat
  pass : Nat
  deriving DecidableEq, Repr

/-- A cause recorded against a thread: the instruction, its generation, the 9-bit cause and the TINFO (R393, R394), none
where the spec states neither an address nor a value for the cause. -/
structure CauseRec where
  idx : Nat
  gen : Nat
  cause : Nat
  info : Option Nat
  deriving DecidableEq, Repr

/-- A token waiting at an operand slot (R23, R53); a value of none is the null mark (R55). `deps` are the accesses of the
thread that this token is ordered after (R170). -/
structure Token where
  idx : Nat
  slot : Slot
  val : Option Word
  deps : List Nat
  deriving DecidableEq, Repr

/-- How a thread leaves its block (R314, R424, R425). -/
inductive ExitRec
  | exit (xn : Nat)
  | call (xn lk xr : Nat)
  | ret (idx : Nat) (link : Word)
  | ended
  | resume
  | resumeLink (idx : Nat) (link : Word)
  | halt (cause : Nat)
  deriving DecidableEq, Repr

/-- A group operation recorded by a firing (R321). -/
inductive GroupOp
  | gnew
  | gfree (a : Word)
  | join (a : Word)
  | leave
  | barinit (a : Word)
  deriving DecidableEq, Repr

/-- A change of the granted count (R325). -/
inductive LvOp
  | grow (n : Nat)
  | shrink (n : Nat)
  deriving DecidableEq, Repr

/-- An atomic or reduction, with the operands that its firing recorded (R210, R211, R214). -/
structure AtomicOp where
  kind : Instr
  fmt : Fmt
  rm : RMode
  b : Word
  c : Word
  va : Nat
  deriving DecidableEq, Repr

/-- Where an access of a chunk lies: device memory by physical address, or the core's scratchpad (R160). -/
inductive Space
  | device
  | scratch
  deriving DecidableEq, Repr

/-- What an access of a chunk does. A store holds, for each byte, its value and the mask of the bits it writes (R167,
R205); a returning atomic holds the bytes it left at the atomic unit (R173). `reads` marks a store of a packed element,
which also reads its line (R205). -/
inductive AccessKind
  | load
  | store (bytes : List (Byte × Byte)) (reads : Bool)
  | returning (bytes : List (Byte × Byte))
  | update (op : AtomicOp)
  deriving DecidableEq, Repr

/-- One access of a chunk (R159, R160, R170). `before` are the accesses of its thread that are ordered before it; `key`
is the key index of a device write (R352). -/
structure Access where
  id : Nat
  tidx : Nat
  idx : Nat
  space : Space
  addr : Nat
  len : Nat
  key : Nat
  kind : AccessKind
  before : List Nat
  deriving DecidableEq, Repr

/-- One element stored through a scaled map, for the block assembly at the end of the pass (R206). -/
structure ScaledStore where
  id : Nat
  tidx : Nat
  idx : Nat
  map : Nat
  coord : List Nat
  rm : RMode
  val : Word
  before : List Nat
  deriving DecidableEq, Repr

/-- A read whose value was taken at its firing, the instruction's generation `gen` (R394), and whose tokens are still to be sent
(R196): of its physical and virtual address, and for an LDT also those of the second byte of its element and of its scale (R203). -/
structure Outstanding where
  idx : Nat
  gen : Nat
  val : Word
  deps : List Nat
  kind : Nat
  pa : Nat
  va : Nat
  also : List (Nat × Nat)
  deriving DecidableEq, Repr

/-- A gather of a thread (R231, R232): its ticket, the instruction and its generation, the value once its row read returned, whether
GRECV consumed it. -/
structure Gather where
  ticket : Nat
  idx : Nat
  gen : Nat
  val : Word
  pa : Nat
  va : Nat
  returned : Bool
  received : Bool
  deps : List Nat
  deriving DecidableEq, Repr

/-- A deferred effect, or one that the commit orders among them (R180, R422, R423, R185, R216). -/
inductive DeferredKind
  | sStore (va pa key : Nat) (bytes : List (Byte × Byte)) (scope : Scope)
  | hostStore (va pa : Nat) (bytes : List (Byte × Byte))
  | hostAdd (va pa len : Nat) (b : Word)
  | copy (words : List Word) (info : Nat) (flag : Option Nat)
  | spawn (xn : Nat) (l0 l1 l2 : Option Word) (tidx : Nat)
  | credit (rid n : Nat)
  | syswr (num : Nat) (v : Word)
  | tlbinv (all : Bool) (va pages : Nat) (flag : Option Nat)
  | cfginv (all : Bool) (va bytes : Nat) (flag : Option Nat)
  | fence (scope : Scope)
  | release (scope : Scope)
  deriving DecidableEq, Repr

/-- A deferred effect of a thread of a chunk, with its place in the thread's order (R181); `seq` is the place of its chunk
in the commit order of the core, 0 while the chunk has not committed. -/
structure Deferred where
  id : Nat
  tidx : Nat
  idx : Nat
  kind : DeferredKind
  before : List Nat
  seq : Nat := 0
  deriving DecidableEq, Repr

/-- What a matrix queue entry does (R147-R151); addresses of class S are virtual. -/
inductive MatrixKind
  | mbld (cls : MemClass) (fmt : Fmt) (cp : CachePol) (addr stride kb : Nat)
  | mma (words : List Word)
  | mzero (tile : Nat)
  | mstore (cls : MemClass) (scope : Scope) (fmt : Fmt) (cp : CachePol) (rm : RMode) (tile addr stride : Nat)
  deriving DecidableEq, Repr

/-- A matrix entry as a firing recorded it (R139). -/
structure MatrixRec where
  tidx : Nat
  idx : Nat
  gen : Nat
  kind : MatrixKind
  flag : Option Nat
  deriving DecidableEq, Repr

/-- Where an unsatisfied WAITA parks its thread (R219). -/
structure WaitaPark where
  idx : Nat
  key : Nat
  deriving DecidableEq, Repr

/-- What one instruction of a block has done for one thread: operand sets consumed (R312), firings (R80), the CARRY mode
and firing count (R311, R312), the INVAR hold (R313). -/
structure IdxState where
  idx : Nat
  consumed : Nat
  fired : Nat
  looping : Bool
  hold : Option (Option Word)
  deps : List Nat
  deriving DecidableEq, Repr

/-- The failures with which a thread traps at a block's entry: that of a matrix entry (R142), that of the read of its siding
image (R283, R400). -/
inductive EntryFail
  | matrix
  | refetch
  deriving DecidableEq, Repr

/-- A thread in a pass: its tokens and everything its firings have recorded (R56, R159, R270). `flagOps` are the SETFs
(true) and CLRFs by index (R318). `lines` are the lines it
has written, for R57; `migPark` the migration it waits for, with the kind and address of its access (R242); `windows` the
WINDOW windows whose last element it has read (R230); `entryFail` says which failure met before made it trap as it was
admitted (R142, R283); `fed` the threads of its own pass whose stream entries it has taken (R193, R435). -/
structure Run where
  tidx : Nat
  pseq : Nat
  sources : List Nat
  tokens : List Token
  idxs : List IdxState
  causes : List CauseRec
  exit : Option (Nat × ExitRec)
  writes : List (Nat × Word)
  flagOps : List (Nat × Bool × BitVec 12)
  lvOp : Option LvOp
  yielded : Bool
  groupOps : List (Nat × GroupOp)
  banks : List (Nat × Word × Word)
  contribs : List (Nat × Word)
  deferred : List Deferred
  matrix : List MatrixRec
  outstanding : List Outstanding
  gathers : List Gather
  lines : List Nat
  waita : Option WaitaPark
  migPark : Option (Nat × Nat × Nat)
  windows : List (PortRef × Nat)
  excluded : Bool
  entryFail : Option EntryFail
  fed : List Nat := []
  deriving DecidableEq, Repr

/-- Where a thread is between passes (R264, R270, R279). -/
inductive Place
  | waiting (blk : Nat) (old : Bool)
  | inPass (pass : Nat)
  | held (blk : Nat) (exitBlk : Nat)
  | parked (blk : Nat) (key : Nat)
  | migrating (blk : Nat) (mig : Nat)
  deriving DecidableEq, Repr

/-- The registers of a thread in handler (R37, R396). -/
structure HandlerRegs where
  tcause : Nat
  tinfo : Nat
  tblock : Nat
  deriving DecidableEq, Repr

/-- A thread in the siding: the virtual and the physical address of its image and the bytes the marshal wrote there (R282-R284). -/
structure Spill where
  va : Nat
  pa : Nat
  image : List Byte
  deriving DecidableEq, Repr

/-- A thread that has been created and has not ended (R33). `matrixFail` is the cause and address of its earliest failed
matrix entry (R142), `refetchFail` those of a failed read of its siding image (R283); both stand until the thread has trapped
for them. -/
structure Thread where
  tidx : Nat
  rslot : Nat
  lvsn : Nat
  lives : List Word
  swFlags : BitVec 12
  counts : List Nat
  group : Option Nat
  place : Place
  spill : Option Spill
  handler : Option HandlerRegs
  matrixFail : Option (Nat × Nat)
  refetchFail : Option (Nat × Nat)
  yieldLeft : Option (Nat × List Nat)
  deriving DecidableEq, Repr

/-! ### Passes and chunks -/

/-- The states of a pass (R269). A published pass leaves the list. -/
inductive PassState
  | loading
  | streaming
  | submitted
  | granted
  | squashed
  deriving DecidableEq, Repr

/-- Where a pass stands with the solo ticket (R286). -/
inductive SoloState
  | no
  | waiting
  | holding
  deriving DecidableEq, Repr

/-- A pass and its chunk (R159, R268, R269). `need` are the grants not yet issued, in ascending die order, write grants
marked true; `got` those issued (R162). `admission` is the admission set, `admitted` how many of it have been admitted;
`fails` the updates that could not be applied at the linearization, by thread and cause (R174); `left` the runs of threads that have
left the pass and stay out when it is run again without them (R193). -/
structure Pass where
  id : Nat
  blk : Nat
  slot : Nat
  state : PassState
  admission : List Nat
  admitted : Nat
  runs : List Run
  nextId : Nat
  accesses : List Access
  scaled : List ScaledStore
  producers : List PassRef
  squashes : Nat
  solo : SoloState
  need : List (Nat × Bool)
  got : List (Nat × Bool)
  requested : Bool
  groupsAfter : Option (List (Nat × GroupOp × Nat))
  bankSets : List (Nat × Word × Word)
  usedPages : List Nat
  fails : List (Nat × Nat)
  left : List Run := []
  deriving DecidableEq, Repr

/-! ### Blocks and configuration -/

/-- A configured block image: its offset in 64-byte units, its four header words, its instruction words with their
extension words, the tensor maps it names, and whether CFGINV has marked it stale (R42-R45, R204, R423). -/
structure Block where
  blk : Nat
  header : List Nat
  words : List (Nat × Nat)
  maps : List (Nat × List Word)
  va : Nat
  stale : Bool
  deriving DecidableEq, Repr

/-- A configuration slot of a context on a core (R23, R24, R39). -/
structure CfgSlot where
  block : Option Block
  deriving DecidableEq, Repr

/-! ### Cores -/

/-- Bank modes (R29). -/
inductive BankMode
  | cache
  | scratch
  | fifo
  | window
  deriving DecidableEq, Repr

/-- An entry of a FIFO or of a LINK buffer, with the uncommitted pass and the thread that pushed it, and those that popped it
(R177, R179, R226). -/
structure FifoEntry where
  val : Word
  prod : Option PassRef
  tidx : Nat
  pop : Option PassRef
  popTidx : Nat := 0
  deriving DecidableEq, Repr

/-- A pixel held by a WINDOW bank (R229). -/
structure Pixel where
  val : Word
  prod : Option PassRef
  tidx : Nat
  deriving DecidableEq, Repr

/-- What a bank is bound to (R223, R255). -/
inductive Binding
  | none
  | edge (e : Nat)
  | copy (id : Nat)
  deriving DecidableEq, Repr

/-- An SRAM bank: its mode and geometry word, the scratchpad bytes that are not zero by offset, the FIFO's entries, the
WINDOW's pixels, but for the first `dropped`, with the lowest row not freed and the windows retired above it (R29,
R222-R230, R234). -/
structure Bank where
  mode : BankMode
  geom : Nat
  owner : Nat
  bytes : List Host.Cell
  fifo : List FifoEntry
  pixels : List Pixel
  dropped : Nat
  freeRow : Nat
  retired : List Nat
  binding : List Binding
  deriving DecidableEq, Repr

/-- The stages of a matrix queue entry (R139, R144). -/
inductive EntryStage
  | queued
  | ran (fail : Option (Nat × Nat))
  deriving DecidableEq, Repr

/-- An entry of the matrix queue, with the core cycles its MMA has waited for leave (R139, R144). -/
structure MatrixEntry where
  ctx : Nat
  record : MatrixRec
  stage : EntryStage
  leaveWait : Nat
  leave : Bool
  deriving DecidableEq, Repr

/-- A line held in the CACHE banks; `byS` when an S load filled it (R236), `keep` when the policy .K did (R237). -/
structure L1Line where
  line : Nat
  bytes : List Byte
  byS : Bool
  keep : Bool
  deriving DecidableEq, Repr

/-- A core that belongs to a region (R23, R29, R30, R34): its banks, its matrix engine (the tiles' elements that are not
+0 by number, the B operand's rows, format code and depth in 32-row blocks), its L1 copies, its contended-line table, and
the number of chunks with deferred effects that have committed on it (R181). -/
structure CoreState where
  core : Nat
  banks : List Bank
  tiles : List (List (Nat × Word))
  bfmt : Nat
  bdepth : Nat
  brows : List (List Byte)
  queue : List MatrixEntry
  l1 : List L1Line
  contended : List Nat
  commits : Nat
  deriving DecidableEq, Repr

/-- A contribution to a collective (R155): its instruction, by block and index, the thread and its value. -/
structure Contribution where
  blk : Nat
  idx : Nat
  instr : Instr
  tidx : Nat
  val : Word
  deriving DecidableEq, Repr

/-- A barrier, with its group (R34, R320): `expected` none is AUTO. -/
structure Barrier where
  bound : Bool
  expected : Option Nat
  members : List Nat
  arrived : List Nat
  gen : Bool
  contribs : List Contribution
  deriving DecidableEq, Repr

/-- The states of a ring (R257). -/
inductive RingState
  | idle
  | active
  | finished
  | failed
  deriving DecidableEq, Repr

/-- A ring (R257). -/
structure Ring where
  state : RingState
  free : Nat
  slots : Nat
  tiles : Nat
  deriving DecidableEq, Repr

/-- A LINK edge's receive buffer at its consumer (R225, R274). -/
structure LinkBuf where
  edge : Nat
  cap : Nat
  entries : List FifoEntry
  deriving DecidableEq, Repr

/-- The age of a block (R265). -/
structure BlockAge where
  blk : Nat
  age : Nat
  everChosen : Bool
  deriving DecidableEq, Repr

/-- The system registers of a context (R37), but for TCAUSE, TINFO and TBLOCK, which are a thread's. -/
structure SysRegs where
  handler : Nat
  fill : Nat
  age : Nat
  plimit : Nat
  qlimit : Nat
  rltokens : Nat
  rlwindow : Nat
  hseed : Nat
  sidebase : Nat
  sidelen : Nat
  deriving DecidableEq, Repr

/-- One context on one core (R24, R34, R264): the marshal's state, the threads, the passes and what is to be applied. -/
structure Lane where
  core : Nat
  ctx : Nat
  barriers : List Barrier
  threads : List Thread
  passes : List Pass
  slots : List CfgSlot
  ages : List BlockAge
  pendingNext : Nat
  pendingPos : Nat
  pendingLeft : Nat
  deferred : List Deferred
  rings : List Ring
  links : List LinkBuf
  regs : SysRegs
  regWrites : List (Nat × Nat)
  quiet : Nat
  activeCycle : Bool
  rateCycles : Nat
  rateTokens : Nat
  nextPass : Nat
  stage : Nat
  frozen : Bool
  deriving DecidableEq, Repr

/-! ### Memory outside the cores -/

/-- The integrity state of a run of 128-byte blocks (R352-R354, R401): the key index, version and allotment under which it
was last written, whether its MAC can no longer be formed, and whether an error in it cannot be corrected. -/
structure Integrity where
  first : Nat
  count : Nat
  key : Nat
  version : Nat
  allot : Nat
  failing : Bool
  uncorrectable : Bool
  deriving DecidableEq, Repr

/-- A key index (R351): its version, its allotments so far, and the context that holds it. -/
structure KeyEntry where
  index : Nat
  version : Nat
  allot : Nat
  holder : Option Nat
  deriving DecidableEq, Repr

/-- A translation taken and not yet dropped by a shootdown (R346, R347). `group` marks the first leaf of a 2 MiB group held as one
entry for the group (R345); `page` is the first page that the entry serves. -/
structure TlbEntry where
  ctx : Nat
  page : Nat
  level : Nat
  entry : Nat
  group : Bool := false
  deriving DecidableEq, Repr

/-- A W and C broadcast under way, with the cores still to receive it (R163): lines with the mask of their bytes. -/
structure Broadcast where
  source : Option PassRef
  wlines : List (Nat × Nat)
  clines : List (Nat × Nat)
  cores : List Nat
  dies : List Nat
  deriving DecidableEq, Repr

/-- What makes an engine commit, a registration or a shootdown, and so asks for grants as a chunk does (R162, R187, R189,
R191, R242, R348): a copy, a migration, a port (0-15 couplers, 16-17 hosts) for the posted write it received first, a
shootdown, the retraining of a CXL port, or the module's own work for a context: `part` is the queue (0-15) whose packet's
signal, waybill or locks it serves, 16 for an object load, 17 for a snapshot or a save, 18 for the shootdown of a DESTROY. -/
inductive EngineOp
  | copy (id : Nat)
  | migration (id : Nat)
  | port (n : Nat)
  | shootdown (id : Nat)
  | retrain (port : Nat)
  | strip (ctx part : Nat)
  deriving DecidableEq, Repr

/-- What asks an arbiter for a grant (R41, R162). -/
inductive Requester
  | chunk (q : PassRef)
  | engine (o : EngineOp)
  deriving DecidableEq, Repr

/-- A die arbiter (R41, R162): the requests of chunks and engine commits in arrival order, and the grants out. -/
structure Arbiter where
  queue : List Requester
  granted : List Requester
  deriving DecidableEq, Repr

/-- A registered or waiting range lock (R187, R245, R246, R381). `lines` are line numbers of physical addresses as first
and count; `owner` is a copy, a migration or a measured packet. -/
inductive LockOwner
  | copy (id : Nat)
  | migration (id : Nat)
  | packet (ctx q index : Nat)
  deriving DecidableEq, Repr

/-- A range-lock entry's range: byte ranges of physical memory, source or destination (R245). -/
structure RangeLock where
  owner : LockOwner
  ctx : Nat
  source : Bool
  ranges : List (Nat × Nat)
  deriving DecidableEq, Repr

/-- The stages of a copy (R251). -/
inductive CopyStage
  | waitingLeave
  | waitingLock
  | moving
  | word
  | record
  deriving DecidableEq, Repr

/-- A copy handed over to a dray (R248-R257). `snap` are the cells of its locked source as they stood at its registration,
which are the bytes it reads (R247). -/
structure Copy where
  id : Nat
  ctx : Nat
  core : Nat
  tidx : Nat
  words : List Word
  info : Nat
  flag : Option Nat
  packet : Option (Nat × Nat)
  die : Nat
  dray : Nat
  stage : CopyStage
  leaveWait : Nat
  leave : Bool
  tile : Nat
  published : Nat
  cause : Nat
  faultAddr : Nat
  snap : List Host.Cell := []
  deriving DecidableEq, Repr

/-- A migration, requested or in flight (R242, R243). `parked` are the threads parked on it: core, thread, access kind,
virtual address; `lost` that the link of its page went down while it stood, so that it can only fail (R244). -/
structure Migration where
  id : Nat
  ctx : Nat
  va : Nat
  oldPa : Nat
  big : Bool
  dest : Option Nat
  locked : Bool
  parked : List (Nat × Nat × Nat × Nat)
  lost : Bool := false
  deriving DecidableEq, Repr

/-- Who started a shootdown, for the report of its completion (R348). -/
inductive ShootStarter
  | thread (core tidx : Nat) (flag : Option Nat)
  | register
  | migration (id : Nat)
  | destroy
  | linkLoss
  deriving DecidableEq, Repr

/-- A shootdown: requested, and broadcast once its grants are taken (R348). `mark` is the place of the table entry that the
part marks unreachable just before (R244, R346); `dropped` are the pages of the translations that its broadcast dropped, as first
page and number. -/
structure Shootdown where
  id : Nat
  ctx : Nat
  all : Bool
  page : Nat
  pages : Nat
  starter : ShootStarter
  broadcast : Bool
  mark : Option Nat := none
  dropped : List (Nat × Nat) := []
  deriving DecidableEq, Repr

/-- A CXL port (R238, R244, R402). `missed` are the marks still to be set once the port is up: of a pair (a, b) the leaves that map
the expander of port a and cannot be read while port b is down (R244). -/
structure CxlPort where
  up : Bool
  reported : Nat
  retrains : Nat
  missed : List (Nat × Nat) := []
  deriving DecidableEq, Repr

/-- A host or coupler port (R402, R403). -/
structure OuterPort where
  up : Bool
  retrains : Nat
  deriving DecidableEq, Repr

/-- The session link of a compute die with its base die (R357): its key, its two message counters, and the written lines that the
home keeps because their tags failed, each with its number of failures and whether it has failed since the last re-key. -/
structure SessionLink where
  keyGen : Nat
  counterRead : Nat
  counterWrite : Nat
  kept : List (Nat × Bool)
  deriving DecidableEq, Repr

/-- A posted host or peer write of one line waiting at its home (R191), or a read held there because a line of it was locked
(R247): `read` are then the function, the aperture or none for a peer, the offset or address, and the length of the read. `va`
is the virtual address of a write through an aperture, which is translated again when it is made (R349). A port's entries stand
in the order it received them. -/
structure PostedWrite where
  port : Nat
  ctx : Option Nat
  pa : Nat
  key : Nat
  bytes : List (Byte × Byte)
  va : Option Nat := none
  read : Option (Nat × Option Nat × Nat × Nat) := none
  deriving DecidableEq, Repr

/-! ### Contexts, queues and functions -/

/-- A queue's registers (R366). -/
structure Queue where
  qbase : Nat
  en : Bool
  log2sz : Nat
  qwptr : Nat
  qrptr : Nat
  err : Bool
  dberr : Bool
  cause : Nat
  index : Nat
  deriving DecidableEq, Repr

/-- The stages of an open packet (R369, R374, R386). -/
inductive PacketStage
  | taken
  | wantRegion
  | loading
  | running
  | copying
  | waiting
  | retired
  | closed
  | stopped
  | preempted
  deriving DecidableEq, Repr

/-- A measured packet's chain index, hashes, descriptor and locks (R381-R388). -/
structure Measured where
  n : Nat
  codeHash : List Byte
  argHash : List Byte
  resHash : List (List Byte)
  desc : List Word
  deriving DecidableEq, Repr

/-- What the marshals know of a block of an image before it is configured: its offset in 64-byte units, its rank, its
STORES and its WAIT mask (R44, R45, R266). -/
structure BlockInfo where
  blk : Nat
  rank : Nat
  stores : Nat
  wait : Nat
  deriving DecidableEq, Repr

/-- A stage of a graph (R273), or the one stage that a kernel makes: its core's offset, 32 x DY + DX, its thread count
as encoded, its name, and the number of its run of blocks among those of the image. -/
structure StageRec where
  offset : Nat
  nthr : Nat
  name : Nat
  run : Nat
  deriving DecidableEq, Repr

/-- A kernel record (R63) with its stages and the fields of its stream records (R274). -/
structure KernelRec where
  slots : Nat
  kind : Nat
  psize : Nat
  stages : List StageRec
  edges : List (List Nat)
  deriving DecidableEq, Repr

/-- A packet that has been taken and has not completed (R369-R389). `image` is the selected image section's offset and
size in its object, `native` its translation when it is a VPB section; `runs` are the blocks of each kernel or stage of the
image, the entry block first; `edges` the fields of each stream record; `sigLines` are the
lines of the device-memory signals of a barrier at its last reading, `pollable` says that another lies on a host page, and
`wake` and `poll` when it reads again (R379); `flaw` is the cause of the first copy or matrix entry of its threads that
failed (R388); `tinfo` the TINFO of a cause that the packet itself takes (R282); `old` the cells of its image as its acquire found
them, by physical address with the ranges they lie in (R380); `gated` says that its gates have opened (R374); `begun`
that it has begun, with the seed of the moment (R38); `reported` that its failure has put its queue into ERR (R368). -/
structure Packet where
  q : Nat
  index : Nat
  words : List Word
  stage : PacketStage
  cause : Option Nat
  handle : Nat
  objVa : Nat
  dataVa : Nat
  image : Nat × Nat
  native : Option (List Byte)
  mapBase : Nat
  mapCount : Nat
  slots : Nat
  psize : Nat
  stages : List StageRec
  runs : List (List BlockInfo)
  edges : List (List Nat)
  dims : Nat × Nat × Nat
  hseed : Nat
  measured : Option Measured
  sigLines : List Nat
  pollable : Bool
  wake : Bool
  poll : Nat
  flaw : Option Nat
  tinfo : Option Nat := none
  old : List (Nat × Nat) × List Host.Cell := ([], [])
  gated : Bool := false
  begun : Bool := false
  reported : Bool := false
  deriving DecidableEq, Repr

/-- A code object bound to a handle (R365): where it lies, the image section selected from it (R65), and what the load
checks read there. -/
structure BoundObject where
  handle : Nat
  objVa : Nat
  dataVa : Nat
  imageOff : Nat
  imageSize : Nat
  native : Option (List Byte)
  kernels : List KernelRec
  runs : List (List BlockInfo)
  hashEntry : List Byte
  mapBase : Nat
  mapCount : Nat
  deriving DecidableEq, Repr

/-- The register page of a context (R363). -/
structure CtxPage where
  objVa : Nat
  objData : Nat
  objBusy : Bool
  objFail : Bool
  objCause : Nat
  crBase : Nat
  crEn : Bool
  crLog2 : Nat
  crTail : Nat
  crHead : Nat
  crOvf : Nat
  diagBase : Nat
  invVa : Nat
  invBusy : Bool
  invDone : Nat
  mchain : List Byte
  mseq : Nat
  deriving DecidableEq, Repr

/-- A core's image in a held save (R412). -/
structure SavedCore where
  dx : Nat
  dy : Nat
  lane : Lane
  core : CoreState
  deriving DecidableEq, Repr

/-- A save held for a pre-empted packet (R412, R413): the images, and the bytes written into the save area. -/
structure Save where
  cores : List SavedCore
  h : Nat
  w : Nat
  areas : List (Nat × List Byte)
  deriving DecidableEq, Repr

/-- A context (R334, R336, R363). `func` is its function, 32 x port + function number; `preempt` marks it for hard
pre-emption (R409); `dying` is the cause of a context reset under way, and whether DESTROY follows it (R417). `visit` is the
queue that the front strip visits next (R369); `stall` the snapshot still to be written when its region has become quiescent
(R294); `lives` the values that the context has left in live-value slots (R34). -/
structure Context where
  num : Nat
  func : Nat
  domain : Nat
  pasid : Nat
  root : Nat
  nkey : Nat
  peers : Nat
  ranges : List Nat
  record : List Word
  keys : List Nat
  regs : SysRegs
  page : CtxPage
  queues : List Queue
  objects : List BoundObject
  objWaiting : Option (Bool × Nat)
  packets : List Packet
  nextChain : Nat
  spawnCounter : Nat
  save : Option Save
  frozen : Bool
  preempt : Bool
  dying : Option (Nat × Bool)
  visit : Nat := 0
  stall : Option (List Byte) := none
  lives : List Word := []
  deriving DecidableEq, Repr

/-- A request of the region queue (R339), with the Tarat control core's cycles it has waited (R409). -/
structure RegionReq where
  ctx : Nat
  h : Nat
  w : Nat
  waited : Nat
  resume : Bool
  deriving DecidableEq, Repr

/-- A region (R338, R406), with the cycles it has been held (R409). -/
structure Region where
  row : Nat
  col : Nat
  h : Nat
  w : Nat
  holder : Nat
  sharer : Option Nat
  heldCycles : Nat
  deriving DecidableEq, Repr

/-- A function's registers (R328). -/
structure Function where
  quota : Nat
  keyBase : Nat
  ranges : List Nat
  granted : Bool
  aps : List Nat
  hostfault : Nat
  ctxrec : List Word
  ctxstat : Nat
  fwstat : Nat
  fwwin : List Host.Cell
  deriving DecidableEq, Repr

/-- A partition of the module (R331, R332): OWNPORTS and, for each port, the first key index, the QUOTA word and ranges. -/
structure Partition where
  ownPorts : Nat
  keyBase : List Nat
  quota : List Nat
  ranges : List (List Nat)
  deriving DecidableEq, Repr

/-- The states of ownership (R359). -/
inductive OwnState
  | unowned
  | owned
  | pending
  deriving DecidableEq, Repr

/-- Firmware and ownership (R358-R361): keys as bytes, the hash of the next owner's key, fuses and images; `waiting` is the
port of an ownership change whose contexts are still being reset, `provision` says that the running image carries the
PROVISION attribute (R358). -/
structure Firmware where
  state : OwnState
  ownerKeys : List Byte
  nextHash : List Byte
  minSvn : Nat
  svn : Nat
  nonceCount : Nat
  nonce : List Byte
  staged : Option (List Byte)
  running : List Byte
  provision : Bool
  partition : Partition
  nextPartition : Option Partition
  waiting : Option Nat
  deriving DecidableEq, Repr

/-- The Tarat control core's registers (R405). -/
structure TaratRegs where
  quantum : Nat
  share : Bool
  relink : Bool
  linkRetry : Nat
  dieFail : List Nat
  deriving DecidableEq, Repr

/-- The fields of IDENT (R329): the part, its stepping (0 for A0) and the version of its architecture. -/
structure Identity where
  part : Nat
  step : Nat
  amaj : Nat
  amin : Nat
  deriving DecidableEq, Repr

/-- A command that waits for the Tarat control cores (R335, R360): a context command of a function, one that names none, or the
ownership command numbered `cmd` of a PF. -/
inductive Command
  | create
  | destroy (ctx : Nat)
  | grant
  | bad
  | own (cmd : Nat)
  deriving DecidableEq, Repr

/-- A waiting command of a function. -/
structure WaitingCommand where
  port : Nat
  fn : Nat
  cmd : Command
  deriving DecidableEq, Repr

/-- An I/O die (R21): the core cycles counted by its front strip and by its Tarat control core, and that core's registers. Die
`d` carries host port d, CXL ports 2d and 2d + 1, and coupler ports 8d to 8d + 7. -/
structure IoDie where
  stripCycles : Nat
  taratCycles : Nat
  tarat : TaratRegs
  deriving DecidableEq, Repr

/-- An error met by a read during one move (R357, R391): of read data of a line that fails its session link's tag, or of a host
or peer line whose completion is an error or does not come. -/
inductive Mishap
  | linkTag (line : Nat)
  | abort (line : Nat)
  | timeout (line : Nat)
  deriving DecidableEq, Repr

/-! ### The schedule -/

/-- One move of one agent: a firing of an instruction for a thread of a pass, an event of the opcode table, a firing or an event during
which a read meets an error, core cycles passing on one clock (core 0-1023; 1024 and 1025 the Tarat control core and the front
strip of I/O die 0, 1026 and 1027 those of I/O die 1), a host or peer changing its own memory, a peer posting a write to a
coupler port, an error that the check bits correct or do not, messages of up to four lines passing a session link, an expander
that keeps its contents no longer, the firmware writing a Tarat register, or a host reading a register of a function. -/
inductive Move
  | fire (core ctx pass tidx idx : Nat)
  | upsetFire (m : Mishap) (core ctx pass tidx idx : Nat)
  | event (i : Instr)
  | upset (m : Mishap) (i : Instr)
  | elapse (clock n : Nat)
  | outsideStore (pa : Nat) (bytes : List Byte)
  | post (port pa : Nat) (bytes : List Byte)
  | bitError (block : Nat)
  | corrected (stack : Nat)
  | messages (die : Nat) (write : Bool) (n : Nat)
  | expanderLoss (port : Nat)
  | taratWrite (die num v : Nat)
  | registerRead (port fn off : Nat)
  deriving DecidableEq, Repr

/-- The firing in progress. -/
structure Firing where
  core : Nat
  ctx : Nat
  pass : Nat
  tidx : Nat
  idx : Nat
  deriving DecidableEq, Repr

/-- An access that a context made to its host (R356): the port, the requester ID of its function, its PASID prefix when it has
one, whether it writes, the host range address and the length. -/
structure HostAccess where
  port : Nat
  requester : Nat
  pasid : Option Nat
  write : Bool
  pa : Nat
  len : Nat
  deriving DecidableEq, Repr

/-- Device memory that holds state of the part: the siding image of a spilled thread (R283), or a piece of a context's save area
(R413); `touched` says that anything but the part itself has accessed it since. The model's own bookkeeping (log 91). -/
structure Guard where
  ctx : Nat
  save : Bool
  pa : Nat
  len : Nat
  touched : Bool
  deriving DecidableEq, Repr

/-- What the last host or peer read returned; `held` while it waits at a locked line (R247). -/
inductive Response
  | none
  | data (bytes : List Byte)
  | abort
  | held
  deriving DecidableEq, Repr

/-- The whole machine. `corrected` counts the corrected errors of each stack, 0-15, and of each CXL port, from 16 (R354); `mishap`
stands during a move that meets an error; `hostSent` is the last access that left a host port; `commands` wait
for the Tarat control cores in the order of their arrival (R335). -/
structure State where
  moves : List Move
  freeCtr : Nat
  cur : Firing
  resp : Response
  mem : List Host.Cell
  integrity : List Integrity
  keys : List KeyEntry
  tlb : List TlbEntry
  cores : List CoreState
  lanes : List Lane
  arbiters : List Arbiter
  broadcasts : List Broadcast
  byteTracked : List Nat
  soloQueue : List PassRef
  soloHolder : Option PassRef
  regionQueue : List RegionReq
  regions : List Region
  locks : List RangeLock
  waitingLocks : List RangeLock
  reserved : List (Nat × Nat × Nat)
  copies : List Copy
  nextCopy : Nat
  migrations : List Migration
  nextMigration : Nat
  shootdowns : List Shootdown
  nextShootdown : Nat
  cxl : List CxlPort
  hosts : List OuterPort
  couplers : List OuterPort
  sessions : List SessionLink
  posted : List PostedWrite
  guards : List Guard
  corrected : List Nat
  mishap : Option Mishap
  hostSent : Option HostAccess
  io : List IoDie
  contexts : List Context
  functions : List Function
  commands : List WaitingCommand
  identity : Identity
  firmware : Firmware
  deriving DecidableEq, Repr

/-! ### Reset -/

/-- The state of a context's system registers after context reset (R37). -/
def SysRegs.reset : SysRegs :=
  { handler := 0, fill := 64, age := 4096, plimit := 256, qlimit := 20, rltokens := 0, rlwindow := 1024
    hseed := 0, sidebase := 0, sidelen := 0 }

/-- A range word (R330): in use, of `len` 64 KiB units from unit `base`. -/
def rangeWord (base len : Nat) : Nat := 2 ^ 63 + (len - 1) * 2 ^ 36 + base

/-- The ranges of the PF of port `p` under the default partition (R331): the 60 GiB windows of stacks 8p to 8p + 7, the
4 TiB windows of CXL ports 2p and 2p + 1, and six unused entries. -/
def defaultRanges (p : Nat) : List Nat :=
  (List.range 8).map (fun k => rangeWord ((8 * p + k) * 2 ^ 20) (60 * 2 ^ 14)) ++
  (List.range 2).map (fun k => rangeWord (2 ^ 28 + (2 * p + k) * 2 ^ 26) (2 ^ 26)) ++
  List.replicate 6 0

/-- The QUOTA word of the PF of port `p` under the default partition (R328, R331). -/
def defaultQuota (p : Nat) : Nat := 0xFF * 2 ^ (8 * p) * 2 ^ 24 + 127 * 2 ^ 16 + 32

/-- The default partition (R331, R332). -/
def Partition.default : Partition :=
  { ownPorts := 3, keyBase := [1, 128], quota := [defaultQuota 0, defaultQuota 1]
    ranges := [defaultRanges 0, defaultRanges 1] }

/-- A function's registers at module reset (R328): a PF holds its port's part of the partition, a VF nothing (R333). -/
def Function.reset (p : Partition) (fn : Nat) : Function :=
  { quota := if fn % 32 = 0 then p.quota.getD (fn / 32) 0 else 0
    keyBase := if fn % 32 = 0 then p.keyBase.getD (fn / 32) 0 else 0
    ranges := if fn % 32 = 0 then p.ranges.getD (fn / 32) [] else List.replicate 16 0
    granted := false, aps := List.replicate 4 0, hostfault := 0, ctxrec := List.replicate 16 0, ctxstat := 0
    fwstat := 0, fwwin := [] }

/-- The Tarat registers at module reset (R405). -/
def TaratRegs.reset : TaratRegs :=
  { quantum := 26, share := true, relink := true, linkRetry := 3, dieFail := [] }

/-- The bytes behind a CXL port as reported at reset: DESIGN CHOICE (log 6), so that the whole 4 TiB window is usable. -/
def cxlReported : Nat := 2 ^ 42 / 15 * 16 + 32

/-- Firmware and ownership at reset. UNOWNED, SVN 0, no image and a nonce of zeros are DESIGN CHOICE (log 7): the spec says
only that they are loaded. -/
def Firmware.reset : Firmware :=
  { state := .unowned, ownerKeys := [], nextHash := [], minSvn := 0, svn := 0, nonceCount := 0
    nonce := List.replicate 48 0, staged := none, running := [], provision := true, partition := Partition.default
    nextPartition := none, waiting := none }

/-- The machine right after module reset: no context, no region, every link up, memory with nothing listed (R12, R328,
R331, R353, R405). -/
def State.reset : State :=
  { moves := [], freeCtr := 0, cur := { core := 0, ctx := 0, pass := 0, tidx := 0, idx := 0 }, resp := .none
    mem := [], integrity := [], keys := [], tlb := [], cores := [], lanes := []
    arbiters := List.replicate 16 { queue := [], granted := [] }
    broadcasts := [], byteTracked := [], soloQueue := [], soloHolder := none
    regionQueue := [], regions := [], locks := [], waitingLocks := [], reserved := []
    copies := [], nextCopy := 0, migrations := [], nextMigration := 0, shootdowns := [], nextShootdown := 0
    cxl := List.replicate 4 { up := true, reported := cxlReported, retrains := 0 }
    hosts := List.replicate 2 { up := true, retrains := 0 }
    couplers := List.replicate 16 { up := true, retrains := 0 }
    sessions := List.replicate 16 { keyGen := 0, counterRead := 0, counterWrite := 0, kept := [] }
    posted := [], guards := [], corrected := List.replicate 20 0, mishap := none, hostSent := none
    io := List.replicate 2 { stripCycles := 0, taratCycles := 0, tarat := TaratRegs.reset }, contexts := []
    functions := (List.range 64).map (Function.reset Partition.default), commands := []
    identity := { part := 0x1680, step := 0, amaj := 1, amin := 0 }
    firmware := Firmware.reset }

end Sys2Proof.Machine
end

