-- ==== Sys2Proof/Machine/Ops.lean ====
section
/-! DEFINITION. The named operations over memory and over the parts of the state, the squash of chunks, the failure of a
packet, and taking a trap and returning from it. -/

namespace Sys2Proof.Machine

/-! ### Bytes (R6) -/

/-- A little-endian number. -/
def leNat : List Byte → Nat
  | [] => 0
  | b :: bs => b.toNat + 256 * leNat bs

/-- The `n` bytes of a number, least significant first. -/
def leBytes : Nat → Nat → List Byte
  | 0, _ => []
  | n + 1, v => BitVec.ofNat 8 v :: leBytes n (v / 256)

/-- The words of a byte string, eight bytes each. -/
def leWords : Nat → List Byte → List Word
  | 0, _ => []
  | n + 1, bs => BitVec.ofNat 64 (leNat (bs.take 8)) :: leWords n (bs.drop 8)

/-! ### Memory as a list of cells

An address that is not listed reads as 0 (log 5). The list rises strictly and lists no 0. -/

/-- The byte at an address. -/
def Memory.read : List Host.Cell → Nat → Byte
  | [], _ => 0
  | c :: m, a => if c.1 = a then c.2 else Memory.read m a

/-- The memory with one byte written; writing 0 removes the entry. -/
def Memory.write : List Host.Cell → Nat → Byte → List Host.Cell
  | [], a, b => if b = 0 then [] else [(a, b)]
  | c :: m, a, b =>
    if c.1 < a then c :: Memory.write m a b
    else if c.1 = a then (if b = 0 then m else (a, b) :: m)
    else if b = 0 then c :: m else (a, b) :: c :: m

/-- Whether every listed address is above `lo`, they rise strictly, and no 0 is listed. -/
def Memory.wfFrom : Option Nat → List Host.Cell → Bool
  | _, [] => true
  | lo, c :: m =>
    (match lo with
     | none => true
     | some l => decide (l < c.1)) && decide (c.2 ≠ 0) && Memory.wfFrom (some c.1) m

/-- The canonical form. -/
def Memory.wf (m : List Host.Cell) : Bool := Memory.wfFrom none m

/-- `n` bytes from an address. -/
def Memory.readBytes (m : List Host.Cell) (a : Nat) : Nat → List Byte
  | 0 => []
  | n + 1 => Memory.read m a :: Memory.readBytes m (a + 1) n

/-- The memory with bytes written from an address. -/
def Memory.writeBytes (m : List Host.Cell) (a : Nat) : List Byte → List Host.Cell
  | [] => m
  | b :: bs => Memory.writeBytes (Memory.write m a b) (a + 1) bs

/-- The memory with `n` bytes from an address set to 0. -/
def Memory.clear (m : List Host.Cell) (a n : Nat) : List Host.Cell :=
  m.filter (fun c => decide (c.1 < a) || decide (a + n ≤ c.1))

/-- A byte with the bits of a mask replaced. -/
def mergeByte (old new mask : Byte) : Byte := (old &&& ~~~mask) ||| (new &&& mask)

/-- The memory with bytes written under their masks from an address. -/
def writeMasked (m : List Host.Cell) (a : Nat) : List (Byte × Byte) → List Host.Cell
  | [] => m
  | b :: bs => writeMasked (Memory.write m a (mergeByte (Memory.read m a) b.1 b.2)) (a + 1) bs

/-- The cells of memory that lie in byte ranges. -/
def cellsIn (rs : List (Nat × Nat)) (m : List Host.Cell) : List Host.Cell :=
  m.filter (fun c => rs.any (fun r => decide (r.1 ≤ c.1) && decide (c.1 < r.1 + r.2)))

/-- Memory with byte ranges holding the cells given and nothing else. -/
def withCells (rs : List (Nat × Nat)) (cells m : List Host.Cell) : List Host.Cell :=
  cells.foldl (fun m x => Memory.write m x.1 x.2) (rs.foldl (fun m r => Memory.clear m r.1 r.2) m)

/-! ### Finding and changing the parts of the state -/

/-- A lane: one context on one core. -/
def State.lane? (s : State) (core ctx : Nat) : Option Lane :=
  s.lanes.find? (fun l => l.core = core && l.ctx = ctx)

/-- The state with a lane changed. -/
def State.updLane (s : State) (core ctx : Nat) (f : Lane → Lane) : State :=
  { s with lanes := s.lanes.map (fun l => if l.core = core && l.ctx = ctx then f l else l) }

/-- The state with every lane of a context changed. -/
def State.updLanes (s : State) (ctx : Nat) (f : Lane → Lane) : State :=
  { s with lanes := s.lanes.map (fun l => if l.ctx = ctx then f l else l) }

/-- A copy. -/
def State.copy? (s : State) (id : Nat) : Option Copy := s.copies.find? (fun c => c.id = id)

/-- A core of a region. -/
def State.core? (s : State) (core : Nat) : Option CoreState := s.cores.find? (fun c => c.core = core)

/-- The state with a core changed. -/
def State.updCore (s : State) (core : Nat) (f : CoreState → CoreState) : State :=
  { s with cores := s.cores.map (fun c => if c.core = core then f c else c) }

/-- A live context. -/
def State.ctx? (s : State) (ctx : Nat) : Option Context := s.contexts.find? (fun c => c.num = ctx)

/-- The state with a context changed. -/
def State.updCtx (s : State) (ctx : Nat) (f : Context → Context) : State :=
  { s with contexts := s.contexts.map (fun c => if c.num = ctx then f c else c) }

/-- A core's marshal or units were active for a context in this core cycle (R292). -/
def State.active (s : State) (core ctx : Nat) : State := s.updLane core ctx (fun l => { l with activeCycle := true })

/-- A pass of a lane. -/
def Lane.pass? (l : Lane) (id : Nat) : Option Pass := l.passes.find? (fun p => p.id = id)

/-- The lane with a pass changed. -/
def Lane.updPass (l : Lane) (id : Nat) (f : Pass → Pass) : Lane :=
  { l with passes := l.passes.map (fun p => if p.id = id then f p else p) }

/-- A thread of a lane. -/
def Lane.thread? (l : Lane) (tidx : Nat) : Option Thread := l.threads.find? (fun t => t.tidx = tidx)

/-- The lane with a thread changed. -/
def Lane.updThread (l : Lane) (tidx : Nat) (f : Thread → Thread) : Lane :=
  { l with threads := l.threads.map (fun t => if t.tidx = tidx then f t else t) }

/-- A thread's run in a pass. -/
def Pass.run? (p : Pass) (tidx : Nat) : Option Run := p.runs.find? (fun r => r.tidx = tidx)

/-- The pass with a run changed. -/
def Pass.updRun (p : Pass) (tidx : Nat) (f : Run → Run) : Pass :=
  { p with runs := p.runs.map (fun r => if r.tidx = tidx then f r else r) }

/-- The state with a pass changed. -/
def State.updPass (s : State) (core ctx pass : Nat) (f : Pass → Pass) : State :=
  s.updLane core ctx (fun l => l.updPass pass f)

/-- The state with the run of a firing changed. -/
def State.updRun (s : State) (x : Firing) (f : Run → Run) : State :=
  s.updPass x.core x.ctx x.pass (fun p => p.updRun x.tidx f)

/-- The state of one instruction for a thread; it starts unfired, a CARRY in mode init (R311). -/
def Run.idx (r : Run) (k : Nat) : IdxState :=
  match r.idxs.find? (fun i => i.idx = k) with
  | some i => i
  | none => { idx := k, consumed := 0, fired := 0, looping := false, hold := none, deps := [] }

/-- The run with the state of one instruction changed. -/
def Run.updIdx (r : Run) (k : Nat) (f : IdxState → IdxState) : Run :=
  { r with idxs := f (r.idx k) :: r.idxs.filter (fun i => i.idx ≠ k) }

/-- An element of a list replaced. -/
def listSet (l : List α) (k : Nat) (f : α → α) : List α :=
  l.mapIdx (fun i x => if i = k then f x else x)

/-- The core with a bank changed. -/
def CoreState.updBank (c : CoreState) (b : Nat) (f : Bank → Bank) : CoreState := { c with banks := listSet c.banks b f }

/-- The context with a queue changed. -/
def Context.updQueue (c : Context) (q : Nat) (f : Queue → Queue) : Context := { c with queues := listSet c.queues q f }

/-- The context with a packet changed. -/
def Context.updPacket (c : Context) (q i : Nat) (f : Packet → Packet) : Context :=
  { c with packets := c.packets.map (fun p => if p.q = q && p.index = i then f p else p) }

/-- The context with its register page changed. -/
def Context.updPage (c : Context) (f : CtxPage → CtxPage) : Context := { c with page := f c.page }

/-- A free choice among `n` outcomes, and the state that has made it. -/
def State.choose (s : State) (n : Nat) : Nat × State :=
  (Config.freeChoice s.freeCtr % n, { s with freeCtr := s.freeCtr + 1 })

/-- A free word, and the state that has used it. -/
def State.freshWord (s : State) : Word × State := (Config.freeWord s.freeCtr, { s with freeCtr := s.freeCtr + 1 })

/-- An unspecified live value (R34): zero, or a value that the context itself has left in a live-value slot; which is free. -/
def liveWord (pool : List Word) (ctr : Nat) : Word := (0 :: pool).getD (Config.freeChoice ctr % (pool.length + 1)) 0

/-- `n` unspecified live values. -/
def liveWords (pool : List Word) (ctr n : Nat) : List Word := (List.range n).map (fun i => liveWord pool (ctr + i))

/-- A guard after an access of bytes [pa, pa + n). -/
def Guard.touch (pa n : Nat) (g : Guard) : Guard :=
  if decide (g.pa < pa + n) && decide (pa < g.pa + g.len) then { g with touched := true } else g

/-- Bytes of device memory accessed by software, a host or a peer (R283, R413). -/
def State.touchPhys (s : State) (pa n : Nat) : State := { s with guards := s.guards.map (Guard.touch pa n) }

/-- Device memory that the part has filled with its own state, from now on guarded. -/
def State.watch (s : State) (g : Guard) : State :=
  { s with guards := g :: s.guards.filter (fun x => !(x.ctx = g.ctx && x.save = g.save && x.pa = g.pa)) }

/-- Whether a spilled thread's image has been accessed since it was written (R283). -/
def State.imageTouched (s : State) (ctx pa : Nat) : Bool :=
  s.guards.any (fun g => g.ctx = ctx && !g.save && g.pa = pa && g.touched)

/-- Whether the save area of a context has been accessed since its save was written (R413). -/
def State.saveTouched (s : State) (ctx : Nat) : Bool := s.guards.any (fun g => g.ctx = ctx && g.save && g.touched)

/-- The guards of a context's save area, or of an image of its siding, gone. -/
def State.unwatch (s : State) (ctx : Nat) (save : Bool) (pa : Option Nat) : State :=
  { s with guards := s.guards.filter (fun g => !(g.ctx = ctx && g.save = save && pa.all (· = g.pa))) }

/-- The values that a context has left in live-value slots. -/
def State.livePool (s : State) (ctx : Nat) : List Word :=
  match s.ctx? ctx with
  | some c => c.lives
  | none => []

/-- Whether an address lies in the siding of a context that has threads, which software must not access (R282, R283). -/
def State.inSiding (s : State) (ctx va : Nat) : Bool :=
  s.lanes.any (fun l => l.ctx = ctx && decide (l.regs.sidebase ≤ va) && decide (va < l.regs.sidebase + l.regs.sidelen * 65536)) &&
  s.lanes.any (fun l => l.ctx = ctx && !l.threads.isEmpty)

/-- Bytes that a context reads: where they are free, as those of its siding, they are of unspecified values of R34 (R283). -/
def State.unspecified (s : State) (free : Bool) (ctx : Nat) (bs : List Byte) : List Byte × State :=
  let n := (bs.length + 7) / 8
  if free then
    (((liveWords (s.livePool ctx) s.freeCtr n).flatMap (fun w => leBytes 8 w.toNat)).take bs.length, { s with freeCtr := s.freeCtr + n })
  else (bs, s)

/-- A context has left values in live-value slots. -/
def State.noteLives (s : State) (ctx : Nat) (ws : List Word) : State :=
  s.updCtx ctx (fun c => { c with lives := c.lives ++ ws.filter (fun w => !c.lives.contains w) })

/-- The registers of the Tarat control core of an I/O die (R405). -/
def State.taratAt (s : State) (die : Nat) : TaratRegs :=
  match s.io[die]? with
  | some d => d.tarat
  | none => TaratRegs.reset

/-- The registers of the Tarat control core that serves the region queue, that of I/O die 0 (log 76). -/
def State.tarat (s : State) : TaratRegs := s.taratAt 0

/-- The state with an I/O die changed. -/
def State.updIo (s : State) (die : Nat) (f : IoDie → IoDie) : State := { s with io := listSet s.io die f }

/-- The TYPE of a packet (R371). -/
def Packet.type (p : Packet) : Nat := (p.words.getD 0 0).toNat % 256

/-- The LAUNCH or GRAPH packet of a context that holds its region or waits for it (R369). -/
def Context.kernelPacket? (c : Context) : Option Packet :=
  c.packets.find? (fun p => (p.type = 1 || p.type = 2) &&
    (p.stage = .wantRegion || p.stage = .loading || p.stage = .running || p.stage = .preempted || p.stage = .stopped))

/-- The configured block of a pass. -/
def Lane.block? (l : Lane) (p : Pass) : Option Block := (l.slots[p.slot]?).bind (fun c => c.block)

/-- The instruction at an index of a configured block. -/
def Block.instr? (b : Block) (k : Nat) : Option Instr :=
  match b.words[k]? with
  | none => none
  | some w =>
    match decodeWord w.1 w.2 with
    | .ok i => some i
    | .error _ => none

/-- Every instruction of a block with its index. -/
def Block.instrs (b : Block) : List (Nat × Instr) :=
  (List.range b.words.length).filterMap (fun k => (b.instr? k).map (fun i => (k, i)))

/-- Header fields (R44, R45). -/
def Block.hword (b : Block) (k : Nat) : Nat := b.header.getD k 0
/-- RANK. -/
def Block.rank (b : Block) : Nat := field (b.hword 0) 33 16
/-- XCOUNT. -/
def Block.xcount (b : Block) : Nat := field (b.hword 0) 49 4
/-- STORES. -/
def Block.stores (b : Block) : Nat := field (b.hword 0) 9 10
/-- OCC, the loop occupancy - 1. -/
def Block.occ (b : Block) : Nat := field (b.hword 0) 6 3
/-- WAIT. -/
def Block.wait (b : Block) : BitVec 12 := BitVec.ofNat 12 (field (b.hword 1) 52 12)

/-- The exit target XN of a header, in 64-byte units from this block (R45, R46). -/
def exitOffset (header : List Nat) (xn : Nat) : Int :=
  let raw := match xn with
    | 0 => field (header.getD 1 0) 20 20
    | 1 => field (header.getD 1 0) 0 20
    | 2 => field (header.getD 2 0) 40 20
    | 3 => field (header.getD 2 0) 20 20
    | 4 => field (header.getD 2 0) 0 20
    | 5 => field (header.getD 3 0) 40 20
    | 6 => field (header.getD 3 0) 20 20
    | _ => field (header.getD 3 0) 0 20
  (BitVec.ofNat 20 raw).toInt

/-- The block of exit XN, by its offset in its image section. -/
def Block.exitBlock (b : Block) (xn : Nat) : Nat := ((b.blk : Int) + exitOffset b.header xn).toNat

/-! ### Causes (R390-R392) -/

/-- Access kinds (R391): load, store, RMW, fetch. -/
inductive AccKind
  | load | store | rmw | fetch
  deriving DecidableEq, Repr

/-- KIND. -/
def AccKind.code : AccKind → Nat
  | .load => 0
  | .store => 1
  | .rmw => 2
  | .fetch => 3

/-- A MEMORY-class cause. -/
def memCause (k : AccKind) (reason : Nat) : Nat := 0x080 + k.code * 16 + reason

/-- An INTEGRITY-class cause: 0 MAC, 1 VERSION, 2 LINK_TAG, 3 SAVE_IMAGE. -/
def intCause (k : AccKind) (detail : Nat) : Nat := 0x1C0 + k.code * 16 + detail

/-- The reasons of R391. -/
def reasonIsolation : Nat := 0
/-- permission. -/
def reasonPermission : Nat := 1
/-- not-present. -/
def reasonNotPresent : Nat := 2
/-- misaligned. -/
def reasonMisaligned : Nat := 3
/-- out-of-bounds. -/
def reasonBounds : Nat := 4
/-- range-locked. -/
def reasonLocked : Nat := 5
/-- uncorrectable. -/
def reasonUncorrectable : Nat := 6
/-- link-lost. -/
def reasonLinkLost : Nat := 7
/-- completer-abort. -/
def reasonAbort : Nat := 8
/-- completion-timeout. -/
def reasonTimeout : Nat := 9

/-- CONFIG-class causes raised at run time (R392). -/
def cOperandOverflow : Nat := 0x054
/-- MULTI_EXIT. -/
def cMultiExit : Nat := 0x055
/-- MULTI_WRITE. -/
def cMultiWrite : Nat := 0x056
/-- STORE_OVERRUN. -/
def cStoreOverrun : Nat := 0x057
/-- LIVE_SLOT. -/
def cLiveSlot : Nat := 0x058
/-- GROUP_STATE. -/
def cGroupState : Nat := 0x059
/-- RETURN_TARGET. -/
def cReturnTarget : Nat := 0x05A
/-- NOT_IN_HANDLER. -/
def cNotInHandler : Nat := 0x05B
/-- NO_EXIT. -/
def cNoExit : Nat := 0x05C
/-- PROGRESS-class causes (R392): QUIESCENT_STALL. -/
def cQuiescentStall : Nat := 0x0C0
/-- LVS_EXHAUSTED. -/
def cLvsExhausted : Nat := 0x0C1
/-- TIDX_EXHAUSTED. -/
def cTidxExhausted : Nat := 0x0C2
/-- BARRIER_EXHAUSTED. -/
def cBarrierExhausted : Nat := 0x0C3
/-- SAVE_FAULT. -/
def cSaveFault : Nat := 0x0C4
/-- ENGINE-class causes (R392): MATRIX_NOT_OWNED. -/
def cMatrixNotOwned : Nat := 0x100
/-- FLAG_OVERFLOW. -/
def cFlagOverflow : Nat := 0x101
/-- MATRIX_PARAM. -/
def cMatrixParam : Nat := 0x102
/-- MATRIX_SHAPE. -/
def cMatrixShape : Nat := 0x103
/-- BANK_PARAM. -/
def cBankParam : Nat := 0x104
/-- GATHER_TICKET. -/
def cGatherTicket : Nat := 0x105
/-- COPY_PARAM. -/
def cCopyParam : Nat := 0x106
/-- RING_BUSY. -/
def cRingBusy : Nat := 0x107
/-- COPY_STOPPED. -/
def cCopyStopped : Nat := 0x108
/-- INV_PARAM. -/
def cInvParam : Nat := 0x109
/-- SYSTEM-class causes (R392): PACKET_FORMAT. -/
def cPacketFormat : Nat := 0x180
/-- BARRIER_ABORT. -/
def cBarrierAbort : Nat := 0x181
/-- CONTEXT_RESET. -/
def cContextReset : Nat := 0x182
/-- BREAKPOINT. -/
def cBreakpoint : Nat := 0x183
/-- DIE_FAILED. -/
def cDieFailed : Nat := 0x184

/-- The rank of a cause (R394): classes and, within MEMORY, reasons. -/
def causeRank (c : Nat) : Nat :=
  match c / 64 with
  | 7 => 1
  | 2 =>
    (match c % 16 with
     | 0 => 2 | 1 => 3 | 2 => 4 | 3 => 5 | 4 => 6 | 5 => 7 | 6 => 8 | 7 => 9 | 8 => 10 | _ => 11)
  | 0 => 12
  | 4 => 13
  | 1 => 14
  | 6 => 15
  | _ => 16

/-- Whether one recorded cause is reported before another (R394). -/
def CauseRec.before (x y : CauseRec) : Bool :=
  decide (causeRank x.cause < causeRank y.cause) ||
  (decide (causeRank x.cause = causeRank y.cause) &&
    (decide (x.idx < y.idx) || (decide (x.idx = y.idx) && decide (x.gen < y.gen))))

/-- The cause a thread reports (R394). -/
def reported : List CauseRec → Option CauseRec
  | [] => none
  | x :: xs =>
    match reported xs with
    | none => some x
    | some y => if y.before x then some y else some x

/-- The run with a cause recorded against its thread (R393). -/
def Run.record (r : Run) (idx gen cause : Nat) (info : Option Nat) : Run :=
  { r with causes := { idx := idx, gen := gen, cause := cause, info := info.map (· % 2 ^ 57) } :: r.causes }

/-! ### Physical memory (R238-R239) -/

/-- What a physical address is (R238). -/
inductive PhysKind
  | fast (stack : Nat)
  | capacity (port : Nat)
  | host (port : Nat)
  | peer (q : Nat)
  | reserved
  deriving DecidableEq, Repr

/-- The row of R238 that holds an address. -/
def physKind (pa : Nat) : PhysKind :=
  if pa < 2 ^ 40 then (if pa % 2 ^ 36 < 60 * 2 ^ 30 then .fast (pa / 2 ^ 36) else .reserved)
  else if pa < 2 ^ 44 then .reserved
  else if pa < 2 ^ 44 + 2 ^ 44 then .capacity ((pa - 2 ^ 44) / 2 ^ 42)
  else if pa < 2 ^ 48 then .reserved
  else if pa < 2 ^ 49 then .host 0
  else if 2 ^ 49 ≤ pa && pa < 2 ^ 49 + 2 ^ 48 then .host 1
  else if 2 ^ 50 ≤ pa && pa < 2 ^ 50 + 2 ^ 50 then .peer ((pa - 2 ^ 50) / 2 ^ 46)
  else .reserved

/-- The usable size of a CXL port's window (R238). -/
def CxlPort.usable (p : CxlPort) : Nat := min (p.reported * 15 / 16 / 65536 * 65536) (2 ^ 42)

/-- Whether an address is device memory that exists (R238). -/
def State.devicePresent (s : State) (pa : Nat) : Bool :=
  match physKind pa with
  | .fast _ => true
  | .capacity p =>
    (match s.cxl[p]? with
     | some x => decide ((pa - 2 ^ 44) % 2 ^ 42 < x.usable)
     | none => false)
  | _ => false

/-- Whether the link behind an address is up. -/
def State.linkUp (s : State) (pa : Nat) : Bool :=
  match physKind pa with
  | .capacity p => (match s.cxl[p]? with | some x => x.up | none => false)
  | .host p => (match s.hosts[p]? with | some x => x.up | none => false)
  | .peer q => (match s.couplers[q]? with | some x => x.up | none => false)
  | _ => true

/-- The die whose arbiter grants commits of an address's line (R239). -/
def homeDie (pa : Nat) : Nat := if pa < 2 ^ 40 then pa / 2 ^ 36 else pa / 2 ^ 16 % 16

/-- The key of a line (R160): a device line's number, or a scratchpad line's with its core. -/
def lineKey (core : Nat) (space : Space) (addr : Nat) : Nat :=
  match space with
  | .device => addr / 64
  | .scratch => 2 ^ 50 + core * 2 ^ 14 + addr / 64

/-- The die of a core (R20). -/
def dieOf (core : Nat) : Nat := core / 32 / 8 * 4 + core % 32 / 8

/-- The voltage/frequency island of a core, 0-63 (R20). -/
def islandOf (core : Nat) : Nat := dieOf core * 4 + core / 32 % 8 / 2

/-! ### Integrity (R351-R355, R401) -/

/-- The integrity record of a 128-byte block, the newest first; none when it was never written since module reset. -/
def State.integrity? (s : State) (blk : Nat) : Option Integrity :=
  s.integrity.find? (fun r => r.first ≤ blk && blk < r.first + r.count)

/-- A key index's entry (R351). -/
def State.key? (s : State) (k : Nat) : Option KeyEntry := s.keys.find? (fun e => e.index = k)

/-- Whether a block's check succeeds under a key index: none, or the detail of the failure. A block marked failing reports MAC
to every reader (R352, R401); else the version is checked first and then the MAC (R353). -/
def State.blockFault (s : State) (blk key : Nat) : Option Nat :=
  match s.integrity? blk, s.key? key with
  | none, _ => some 1
  | some r, none => some (if r.failing then 0 else 1)
  | some r, some e =>
    if r.failing then some 0
    else if r.version ≠ e.version then some 1
    else if r.key ≠ key || r.allot ≠ e.allot then some 0
    else none

/-- Whether the read data of a fast-tier line fails the tag of its session link during this move (R357). -/
def State.tagFails (s : State) (pa : Nat) : Bool :=
  match s.mishap with
  | some (.linkTag line) => decide (pa / 64 = line) && decide (pa < 2 ^ 40)
  | _ => false

/-- The cause with which a read of a device block under a key index fails (R353, R354, R357, R400). -/
def State.readFault (s : State) (pa key : Nat) (k : AccKind) : Option Nat :=
  match s.blockFault (pa / 128) key with
  | some d => some (intCause k d)
  | none =>
    if s.tagFails pa then some (intCause k 2)
    else
      match s.integrity? (pa / 128) with
      | some r => if r.uncorrectable then some (memCause k reasonUncorrectable) else none
      | none => none

/-- The cause with which a read of a host or peer line fails during this move (R391). -/
def State.outerFault (s : State) (pa : Nat) (k : AccKind) : Option Nat :=
  match s.mishap with
  | some (.abort line) => if pa / 64 = line then some (memCause k reasonAbort) else none
  | some (.timeout line) => if pa / 64 = line && s.linkUp pa then some (memCause k reasonTimeout) else none
  | _ => none

/-- One byte of a commit to device memory: its address, its value and the key index of its writer's translation. -/
structure DevByte where
  pa : Nat
  val : Byte
  key : Nat
  deriving DecidableEq, Repr

/-- The record of a block after a commit's bytes in it (R352, R353, R401): whole blocks under one key index are sound;
a partial write keeps a sound block of its own key index sound, and leaves every other failing. -/
def State.sealBlock (s : State) (blk : Nat) (ws : List DevByte) : State :=
  match ws with
  | [] => s
  | w :: _ =>
    let e := match s.key? w.key with
      | some e => e
      | none => { index := w.key, version := 0, allot := 0, holder := none }
    let one := ws.all (fun x => x.key = w.key)
    let whole := (List.range 128).all (fun i => ws.any (fun x => x.pa % 128 = i))
    let sound := (s.readFault (blk * 128) w.key .load).isNone
    let failing := !(one && (whole || sound))
    let r : Integrity :=
      { first := blk, count := 1, key := w.key, version := e.version, allot := e.allot
        failing := failing, uncorrectable := false }
    { s with integrity := r :: s.integrity.filter (fun x => !(x.first = blk && x.count = 1)) }

/-- The blocks that a commit's bytes touch, each once. -/
def blocksOf (ws : List DevByte) : List Nat := (ws.map (fun w => w.pa / 128)).dedup

/-- A commit's bytes written to device memory, with the integrity state of every block they touch. -/
def State.commitBytes (s : State) (ws : List DevByte) : State :=
  let s := (blocksOf ws).foldl (fun s b => s.sealBlock b (ws.filter (fun w => w.pa / 128 = b))) s
  { s with mem := ws.foldl (fun m w => Memory.write m w.pa w.val) s.mem }

/-- Bytes at successive addresses under one key index. -/
def devBytes (pa key : Nat) (bytes : List Byte) : List DevByte :=
  bytes.mapIdx (fun i b => { pa := pa + i, val := b, key := key })

/-- The committed byte at a physical address. -/
def State.byteAt (s : State) (pa : Nat) : Byte := Memory.read s.mem pa

/-- Committed bytes from a physical address. -/
def State.bytesAt (s : State) (pa n : Nat) : List Byte := Memory.readBytes s.mem pa n

/-! ### The lines of a chunk (R160) -/

/-- The bytes of its line that an access touches, as a mask. -/
def Access.mask (a : Access) : Nat := (2 ^ a.len - 1) * 2 ^ (a.addr % 64)

/-- Whether an access enters R. -/
def Access.inR (a : Access) : Bool :=
  match a.kind with
  | .load => true
  | .store _ reads => reads
  | .returning _ => true
  | .update _ => false

/-- Whether an access enters W. -/
def Access.inW (a : Access) : Bool :=
  match a.kind with
  | .store _ _ => true
  | .returning _ => true
  | _ => false

/-- Whether an access enters C. -/
def Access.inC (a : Access) : Bool :=
  match a.kind with
  | .update _ => true
  | _ => false

/-- The line keys, with byte masks, of the accesses of a chunk that a set holds. -/
def Pass.lines (p : Pass) (core : Nat) (f : Access → Bool) : List (Nat × Nat) :=
  (p.accesses.filter f).map (fun a => (lineKey core a.space a.addr, a.mask))

/-- Whether two line keys set the same bit of a signature (R160). The hash is not given: it is `Config.signatureBit` (log 95). -/
def sameSignatureBit (a b : Nat) : Bool := Config.signatureBit a % 2048 = Config.signatureBit b % 2048

/-- Whether a chunk's R∪W signature meets lines of a broadcast, by a line in common or by the hash alone (R160). -/
def Pass.signatureMeets (p : Pass) (core : Nat) (lines : List Nat) : Bool :=
  p.accesses.any (fun a => (a.inR || a.inW) && lines.any (sameSignatureBit (lineKey core a.space a.addr)))

/-- Whether a chunk's R∪W meets a broadcast line (R163, R168, R240), the lines themselves compared: by byte masks when the line is
tracked at its home and on the core, by the whole line otherwise. That a match of the signatures' hash alone is a broadcast's
`falseMatch` and no match here is the MODEL'S CHOICE (log 95). The solo pass's W is in its R already (R287). -/
def State.meets (s : State) (core : Nat) (p : Pass) (line mask : Nat) : Bool :=
  let tracked := s.byteTracked.contains line &&
    (match s.core? core with
     | some c => c.contended.contains line
     | none => false)
  p.accesses.any (fun a =>
    (a.inR || a.inW) && decide (lineKey core a.space a.addr = line) && (!tracked || decide (a.mask &&& mask ≠ 0)))

/-! ### Squash (R166, R178, R285, R286) -/

/-- A run emptied for a replay or an exclusion. -/
def Run.empty (tidx pseq : Nat) (sources : List Nat) : Run :=
  { tidx := tidx, pseq := pseq, sources := sources, tokens := [], idxs := [], causes := [], exit := none, writes := []
    flagOps := [], lvOp := none, yielded := false, groupOps := [], banks := [], contribs := []
    deferred := [], matrix := [], outstanding := [], gathers := [], lines := [], waita := none, migPark := none
    windows := [], excluded := false, entryFail := none }

/-- Whether a chunk can still be squashed: its last grant has not been issued. -/
def PassState.inFlight : PassState → Bool
  | .loading | .streaming | .submitted => true
  | .granted | .squashed => false

/-- The references of the chunks in flight. -/
def State.inFlightRefs (s : State) : List PassRef :=
  s.lanes.flatMap (fun l => (l.passes.filter (fun p => p.state.inFlight)).map
    (fun p => { core := l.core, ctx := l.ctx, pass := p.id }))

/-- The chunks that fall with a set of chunks in one turn: those that recorded one as a producer, and later passes of the
same lane (R169, R178). -/
def State.dependents (s : State) (set : List PassRef) : List PassRef :=
  s.lanes.flatMap (fun l => (l.passes.filter (fun p => p.state.inFlight &&
    (p.producers.any (fun q => set.contains q) ||
      set.any (fun q => q.core = l.core && q.ctx = l.ctx && q.pass < p.id)))).map
    (fun p => { core := l.core, ctx := l.ctx, pass := p.id }))

/-- The closure of a set of chunks under `dependents`. -/
def State.squashSet (s : State) : Nat → List PassRef → List PassRef
  | 0, set => set
  | fuel + 1, set => State.squashSet s fuel ((set ++ s.dependents set).dedup)

/-- An emptied chunk waiting for its replay. `count` says whether the squash counts (R286, R410). -/
def Pass.squash (p : Pass) (count : Bool) : Pass :=
  let n := if count then p.squashes + 1 else p.squashes
  { p with
    state := .squashed, admitted := 0, runs := [], nextId := 0, accesses := [], scaled := [], producers := []
    squashes := n, need := [], got := [], requested := false, groupsAfter := none, bankSets := [], usedPages := []
    left := []
    solo := if 2 ≤ n then .waiting else .no }

/-- The entries of a FIFO or LINK buffer after a squash (R178). -/
def rewindEntries (set : List PassRef) (es : List FifoEntry) : List FifoEntry :=
  (es.filter (fun e => !(match e.prod with | some q => set.contains q | none => false))).map
    (fun e => match e.pop with
      | some q => if set.contains q then { e with pop := none, popTidx := 0 } else e
      | none => e)

/-- The banks of a core after a squash (R178). -/
def Bank.rewind (set : List PassRef) (b : Bank) : Bank :=
  { b with
    fifo := rewindEntries set b.fifo
    pixels := b.pixels.filter (fun x => !(match x.prod with | some q => set.contains q | none => false)) }

/-- An arbiter without the requests and grants of some requesters. -/
def Arbiter.without (out : Requester → Bool) (a : Arbiter) : Arbiter :=
  { queue := a.queue.filter (fun r => !out r), granted := a.granted.filter (fun r => !out r) }

/-- How many thread indices a chunk's SPAWNs have been allotted from the spawn counter (R262). -/
def Pass.allotted (p : Pass) : Nat :=
  (p.runs.flatMap (fun r => r.deferred.filter (fun d => match d.kind with
    | .spawn _ _ _ _ t => decide (t ≠ 0) && decide (t < 2 ^ 32)
    | _ => false))).length

/-- How many indices chunks of a context hold that have not committed. -/
def State.allottedTo (s : State) (ctx : Nat) (set : List PassRef) : Nat :=
  (s.lanes.flatMap (fun l => (l.passes.filter (fun p => l.ctx = ctx &&
    set.contains { core := l.core, ctx := l.ctx, pass := p.id })).map (·.allotted))).foldl (· + ·) 0

/-- The set of chunks given, and all that depend on them, squashed (R166): effects dropped, streams rewound, grants, requests
and allotted thread indices given up, so that indices follow the commit order (R262), and a pass squashed a second time in the
queue for the solo ticket (R286), unless its context is frozen (R287). -/
def State.squash (s : State) (count : Bool) (set : List PassRef) : State :=
  let all := (s.squashSet s.inFlightRefs.length (set.filter (fun q => s.inFlightRefs.contains q)))
  let lanes := s.lanes.map (fun l => { l with
    passes := l.passes.map (fun p =>
      if all.contains { core := l.core, ctx := l.ctx, pass := p.id } then p.squash count else p)
    links := l.links.map (fun k => { k with entries := rewindEntries all k.entries })
    activeCycle := l.activeCycle || all.any (fun q => q.core = l.core && q.ctx = l.ctx) })
  let solos := lanes.flatMap (fun l => (l.passes.filter (fun p => p.solo = .waiting && !l.frozen)).map
    (fun p => ({ core := l.core, ctx := l.ctx, pass := p.id } : PassRef)))
  { s with
    lanes := lanes
    contexts := s.contexts.map (fun (c : Context) => { c with spawnCounter := c.spawnCounter - s.allottedTo c.num all })
    cores := s.cores.map (fun c => { c with banks := c.banks.map (Bank.rewind all) })
    arbiters := s.arbiters.map (Arbiter.without (fun r => all.any (fun q => r = .chunk q)))
    soloHolder := match s.soloHolder with
      | some q => if all.contains q then none else some q
      | none => none
    soloQueue := s.soloQueue ++ solos.filter (fun q => all.contains q && !s.soloQueue.contains q) }

/-- Whether a pass has received its last grant. -/
def State.isGranted (s : State) (q : PassRef) : Bool :=
  match (s.lane? q.core q.ctx).bind (fun l => l.pass? q.pass) with
  | some p => decide (p.state = .granted)
  | none => false

/-- A context returns the solo ticket and its place in the queue for it, but for a pass that has its last grant (R287, R410). -/
def State.returnTicket (s : State) (ctx : Nat) : State :=
  let held : Bool := match s.soloHolder with
    | some q => decide (q.ctx = ctx) && !s.isGranted q
    | none => false
  ({ s with
    soloHolder := if held then none else s.soloHolder
    soloQueue := s.soloQueue.filter (fun q => q.ctx ≠ ctx) } : State).updLanes ctx (fun l => { l with
      passes := l.passes.map (fun p => if p.solo = .holding && p.state ≠ .granted then { p with solo := .waiting } else p) })

/-- Every chunk of a context squashed that has not received its last grant; the squash does not count, and the solo ticket is
returned (R410, R399). -/
def State.squashContext (s : State) (ctx : Nat) : State :=
  (s.squash false (s.inFlightRefs.filter (fun q => q.ctx = ctx))).returnTicket ctx

/-! ### The CACHE banks (R234, R236, R237) -/

/-- The set of a line in the L1: bits [14:6] of its address. -/
def l1Set (line : Nat) : Nat := line % 512

/-- The lines that the uncommitted chunks of a core hold in its write buffer (R159). -/
def State.bufferedLines (s : State) (core : Nat) : Nat :=
  ((s.lanes.filter (fun l => l.core = core)).flatMap (fun l => l.passes.flatMap (fun p =>
    (p.accesses.filter (fun a => a.inW || a.inC)).map (fun a => lineKey core a.space a.addr)))).dedup.length

/-- The ways of a core's L1 that may hold copies: its CACHE banks, but for those lent to the write buffer, one for each 512
lines begun (R234, R236). MODEL'S CHOICE (log 74): the spec does not say which banks are lent. -/
def State.l1Ways (s : State) (core : Nat) : Nat :=
  match s.core? core with
  | some c => (c.banks.filter (fun b => b.mode = .cache)).length - (s.bufferedLines core + 511) / 512
  | none => 0

/-- Lines taken in turn, of each set as many as there are ways. -/
def fitWays (ways : Nat) (kept : List L1Line) : List L1Line → List L1Line
  | [] => kept
  | x :: xs =>
    if (kept.filter (fun y => l1Set y.line = l1Set x.line)).length < ways then fitWays ways (kept ++ [x]) xs
    else fitWays ways kept xs

/-- The copies of a core after its ways have become fewer: those marked keep stay first (R237). -/
def State.trimL1 (s : State) (core : Nat) : State :=
  let ways := s.l1Ways core
  s.updCore core (fun c => { c with l1 := fitWays ways [] (c.l1.filter (·.keep) ++ c.l1.filter (fun x => !x.keep)) })

/-- A line put into the L1: when its set is full, it replaces one of the set's lines that is not marked keep, or, when all
are, any of them (R237); which one is free. -/
def State.allocateL1 (s : State) (core : Nat) (x : L1Line) : State :=
  match s.core? core with
  | none => s
  | some c =>
    let set := c.l1.filter (fun y => l1Set y.line = l1Set x.line)
    if s.l1Ways core = 0 then s
    else if set.length < s.l1Ways core then s.updCore core (fun c => { c with l1 := x :: c.l1 })
    else
      let loose := set.filter (fun y => !y.keep)
      let out := if loose.isEmpty then set else loose
      let pick := s.choose out.length
      pick.2.updCore core (fun c => { c with l1 := x :: c.l1.filter (fun y => some y.line ≠ (out[pick.1]?).map (·.line)) })

/-! ### Broadcasts (R163) -/

/-- A waiting barrier that a commit's lines meet reads its signals again (R379). -/
def Packet.meetLines (ls : List (Nat × Nat)) (p : Packet) : Packet :=
  if p.stage = .waiting && ls.any (fun l => p.sigLines.contains l.1) then { p with wake := true } else p

/-- A broadcast of W and C lines put on its way to every core that belongs to a region; barriers hear of it too. -/
def State.broadcast (s : State) (source : Option PassRef) (w c : List (Nat × Nat)) (dies : List Nat) : State :=
  if w.isEmpty && c.isEmpty then s
  else
    let s : State := { s with contexts := s.contexts.map (fun (x : Context) =>
      { x with packets := x.packets.map (Packet.meetLines (w ++ c)) }) }
    if s.cores.isEmpty then s
    else { s with broadcasts := s.broadcasts ++
      [{ source := source, wlines := w, clines := c, cores := s.cores.map (·.core), dies := dies }] }

/-- Whole lines of device memory as broadcast lines. -/
def wholeLines (pas : List Nat) : List (Nat × Nat) := (pas.map (fun pa => pa / 64)).dedup.map (fun l => (l, 2 ^ 64 - 1))

/-- Bytes of device memory as broadcast lines, each with the mask of its bytes (R168). -/
def maskedLines (pas : List Nat) : List (Nat × Nat) :=
  (pas.map (fun pa => pa / 64)).dedup.map (fun l =>
    (l, (((pas.filter (fun pa => pa / 64 = l)).map (fun pa => pa % 64)).dedup.map (fun b => 2 ^ b)).sum))

/-- An engine commit of bytes of device memory (R189, R191): written, sealed and broadcast as W, once its grants are taken
(`State.takeGrants`; log 9). -/
def State.engineCommit (s : State) (ws : List DevByte) : State :=
  (s.commitBytes ws).broadcast none (maskedLines (ws.map (·.pa))) [] ((ws.map (fun w => homeDie w.pa)).dedup)

/-! ### The grants of engine commits (R41, R162, R187, R189) -/

/-- Numbers in rising order, each once. -/
def sortedDies (ds : List Nat) : List Nat := (List.range 16).filter (fun d => ds.contains d)

/-- The state with an arbiter changed. -/
def State.updArbiter (s : State) (die : Nat) (f : Arbiter → Arbiter) : State :=
  { s with arbiters := s.arbiters.mapIdx (fun i a => if i = die then f a else a) }

/-- Every request and grant of a requester given up. -/
def State.dropRequests (s : State) (r : Requester) : State :=
  { s with arbiters := s.arbiters.map (Arbiter.without (fun x => x = r)) }

/-- Whether an arbiter has nothing to serve and no grant out. -/
def State.arbiterIdle (s : State) (die : Nat) : Bool :=
  match s.arbiters[die]? with
  | some a => a.queue.isEmpty && a.granted.isEmpty
  | none => true

/-- Whether a requester holds the grant of a die. -/
def State.holdsGrant (s : State) (die : Nat) (r : Requester) : Bool :=
  match s.arbiters[die]? with
  | some a => a.granted.contains r
  | none => true

/-- Whether a requester stands in the queue of a die. -/
def State.inQueue (s : State) (die : Nat) (r : Requester) : Bool :=
  match s.arbiters[die]? with
  | some a => a.queue.contains r
  | none => false

/-- The grants of dies taken one at a time in the order given, which is ascending (R162, R187): an idle arbiter issues at
once, any other keeps the request in its queue. True when every grant is held. -/
def State.takeFrom (s : State) (r : Requester) : List Nat → Bool × State
  | [] => (true, s)
  | d :: ds =>
    if s.holdsGrant d r then State.takeFrom s r ds
    else if s.inQueue d r then (false, s)
    else if s.arbiterIdle d then
      State.takeFrom (s.updArbiter d (fun a => { a with granted := a.granted ++ [r] })) r ds
    else (false, s.updArbiter d (fun a => { a with queue := a.queue ++ [r] }))

/-- Whether what a requester holds or asks for agrees with asking for these dies in turn: nothing of another die, and no
later die before an earlier one. -/
def State.inTurn (s : State) (r : Requester) (dies : List Nat) : Bool :=
  (List.range 16).all (fun d =>
    (!s.holdsGrant d r && !s.inQueue d r) ||
    (dies.contains d && dies.all (fun e => decide (d ≤ e) || s.holdsGrant e r)))

/-- An engine commit or registration asks for the grants of the dies that home its lines (R162, R187, R189). One whose
lines have changed meanwhile starts again from its first die. -/
def State.takeGrants (s : State) (o : EngineOp) (dies : List Nat) : Bool × State :=
  let ds := sortedDies dies
  (if s.inTurn (.engine o) ds then s else s.dropRequests (.engine o)).takeFrom (.engine o) ds

/-! ### A packet's failure (R399) -/

/-- The LAUNCH or GRAPH packet of a context fails with a cause: the first cause stands, the context's cores freeze, and
every chunk without its last grant is squashed; `info` is the TINFO of a cause that has one (R282). Steps 3 to 5 of R399 follow at
PACKET_RETIRE. -/
def State.failPacket (s : State) (ctx cause : Nat) (info : Option Nat := none) : State :=
  let s := s.updCtx ctx (fun c =>
    match c.kernelPacket? with
    | none => c
    | some p =>
      let c := c.updPacket p.q p.index (fun p => { p with
        cause := if p.cause.isNone then some cause else p.cause
        tinfo := if p.cause.isNone then info else p.tinfo
        stage := if p.stage = .running || p.stage = .loading || p.stage = .wantRegion then .stopped else p.stage })
      { c with frozen := true })
  (s.updLanes ctx (fun l => { l with frozen := true })).squashContext ctx

/-- A packet of which a copy or matrix entry has failed; the first cause stands (R388). -/
def Packet.blemish (cause : Nat) (p : Packet) : Packet := { p with flaw := if p.flaw.isNone then some cause else p.flaw }

/-- The LAUNCH or GRAPH packet of a context has a copy or matrix entry that failed. -/
def State.blemish (s : State) (ctx cause : Nat) : State :=
  s.updCtx ctx (fun c => match c.kernelPacket? with
    | some p => c.updPacket p.q p.index (Packet.blemish cause)
    | none => c)

/-! ### Taking a trap, and returning from one (R396-R398, R424) -/

/-- The block offset, in 64-byte units from the image section, that an address names when it is aligned and lies in the
image section of a packet (R397). -/
def Packet.blockAt (p : Packet) (va : Nat) : Option Nat :=
  let base := p.objVa + p.image.1
  if va % 64 = 0 && base ≤ va && va < base + p.image.2 then some ((va - base) / 64) else none

/-- The address of a block of a packet's image. -/
def Packet.blockVa (p : Packet) (blk : Nat) : Nat := p.objVa + p.image.1 + 64 * blk

/-- The block at HANDLER, when a handler is registered (R396, R397). -/
def State.handlerBlock (s : State) (core ctx : Nat) : Option Nat :=
  match s.lane? core ctx, s.ctx? ctx with
  | some l, some c =>
    (match c.kernelPacket? with
     | some p => if l.regs.handler = 0 then none else p.blockAt l.regs.handler
     | none => none)
  | _, _ => none

/-- A trapped thread delivered at the commit of its chunk (R396-R399): parked at the entry of the block in which it
trapped; with a handler, in handler with TCAUSE, TINFO and TBLOCK set and waiting at the block at HANDLER; without one, or
already in handler, its packet fails with the cause. A TINFO that the spec does not state is a free value. -/
def State.takeTrap (s : State) (core ctx tidx blk cause : Nat) (detail : Option Nat) : State :=
  let pick : Word × State := match detail with
    | some n => (BitVec.ofNat 64 n, s)
    | none => s.freshWord
  let info := pick.1.toNat
  let s := pick.2
  let parked := s.updLane core ctx (fun l => l.updThread tidx (fun t => { t with place := .waiting blk false }))
  let again := match s.lane? core ctx with
    | some l => (match l.thread? tidx with | some t => t.handler.isSome | none => false)
    | none => false
  match s.handlerBlock core ctx, again with
  | some h, false =>
    let tblock := match (s.ctx? ctx).bind (·.kernelPacket?) with
      | some p => p.blockVa blk
      | none => 0
    s.updLane core ctx (fun l => l.updThread tidx (fun t => { t with
      place := .waiting h false
      handler := some { tcause := cause, tinfo := info % 2 ^ 57, tblock := tblock } }))
  | _, _ => parked.failPacket ctx cause

/-- The return from a handler (R424): TCAUSE, TINFO and TBLOCK read zero, and the thread waits at a block. -/
def Thread.leaveHandler (t : Thread) (blk : Nat) : Thread := { t with handler := none, place := .waiting blk false }

end Sys2Proof.Machine
end

