-- ==== Sys2Proof/Machine/Flags.lean ====
section
/-! DEFINITION. Completion flags (spec/05 R141, spec/10 R318-R319): a software bit and a count of outstanding entries. -/

namespace Sys2Proof.Machine

/-- The flags of a thread as they read: bit k is 1 when F k's software bit is 1 or its count is above 0 (R318). -/
def Thread.flags (t : Thread) : BitVec 12 :=
  t.swFlags ||| BitVec.ofNat 12 ((List.range 12).foldl (fun n k => if t.counts.getD k 0 = 0 then n else n + 2 ^ k) 0)

/-- Whether the flags that a WAIT mask names are all clear (R45, R264). -/
def Thread.ready (t : Thread) (mask : BitVec 12) : Bool := t.flags &&& mask = 0

/-- TEST (R319). -/
def testFlags (mode : TestMode) (flags mask : BitVec 12) : Bool :=
  match mode with
  | .any => flags &&& mask ≠ 0
  | .all => flags &&& mask = mask
  | .none => flags &&& mask = 0

/-- The flag operations of a block applied to the software bits, in ascending instruction index (R318; log 14). -/
def applyFlagOps (ops : List (Nat × Bool × BitVec 12)) (bits : BitVec 12) : BitVec 12 :=
  (List.range 128).foldl (fun bits k =>
    (ops.filter (fun o => o.1 = k)).foldl (fun bits o => if o.2.1 then bits ||| o.2.2 else bits &&& ~~~o.2.2) bits) bits

/-- One more entry outstanding under a flag (R141). -/
def Thread.countUp (t : Thread) (k : Nat) : Thread := { t with counts := listSet t.counts k (· + 1) }

/-- One entry fewer (R141). -/
def Thread.countDown (t : Thread) (k : Nat) : Thread := { t with counts := listSet t.counts k (· - 1) }

end Sys2Proof.Machine
end

