-- ==== Sys2Proof/Machine/Int.lean ====
section
/-! DEFINITION. The results of the integer and address instructions (spec/04 R103-R120), as functions of their operands:
a word, or the cause of a trap. -/

namespace Sys2Proof.Machine

/-- ARITH/INT_OVERFLOW (R104, R392). -/
def causeIntOverflow : Nat := 0x000

/-- ARITH/DIV_ZERO (R104, R392). -/
def causeDivZero : Nat := 0x001

/-- The width w of an integer type (R103). -/
def tyWidth : IntTy → Nat
  | .i32 | .n32 => 32
  | .i64 | .n64 => 64

/-- Whether a type is read as signed (R103). -/
def tySigned : IntTy → Bool
  | .i32 | .i64 => true
  | .n32 | .n64 => false

/-- The low w bits of a word, read unsigned. -/
def low (t : IntTy) (x : Word) : Nat := x.toNat % 2 ^ tyWidth t

/-- val(x): the operand as an integer of its type (R103). -/
def val (t : IntTy) (x : Word) : Int :=
  match t with
  | .i32 => (x.setWidth 32).toInt
  | .n32 => (x.setWidth 32).toNat
  | .i64 => x.toInt
  | .n64 => x.toNat

/-- put(v): the low w bits, extended to 64 by sign for I32 and by zero for N32 (R103, R8). -/
def put (t : IntTy) (v : Int) : Word :=
  match t with
  | .i32 => (BitVec.ofInt 32 v).signExtend 64
  | .n32 => (BitVec.ofInt 32 v).setWidth 64
  | .i64 | .n64 => BitVec.ofInt 64 v

/-- The least value of a type (R103). -/
def tyLo (t : IntTy) : Int := if tySigned t then -(2 ^ (tyWidth t - 1)) else 0

/-- The greatest value of a type (R103). -/
def tyHi (t : IntTy) : Int := if tySigned t then 2 ^ (tyWidth t - 1) - 1 else 2 ^ tyWidth t - 1

/-- The exact result narrowed, or the trap of .CHK when it does not fit (R104, R106). -/
def narrow (t : IntTy) (chk : Bool) (v : Int) : Except Nat Word :=
  if chk && (decide (v < tyLo t) || decide (tyHi t < v)) then .error causeIntOverflow else .ok (put t v)

/-- The exact result saturated to the type (R107). -/
def saturate (t : IntTy) (v : Int) : Word := put t (min (max v (tyLo t)) (tyHi t))

/-- ADD (R106). -/
def resAdd (t : IntTy) (chk : Bool) (a b : Word) : Except Nat Word := narrow t chk (val t a + val t b)

/-- SUB (R106). -/
def resSub (t : IntTy) (chk : Bool) (a b : Word) : Except Nat Word := narrow t chk (val t a - val t b)

/-- MUL (R106). -/
def resMul (t : IntTy) (chk : Bool) (a b : Word) : Except Nat Word := narrow t chk (val t a * val t b)

/-- MAD (R106). -/
def resMad (t : IntTy) (chk : Bool) (a b c : Word) : Except Nat Word := narrow t chk (val t a * val t b + val t c)

/-- NEG (R106). -/
def resNeg (t : IntTy) (chk : Bool) (a : Word) : Except Nat Word := narrow t chk (-val t a)

/-- ABS (R106). -/
def resAbs (t : IntTy) (chk : Bool) (a : Word) : Except Nat Word := narrow t chk ((val t a).natAbs)

/-- ABSD (R106). -/
def resAbsd (t : IntTy) (chk : Bool) (a b : Word) : Except Nat Word := narrow t chk ((val t a - val t b).natAbs)

/-- MULH: the upper half of the exact product (R108). -/
def resMulh (t : IntTy) (a b : Word) : Word := put t ((val t a * val t b).fdiv (2 ^ tyWidth t))

/-- The quotient and remainder of DIV and REM, or a trap of .CHK (R109). -/
def divRem (t : IntTy) (chk : Bool) (a b : Word) : Except Nat (Int × Int) :=
  let n := val t a
  let d := val t b
  if d = 0 then
    if chk then .error causeDivZero
    else .ok (if tySigned t then -1 else 2 ^ tyWidth t - 1, n)
  else if tySigned t && decide (n = tyLo t) && decide (d = -1) then
    if chk then .error causeIntOverflow else .ok (tyLo t, 0)
  else .ok (n.tdiv d, n - n.tdiv d * d)

/-- DIV (R109). -/
def resDiv (t : IntTy) (chk : Bool) (a b : Word) : Except Nat Word :=
  match divRem t chk a b with
  | .ok (q, _) => .ok (put t q)
  | .error c => .error c

/-- REM (R109). -/
def resRem (t : IntTy) (chk : Bool) (a b : Word) : Except Nat Word :=
  match divRem t chk a b with
  | .ok (_, m) => .ok (put t m)
  | .error c => .error c

/-- MIN (R110). -/
def resMin (t : IntTy) (a b : Word) : Word := put t (min (val t a) (val t b))

/-- MAX (R110). -/
def resMax (t : IntTy) (a b : Word) : Word := put t (max (val t a) (val t b))

/-- CLAMP (R110). -/
def resClamp (t : IntTy) (a b c : Word) : Word := put t (min (max (val t a) (val t b)) (val t c))

/-- ADDS (R107). -/
def resAdds (t : IntTy) (a b : Word) : Word := saturate t (val t a + val t b)

/-- SUBS (R107). -/
def resSubs (t : IntTy) (a b : Word) : Word := saturate t (val t a - val t b)

/-- AND (R112). -/
def resAnd (t : IntTy) (a b : Word) : Word := put t ((a &&& b).toNat)

/-- OR (R112). -/
def resOr (t : IntTy) (a b : Word) : Word := put t ((a ||| b).toNat)

/-- XOR (R112). -/
def resXor (t : IntTy) (a b : Word) : Word := put t ((a ^^^ b).toNat)

/-- ANDN (R112). -/
def resAndn (t : IntTy) (a b : Word) : Word := put t ((a &&& ~~~b).toNat)

/-- NOT (R112). -/
def resNot (t : IntTy) (a : Word) : Word := put t ((~~~a).toNat)

/-- The signed reading of the low w bits, whatever the type (R113). -/
def lowSigned (t : IntTy) (x : Word) : Int :=
  match tyWidth t with
  | 32 => (x.setWidth 32).toInt
  | _ => x.toInt

/-- SHL (R113). -/
def resShl (t : IntTy) (a b : Word) : Word :=
  if tyWidth t ≤ low t b then 0 else put t (low t a * 2 ^ low t b : Nat)

/-- SHR (R113). -/
def resShr (t : IntTy) (a b : Word) : Word :=
  if tyWidth t ≤ low t b then 0 else put t (low t a / 2 ^ low t b : Nat)

/-- SAR (R113). -/
def resSar (t : IntTy) (a b : Word) : Word :=
  if tyWidth t ≤ low t b then (if lowSigned t a < 0 then put t (-1) else 0)
  else put t ((lowSigned t a).fdiv (2 ^ low t b))

/-- The w-bit value rotated left by s < w. -/
def rotl (w x s : Nat) : Nat := (x * 2 ^ s) % 2 ^ w + x / 2 ^ (w - s)

/-- ROL (R114). -/
def resRol (t : IntTy) (a b : Word) : Word := put t (rotl (tyWidth t) (low t a) (low t b % tyWidth t) : Nat)

/-- ROR (R114): a rotation right by s is one left by w - s. -/
def resRor (t : IntTy) (a b : Word) : Word :=
  put t (rotl (tyWidth t) (low t a) ((tyWidth t - low t b % tyWidth t) % tyWidth t) : Nat)

/-- FSH (R114). -/
def resFsh (t : IntTy) (right : Bool) (a b c : Word) : Word :=
  let w := tyWidth t
  let s := low t c % w
  let cat := low t a * 2 ^ w + low t b
  if right then put t ((cat / 2 ^ s) % 2 ^ w : Nat) else put t (cat * 2 ^ s / 2 ^ w % 2 ^ w : Nat)

/-- The number of bits of a natural number: 0 for 0. -/
def nbits (n : Nat) : Nat := if n = 0 then 0 else Nat.log2 n + 1

/-- The number of zero bits below the lowest 1, at most `fuel`. -/
def trailing : Nat → Nat → Nat
  | 0, _ => 0
  | fuel + 1, n => if n % 2 = 1 then 0 else trailing fuel (n / 2) + 1

/-- The number of 1 bits among the low `fuel` bits. -/
def popCount : Nat → Nat → Nat
  | 0, _ => 0
  | fuel + 1, n => n % 2 + popCount fuel (n / 2)

/-- The low `fuel` bits in reverse order. -/
def bitRev : Nat → Nat → Nat
  | 0, _ => 0
  | fuel + 1, n => (n % 2) * 2 ^ fuel + bitRev fuel (n / 2)

/-- CLZ (R115). -/
def resClz (t : IntTy) (a : Word) : Word := put t (tyWidth t - nbits (low t a) : Nat)

/-- CTZ (R115). -/
def resCtz (t : IntTy) (a : Word) : Word := put t (trailing (tyWidth t) (low t a) : Nat)

/-- POPC (R115). -/
def resPopc (t : IntTy) (a : Word) : Word := put t (popCount (tyWidth t) (low t a) : Nat)

/-- BREV (R115). -/
def resBrev (t : IntTy) (a : Word) : Word := put t (bitRev (tyWidth t) (low t a) : Nat)

/-- The position and the length of a field, the length at most w (R116). -/
def fieldSpec (t : IntTy) (x : Word) : Nat × Nat := (x.toNat % 256, min (x.toNat / 256 % 256) (tyWidth t))

/-- BFX (R116). -/
def resBfx (t : IntTy) (a b : Word) : Word :=
  let pos := (fieldSpec t b).1
  let len := (fieldSpec t b).2
  let f := low t a / 2 ^ pos % 2 ^ len
  if tySigned t && decide (0 < len) && decide (2 ^ (len - 1) ≤ f) then put t ((f : Int) - 2 ^ len) else put t f

/-- BFI (R116). -/
def resBfi (t : IntTy) (a b c : Word) : Word :=
  let pos := (fieldSpec t c).1
  let len := (fieldSpec t c).2
  let mask := (2 ^ len - 1) * 2 ^ pos % 2 ^ tyWidth t
  put t ((low t a &&& (2 ^ tyWidth t - 1 - mask)) ||| ((b.toNat * 2 ^ pos) &&& mask) : Nat)

/-- The bits EXT keeps (R117). -/
def extBits : ExtWidth → Nat
  | .b8 => 8
  | .b16 => 16
  | .b32 => 32

/-- EXT (R117). -/
def resExt (t : IntTy) (width : ExtWidth) (a : Word) : Word :=
  let n := extBits width
  let f := a.toNat % 2 ^ n
  if tySigned t && decide (2 ^ (n - 1) ≤ f) then put t ((f : Int) - 2 ^ n) else put t f

/-- Byte `i` of PERM's result (R118). -/
def permByte (a b i : Nat) : Nat :=
  let sel := b / 16 ^ i % 16
  if 8 ≤ sel then 0 else a / 256 ^ sel % 256

/-- PERM (R118). -/
def resPerm (t : IntTy) (a b : Word) : Word :=
  put t (((List.range (tyWidth t / 8)).map (fun i => permByte a.toNat b.toNat i * 256 ^ i)).sum : Nat)

/-- LEA (R119). -/
def resLea (t : IntTy) (scale : BitVec 2) (a b : Word) : Word := put t (val t a + val t b * 2 ^ scale.toNat)

/-- CMP: 1 when the condition holds, else 0 (R111). -/
def resCmp (t : IntTy) (cond : Cond) (a b : Word) : Word :=
  let holds := match cond with
    | .eq => decide (val t a = val t b)
    | .ne => decide (val t a ≠ val t b)
    | .lt => decide (val t a < val t b)
    | .ge => decide (val t b ≤ val t a)
  if holds then 1 else 0

/-- The reflected polynomial (R120). -/
def crcPoly : CrcPoly → Nat
  | .c32 | .c32b => 0xEDB88320
  | .c32c | .c32cb => 0x82F63B78

/-- The bytes CRC takes from b (R120). -/
def crcCount (t : IntTy) : CrcPoly → Nat
  | .c32b | .c32cb => 1
  | .c32 | .c32c => tyWidth t / 8

/-- `n` single-bit steps of the reflected CRC (R120). -/
def crcBits (poly : Nat) : Nat → Nat → Nat
  | 0, crc => crc
  | n + 1, crc => crcBits poly n (if crc % 2 = 1 then (crc / 2) ^^^ poly else crc / 2)

/-- CRC (R120). -/
def resCrc (t : IntTy) (poly : CrcPoly) (a b : Word) : Word :=
  put t (((List.range (crcCount t poly)).foldl
    (fun crc i => crcBits (crcPoly poly) 8 (crc ^^^ (b.toNat / 256 ^ i % 256))) (a.toNat % 2 ^ 32)) : Nat)

end Sys2Proof.Machine
end

