-- ==== Sys2Proof/Machine/WFloat.lean ====
section
/-! DEFINITION. The wide float W (spec/03 R74-R80) and the results of the W-float instructions that round once or not at
all (spec/04 R121-R135); the elementary functions of R126 are in Elementary. -/

namespace Sys2Proof.Machine

/-! ### Values -/

/-- What a W word reads as: NaN, an infinity, or (-1)^neg x m x 2^e, which is a signed zero when m is 0 (R74-R76). -/
inductive WVal
  | nan
  | inf (neg : Bool)
  | fin (neg : Bool) (m : Nat) (e : Int)
  deriving DecidableEq, Repr

/-- The canonical NaN (R75). -/
def wNaN : Word := 0x7FFFC00000000000

/-- A signed zero (R75). -/
def wZero (neg : Bool) : Word := if neg then 0x8000000000000000 else 0

/-- A signed infinity (R75). -/
def wInf (neg : Bool) : Word := if neg then 0xFFFC000000000000 else 0x7FFC000000000000

/-- The greatest finite magnitude, signed (R75). -/
def wMax (neg : Bool) : Word := if neg then 0xFFFBFFFFFFFFFFFF else 0x7FFBFFFFFFFFFFFF

/-- The least normal magnitude, signed (R75). -/
def wMin (neg : Bool) : Word := if neg then 0x8006000000000000 else 0x0006000000000000

/-- Reading a W word, canonicalised (R76). -/
def wRead (x : Word) : WVal :=
  let neg := decide (2 ^ 63 ≤ x.toNat)
  let E : Nat := x.toNat / 2 ^ 50 % 2 ^ 13
  let M : Nat := x.toNat % 2 ^ 50
  if E = 0x1FFF then (if M = 0 then .inf neg else .nan)
  else if E = 0 || M = 0 then .fin neg 0 0
  else if ((nbits M : Nat) : Int) - 1 + (((E : Nat) : Int) - 4144) < -4094 then .fin neg 0 0
  else .fin neg M ((E : Int) - 4144)

/-- Reading an immediate operand: the exact W value of the sign-extended integer (R50, R121). -/
def wOfInt (v : Int) : WVal := .fin (decide (v < 0)) v.natAbs 0

/-- The sign of a value; NaN is canonical and positive (R78). -/
def WVal.neg : WVal → Bool
  | .nan => false
  | .inf n => n
  | .fin n _ _ => n

/-! ### Rounding (R77, R79, R80) -/

/-- mix64 (R80). -/
def mix64 (z : Word) : Word :=
  let z := (z ^^^ (z >>> 30)) * 0xBF58476D1CE4E5B9
  let z := (z ^^^ (z >>> 27)) * 0x94D049BB133111EB
  z ^^^ (z >>> 31)

/-- The random word u of HSR (R80). -/
def hsrWord (hseed key : Word) : Nat := (mix64 (hseed ^^^ key)).toNat / 2 ^ 32

/-- The HSR key of a W-float instruction (R80). -/
def hsrKeyFloat (tidx gen blk idx : Nat) : Word :=
  BitVec.ofNat 64 (tidx % 2 ^ 32 * 2 ^ 32 + gen % 2 ^ 12 * 2 ^ 20 + blk % 2 ^ 13 * 2 ^ 7 + idx % 2 ^ 7)

/-- The HSR key of an encode (R80): the element's virtual byte address and bit position. -/
def hsrKeyStore (va bit : Nat) : Word := BitVec.ofNat 64 (va * 8 + bit)

/-- Whether a magnitude q + (r + d)/2^k, 0 ≤ r < 2^k, with d in (0, 1) when `sticky` and 0 otherwise, not on the grid,
goes to q + 1 (R79): `odd` says that q ends a tie the wrong way under RNE. -/
def roundUp (mode : RMode) (u : Nat) (neg odd : Bool) (r k : Nat) (sticky : Bool) : Bool :=
  if r = 0 && !sticky then false
  else
    match mode with
    | .rne => decide (2 ^ k < 2 * r) || (decide (2 ^ k = 2 * r) && (sticky || odd))
    | .rtz => false
    | .rup => !neg
    | .rdn => neg
    | .rna => decide (2 ^ k ≤ 2 * r)
    | .hsr => decide (u < r * 2 ^ 32 / 2 ^ k)

/-- The magnitude m x 2^e (plus a part below 2^e when `sticky`) rounded to a multiple of 2^g, in units of 2^g. -/
def roundGrid (mode : RMode) (u : Nat) (neg : Bool) (m : Nat) (e g : Int) (sticky : Bool) : Nat :=
  if g ≤ e then m * 2 ^ (e - g).toNat
  else
    let k := (g - e).toNat
    if nbits m + 64 < k then
      (if roundUp mode u neg false 1 64 true && decide (m ≠ 0) && decide (mode ≠ .hsr) then 1 else 0)
    else
      let q := m / 2 ^ k
      if roundUp mode u neg (q % 2 = 1) (m % 2 ^ k) k sticky then q + 1 else q

/-- The W word of a normal magnitude q x 2^e with 2^49 ≤ q < 2^50 (R74). -/
def wPack (neg : Bool) (q : Nat) (e : Int) : Word :=
  BitVec.ofNat 64 ((if neg then 2 ^ 63 else 0) + (e + 4144).toNat * 2 ^ 50 + q % 2 ^ 50)

/-- The overflow column of R77. -/
def wOverflow (mode : RMode) (neg : Bool) : Word :=
  match mode with
  | .rne | .rna | .hsr => wInf neg
  | .rtz => wMax neg
  | .rup => if neg then wMax true else wInf false
  | .rdn => if neg then wInf true else wMax false

/-- The underflow column of R77 for the magnitude m x 2^e below 2^-4094. -/
def wUnderflow (mode : RMode) (u : Nat) (neg : Bool) (m : Nat) (e : Int) (sticky : Bool) : Word :=
  let len := (nbits m : Int)
  -- a = |x| / 2^-4094 lies in [2^(len + e + 4093), 2^(len + e + 4094))
  let atLeastHalf := decide (-4095 ≤ len + e - 1)
  let exactHalf := atLeastHalf && decide (m = 2 ^ (nbits m - 1)) && decide (len + e - 1 = -4095) && !sticky
  let scaled := if len + e < -4094 - 40 then 0
    else if 0 ≤ e + 4094 + 32 then m * 2 ^ (e + 4094 + 32).toNat else m / 2 ^ (-(e + 4094 + 32)).toNat
  let up := match mode with
    | .rne => atLeastHalf && !exactHalf
    | .rtz => false
    | .rup => !neg
    | .rdn => neg
    | .rna => atLeastHalf
    | .hsr => decide (u < scaled)
  if up then wMin neg else wZero neg

/-- round_W of a nonzero magnitude m x 2^e (plus a part below 2^e when `sticky`), m nonzero (R77). -/
def roundW (mode : RMode) (u : Nat) (neg : Bool) (m : Nat) (e : Int) (sticky : Bool) : Word :=
  let g := e + (nbits m : Int) - 50
  let q := roundGrid mode u neg m e g sticky
  let (q, g) := if q = 2 ^ 50 then (2 ^ 49, g + 1) else (q, g)
  if 4095 < g + 49 then wOverflow mode neg
  else if g + 49 < -4094 then wUnderflow mode u neg m e sticky
  else wPack neg q g

/-- round_W of an exact value, with the sign that an exact zero takes (R77, R78). -/
def roundExact (mode : RMode) (u : Nat) (zeroNeg : Bool) (neg : Bool) (m : Nat) (e : Int) : Word :=
  if m = 0 then wZero zeroNeg else roundW mode u neg m e false

/-- The canonical word of a value that a W word can hold exactly. -/
def wWrite : WVal → Word
  | .nan => wNaN
  | .inf neg => wInf neg
  | .fin neg m e => roundExact .rtz 0 neg neg m e

/-- A word canonicalised (R76). -/
def wCanon (x : Word) : Word := wWrite (wRead x)

/-! ### Arithmetic rounded once (R123-R125) -/

/-- A signed exact sum of two dyadic values, as a signed integer and an exponent. -/
def exactSum (an : Bool) (am : Nat) (ae : Int) (bn : Bool) (bm : Nat) (be : Int) : Int × Int :=
  let e := min ae be
  let sa : Int := (am * 2 ^ (ae - e).toNat : Nat)
  let sb : Int := (bm * 2 ^ (be - e).toNat : Nat)
  ((if an then -sa else sa) + (if bn then -sb else sb), e)

/-- The sum of two values, rounded once; the sign of an exact zero follows R78 and R124. MODEL'S CHOICE (log 79): two zeros of one
sign keep it under every mode, as IEEE 754-2019 has it; the list in R124 alone could be read as -0 for +0 and +0 under RDN. -/
def wAdd (mode : RMode) (u : Nat) : WVal → WVal → Word
  | .nan, _ => wNaN
  | _, .nan => wNaN
  | .inf a, .inf b => if a = b then wInf a else wNaN
  | .inf a, _ => wInf a
  | _, .inf b => wInf b
  | .fin an am ae, .fin bn bm be =>
    if am = 0 && bm = 0 then wZero (if an = bn then an else decide (mode = .rdn))
    else if am = 0 then roundW mode u bn bm be false
    else if bm = 0 then roundW mode u an am ae false
    else
      let (s, e) := exactSum an am ae bn bm be
      roundExact mode u (decide (mode = .rdn)) (decide (s < 0)) s.natAbs e

/-- The value with its sign inverted. -/
def WVal.negate : WVal → WVal
  | .nan => .nan
  | .inf n => .inf (!n)
  | .fin n m e => .fin (!n) m e

/-- The exact product of two values (R78). -/
def wProduct : WVal → WVal → WVal
  | .nan, _ => .nan
  | _, .nan => .nan
  | .inf a, .inf b => .inf (a != b)
  | .inf a, .fin b m _ => if m = 0 then .nan else .inf (a != b)
  | .fin a m _, .inf b => if m = 0 then .nan else .inf (a != b)
  | .fin a m e, .fin b n f => .fin (a != b) (m * n) (e + f)

/-- round_W of a value (R77). -/
def wRound (mode : RMode) (u : Nat) : WVal → Word
  | .nan => wNaN
  | .inf n => wInf n
  | .fin n m e => roundExact mode u n n m e

/-- The quotient of two values, rounded once (R123). -/
def wDiv (mode : RMode) (u : Nat) : WVal → WVal → Word
  | .nan, _ => wNaN
  | _, .nan => wNaN
  | .inf _, .inf _ => wNaN
  | .inf a, .fin b _ _ => wInf (a != b)
  | .fin a _ _, .inf b => wZero (a != b)
  | .fin a m e, .fin b n f =>
    if n = 0 then (if m = 0 then wNaN else wInf (a != b))
    else if m = 0 then wZero (a != b)
    else
      let p := m * 2 ^ 200
      roundW mode u (a != b) (p / n) (e - 200 - f) (p % n ≠ 0)

/-- The integer square root, one bit pair a level. -/
def isqrt : Nat → Nat → Nat
  | 0, _ => 0
  | fuel + 1, n =>
    if n = 0 then 0
    else
      let r := 2 * isqrt fuel (n / 4)
      if (r + 1) * (r + 1) ≤ n then r + 1 else r

/-- The square root, rounded once (R123). -/
def wSqrt (mode : RMode) (u : Nat) : WVal → Word
  | .nan => wNaN
  | .inf neg => if neg then wNaN else wInf false
  | .fin neg m e =>
    if m = 0 then wZero neg
    else if neg then wNaN
    else
      let (m, e) := if e % 2 = 0 then (m, e) else (2 * m, e - 1)
      let p := m * 2 ^ 240
      let r := isqrt 200 p
      roundW mode u false r ((e - 240) / 2) (r * r ≠ p)

/-- The reciprocal square root, rounded once (R125). -/
def wRsqrt (mode : RMode) (u : Nat) : WVal → Word
  | .nan => wNaN
  | .inf neg => if neg then wNaN else wZero false
  | .fin neg m e =>
    if m = 0 then wInf neg
    else if neg then wNaN
    else
      let (m, e) := if e % 2 = 0 then (m, e) else (2 * m, e - 1)
      let r := isqrt 200 (2 ^ 320 / m)
      roundW mode u false r (-160 - e / 2) (r * r * m ≠ 2 ^ 320)

/-- FADD (R123). -/
def resFadd (mode : RMode) (u : Nat) (a b : WVal) : Word := wAdd mode u a b

/-- FSUB (R123). -/
def resFsub (mode : RMode) (u : Nat) (a b : WVal) : Word := wAdd mode u a b.negate

/-- FMUL (R123). -/
def resFmul (mode : RMode) (u : Nat) (a b : WVal) : Word := wRound mode u (wProduct a b)

/-- FMA (R124). -/
def resFma (mode : RMode) (u : Nat) (a b c : WVal) : Word := wAdd mode u (wProduct a b) c

/-- FNMA (R124). -/
def resFnma (mode : RMode) (u : Nat) (a b c : WVal) : Word := wAdd mode u (wProduct a b).negate c

/-- FDIV (R123). -/
def resFdiv (mode : RMode) (u : Nat) (a b : WVal) : Word := wDiv mode u a b

/-- FSQRT (R123). -/
def resFsqrt (mode : RMode) (u : Nat) (a : WVal) : Word := wSqrt mode u a

/-- FRCP: FDIV with dividend +1 (R125). -/
def resFrcp (mode : RMode) (u : Nat) (a : WVal) : Word := wDiv mode u (.fin false 1 0) a

/-- FRSQ (R125). -/
def resFrsq (mode : RMode) (u : Nat) (a : WVal) : Word := wRsqrt mode u a

/-! ### Order, sign and class (R127-R131) -/

/-- The place of a canonical word that is not NaN in the order -inf < ... < -0 < +0 < ... < +inf (R127, R130). -/
def wKey (x : Word) : Int :=
  if 2 ^ 63 ≤ x.toNat then -(((x.toNat - 2 ^ 63 : Nat) : Int) + 1) else x.toNat

/-- The lesser or the greater of two canonical words in the order of `wKey`. -/
def wPick (least : Bool) (a b : Word) : Word :=
  if least then (if wKey b < wKey a then b else a) else (if wKey a < wKey b then b else a)

/-- FMIN and FMAX (R127). -/
def resFminmax (least prop : Bool) (a b : WVal) : Word :=
  match a, b with
  | .nan, .nan => wNaN
  | .nan, b => if prop then wNaN else wWrite b
  | a, .nan => if prop then wNaN else wWrite a
  | a, b => wPick least (wWrite a) (wWrite b)

/-- FCLAMP (R128). -/
def resFclamp (a b c : WVal) : Word :=
  match a with
  | .nan => wNaN
  | a =>
    let y := wWrite a
    let y := match b with
      | .nan => y
      | b => if wKey y < wKey (wWrite b) then wWrite b else y
    match c with
    | .nan => y
    | c => if wKey (wWrite c) < wKey y then wWrite c else y

/-- The value with the sign given; NaN stays the canonical NaN (R129). -/
def WVal.withSign (n : Bool) : WVal → WVal
  | .nan => .nan
  | .inf _ => .inf n
  | .fin _ m e => .fin n m e

/-- FABS (R129). -/
def resFabs (a : WVal) : Word := wWrite (a.withSign false)

/-- FNEG (R129). -/
def resFneg (a : WVal) : Word := wWrite a.negate

/-- FSGN (R129). -/
def resFsgn (flip : Bool) (a b : WVal) : Word := wWrite (a.withSign (if flip then a.neg != b.neg else b.neg))

/-- FCMP (R130). -/
def resFcmp (total : Bool) (a b : WVal) : Word :=
  let ka := wKey (wWrite a)
  let kb := wKey (wWrite b)
  let rel : Word := if ka < kb then 1 else if ka = kb then 2 else 4
  match a, b with
  | .nan, .nan => if total then 2 else 8
  | .nan, _ => if total then 4 else 8
  | _, .nan => if total then 1 else 8
  | .fin _ 0 _, .fin _ 0 _ => if total then rel else 2
  | _, _ => rel

/-- FCLASS (R131). -/
def resFclass (x : Word) : Word :=
  let cls : Nat := match wRead x with
    | .nan => 64
    | .inf n => if n then 1 else 32
    | .fin n m _ => if m = 0 then (if n then 4 else 8) else (if n then 2 else 16)
  BitVec.ofNat 64 (cls + if wCanon x = x then 0 else 128)

/-! ### Conversion and exponent handling (R132-R135) -/

/-- FRINT (R132). -/
def resFrint (mode : RMode) (u : Nat) : WVal → Word
  | .nan => wNaN
  | .inf n => wInf n
  | .fin n m e =>
    if 0 ≤ e then roundExact mode u n n m e
    else roundExact .rtz 0 n n (roundGrid mode u n m e 0 false) 0

/-- FTOI (R133). -/
def resFtoi (mode : RMode) (u : Nat) (t : IntTy) : WVal → Word
  | .nan => put t 0
  | .inf n => put t (if n then tyLo t else tyHi t)
  | .fin n m e =>
    -- a magnitude of 2^64 or more saturates; it is cut there so that no huge power is formed
    let v : Nat := if 64 < (nbits m : Int) + e then 2 ^ 65 else roundGrid mode u n m e 0 false
    saturate t (if n then -(v : Int) else v)

/-- ITOF (R134). -/
def resItof (mode : RMode) (u : Nat) (t : IntTy) (a : Word) : Word :=
  roundExact mode u false (decide (val t a < 0)) (val t a).natAbs 0

/-- FSCALE: b is an integer word (R135). -/
def resFscale (mode : RMode) (u : Nat) (a : WVal) (b : Word) : Word :=
  match a with
  | .nan => wNaN
  | .inf n => wInf n
  | .fin n m e => roundExact mode u n n m (e + b.toInt)

/-- The exponent floor(log2 |a|) of a nonzero magnitude. -/
def wExp (m : Nat) (e : Int) : Int := e + (nbits m : Int) - 1

/-- FLOGB (R135). -/
def resFlogb : WVal → Word
  | .nan => wNaN
  | .inf _ => wInf false
  | .fin _ m e => if m = 0 then wInf true else wWrite (wOfInt (wExp m e))

/-- FMANT (R135). -/
def resFmant : WVal → Word
  | .nan => wNaN
  | .inf _ => wNaN
  | .fin n m e => if m = 0 then wZero n else wWrite (.fin n m (e - wExp m e))

end Sys2Proof.Machine
end

