-- ==== Sys2Proof/Machine/Operands.lean ====
section
/-! DEFINITION. Operand sets and the firing of an instruction for a thread (spec/02 R50, R53-R56, spec/13 R393): tokens
are taken in arrival order, a null or a predicate that does not match is consumed without effect, and results are sent to
the targets under the occupancy limit. -/

namespace Sys2Proof.Machine

/-! ### Tokens -/

/-- The oldest token at an operand slot, with the tokens left. -/
def takeToken (k : Nat) (sl : Slot) : List Token → Option (Token × List Token)
  | [] => none
  | t :: ts =>
    if t.idx = k && t.slot = sl then some (t, ts)
    else
      match takeToken k sl ts with
      | none => none
      | some (u, us) => some (u, t :: us)

/-- The oldest token at each of the slots given, with the tokens left. -/
def takeTokens (k : Nat) : List Slot → List Token → Option (List Token × List Token)
  | [], ts => some ([], ts)
  | sl :: sls, ts =>
    match takeToken k sl ts with
    | none => none
    | some (t, us) =>
      match takeTokens k sls us with
      | none => none
      | some (xs, vs) => some (t :: xs, vs)

/-- The targets of every instruction of a block. -/
def Block.targets (b : Block) : List Target := b.instrs.flatMap (fun x => x.2.targets)

/-- A target as an arc: its producer, its consumer and the slot, and whether it is the producer's T0. -/
structure Arc where
  src : Nat
  dst : Nat
  slot : Slot
  first : Bool
  deriving DecidableEq, Repr

/-- The instructions of a block or of a hyperblock with their indices, how many indices it has, and its targets. -/
structure Wired where
  instrs : List (Nat × Instr)
  size : Nat
  arcs : List Arc
  deriving DecidableEq, Repr

/-- The arcs of the instruction at an index. -/
def Instr.arcs (k : Nat) (i : Instr) : List Arc :=
  let first := (i.fields?.bind (·.t0)).toList
  let arc := fun (one : Bool) (t : Target) => ({ src := k, dst := t.idx.toNat, slot := t.slot, first := one } : Arc)
  first.map (arc true) ++ (i.targets.drop first.length).map (arc false)

/-- A block as its instructions and arcs. -/
def Block.wired (b : Block) : Wired :=
  { instrs := b.instrs, size := b.words.length, arcs := b.instrs.flatMap (fun x => Instr.arcs x.1 x.2) }

/-- The slots of an instruction that some target of the block names (R53). -/
def Block.fed (b : Block) (k : Nat) : List Slot :=
  [Slot.a, .b, .c, .p].filter (fun sl => b.targets.contains { idx := BitVec.ofNat 7 k, slot := sl })

/-- The sources of a block (R53): instructions none of whose slots is named. -/
def Block.sources (b : Block) : List Nat :=
  (b.instrs.filter (fun x => (b.fed x.1).isEmpty)).map (·.1)

/-- The operand set of an instruction, taken from a run: one token of each fed slot, or the one firing of a source. -/
def operandSet (b : Block) (r : Run) (k : Nat) : Option (List Token × Run) :=
  match b.fed k with
  | [] => if r.sources.contains k then some ([], { r with sources := r.sources.erase k }) else none
  | sls =>
    match takeTokens k sls r.tokens with
    | none => none
    | some (xs, ts) => some (xs, { r with tokens := ts })

/-- A token sent (R53): it waits at its slot, or, as one more than OCC + 1, makes the thread trap and is discarded. The
cause is recorded for the sender (log 10). -/
def sendToken (occ k gen : Nat) (deps : List Nat) (r : Run) (x : Target × Option Word) : Run :=
  if occ < (r.tokens.filter (fun t => t.idx = x.1.idx.toNat && t.slot = x.1.slot)).length then
    r.record k gen cOperandOverflow none
  else { r with tokens := r.tokens ++ [{ idx := x.1.idx.toNat, slot := x.1.slot, val := x.2, deps := deps }] }

/-- Tokens sent in turn. -/
def sendTokens (occ k gen : Nat) (deps : List Nat) (out : List (Target × Option Word)) (r : Run) : Run :=
  out.foldl (sendToken occ k gen deps) r

/-- A value to every target. -/
def toAll (ts : List Target) (v : Option Word) : List (Target × Option Word) := ts.map (fun t => (t, v))

/-- The first two targets of an instruction's fields. -/
def Fields.both (f : Fields) : List Target := f.t0.toList ++ f.t1.toList

/-- A value to T0 and a done token to T1 (R51). -/
def valueDone (f : Fields) (v : Word) : List (Target × Option Word) :=
  toAll f.t0.toList (some v) ++ toAll f.t1.toList (some 0)

/-- Done tokens, which are 0, to both targets (R51, R303). -/
def doneBoth (f : Fields) : List (Target × Option Word) := toAll (Fields.both f) (some 0)

/-! ### Sites -/

/-- A thread in a streaming pass, with its core's configuration. -/
structure Spot where
  lane : Lane
  pass : Pass
  run : Run
  thread : Thread
  block : Block
  deriving DecidableEq, Repr

/-- The thread of a firing, when its pass streams (R269) and its context is not frozen (R410). -/
def State.spot? (s : State) (x : Firing) : Option Spot :=
  match s.lane? x.core x.ctx with
  | none => none
  | some l =>
    match l.pass? x.pass with
    | none => none
    | some p =>
      if p.state ≠ .streaming || l.frozen then none
      else
        match p.run? x.tidx, l.thread? x.tidx, l.block? p with
        | some r, some t, some b => some { lane := l, pass := p, run := r, thread := t, block := b }
        | _, _, _ => none

/-- What an instruction sees when it fires: where it stands, the tokens it took, and how often it has fired before. -/
structure Site where
  at_ : Firing
  spot : Spot
  toks : List Token
  gen : Nat
  deriving DecidableEq, Repr

/-- The token of a slot; an unfed slot has none. -/
def Site.tok (x : Site) (sl : Slot) : Option Word := ((x.toks.find? (fun t => t.slot = sl)).bind (·.val))

/-- An operand; an unfed slot reads as 0 (R99, R195). R99 speaks of the instructions of *Results II* alone: for those of
*Forward progress II* (MOV, FAN, SEL, STEER, WRITE, RET, JOIN, GFREE, BARINIT, VOTE, slot b of GROW and SHRINK), for slot a of
REDUCE, SCAN and BCAST (R154) and for slots a and b of MBLD, MMA, MSTORE and MREAD (R147-R151) the 0 is the MODEL'S CHOICE (log
75). -/
def Site.operand (x : Site) (sl : Slot) : Word := (x.tok sl).getD 0

/-- Operand a. -/
def Site.a (x : Site) : Word := x.operand .a

/-- Operand b: the immediate, sign-extended, when the instruction carries one (R50). -/
def Site.b (x : Site) (imm : Option Imm) : Word :=
  match imm with
  | some v => v.signExtend 64
  | none => x.operand .b

/-- Operand c. -/
def Site.c (x : Site) : Word := x.operand .c

/-- Operand b of a W-float instruction: an immediate is converted exactly to W (R50). -/
def Site.wb (x : Site) (imm : Option Imm) : WVal :=
  match imm with
  | some v => wOfInt v.toInt
  | none => wRead (x.operand .b)

/-- The accesses that the operands are ordered after (R170). -/
def Site.deps (x : Site) : List Nat := (x.toks.flatMap (·.deps)).dedup

/-- HSEED of the running packet (R38). -/
def State.hseed (s : State) (ctx : Nat) : Word :=
  match (s.ctx? ctx).bind (·.kernelPacket?) with
  | some p => BitVec.ofNat 64 p.hseed
  | none => 0

/-- The random word of HSR for a W-float instruction (R80). -/
def Site.rnd (x : Site) (s : State) : Nat :=
  hsrWord (s.hseed x.at_.ctx) (hsrKeyFloat x.at_.tidx x.gen x.spot.block.blk x.at_.idx)

/-! ### Firing -/

/-- What firing does: it waits with its operands in their slots; it leaves a state, sends tokens and names the accesses
they are ordered after; or it detects a cause (R393). -/
inductive Fired
  | wait
  | ok (s : State) (out : List (Target × Option Word)) (deps : List Nat)
  | bad (s : State) (cause : Nat) (info : Option Nat)

/-- Whether the predicate matches PM (R54). -/
def predOk (f : Fields) (toks : List Token) : Bool :=
  let p := ((toks.find? (fun t => t.slot = .p)).bind (·.val)).getD 0
  match f.pm with
  | .always => true
  | .onTrue => decide (p ≠ 0)
  | .onFalse => decide (p = 0)

/-- Whether some operand is null (R55). -/
def anyNull (toks : List Token) : Bool := toks.any (fun t => t.val.isNone)

/-- A run after an operand set was consumed; `fires` says that the instruction fires on it. -/
def Run.consumed (r : Run) (k : Nat) (fires : Bool) : Run :=
  r.updIdx k (fun i => { i with consumed := i.consumed + 1, fired := if fires then i.fired + 1 else i.fired })

/-- An instruction tried for the thread of the current firing (R53-R55, R393): without an operand set nothing happens; a
null operand sends nulls to the targets; a predicate that does not match sends nothing; else it acts. A null in slot c is a null
on a fed slot and nulls the instruction: MODEL'S CHOICE (log 13), R55 also says that a null serves there as an order token does. -/
def State.fire (f : Fields) (targets : List Target) (act : Site → State → Fired) (s : State) : State :=
  let x := s.cur
  match s.spot? x with
  | none => s
  | some p =>
    match operandSet p.block p.run x.idx with
    | none => s
    | some (toks, r) =>
      let site : Site := { at_ := x, spot := p, toks := toks, gen := (p.run.idx x.idx).fired }
      let occ := p.block.occ
      if anyNull toks then
        s.updRun x (fun _ => sendTokens occ x.idx site.gen site.deps (toAll targets none) (r.consumed x.idx false))
      else if !predOk f toks then s.updRun x (fun _ => r.consumed x.idx false)
      else
        match act site (s.updRun x (fun _ => r.consumed x.idx true)) with
        | .wait => s
        | .ok t out deps => t.updRun x (sendTokens occ x.idx site.gen (site.deps ++ deps).dedup out)
        | .bad t cause info =>
          t.updRun x (fun r => sendTokens occ x.idx site.gen site.deps (toAll targets none)
            (r.record x.idx site.gen cause info))

/-- An instruction that sends one value, computed from its operands, or detects a cause with its index as TINFO (R104). -/
def State.fireValue (f : Fields) (g : Site → State → Except Nat Word) (s : State) : State :=
  s.fire f (Fields.both f) (fun x s =>
    match g x s with
    | .ok v => .ok s (toAll (Fields.both f) (some v)) []
    | .error cause => .bad s cause x.at_.idx)

/-- An instruction that changes its run and sends done tokens. -/
def State.fireRecord (f : Fields) (g : Site → Run → Run) (s : State) : State :=
  s.fire f (Fields.both f) (fun x s => .ok (s.updRun x.at_ (g x)) (doneBoth f) [])

/-- As `fireRecord`, but a second firing for a thread traps with CONFIG/MULTI_EXIT (R302). -/
def State.fireOnce (f : Fields) (act : Site → State → Fired) (s : State) : State :=
  s.fire f (Fields.both f) (fun x s => if 0 < x.gen then .bad s cMultiExit none else act x s)

/-! ### Deferred effects (R180) -/

/-- The 64 KiB page whose translation a store that waits for the deferred stage has used (R347, R348). -/
def DeferredKind.page? : DeferredKind → Option Nat
  | .sStore va _ _ _ _ => some (va / 65536)
  | .hostStore va _ _ => some (va / 65536)
  | .hostAdd va _ _ _ => some (va / 65536)
  | _ => none

/-- Pages added to those whose translations a chunk has used (R348). -/
def addPage (page : Option Nat) (pages : List Nat) : List Nat :=
  match page with
  | some n => if pages.contains n then pages else n :: pages
  | none => pages

/-- A deferred effect recorded under a number that its access already has (R170, R206). -/
def State.deferAs (s : State) (x : Firing) (id : Nat) (deps : List Nat) (kind : DeferredKind) : State :=
  s.updPass x.core x.ctx x.pass (fun p =>
    { p.updRun x.tidx (fun r => { r with
        deferred := r.deferred ++ [{ id := id, tidx := x.tidx, idx := x.idx, kind := kind, before := deps }] })
      with usedPages := addPage kind.page? p.usedPages })

/-- A deferred effect recorded for the thread of a firing; it stands after the accesses `deps` (R181). -/
def State.defer (s : State) (x : Firing) (deps : List Nat) (kind : Nat → DeferredKind) : State :=
  s.updPass x.core x.ctx x.pass (fun p =>
    { p.updRun x.tidx (fun r => { r with
        deferred := r.deferred ++ [{ id := p.nextId, tidx := x.tidx, idx := x.idx, kind := kind p.nextId, before := deps }] })
      with nextId := p.nextId + 1, usedPages := addPage (kind p.nextId).page? p.usedPages })

/-- The number the next access or deferred effect of a firing's pass takes. -/
def Site.nextId (x : Site) : Nat := x.spot.pass.nextId

end Sys2Proof.Machine
end

