-- ==== Sys2Proof/Machine/Flow.lean ====
section
/-! DEFINITION. The dataflow, control and thread instructions (spec/10 R300-R326). What they record takes hold at the commit
of the pass's chunk. -/

namespace Sys2Proof.Machine

/-! ### Moving and making values (R304-R306) -/

/-- MOV (R304). -/
def execMov (f : Fields) (s : State) : Host.Outcome State Fault Refusal :=
  .next (s.fireValue f (fun x _ => .ok x.a))

/-- MOVI (R304). -/
def execMovi (f : Fields) (imm : Imm) (s : State) : Host.Outcome State Fault Refusal :=
  .next (s.fireValue f (fun _ _ => .ok (imm.signExtend 64)))

/-- MOVX (R304). -/
def execMovx (f : Fields) (imm : Word) (s : State) : Host.Outcome State Fault Refusal :=
  .next (s.fireValue f (fun _ _ => .ok imm))

/-- FAN (R304): a to T0-T3. -/
def execFan (f : Fields) (t2 t3 : Option Target) (s : State) : Host.Outcome State Fault Refusal :=
  let ts := Fields.both f ++ t2.toList ++ t3.toList
  .next (s.fire f ts (fun x s => .ok s (toAll ts (some x.a)) []))

/-- NULL (R305). -/
def execNull (f : Fields) (s : State) : Host.Outcome State Fault Refusal :=
  .next (s.fire f (Fields.both f) (fun _ s => .ok s (toAll (Fields.both f) none) []))

/-- READ (R307): the live value as the pass found it. -/
def execRead (f : Fields) (lk : BitVec 6) (s : State) : Host.Outcome State Fault Refusal :=
  .next (s.fire f (Fields.both f) (fun x s =>
    if x.spot.thread.lvsn ≤ lk.toNat then .bad s cLiveSlot none
    else .ok s (toAll (Fields.both f) (some (x.spot.thread.lives.getD lk.toNat 0))) []))

/-- WRITE (R308, R57). The check of its slot against the count after the block stands with the checks made when the
thread has drained, since a GROW or SHRINK of the block may fire after it (log 15). -/
def execWrite (f : Fields) (lk : BitVec 6) (s : State) : Host.Outcome State Fault Refusal :=
  .next (s.fire f [] (fun x s =>
    if 0 < x.gen then .bad s cMultiWrite none
    else .ok (s.updRun x.at_ (fun r => { r with writes := r.writes ++ [(lk.toNat, x.a)] })) [] []))

/-- SEL (R304). -/
def execSel (f : Fields) (imm : Option Imm) (s : State) : Host.Outcome State Fault Refusal :=
  .next (s.fireValue f (fun x _ => .ok (if x.c ≠ 0 then x.a else x.b imm)))

/-- DROP (R306). -/
def execDrop (f : Fields) (s : State) : Host.Outcome State Fault Refusal :=
  .next (s.fire f [] (fun _ s => .ok s [] []))

/-! ### Steering and loops (R309-R313) -/

/-- STEER's outcome on its operand set (R309): the tokens it sends, and whether it fires. -/
def steerOut (f : Fields) (toks : List Token) : List (Target × Option Word) × Bool :=
  let val := fun sl => ((toks.find? (fun t => t.slot = sl)).map (·.val)).getD (some 0)
  match val .p, val .b with
  | none, _ => (toAll (Fields.both f) none, false)
  | _, none => (toAll (Fields.both f) none, false)
  | some _, some b =>
    let side := if b ≠ 0 then f.t0.toList else f.t1.toList
    (match val .a with
     | none => (toAll side none, false)
     | some a => if predOk f toks then (toAll side (some a), true) else ([], false))

/-- STEER tried for the current firing (R309). -/
def State.fireSteer (f : Fields) (s : State) : State :=
  let x := s.cur
  match s.spot? x with
  | none => s
  | some p =>
    match operandSet p.block p.run x.idx with
    | none => s
    | some (toks, r) =>
      s.updRun x (fun _ => sendTokens p.block.occ x.idx (p.run.idx x.idx).fired ((toks.flatMap (·.deps)).dedup)
        (steerOut f toks).1 (r.consumed x.idx (steerOut f toks).2))

/-- STEER (R309). -/
def execSteer (f : Fields) (s : State) : Host.Outcome State Fault Refusal := .next (s.fireSteer f)

/-- What a custom firing does to its run: the run with its operands taken, the tokens to send and their order. -/
structure Taken where
  run : Run
  out : List (Target × Option Word)
  deps : List Nat

/-- An instruction with its own way of taking operands, tried for the current firing. -/
def State.fireTaking (take : Spot → Nat → Option Taken) (s : State) : State :=
  let x := s.cur
  match s.spot? x with
  | none => s
  | some p =>
    match take p x.idx with
    | none => s
    | some t => s.updRun x (fun _ => sendTokens p.block.occ x.idx (p.run.idx x.idx).fired t.deps t.out t.run)

/-- MERGE on its slots (R310). -/
def mergeTake (f : Fields) (p : Spot) (k : Nat) : Option Taken :=
  match takeToken k .c p.run.tokens with
  | none => none
  | some (c, ts) =>
    match c.val with
    | none => some { run := ({ p.run with tokens := ts }).consumed k false, out := toAll (Fields.both f) none, deps := c.deps }
    | some v =>
      match takeToken k (if v ≠ 0 then .a else .b) ts with
      | none => none
      | some (x, us) =>
        some { run := ({ p.run with tokens := us }).consumed k true, out := toAll (Fields.both f) x.val
               deps := (c.deps ++ x.deps).dedup }

/-- MERGE (R310). -/
def execMerge (f : Fields) (s : State) : Host.Outcome State Fault Refusal := .next (s.fireTaking (mergeTake f))

/-- The instructions that targets lead to from a set, the set included. -/
def Wired.reach (g : Wired) : Nat → List Nat → List Nat
  | 0, set => set
  | fuel + 1, set =>
    let next := (set ++ (g.arcs.filter (fun a => set.contains a.src)).map (·.dst)).dedup
    if next.length = set.length then set else Wired.reach g fuel next

/-- The CARRYs of a block. -/
def Wired.carries (g : Wired) : List Nat :=
  (g.instrs.filter (fun x => match x.2 with | .carry _ => true | _ => false)).map (·.1)

/-- The recurrence instructions (R312): the CARRYs, and what lies on a cycle through slot b of one. -/
def Wired.recurrence (g : Wired) : List Nat :=
  let feeders := fun (c : Nat) => (g.arcs.filter (fun a => a.dst = c && a.slot = .b)).map (·.src)
  (g.carries ++ g.carries.flatMap (fun c =>
    (g.reach g.size [c]).filter (fun k => (feeders c).any (fun y => (g.reach g.size [k]).contains y)))).dedup

/-- m of R312: the least number of operand sets that a recurrence instruction has consumed. -/
def leastConsumed (b : Block) (r : Run) : Nat :=
  match b.wired.recurrence.map (fun k => (r.idx k).consumed) with
  | [] => 0
  | n :: ns => ns.foldl min n

/-- CARRY on its slots (R311, R312). -/
def carryTake (f : Fields) (p : Spot) (k : Nat) : Option Taken :=
  let st := p.run.idx k
  if p.block.occ < st.fired - leastConsumed p.block p.run then none
  else
    match takeToken k (if st.looping then .b else .a) p.run.tokens with
    | none => none
    | some (t, ts) =>
      let r := ({ p.run with tokens := ts }).consumed k true
      let out := if st.looping && t.val.isNone then [] else toAll (Fields.both f) t.val
      some { run := r.updIdx k (fun i => { i with looping := t.val.isSome }), out := out, deps := t.deps }

/-- CARRY (R311, R312). -/
def execCarry (f : Fields) (s : State) : Host.Outcome State Fault Refusal := .next (s.fireTaking (carryTake f))

/-- INVAR's hold filled from slot a when it is empty (R313). -/
def invarHold (r : Run) (k : Nat) : Run :=
  match (r.idx k).hold with
  | some _ => r
  | none =>
    match takeToken k .a r.tokens with
    | none => r
    | some (t, ts) => ({ r with tokens := ts }).updIdx k (fun i => { i with hold := some t.val, deps := t.deps })

/-- INVAR on its slots (R313): the hold is filled, and a token in slot b fires it. -/
def invarTake (f : Fields) (p : Spot) (k : Nat) : Option Taken :=
  let r := invarHold p.run k
  match (r.idx k).hold, takeToken k .b r.tokens with
  | some h, some (t, ts) =>
    let null := h.isNone || t.val.isNone
    let r' := ({ r with tokens := ts }).consumed k (!null)
    some { run := if null then r'.updIdx k (fun i => { i with hold := none, deps := [] }) else r'
           out := toAll (Fields.both f) (if null then none else h)
           deps := ((r.idx k).deps ++ t.deps).dedup }
  | _, _ => if r = p.run then none else some { run := r, out := [], deps := [] }

/-- INVAR (R313). -/
def execInvar (f : Fields) (s : State) : Host.Outcome State Fault Refusal := .next (s.fireTaking (invarTake f))

/-! ### Leaving a block (R314-R316) -/

/-- An exit-class instruction that records how its thread leaves; a second one traps (R57, R314). -/
def State.fireExit (f : Fields) (g : Site → State → Except Nat ExitRec) (s : State) : State :=
  s.fire f [] (fun x s =>
    if x.spot.run.exit.isSome then .bad s cMultiExit none
    else
      match g x s with
      | .error cause => .bad s cause none
      | .ok e => .ok (s.updRun x.at_ (fun r => { r with exit := some (x.at_.idx, e) })) [] [])

/-- EXIT (R314). -/
def execExit (f : Fields) (xn : BitVec 3) (s : State) : Host.Outcome State Fault Refusal :=
  .next (s.fireExit f (fun _ _ => .ok (.exit xn.toNat)))

/-- CALL (R314). Its slot is checked with the WRITEs' when the thread has drained (log 15). -/
def execCall (f : Fields) (lk : BitVec 6) (xr xn : BitVec 3) (s : State) : Host.Outcome State Fault Refusal :=
  .next (s.fireExit f (fun _ _ => .ok (.call xn.toNat lk.toNat xr.toNat)))

/-- RET (R314): its link is checked at the end of the pass. -/
def execRet (f : Fields) (s : State) : Host.Outcome State Fault Refusal :=
  .next (s.fireExit f (fun x _ => .ok (.ret x.at_.idx x.a)))

/-- END (R314). -/
def execEndThread (f : Fields) (s : State) : Host.Outcome State Fault Refusal :=
  .next (s.fireExit f (fun _ _ => .ok .ended))

/-- YIELD (R316). -/
def execYield (f : Fields) (s : State) : Host.Outcome State Fault Refusal :=
  .next (s.fireOnce f (fun x s => .ok (s.updRun x.at_ (fun r => { r with yielded := true })) (doneBoth f) []))

/-! ### Flags (R318, R319) -/

/-- TEST (R319): the flags as they stand. -/
def execTest (f : Fields) (mode : TestMode) (mask : BitVec 12) (s : State) : Host.Outcome State Fault Refusal :=
  .next (s.fireValue f (fun x _ => .ok (if testFlags mode x.spot.thread.flags mask then 1 else 0)))

/-- SETF (R318). -/
def execSetf (f : Fields) (mask : BitVec 12) (s : State) : Host.Outcome State Fault Refusal :=
  .next (s.fireRecord f (fun x r => { r with flagOps := r.flagOps ++ [(x.at_.idx, true, mask)] }))

/-- CLRF (R318). -/
def execClrf (f : Fields) (mask : BitVec 12) (s : State) : Host.Outcome State Fault Refusal :=
  .next (s.fireRecord f (fun x r => { r with flagOps := r.flagOps ++ [(x.at_.idx, false, mask)] }))

/-! ### Deferred effects (R180) and SPAWN (R317) -/

/-- SPAWN (R317). -/
def execSpawn (f : Fields) (xn : BitVec 3) (s : State) : Host.Outcome State Fault Refusal :=
  .next (s.fire f (Fields.both f) (fun x s =>
    .ok (s.defer x.at_ x.deps (fun _ => .spawn (x.spot.block.exitBlock xn.toNat) (x.tok .a) (x.tok .b) (x.tok .c) 0))
      (doneBoth f) [x.nextId]))

/-! ### Groups (R321-R324) -/

/-- A group operation recorded, at most once for a thread (R302). -/
def State.fireGroup (f : Fields) (op : Site → GroupOp) (s : State) : State :=
  s.fireOnce f (fun x s =>
    .ok (s.updRun x.at_ (fun r => { r with groupOps := r.groupOps ++ [(x.at_.idx, op x)] })) (doneBoth f) [])

/-- GNEW (R321). -/
def execGnew (f : Fields) (s : State) : Host.Outcome State Fault Refusal := .next (s.fireGroup f (fun _ => .gnew))

/-- GFREE (R321). -/
def execGfree (f : Fields) (s : State) : Host.Outcome State Fault Refusal := .next (s.fireGroup f (fun x => .gfree x.a))

/-- JOIN (R321). -/
def execJoin (f : Fields) (s : State) : Host.Outcome State Fault Refusal := .next (s.fireGroup f (fun x => .join x.a))

/-- LEAVE (R321). -/
def execLeave (f : Fields) (s : State) : Host.Outcome State Fault Refusal := .next (s.fireGroup f (fun _ => .leave))

/-- BARINIT (R321). -/
def execBarinit (f : Fields) (s : State) : Host.Outcome State Fault Refusal := .next (s.fireGroup f (fun x => .barinit x.a))

/-- BAR (R323): a source with no effect of its own; the block's holding it makes the thread arrive at commit. -/
def execBar (f : Fields) (s : State) : Host.Outcome State Fault Refusal :=
  .next (s.fire f [] (fun _ s => .ok s [] []))

/-- A contribution to a collective (R155): once for a thread, into a slot below the granted count. -/
def State.fireContribution (f : Fields) (ls : Nat) (g : Site → Word) (s : State) : State :=
  s.fire f [] (fun x s =>
    if 0 < x.gen then .bad s cMultiExit none
    else if x.spot.thread.lvsn ≤ ls then .bad s cLiveSlot none
    else .ok (s.updRun x.at_ (fun r => { r with contribs := r.contribs ++ [(x.at_.idx, g x)] })) [] [])

/-- ELECT (R324). -/
def execElect (f : Fields) (ls : BitVec 6) (s : State) : Host.Outcome State Fault Refusal :=
  .next (s.fireContribution f ls.toNat (fun x => x.a))

/-- VOTE (R324). -/
def execVote (f : Fields) (_opk : VoteOp) (ls : BitVec 6) (s : State) : Host.Outcome State Fault Refusal :=
  .next (s.fireContribution f ls.toNat (fun x => x.a))

/-! ### Live-slot count (R325) and SREAD (R326) -/

/-- The slot count a kernel declares (R28, R63); 4 where no packet runs. -/
def State.declared (s : State) (ctx : Nat) : Nat :=
  match (s.ctx? ctx).bind (·.kernelPacket?) with
  | some p => p.slots
  | none => 4

/-- GROW (R325). -/
def execGrow (f : Fields) (imm : Option Imm) (s : State) : Host.Outcome State Fault Refusal :=
  .next (s.fireOnce f (fun x s =>
    let b := (x.b imm).toNat
    if b < 4 || 64 < b then .bad s cLiveSlot none
    else .ok (s.updRun x.at_ (fun r => { r with lvOp := some (.grow b) })) (doneBoth f) []))

/-- SHRINK (R325). -/
def execShrink (f : Fields) (imm : Option Imm) (s : State) : Host.Outcome State Fault Refusal :=
  .next (s.fireOnce f (fun x s =>
    let b := (x.b imm).toNat
    if b < s.declared x.at_.ctx || 64 < b then .bad s cLiveSlot none
    else .ok (s.updRun x.at_ (fun r => { r with lvOp := some (.shrink b) })) (doneBoth f) []))

/-- The region a context holds or shares (R338, R406). -/
def State.region? (s : State) (ctx : Nat) : Option Region :=
  s.regions.find? (fun r => r.holder = ctx || r.sharer = some ctx)

/-- A region in the encoding of SREAD selector 3 (R36). -/
def Region.code (r : Region) : Nat := r.row * 2 ^ 25 + r.col * 2 ^ 20 + (r.h - 1) * 2 ^ 10 + (r.w - 1)

/-- The value of an SREAD selector (R36, R326). -/
def sreadValue (x : Site) (s : State) (which : Nat) : Nat :=
  let dims := match (s.ctx? x.at_.ctx).bind (·.kernelPacket?) with
    | some p => p.dims
    | none => (1, 1, 1)
  match which with
  | 0 => x.at_.tidx
  | 1 => x.spot.thread.rslot
  | 2 => x.at_.core
  | 3 => (match s.region? x.at_.ctx with
          | some r => r.code
          | none => 0)
  | 4 => x.at_.ctx
  | 5 => x.spot.thread.group.getD 127
  | 6 => x.spot.run.pseq
  | 7 => dims.1
  | 8 => dims.2.1
  | 9 => dims.2.2
  | 10 => x.spot.thread.lvsn
  | 11 => x.spot.thread.flags.toNat
  | _ => 0

/-- SREAD (R326). -/
def execSread (f : Fields) (which : BitVec 4) (s : State) : Host.Outcome State Fault Refusal :=
  .next (s.fireValue f (fun x s => .ok (BitVec.ofNat 64 (sreadValue x s which.toNat))))

end Sys2Proof.Machine
end

