-- ==== Sys2Proof/Machine/Collect.lean ====
section
/-! DEFINITION. The group collectives (spec/05 R154-R156, spec/10 R324): the contributions, and the results that a generation
writes. -/

namespace Sys2Proof.Machine

/-! ### Contributions (R155) -/

/-- REDUCE (R154). -/
def execReduce (f : Fields) (_opk : FoldOp) (_ty : IntTy) (_rm : RMode) (ls : BitVec 6) (s : State) :
    Host.Outcome State Fault Refusal :=
  .next (s.fireContribution f ls.toNat (fun x => x.a))

/-- SCAN (R154). -/
def execScan (f : Fields) (_opk : FoldOp) (_ty : IntTy) (_rm : RMode) (ls : BitVec 6) (_exclusive : Bool) (s : State) :
    Host.Outcome State Fault Refusal :=
  .next (s.fireContribution f ls.toNat (fun x => x.a))

/-- BCAST (R154). -/
def execBcast (f : Fields) (ls : BitVec 6) (s : State) : Host.Outcome State Fault Refusal :=
  .next (s.fireContribution f ls.toNat (fun x => x.a))

/-! ### Folds (R156) -/

/-- A word as a fold writes it: put of the type, or canonicalised. -/
def foldNormal (op : FoldOp) (ty : IntTy) (x : Word) : Word :=
  match op with
  | .fadd | .fmin | .fmax => wCanon x
  | _ => put ty (val ty x)

/-- One step of a fold; `u` is the random word of HSR. -/
def foldStep (op : FoldOp) (ty : IntTy) (rm : RMode) (u : Nat) (acc x : Word) : Word :=
  match op with
  | .add => put ty (val ty acc + val ty x)
  | .min => resMin ty acc x
  | .max => resMax ty acc x
  | .and => resAnd ty acc x
  | .or => resOr ty acc x
  | .xor => resXor ty acc x
  | .fadd => wAdd rm u (wRead acc) (wRead x)
  | .fmin => resFminmax true false (wRead acc) (wRead x)
  | .fmax => resFminmax false false (wRead acc) (wRead x)

/-- The identity of an exclusive scan. -/
def foldIdentity (op : FoldOp) (ty : IntTy) : Word :=
  match op with
  | .add | .or | .xor => 0
  | .min => put ty (tyHi ty)
  | .max => put ty (tyLo ty)
  | .and => put ty (-1)
  | .fadd => wZero true
  | .fmin => wInf false
  | .fmax => wInf true

/-- Every prefix fold of a list of contributions, each with its thread: the fold up to and with it. -/
def prefixFolds (step : Nat → Word → Word → Word) : Option Word → List (Nat × Word) → List (Nat × Word)
  | _, [] => []
  | none, (t, x) :: rest => (t, x) :: prefixFolds step (some x) rest
  | some acc, (t, x) :: rest => (t, step t acc x) :: prefixFolds step (some (step t acc x)) rest

/-- The results of a collective for its contributions in ascending thread index (R156, R324): thread, slot and value. `rnd`
gives the random word for the thread that contributes. -/
def collectResults (i : Instr) (rnd : Nat → Nat) (cs : List (Nat × Word)) : List (Nat × Nat × Word) :=
  match i with
  | .reduce _ op ty rm ls =>
    let folds := prefixFolds (fun t acc x => foldStep op ty rm (rnd t) acc x) none cs
    (match folds.getLast? with
     | none => []
     | some r => cs.map (fun c => (c.1, ls.toNat, foldNormal op ty r.2)))
  | .scan _ op ty rm ls exclusive =>
    let folds := (prefixFolds (fun t acc x => foldStep op ty rm (rnd t) acc x) none cs).map (fun r => foldNormal op ty r.2)
    let out := if exclusive then foldNormal op ty (foldIdentity op ty) :: folds else folds
    (cs.zip out).map (fun p => (p.1.1, ls.toNat, p.2))
  | .bcast _ ls =>
    (match cs with
     | [] => []
     | c :: _ => cs.map (fun d => (d.1, ls.toNat, c.2)))
  | .elect _ ls => cs.mapIdx (fun k c => (c.1, ls.toNat, if k = 0 then 1 else 0))
  | .vote _ opk ls =>
    let n := (cs.filter (fun c => c.2 ≠ 0)).length
    let r : Word := match opk with
      | .any => if n = 0 then 0 else 1
      | .all => if n = cs.length then 1 else 0
      | .cnt => BitVec.ofNat 64 n
    cs.map (fun c => (c.1, ls.toNat, r))
  | _ => []

/-- Contributions in ascending thread index. -/
def insertByThread (c : Nat × Word) : List (Nat × Word) → List (Nat × Word)
  | [] => [c]
  | d :: ds => if c.1 < d.1 then c :: d :: ds else d :: insertByThread c ds

/-- The results of every collective of a generation (R155): the instructions in turn, each by block and index. -/
def generationResults (hseed : Word) (cs : List Contribution) : List (Nat × Nat × Word) :=
  let sites := (cs.map (fun c => (c.blk, c.idx, c.instr))).dedup
  sites.flatMap (fun st =>
    let mine := (cs.filter (fun c => c.blk = st.1 && c.idx = st.2.1)).foldr (fun c l => insertByThread (c.tidx, c.val) l) []
    collectResults st.2.2 (fun t => hsrWord hseed (hsrKeyFloat t 0 st.1 st.2.1)) mine)

end Sys2Proof.Machine
end

