-- ==== Sys2Proof/Machine/Formats.lean ====
section
/-! DEFINITION. The storage formats (spec/03 R81-R93): what a load gives for the bits of an element, the bits a store
writes, and blocks of 32 elements that share a scale. -/

namespace Sys2Proof.Machine

/-! ### IEEE-style formats (R84-R88) -/

/-- The layout of an IEEE-style format (R84): exponent bits, mantissa bits, bias, whether it has infinities, the NaN an
encode writes, and the magnitude bits of the greatest finite value. -/
structure IeeeLayout where
  ne : Nat
  nm : Nat
  bias : Int
  inf : Bool
  nan : Nat
  top : Nat
  deriving DecidableEq, Repr

/-- The parameters of R84; an E2M1 encode writes 0 for NaN (R88). -/
def ieeeLayout : Fmt → Option IeeeLayout
  | .fp32 => some { ne := 8, nm := 23, bias := 127, inf := true, nan := 0x7FC00000, top := 0x7F7FFFFF }
  | .fp16 => some { ne := 5, nm := 10, bias := 15, inf := true, nan := 0x7E00, top := 0x7BFF }
  | .bf16 => some { ne := 8, nm := 7, bias := 127, inf := true, nan := 0x7FC0, top := 0x7F7F }
  | .e4m3 => some { ne := 4, nm := 3, bias := 7, inf := false, nan := 0x7F, top := 0x7E }
  | .e5m2 => some { ne := 5, nm := 2, bias := 15, inf := true, nan := 0x7E, top := 0x7B }
  | .e2m1 => some { ne := 2, nm := 1, bias := 1, inf := false, nan := 0, top := 7 }
  | _ => none

/-- The magnitude of an exponent and a mantissa field, in units of the least subnormal (R85). -/
def ieeeUnits (l : IeeeLayout) (mag : Nat) : Nat :=
  let e := mag / 2 ^ l.nm
  let m := mag % 2 ^ l.nm
  if e = 0 then m else (2 ^ l.nm + m) * 2 ^ (e - 1)

/-- decode_ieee (R85). Only the format without infinities and with NaN, E4M3, has its NaN at all ones (R84). -/
def ieeeDecode (l : IeeeLayout) (bits : Nat) : WVal :=
  let neg := decide (bits / 2 ^ (l.ne + l.nm) % 2 = 1)
  let mag := bits % 2 ^ (l.ne + l.nm)
  if l.inf && decide (mag / 2 ^ l.nm = 2 ^ l.ne - 1) then (if mag % 2 ^ l.nm = 0 then .inf neg else .nan)
  else if !l.inf && decide (mag = l.nan) && decide (l.nan ≠ 0) then .nan
  else .fin neg (ieeeUnits l mag) (1 - l.bias - l.nm)

/-- overflow() of R86; E2M1, which writes no NaN, always gives its greatest value (R88). With `sat` it follows the table of R86, the
greatest finite value: MODEL'S CHOICE (log 90), the words of R95, either sat, taken alone would give IEEE 754's infinity. -/
def ieeeOverflow (l : IeeeLayout) (neg : Bool) (mode : RMode) (sat : Bool) : Nat :=
  let sign := if neg then 2 ^ (l.ne + l.nm) else 0
  let toInf : Bool := match mode with
    | .rne | .rna | .hsr => true
    | .rtz => false
    | .rup => !neg
    | .rdn => neg
  if sat || decide (l.nan = 0) || !toInf then sign + l.top
  else if l.inf then sign + (2 ^ l.ne - 1) * 2 ^ l.nm
  else l.nan

/-- The magnitude bits of a magnitude in units of the least subnormal. -/
def ieeePack (l : IeeeLayout) (k : Nat) : Nat :=
  if k < 2 ^ l.nm then k
  else
    let e := nbits k - l.nm
    e * 2 ^ l.nm + (k / 2 ^ (e - 1) - 2 ^ l.nm)

/-- The encoding of a finite magnitude m x 2^e, with a part below 2^e when `sticky` (R86). -/
def ieeeFinite (l : IeeeLayout) (mode : RMode) (u : Nat) (sat neg : Bool) (m : Nat) (e : Int) (sticky : Bool) : Nat :=
  let sign := if neg then 2 ^ (l.ne + l.nm) else 0
  if m = 0 then sign
  else
    let least := 1 - l.bias - (l.nm : Int)
    let g := max (wExp m e - l.nm) least
    let k := roundGrid mode u neg m e g sticky * 2 ^ (g - least).toNat
    if ieeeUnits l l.top < k then ieeeOverflow l neg mode sat else sign + ieeePack l k

/-- encode_ieee (R86, R88). -/
def ieeeEncode (l : IeeeLayout) (mode : RMode) (u : Nat) (sat : Bool) : WVal → Nat
  | .nan => l.nan
  | .inf neg =>
    if l.inf && !sat then (if neg then 2 ^ (l.ne + l.nm) else 0) + (2 ^ l.ne - 1) * 2 ^ l.nm
    else if !l.inf && decide (l.nan ≠ 0) && !sat then l.nan
    else ieeeOverflow l neg .rtz sat
  | .fin neg m e => ieeeFinite l mode u sat neg m e false

/-! ### Tapered formats (R89) -/

/-- The number of consecutive bits equal to `first` among the low `b` bits, from the highest downward. -/
def bitRun (first : Nat) : Nat → Nat → Nat
  | 0, _ => 0
  | b + 1, mag => if mag / 2 ^ b % 2 = first then bitRun first b mag + 1 else 0

/-- The value of a nonzero magnitude pattern of b bits: the fraction 2^nf + f and its exponent (R89). -/
def tapMag (b mag : Nat) : Nat × Int :=
  let first := mag / 2 ^ (b - 1) % 2
  let run := bitRun first b mag
  let k : Int := if first = 1 then (run : Int) - 1 else -(run : Int)
  let cnt := b - run - 1
  let rest := mag % 2 ^ cnt
  if 2 ≤ cnt then
    let nf := cnt - 2
    (2 ^ nf + rest % 2 ^ nf, 4 * k + ((rest / 2 ^ nf : Nat) : Int) - nf)
  else (1, 4 * k + ((rest * 2 ^ (2 - cnt) : Nat) : Int))

/-- decode_tapered (R89). -/
def tapDecode (n bits : Nat) : WVal :=
  let neg := decide (bits / 2 ^ (n - 1) % 2 = 1)
  let mag := bits % 2 ^ (n - 1)
  if mag = 0 then (if neg then .nan else .fin false 0 0)
  else .fin neg (tapMag (n - 1) mag).1 (tapMag (n - 1) mag).2

/-- A magnitude pattern's value in units of 2^-32. -/
def tapUnits (b mag : Nat) : Nat := (tapMag b mag).1 * 2 ^ ((tapMag b mag).2 + 32).toNat

/-- The pattern nearest a finite nonzero magnitude m x 2^e, with a part below 2^e when `sticky` (R89): 1, and one more for
each boundary between neighbours that the magnitude passes. -/
def tapNearest (b : Nat) (m : Nat) (e : Int) (sticky : Bool) : Nat :=
  if 40 < wExp m e then 2 ^ b - 1
  else if wExp m e < -40 then 1
  else
    let s := e + 33
    let x := if 0 ≤ s then m * 2 ^ s.toNat else m / 2 ^ (-s).toNat
    let more := sticky || (decide (s < 0) && decide (m % 2 ^ (-s).toNat ≠ 0))
    1 + (List.range (2 ^ b - 2)).countP (fun i =>
      let mid := tapUnits b (i + 1) + tapUnits b (i + 2)
      decide (mid < x) || (decide (mid = x) && (more || decide ((i + 1) % 2 = 1))))

/-- The encoding of a finite magnitude in a tapered format (R89). -/
def tapFinite (n : Nat) (neg : Bool) (m : Nat) (e : Int) (sticky : Bool) : Nat :=
  if m = 0 then 0 else (if neg then 2 ^ (n - 1) else 0) + tapNearest (n - 1) m e sticky

/-- encode_tapered (R89). -/
def tapEncode (n : Nat) : WVal → Nat
  | .nan | .inf _ => 2 ^ (n - 1)
  | .fin neg m e => tapFinite n neg m e false

/-! ### Scales (R90) -/

/-- S12 decoded (R90); bits [15:12] of the container are ignored (R83). -/
def s12Decode (bits : Nat) : WVal :=
  let b := bits % 4096
  if b = 0xFFF then .nan else .fin false (16 + b % 16) (((b / 16 : Nat) : Int) - 131)

/-- E8M0 decoded (R90). -/
def e8m0Decode (bits : Nat) : WVal :=
  let b := bits % 256
  if b = 0xFF then .nan else .fin false 1 ((b : Int) - 127)

/-- A positive magnitude rounded to the S12 grid (R90). -/
def s12Finite (mode : RMode) (u : Nat) (m : Nat) (e : Int) (sticky : Bool) : Nat :=
  if m = 0 || decide (wExp m e < -127) then 0
  else if 128 < wExp m e then 0xFFE
  else
    let k := wExp m e
    let q := roundGrid mode u false m e (k - 4) sticky
    min (((k + 127) * 16 + ((q : Int) - 16)).toNat) 0xFFE

/-- A positive magnitude rounded to the E8M0 grid (R90). -/
def e8m0Finite (mode : RMode) (u : Nat) (m : Nat) (e : Int) : Nat :=
  if m = 0 || decide (wExp m e < -127) then 0
  else if 127 < wExp m e then 0xFE
  else
    let k := nbits m - 1
    let c := (wExp m e + 127).toNat
    min (if roundUp mode u false (c % 2 = 1) (m - 2 ^ k) k false then c + 1 else c) 0xFE

/-- A standalone store into S12 or E8M0 (R90). -/
def scaleEncode (s12 : Bool) (mode : RMode) (u : Nat) : WVal → Nat
  | .nan | .inf _ => if s12 then 0xFFF else 0xFF
  | .fin neg m e =>
    if neg && decide (m ≠ 0) then (if s12 then 0xFFF else 0xFF)
    else if s12 then s12Finite mode u m e false else e8m0Finite mode u m e

/-! ### One element -/

/-- The bits of an element (R82, R83); an S12 element is counted with its container. -/
def fmtBits : Fmt → Nat
  | .raw64 => 64
  | .i8 | .n8 | .e4m3 | .e5m2 | .t8 | .e8m0 => 8
  | .i16 | .n16 | .fp16 | .bf16 | .s12 => 16
  | .i32 | .n32 | .fp32 => 32
  | .e2m1 => 4
  | .t6 => 6

/-- The value of an element of a floating format (R85, R89, R90). -/
def fmtVal (fmt : Fmt) (bits : Nat) : WVal :=
  match ieeeLayout fmt with
  | some l => ieeeDecode l bits
  | none =>
    match fmt with
    | .t8 => tapDecode 8 bits
    | .t6 => tapDecode 6 bits
    | .s12 => s12Decode bits
    | .e8m0 => e8m0Decode bits
    | _ => wRead (BitVec.ofNat 64 bits)

/-- The token a load gives for the bits of an element (R81, R82). -/
def fmtDecode (fmt : Fmt) (bits : Nat) : Word :=
  match fmt with
  | .raw64 => BitVec.ofNat 64 bits
  | .i8 => (BitVec.ofNat 8 bits).signExtend 64
  | .i16 => (BitVec.ofNat 16 bits).signExtend 64
  | .i32 => (BitVec.ofNat 32 bits).signExtend 64
  | .n8 => (BitVec.ofNat 8 bits).setWidth 64
  | .n16 => (BitVec.ofNat 16 bits).setWidth 64
  | .n32 => (BitVec.ofNat 32 bits).setWidth 64
  | f => wWrite (fmtVal f bits)

/-- An integer element stored from a word: truncated, or clamped under SAT 1 (R81). -/
def intEncode (signed : Bool) (n : Nat) (sat : Bool) (v : Word) : Nat :=
  if !sat then v.toNat % 2 ^ n
  else if signed then (BitVec.ofInt n (min (max v.toInt (-(2 ^ (n - 1)))) (2 ^ (n - 1) - 1))).toNat
  else min v.toNat (2 ^ n - 1)

/-- The bits a store writes for a word (R81, R86, R89, R90). -/
def fmtEncode (fmt : Fmt) (mode : RMode) (u : Nat) (sat : Bool) (v : Word) : Nat :=
  match fmt with
  | .raw64 => v.toNat
  | .i8 => intEncode true 8 sat v
  | .i16 => intEncode true 16 sat v
  | .i32 => intEncode true 32 sat v
  | .n8 => intEncode false 8 sat v
  | .n16 => intEncode false 16 sat v
  | .n32 => intEncode false 32 sat v
  | .t8 => tapEncode 8 (wRead v)
  | .t6 => tapEncode 6 (wRead v)
  | .s12 => scaleEncode true mode u (wRead v)
  | .e8m0 => scaleEncode false mode u (wRead v)
  | f =>
    match ieeeLayout f with
    | some l => ieeeEncode l mode u sat (wRead v)
    | none => v.toNat

/-! ### Block-scaled data (R91-R93) -/

/-- A scaled element (R92). -/
def scaledVal (elem scale : WVal) : WVal := wProduct elem scale

/-- The greatest finite value of an element format, as an odd number and an exponent (R84, R89). -/
def elemMax : Fmt → Nat × Int
  | .e4m3 => (7, 6)
  | .e5m2 => (7, 13)
  | .e2m1 => (3, 1)
  | .t8 => (1, 24)
  | _ => (1, 16)

/-- emax of R93. -/
def elemEmax : Fmt → Int
  | .e4m3 => 8
  | .e5m2 => 15
  | .e2m1 => 2
  | .t8 => 24
  | _ => 16

/-- The greater of two magnitudes. -/
def magMax (a b : Nat × Int) : Nat × Int :=
  if a.1 = 0 then b
  else if b.1 = 0 then a
  else
    let e := min a.2 b.2
    if a.1 * 2 ^ (a.2 - e).toNat < b.1 * 2 ^ (b.2 - e).toNat then b else a

/-- amax, or none when a value is NaN or infinite (R93). -/
def blockMax : List WVal → Option (Nat × Int)
  | [] => some (0, 0)
  | .fin _ m e :: vs =>
    match blockMax vs with
    | some a => some (magMax (m, e) a)
    | none => none
  | _ :: _ => none

/-- The scale's code for an amax (R93). -/
def blockScale (ef : Fmt) (s12 : Bool) (amax : Nat × Int) : Nat :=
  if amax.1 = 0 then 0
  else if s12 then
    let p := amax.1 * 2 ^ 200
    let f := elemMax ef
    s12Finite .rup 0 (p / f.1) (amax.2 - 200 - f.2) (p % f.1 ≠ 0)
  else (min (max (wExp amax.1 amax.2 - elemEmax ef) (-127)) 127 + 127).toNat

/-- The encode, with saturation, of the exact quotient of a value and a finite scale (R93). -/
def quotEncode (ef : Fmt) (mode : RMode) (u : Nat) (v scale : WVal) : Nat :=
  match v, scale with
  | .fin neg m e, .fin _ n f =>
    let p := m * 2 ^ 200
    let q := p / n
    let sticky := decide (p % n ≠ 0)
    (match ieeeLayout ef with
     | some l => ieeeFinite l mode u true neg q (e - 200 - f) sticky
     | none => tapFinite (fmtBits ef) neg q (e - 200 - f) sticky)
  | _, _ => 0

/-- A scaled store of a block (R93): the scale's code and the elements' codes, for the values and the random word of
each element. -/
def scaledBlock (ef : Fmt) (s12 : Bool) (mode : RMode) (vs : List (WVal × Nat)) : Nat × List Nat :=
  match blockMax (vs.map (·.1)) with
  | none => (if s12 then 0xFFF else 0xFF, vs.map (fun _ => 0))
  | some amax =>
    let code := blockScale ef s12 amax
    let scale := if s12 then s12Decode code else e8m0Decode code
    (code, vs.map (fun v => quotEncode ef mode v.2 v.1 scale))

end Sys2Proof.Machine
end

