-- ==== Sys2Proof/Machine/Translate.lean ====
section
/-! DEFINITION. Translation of a context's virtual addresses (spec/11 R342-R347): the walk with the conditions it records,
the entries a TLB may still hold, the group of a 2 MiB page, and the range locks an access meets (R188). -/

namespace Sys2Proof.Machine

/-- What a leaf maps. -/
inductive MemType
  | device
  | outside
  deriving DecidableEq, Repr

/-- The outcome of a translation: a cause; a page marked migrate-on-touch (its physical address); or a physical address
with the key index of a device page. -/
inductive Trans
  | bad (cause : Nat)
  | mot (pa : Nat) (big : Bool)
  | ok (pa : Nat) (key : Nat) (mt : MemType)
  deriving DecidableEq, Repr

/-- The first and last byte's bound of a range word, when it is in use (R330). -/
def rangeSpan (r : Nat) : Option (Nat × Nat) :=
  if field r 63 1 = 1 then some (field r 0 36 * 65536, (field r 0 36 + field r 36 26 + 1) * 65536) else none

/-- An access of a context that leaves for its host: through the host port of its function, under that function's requester ID and
with its PASID when it has one (R356). Peer memory is no host's. -/
def State.noteSent (s : State) (ctx pa len : Nat) (write : Bool) : State :=
  match physKind pa, s.ctx? ctx with
  | .host _, some c =>
    { s with hostSent := some { port := c.func / 32, requester := c.func / 32 * 256 + c.func % 32
                                pasid := if c.pasid = 0 then none else some c.pasid, write := write, pa := pa, len := len } }
  | _, _ => s

/-- Whether bytes [a, a + n) lie wholly in the ranges together, by at most `fuel` of them in turn. -/
def coveredBy (ranges : List Nat) : Nat → Nat → Nat → Bool
  | 0, _, n => n = 0
  | fuel + 1, a, n =>
    if n = 0 then true
    else
      match (ranges.filterMap rangeSpan).find? (fun r => r.1 ≤ a && a < r.2) with
      | none => false
      | some r => coveredBy ranges fuel r.2 (a + n - r.2)

/-- Whether bytes [a, a + n) lie wholly in a list of at most sixteen ranges. -/
def inRanges (ranges : List Nat) (a n : Nat) : Bool := coveredBy ranges 17 a n

/-- The key index of a context's key slot (R351). -/
def Context.keyIndex (c : Context) (slot : Nat) : Nat := c.keys.getD slot 0

/-- A leaf found by a walk: its level and its entry. -/
structure Leaf where
  level : Nat
  entry : Nat
  deriving DecidableEq, Repr

/-- The fields of a table entry (R343). -/
def entryAddr (e : Nat) : Nat := field e 16 36 * 65536
/-- Reserved bits. -/
def entryReserved (e : Nat) : Bool :=
  field e 63 1 ≠ 0 || field e 52 7 ≠ 0 || field e 10 6 ≠ 0 || field e 2 2 ≠ 0

/-- One level of the walk (R344), with the entries left to read: the indices, the level and the table's address. -/
def walkFrom (s : State) (c : Context) (k : AccKind) : Nat → Nat → Nat → List Nat → Except Nat Leaf
  | _, _, _, [] => .error (memCause k reasonNotPresent)
  | level, table, size, i :: is =>
    if !inRanges c.ranges table size then .error (memCause k reasonIsolation)
    else
      let at_ := table + 8 * i
      if !s.linkUp at_ then .error (memCause k reasonLinkLost)
      else
        match s.readFault at_ (c.keyIndex 0) k with
        | some cause => .error cause
        | none =>
          let e := leNat (s.bytesAt at_ 8)
          if e % 2 = 0 then .error (memCause k reasonNotPresent)
          else if field e 1 1 = 1 then .ok { level := level, entry := e }
          else if entryReserved e || field e 59 4 ≠ 0 || field e 4 6 ≠ 0 then .error (memCause k reasonNotPresent)
          else walkFrom s c k (level + 1) (entryAddr e) 65536 is

/-- The indices of a virtual address, root first (R342). -/
def vaIndices (va : Nat) : List Nat := [field va 42 15, field va 29 13, field va 16 13]

/-- The walk of a virtual address: a leaf, or the cause of the condition that ends it (R342, R344). -/
def walk (s : State) (c : Context) (va : Nat) (k : AccKind) : Except Nat Leaf :=
  walkFrom s c k 0 (c.root * 2 ^ 18) (2 ^ 18) (vaIndices va)

/-- The permission test of a leaf (R344). -/
def leafPermits (e : Nat) (k : AccKind) : Bool :=
  let rd := field e 4 1 = 1
  let w := field e 5 1 = 1
  match k with
  | .load => rd
  | .store => w
  | .rmw => rd && w
  | .fetch => field e 6 1 = 1

/-- The host port of a context's function. -/
def Context.port (c : Context) : Nat := c.func / 32

/-- Every condition that a valid leaf meets on an access of an address, as reasons (R344). Whether device memory exists is asked of
the address that the translation yields (R238). -/
def leafReasons (s : State) (c : Context) (va : Nat) (l : Leaf) (k : AccKind) : List Nat :=
  let e := l.entry
  let base := entryAddr e
  let size := if l.level = 1 then 2 ^ 29 else 65536
  let mt := field e 59 2
  let kind := physKind base
  let isolation : Bool := match mt with
    | 0 => !inRanges c.ranges base size || decide (c.nkey < field e 61 2)
    | 1 => decide (kind ≠ .host c.port)
    | 2 => (match kind with
            | .peer q => decide (c.peers / 2 ^ q % 2 = 0)
            | _ => false)
    | _ => false
  let agrees : Bool := match mt, kind with
    | 0, .fast _ => true
    | 0, .capacity _ => true
    | 1, .host _ => true
    | 2, .peer _ => true
    | _, _ => false
  let exists_ : Bool := if mt = 0 then s.devicePresent (base + va % size) else true
  let inCapacity : Bool := match kind with
    | .capacity _ => true
    | _ => false
  let absent := entryReserved e || decide (l.level = 0) || !agrees || !exists_
    || (decide (field e 8 1 = 1) && !inCapacity) || (decide (l.level = 1) && decide (field e 7 1 = 1))
    || (decide (l.level = 1) && decide (base % 2 ^ 29 ≠ 0))
  let lost := decide (field e 9 1 = 1) || !s.linkUp base
  (if isolation then [reasonIsolation] else []) ++ (if leafPermits e k then [] else [reasonPermission]) ++
  (if absent then [reasonNotPresent] else []) ++ (if lost then [reasonLinkLost] else [])

/-- The outcome of an access through a leaf (R344). -/
def leafOutcome (s : State) (c : Context) (va : Nat) (k : AccKind) (l : Leaf) : Trans :=
  match leafReasons s c va l k with
  | r :: _ => .bad (memCause k r)
  | [] =>
    let size := if l.level = 1 then 2 ^ 29 else 65536
    let pa := entryAddr l.entry + va % size
    if field l.entry 8 1 = 1 then .mot pa (l.level = 1)
    else .ok pa (c.keyIndex (field l.entry 61 2)) (if field l.entry 59 2 = 0 then .device else .outside)

/-- A leaf as the TLBs hold it for an address. -/
def Leaf.toTlb (l : Leaf) (ctx va : Nat) : TlbEntry :=
  { ctx := ctx, page := if l.level = 1 then va / 2 ^ 29 * 2 ^ 13 else va / 65536, level := l.level, entry := l.entry }

/-- The pages that a TLB entry serves: 512 MiB of a level-1 leaf, 2 MiB of a group, else one page (R343, R345). -/
def TlbEntry.pages (t : TlbEntry) : Nat := if t.level = 1 then 2 ^ 13 else if t.group then 32 else 1

/-- The leaf that a TLB entry gives for an address; that of a group is the group's first leaf extended over the 2 MiB (R345). -/
def TlbEntry.leafAt (t : TlbEntry) (va : Nat) : Leaf :=
  { level := t.level, entry := if t.group then t.entry + field va 16 5 * 65536 else t.entry }

/-- The entry that stands for the 2 MiB group of an address, when the group's first leaf carries C; the address's own leaf need not
be valid or carry it (R345). -/
def groupEntry (s : State) (c : Context) (va : Nat) (k : AccKind) : Option TlbEntry :=
  match walk s c (va / 2 ^ 21 * 2 ^ 21) k with
  | .ok f =>
    if f.level = 2 && field f.entry 7 1 = 1 then
      some { ctx := c.num, page := va / 2 ^ 21 * 32, level := 2, entry := f.entry, group := true }
    else none
  | .error _ => none

/-- The outcome of an access through a TLB entry. -/
def TlbEntry.outcome (s : State) (c : Context) (va : Nat) (k : AccKind) (t : TlbEntry) : Trans × Option TlbEntry :=
  (leafOutcome s c va k (t.leafAt va), some t)

/-- The outcomes an access may take, that of a fresh walk first, each with the entry that the TLBs then hold (R345, R346, R347). -/
def outcomes (s : State) (c : Context) (va : Nat) (k : AccKind) : List (Trans × Option TlbEntry) :=
  let fresh : Trans × Option TlbEntry := match walk s c va k with
    | .error cause => (.bad cause, none)
    | .ok l => (l.toTlb c.num va).outcome s c va k
  let cached := s.tlb.filter (fun t => t.ctx = c.num && decide (t.page ≤ va / 65536) && decide (va / 65536 < t.page + t.pages))
  (fresh :: ((groupEntry s c va k).toList ++ cached).map (TlbEntry.outcome s c va k)).dedup

/-- The state with an entry taken into the TLBs; translations that differ are kept side by side until a shootdown (R346). -/
def State.cacheEntry (s : State) (t : TlbEntry) : State := if s.tlb.contains t then s else { s with tlb := t :: s.tlb }

/-- The translation of an access of a context (R342-R347): one of the outcomes allowed, by a free choice where there are
several. -/
def translate (s : State) (ctx va : Nat) (k : AccKind) : Trans × State :=
  match s.ctx? ctx with
  | none => (.bad (memCause k reasonNotPresent), s)
  | some c =>
    let os := outcomes s c va k
    let pick := if os.length ≤ 1 then (0, s) else s.choose os.length
    match os[pick.1]? with
    | none => (.bad (memCause k reasonNotPresent), s)
    | some (t, some e) =>
      (match t with
       | .ok _ _ _ => (t, pick.2.cacheEntry e)
       | _ => (t, pick.2))
    | some (t, none) => (t, pick.2)

/-- A range-lock record's byte ranges meet [pa, pa + n). -/
def RangeLock.meets (l : RangeLock) (pa n : Nat) : Bool :=
  l.ranges.any (fun r => decide (r.1 < pa + n) && decide (pa < r.1 + r.2))

/-- Whether an access meets a lock on lines (R188, R245): a line is locked when it holds a locked byte. Reads of a source
are exempt. -/
def State.lockedFor (s : State) (pa : Nat) (write : Bool) : Bool :=
  s.locks.any (fun l => l.meets (pa / 64 * 64) 64 && (write || !l.source))

/-! ### Copies and the locks they hold (R187, R248) -/

/-- The fields of a COPY's parameter block. -/
structure CopyParam where
  src : Nat
  dst : Nat
  nrows : Nat
  rowbytes : Nat
  dststride : Nat
  srcstride : Nat
  cwaddr : Nat
  cwval : Word
  cwfail : Word
  rid : Nat
  trows : Nat
  nslot : Nat
  mode : Nat
  deriving DecidableEq, Repr

/-- The fields of the block's words; counts are the numbers they encode. -/
def CopyParam.ofWords (ws : List Word) : CopyParam :=
  let w := fun k => (ws.getD k 0).toNat
  { src := field (w 0) 0 57, dst := field (w 1) 0 57, nrows := field (w 2) 32 24 + 1, rowbytes := field (w 2) 0 32
    dststride := field (w 3) 32 32, srcstride := field (w 3) 0 32, cwaddr := field (w 4) 0 57
    cwval := ws.getD 5 0, cwfail := ws.getD 6 0, rid := field (w 7) 26 4, trows := field (w 7) 10 16 + 1
    nslot := field (w 7) 2 8 + 1, mode := field (w 7) 0 2 }

/-- The fields of a copy. -/
def Copy.param (c : Copy) : CopyParam := CopyParam.ofWords c.words

/-- Whether an S store at its home waits for a line's lock: one of a copy between memories or of a migration. The locked
sources of the other copies do not hold it, since those read what stood there at their registration (R247; log 19). -/
def State.copyLocked (s : State) (pa : Nat) : Bool :=
  s.locks.any (fun l => (match l.owner with
    | .copy id => (match s.copy? id with
        | some c => decide (c.param.mode = 0)
        | none => false)
    | .migration _ => true
    | .packet _ _ _ => false) && l.meets (pa / 64 * 64) 64)

end Sys2Proof.Machine
end

