-- ==== Sys2Proof/Machine/Chunk.lean ====
section
/-! DEFINITION. A chunk's accesses: addresses and their checks (spec/07 R197-R199), the value a load returns within its pass
(spec/06 R169-R173), what a chunk leaves in each byte at commit (R172-R174), and the recording of accesses (R159-R160). -/

namespace Sys2Proof.Machine

/-! ### Which write stands (R171-R173) -/

/-- One write to a byte: its access, its thread and instruction, its value under a mask, and what it is ordered after. -/
structure ByteWrite where
  id : Nat
  tidx : Nat
  idx : Nat
  val : Byte
  mask : Byte
  before : List Nat
  deriving DecidableEq, Repr

/-- The writes that none of the others is ordered after. -/
def latestWrites (ws : List ByteWrite) : List ByteWrite := ws.filter (fun w => !ws.any (fun v => v.before.contains w.id))

/-- The write of highest instruction index. Of several firings of one instruction that are not ordered the later stands: MODEL'S
CHOICE (log 72), R172 gives the index alone. -/
def highestWrite : List ByteWrite → Option ByteWrite
  | [] => none
  | w :: ws =>
    match highestWrite ws with
    | none => some w
    | some v => if v.idx < w.idx || (v.idx = w.idx && v.id < w.id) then some w else some v

/-- The write that stands among several (R172): of the highest thread, of its latest, that of the highest index. -/
def standing (ws : List ByteWrite) : Option ByteWrite :=
  let top := ws.foldl (fun n w => max n w.tidx) 0
  highestWrite (latestWrites (ws.filter (fun w => w.tidx = top)))

/-- The byte left by writes over a base; an element of a packed format is decided by itself (R167, R205). -/
def resolveByte : Nat → Byte → List ByteWrite → Byte → Byte
  | 0, base, _, _ => base
  | fuel + 1, base, ws, rem =>
    let here := ws.filter (fun w => w.mask &&& rem ≠ 0)
    match standing here with
    | none => base
    | some w => mergeByte (resolveByte fuel base (here.filter (fun v => v.id ≠ w.id)) (rem &&& ~~~w.mask)) w.val (w.mask &&& rem)

/-- The byte left by writes over a base. -/
def resolve (base : Byte) (ws : List ByteWrite) : Byte := resolveByte ws.length base ws 0xFF

/-- Whether an access covers a byte. -/
def Access.covers (a : Access) (sp : Space) (addr : Nat) : Bool := a.space = sp && a.addr ≤ addr && addr < a.addr + a.len

/-- An access's plain store to a byte. -/
def Access.storeAt (a : Access) (sp : Space) (addr : Nat) : Option ByteWrite :=
  match a.kind with
  | .store bytes _ =>
    if a.covers sp addr then
      (bytes[addr - a.addr]?).map (fun b =>
        { id := a.id, tidx := a.tidx, idx := a.idx, val := b.1, mask := b.2, before := a.before })
    else none
  | _ => none

/-- What a returning atomic left in a byte (R173). -/
def Access.atomicAt (a : Access) (sp : Space) (addr : Nat) : Option ByteWrite :=
  match a.kind with
  | .returning bytes =>
    if a.covers sp addr then
      (bytes[addr - a.addr]?).map (fun b =>
        { id := a.id, tidx := a.tidx, idx := a.idx, val := b.1, mask := b.2, before := a.before })
    else none
  | _ => none

/-- The last returning atomic of a pass on a byte, in arrival order (R173). -/
def lastAtomic (ws : List ByteWrite) : Option ByteWrite :=
  ws.foldl (fun m w => match m with
    | none => some w
    | some v => if v.id < w.id then some w else some v) none

/-- The byte a pass leaves at commit, before C updates (R172, R173): the atomic unit's last value over the pre-pass byte,
overwritten by the plain stores that no returning atomic of their thread absorbed. -/
def Pass.byteAfter (p : Pass) (base : Byte) (sp : Space) (addr : Nat) : Byte :=
  let atoms := p.accesses.filterMap (fun a => a.atomicAt sp addr)
  let stores := p.accesses.filterMap (fun a => a.storeAt sp addr)
  let b := match lastAtomic atoms with
    | some w => w.val
    | none => base
  resolve b (stores.filter (fun w => !atoms.any (fun r => r.tidx = w.tidx && r.before.contains w.id)))

/-- The passes of a lane before a pass that have not linearized, oldest first (R169); what one that has linearized wrote
is committed (R164). -/
def Lane.earlier (l : Lane) (id : Nat) : List Pass := l.passes.filter (fun p => p.id < id && p.state.inFlight)

/-- The passes of a lane before a pass whose commit is not done; one that is to be replayed is among them (R285). -/
def Lane.uncommitted (l : Lane) (id : Nat) : List Pass := l.passes.filter (fun p => p.id < id)

/-- The committed byte of a scratchpad address of a core (R175, R235). -/
def State.scratchAt (s : State) (core addr : Nat) : Byte :=
  match (s.core? core).bind (fun c => c.banks[addr / 32768]?) with
  | some b => Memory.read b.bytes (addr % 32768)
  | none => 0

/-- The committed byte of a space. -/
def State.committedByte (s : State) (core : Nat) (sp : Space) (addr : Nat) : Byte :=
  match sp with
  | .device => s.byteAt addr
  | .scratch => s.scratchAt core addr

/-- The pre-pass byte (R171): the committed byte with the writes of the earlier uncommitted passes of the core. -/
def State.prePassByte (s : State) (l : Lane) (id : Nat) (sp : Space) (addr : Nat) : Byte :=
  (l.earlier id).foldl (fun b p => p.byteAfter b sp addr) (s.committedByte l.core sp addr)

/-- What an access wrote to a byte, as a store or as a returning atomic (R171). -/
def Access.wroteAt (a : Access) (sp : Space) (addr : Nat) : Option ByteWrite :=
  match a.storeAt sp addr with
  | some w => some w
  | none => a.atomicAt sp addr

/-- The writes of a thread of a pass to a byte (R171). -/
def Pass.writesOf (p : Pass) (tidx : Nat) (sp : Space) (addr : Nat) : List ByteWrite :=
  (p.accesses.filter (fun a => a.tidx = tidx)).filterMap (fun a => a.wroteAt sp addr)

/-- The bytes a load may return at one address (R171, R172): the value of the thread's latest write ordered before it or
the pre-pass byte, and that of any of the thread's writes unordered with it. -/
def Pass.loadChoices (p : Pass) (tidx : Nat) (deps : List Nat) (base : Byte) (sp : Space) (addr : Nat) : List Byte :=
  let own := p.writesOf tidx sp addr
  let ordered := resolve base (own.filter (fun w => deps.contains w.id))
  (ordered :: (own.filter (fun w => !deps.contains w.id)).map (fun w => mergeByte ordered w.val w.mask)).dedup

/-- The bytes of a load, each by a free choice where there are several (R167). -/
def loadBytes (s : State) (l : Lane) (p : Pass) (tidx : Nat) (deps : List Nat) (sp : Space) (addr : Nat) :
    Nat → List Byte × State
  | 0 => ([], s)
  | n + 1 =>
    let cs := p.loadChoices tidx deps (s.prePassByte l p.id sp addr) sp addr
    let pick := if cs.length ≤ 1 then (0, s) else s.choose cs.length
    let rest := loadBytes pick.2 l p tidx deps sp (addr + 1) n
    (cs.getD pick.1 0 :: rest.1, rest.2)

/-- Whether an access writes a whole byte. -/
def Access.fills (a : Access) (sp : Space) (addr : Nat) : Bool :=
  match a.storeAt sp addr, a.atomicAt sp addr with
  | some w, _ => decide (w.mask = 0xFF)
  | none, some w => decide (w.mask = 0xFF)
  | none, none => false

/-- Whether writes of the thread that are ordered before a read, or an earlier uncommitted pass, hold every byte of it, so that
memory is not read. -/
def Pass.holds (p : Pass) (l : Lane) (tidx : Nat) (deps : List Nat) (sp : Space) (addr n : Nat) : Bool :=
  (List.range n).all (fun i =>
    p.accesses.any (fun a => a.tidx = tidx && deps.contains a.id && a.fills sp (addr + i)) ||
    (l.earlier p.id).any (fun q => q.accesses.any (fun a => a.fills sp (addr + i))))

/-- The byte at the core's atomic unit when an atomic of a thread arrives (R173). -/
def Pass.unitByte (p : Pass) (tidx : Nat) (deps : List Nat) (base : Byte) (sp : Space) (addr : Nat) : Byte :=
  let atoms := p.accesses.filterMap (fun a => a.atomicAt sp addr)
  let b := match lastAtomic atoms with
    | some w => w.val
    | none => base
  let own := (p.accesses.filter (fun a => a.tidx = tidx)).filterMap (fun a => a.storeAt sp addr)
  resolve b (own.filter (fun w => deps.contains w.id &&
    !atoms.any (fun r => r.tidx = tidx && r.before.contains w.id)))

/-! ### Addresses (R197, R198) -/

/-- Where an access lies, or why it cannot be made. -/
inductive Addr
  | bad (cause : Nat)
  | park (mig : Nat)
  | device (pa key : Nat)
  | outside (pa : Nat)
  | scratch (addr : Nat)
  deriving DecidableEq, Repr

/-- The migration of the page a virtual address lies in, requested if there is none (R242). -/
def State.requestMigration (s : State) (ctx va pa : Nat) (big : Bool) : Nat × State :=
  let size := if big then 2 ^ 29 else 65536
  match s.migrations.find? (fun m => m.ctx = ctx && m.va = va / size * size) with
  | some m => (m.id, s)
  | none =>
    (s.nextMigration, { s with
      nextMigration := s.nextMigration + 1
      migrations := s.migrations ++ [{ id := s.nextMigration, ctx := ctx, va := va / size * size, oldPa := pa / size * size
                                       big := big, dest := none, locked := false, parked := [] }] })

/-- Whether a bank is in SCRATCH mode for a context (R197). -/
def State.scratchBank (s : State) (core ctx bank : Nat) : Bool :=
  match (s.core? core).bind (fun c => c.banks[bank]?) with
  | some b => b.mode = .scratch && b.owner = ctx
  | none => false

/-- The checks of one access of a thread (R197-R199, R188): of the reasons it meets, that of the highest rank (R394). -/
def State.address (s : State) (core ctx : Nat) (cls : MemClass) (ea align : Nat) (k : AccKind) : Addr × State :=
  let mis := decide (ea % align ≠ 0)
  let badMis := Addr.bad (memCause k reasonMisaligned)
  match cls with
  | .p =>
    if mis then (badMis, s)
    else if ea < 2 ^ 20 && s.scratchBank core ctx (ea / 32768) then (.scratch ea, s)
    else (.bad (memCause k reasonBounds), s)
  | _ =>
    if 2 ^ 57 ≤ ea then (if mis then badMis else .bad (memCause k reasonBounds), s)
    else
      match translate s ctx ea k with
      | (.bad c, s) => (if mis && causeRank (memCause k reasonMisaligned) < causeRank c then badMis else .bad c, s)
      | (.mot pa big, s) =>
        if mis then (badMis, s) else ((.park (s.requestMigration ctx ea pa big).1), (s.requestMigration ctx ea pa big).2)
      | (.ok pa key .device, s) =>
        if mis then (badMis, s)
        else if s.lockedFor pa (k ≠ .load) then (.bad (memCause k reasonLocked), s)
        else (.device pa key, s)
      | (.ok pa _ .outside, s) => (if mis then badMis else .outside pa, s)

/-- Whether a bank's mode is about to change by a BANKMODE that an earlier uncommitted pass of the core has issued: a later
pass waits for that commit and then finds the new mode (R224, R233). -/
def Site.bankWaits (x : Site) (bank : Nat) : Bool :=
  (x.spot.lane.uncommitted x.spot.pass.id).any (fun p => p.bankSets.any (fun b => b.2.1.toNat % 32 = bank))

/-- Whether a class P access waits for the mode of its bank. -/
def Site.scratchWaits (x : Site) (cls : MemClass) (ea : Nat) : Bool := cls = .p && x.bankWaits (ea / 32768)

/-- The effective address of R197. -/
def effAddr (a : Word) (disp : BitVec 16) : Nat := (a + disp.signExtend 64).toNat

/-! ### Recording (R159, R160, R57) -/

/-- An access added to the chunk of a firing; a device access also names its page for shootdowns (R348). A store takes a line of the
write buffer, whose ways hold no copy (R236). -/
def State.access (s : State) (x : Site) (sp : Space) (addr len key va : Nat) (kind : AccessKind) : State :=
  let t := s.updPass x.at_.core x.at_.ctx x.at_.pass (fun p =>
    { p with
      nextId := p.nextId + 1
      accesses := p.accesses ++ [{ id := p.nextId, tidx := x.at_.tidx, idx := x.at_.idx, space := sp, addr := addr
                                   len := len, key := key, kind := kind, before := x.deps }]
      usedPages := if sp = .device then addPage (some (va / 65536)) p.usedPages else p.usedPages })
  let t := if sp = .device then t.touchPhys addr len else t
  match kind with
  | .load => t
  | _ => t.trimL1 x.at_.core

/-- The lines a thread has written, with more; none when that would exceed STORES (R57). -/
def addLines (stores : Nat) (have_ new : List Nat) : Option (List Nat) :=
  let all := (have_ ++ new).dedup
  if stores < all.length && have_.length < all.length then none else some all

/-- Lines counted against STORES for the thread of a firing: none when the count would be exceeded. -/
def State.countLines (s : State) (x : Site) (keys : List Nat) : Option State :=
  match addLines x.spot.block.stores x.spot.run.lines keys with
  | none => none
  | some ls => some (s.updRun x.at_ (fun r => { r with lines := ls }))

/-- A read of one or several places whose tokens are sent when its value returns (R196). A shootdown of its pages waits for it
(R348). -/
def State.awaitReturn (s : State) (x : Site) (v : Word) (deps : List Nat) (k : AccKind) (pa va : Nat)
    (also : List (Nat × Nat) := []) : State :=
  also.foldl (fun s a => s.touchPhys a.1 2) ((s.updPass x.at_.core x.at_.ctx x.at_.pass (fun p =>
    p.updRun x.at_.tidx (fun r => { r with
      outstanding := r.outstanding ++ [{ idx := x.at_.idx, gen := x.gen, val := v, deps := deps, kind := k.code
                                         pa := pa, va := va, also := also }] }))).touchPhys pa 8)

/-- The thread of a firing parks on a migration: it sends nulls and drains, and its effects are excluded (R242, R393;
log 17). -/
def State.parkOn (s : State) (x : Site) (mig : Nat) (k : AccKind) (va : Nat) (targets : List Target) : Fired :=
  .ok (s.updRun x.at_ (fun r => { r with migPark := some (mig, k.code, va) })) (toAll targets none) []

/-- Whether a read of a line by a solo pass has to wait: a commit that covers it has linearized, but is unpublished or has
not been broadcast to the core (R163, R287). -/
def State.soloWaits (s : State) (x : Site) (line : Nat) : Bool :=
  x.spot.pass.solo = .holding &&
  (s.broadcasts.any (fun b => b.cores.contains x.at_.core && (b.wlines ++ b.clines).any (fun l => l.1 = line)) ||
   s.lanes.any (fun l => l.passes.any (fun p => p.state = .granted &&
     !(l.core = x.at_.core && l.ctx = x.at_.ctx) &&
     p.accesses.any (fun a => (a.inW || a.inC) && lineKey l.core a.space a.addr = line))))

/-- The random word for encoding an element at a virtual address and bit position (R80). -/
def State.storeRnd (s : State) (ctx va bit : Nat) : Nat := hsrWord (s.hseed ctx) (hsrKeyStore va bit)

end Sys2Proof.Machine
end

