-- ==== Sys2Proof/Machine/Mem.lean ====
section
/-! DEFINITION. Loads, stores, tensor-map accesses, PREF and EVICT, the order instructions and WAITA (spec/07 R195-R207,
R215-R221, R190). -/

namespace Sys2Proof.Machine

/-! ### Reading -/

/-- The copy of a line in a core's CACHE banks (R236). -/
def State.copyOf (s : State) (core line : Nat) : Option L1Line :=
  (s.core? core).bind (fun c => c.l1.find? (fun x => x.line = line))

/-- The state with a line's copy on a core brought up to its home, where there is one. -/
def State.updateCopy (s : State) (core line : Nat) : State :=
  s.updCore core (fun c => { c with l1 := c.l1.map (fun x =>
    if x.line = line then { x with bytes := s.bytesAt (line * 64) 64 } else x) })

/-- The state with a line read from its home by an S load or another access: its copy on the core is brought up to the home and
stays marked as what filled it, or, if the policy allocates, the line is put into the CACHE banks (R236, R237). -/
def State.refreshCopy (s : State) (core line : Nat) (byS : Bool) (cp : CachePol) : State :=
  let fresh : L1Line := { line := line, bytes := s.bytesAt (line * 64) 64, byS := byS, keep := decide (cp = .keep) }
  match s.copyOf core line with
  | some _ => s.updCore core (fun c => { c with l1 := c.l1.map (fun x =>
      if x.line = line then { fresh with byS := x.byS, keep := x.keep || fresh.keep } else x) })
  | none => if cp = .normal || cp = .keep then s.allocateL1 core fresh else s

/-- The state with a line's committed copy on the core, where its policy allocates and there is none: what PREF and stores do with
the CACHE banks (R207, R237). -/
def State.fillCopy (s : State) (core line : Nat) (byS : Bool) (cp : CachePol) : State :=
  if (s.copyOf core line).isNone then s.refreshCopy core line byS cp else s

/-- Whether a read of a line is served from a copy older than its home: a free choice where there is one (R236, R184). A read
that the copy does not serve brings it up to the home, so that no read of a core goes back behind an earlier one (R182, R184,
R186). -/
def State.useCopy (s : State) (core line : Nat) : Option L1Line × State :=
  match s.copyOf core line with
  | none => (none, s)
  | some c =>
    if c.bytes = s.bytesAt (line * 64) 64 then (none, s)
    else
      let pick := s.choose 2
      (if pick.1 = 0 then none else some c, pick.2)

/-- The memory with a pending S, host or peer store written into it. -/
def overlayPending (m : List Host.Cell) (d : Deferred) : List Host.Cell :=
  match d.kind with
  | .sStore _ pa _ bytes _ => writeMasked m pa bytes
  | .hostStore _ pa bytes => writeMasked m pa bytes
  | _ => m

/-- The stores of the committed chunks of a core that have not reached their homes, in the order of R181. -/
def State.pendingStores (s : State) (core : Nat) : List Deferred :=
  (s.lanes.filter (fun l => l.core = core)).flatMap (·.deferred)

/-- Memory as the threads and the matrix engine of a core see it: with the core's own stores that are on their way to their
homes (R158, R183 step 1, R151). -/
def State.seenMem (s : State) (core : Nat) (m : List Host.Cell) : List Host.Cell := (s.pendingStores core).foldl overlayPending m

/-- What a core reads of a line: the memory it sees, where its own copy may stand for the home, and the state after the
line's copy was refreshed or allocated. -/
def State.sight (s : State) (core line : Nat) (byS : Bool) (cp : CachePol) : List Host.Cell × State :=
  match s.useCopy core line with
  | (some c, t) => (t.seenMem core (Memory.writeBytes t.mem (line * 64) c.bytes), t)
  | (none, t) => (t.seenMem core t.mem, t.refreshCopy core line byS cp)

/-- The bytes an S load takes (R182, R183, R236), with the writes of the earlier uncommitted passes of the core, which a later pass
reads as though they were committed (R169). -/
def State.streamBytes (s : State) (x : Site) (pa n : Nat) (cp : CachePol) : List Byte × State :=
  let v := s.sight x.at_.core (pa / 64) true cp
  let seen : State := { v.2 with mem := v.1 }
  ((List.range n).map (fun k => seen.prePassByte x.spot.lane x.spot.pass.id .device (pa + k)), v.2)

/-- What a read finds: a cause, a park, a reason to wait, or bytes at a place. -/
inductive Found
  | bad (s : State) (cause : Nat)
  | park (s : State) (mig : Nat)
  | wait
  | got (s : State) (bytes : List Byte) (pa : Nat) (ids : List Nat)

/-- What a chunked access of `n` bytes reads of memory: nothing where its pass holds every byte before it. -/
def State.sightOf (s : State) (x : Site) (sp : Space) (addr n : Nat) (cp : CachePol) : List Host.Cell × State :=
  match sp with
  | .scratch => (s.mem, s)
  | .device =>
    if x.spot.pass.holds x.spot.lane x.at_.tidx x.deps sp addr n then (s.mem, s) else s.sight x.at_.core (addr / 64) false cp

/-- A chunked read of `n` bytes, recorded in R (R160, R171). -/
def State.chunkRead (s : State) (x : Site) (sp : Space) (cp : CachePol) (addr n key va : Nat) (k : AccKind) : Found :=
  let l := x.spot.lane
  let p := x.spot.pass
  let fault := match sp with
    | .device => if p.holds l x.at_.tidx x.deps sp addr n then none else s.readFault addr key k
    | .scratch => none
  match fault with
  | some c => .bad s c
  | none =>
    if s.soloWaits x (lineKey x.at_.core sp addr) then .wait
    else
      let v := s.sightOf x sp addr n cp
      let r := loadBytes { v.2 with mem := v.1 } l p x.at_.tidx x.deps sp addr n
      let s := { r.2 with mem := v.2.mem }
      .got (s.access x sp addr n key va .load) r.1 addr [x.nextId]

/-- What a read finds, free where it is of the siding (R283). -/
def Found.unspecified (r : Found) (free : Bool) (ctx : Nat) : Found :=
  match r with
  | .got s bytes pa ids => .got (s.unspecified free ctx bytes).2 (s.unspecified free ctx bytes).1 pa ids
  | r => r

/-- A read of `n` bytes at an effective address for a class (R201, R283). -/
def State.readAt (s : State) (x : Site) (cls : MemClass) (cp : CachePol) (ea n align : Nat) (k : AccKind) : Found :=
  if x.scratchWaits cls ea then .wait
  else
    let free := s.inSiding x.at_.ctx ea
    match s.address x.at_.core x.at_.ctx cls ea align k with
    | (.bad c, s) => .bad s c
    | (.park m, s) => .park s m
    | (.scratch a, s) => s.chunkRead x .scratch cp a n 0 ea k
    | (.outside pa, s) =>
      (Found.got (s.noteSent x.at_.ctx pa n false) (Memory.readBytes (s.seenMem x.at_.core s.mem) pa n) pa []).unspecified free x.at_.ctx
    | (.device pa key, s) =>
      if cls = .s then
        (match s.readFault pa key k with
         | some c => .bad s c
         | none =>
           let r := s.streamBytes x pa n cp
           (Found.got r.2 r.1 pa []).unspecified free x.at_.ctx)
      else (s.chunkRead x .device cp pa n key ea k).unspecified free x.at_.ctx

/-- A read, of further places as well, that sends its value when it returns: the firing's outcome. -/
def Found.await (r : Found) (x : Site) (f : Fields) (ea : Nat) (k : AccKind) (g : List Byte → Word) (also : List (Nat × Nat) := []) :
    Fired :=
  match r with
  | .bad s c => .bad s c ea
  | .park s m => s.parkOn x m k ea (Fields.both f)
  | .wait => .wait
  | .got s bytes pa ids => .ok (s.awaitReturn x (g bytes) (x.deps ++ ids).dedup k pa ea also) [] []

/-- The bytes an element of a format moves (R198). -/
def fmtBytes (fmt : Fmt) : Nat := fmtBits fmt / 8

/-- LD (R201). -/
def execLd (f : Fields) (m : MemOps) (s : State) : Host.Outcome State Fault Refusal :=
  .next (s.fire f (Fields.both f) (fun x s =>
    let ea := effAddr x.a m.disp
    (s.readAt x m.cls m.cp ea (fmtBytes m.fmt) (fmtBytes m.fmt) .load).await x f ea .load
      (fun bytes => fmtDecode m.fmt (leNat bytes))))

/-! ### Writing -/

/-- A store of bytes under masks at an effective address for a class (R201, R180, R190): chunked, deferred as an S store,
or deferred to a host or peer page; a device line is taken into the CACHE banks as the policy has it (R237). `reads` marks an
element of a packed format. -/
def State.writeAt (s : State) (x : Site) (cls : MemClass) (scope : Scope) (cp : CachePol) (ea align : Nat) (bytes : List (Byte × Byte))
    (reads : Bool) (targets : List Target) (out : List (Target × Option Word)) : Fired :=
  let n := bytes.length
  if x.scratchWaits cls ea then .wait
  else
  match s.address x.at_.core x.at_.ctx cls ea align .store with
  | (.bad c, s) => .bad s c ea
  | (.park m, s) => s.parkOn x m .store ea targets
  | (.outside pa, s) => .ok (s.defer x.at_ x.deps (fun _ => .hostStore ea pa bytes)) out [x.nextId]
  | (.scratch a, s) =>
    (match s.countLines x [lineKey x.at_.core .scratch a] with
     | none => .bad s cStoreOverrun ea
     | some s => .ok (s.access x .scratch a n 0 ea (.store bytes reads)) out [x.nextId])
  | (.device pa key, s) =>
    if cls = .s then
      .ok ((s.fillCopy x.at_.core (pa / 64) false cp).defer x.at_ x.deps (fun _ => .sStore ea pa key bytes scope)) out [x.nextId]
    else
      match s.countLines x [lineKey x.at_.core .device pa] with
      | none => .bad s cStoreOverrun ea
      | some s =>
        .ok ((s.fillCopy x.at_.core (pa / 64) false cp).access x .device pa n key ea (.store bytes reads)) out [x.nextId]

/-- Whole bytes with their masks. -/
def fullBytes (n v : Nat) : List (Byte × Byte) := (leBytes n v).map (fun b => (b, 0xFF))

/-- ST (R201). -/
def execSt (f : Fields) (m : MemOps) (rm : RMode) (s : State) : Host.Outcome State Fault Refusal :=
  .next (s.fire f (Fields.both f) (fun x s =>
    let ea := effAddr x.a m.disp
    let bits := fmtEncode m.fmt rm (s.storeRnd x.at_.ctx ea 0) false (x.b none)
    s.writeAt x m.cls m.scope m.cp ea (fmtBytes m.fmt) (fullBytes (fmtBytes m.fmt) bits) false (Fields.both f) (doneBoth f)))

/-! ### Tensor maps (R202-R206) -/

/-- A tensor map's fields (R202). -/
structure TMap where
  base : Nat
  cp : Nat
  scope : Nat
  stream : Bool
  ndim : Nat
  rdim : Nat
  sat : Bool
  sfmt : Nat
  fmt : Fmt
  ext : List Nat
  stride1 : Nat
  stride2 : Nat
  sbase : Nat
  sstride1 : Nat
  sstride2 : Nat
  deriving DecidableEq, Repr

/-- The fields of a map's eight words. -/
def TMap.ofWords (ws : List Word) : TMap :=
  let w := fun k => (ws.getD k 0).toNat
  { base := field (w 0) 0 57, cp := field (w 1) 18 2, scope := field (w 1) 16 2, stream := field (w 1) 15 1 = 1
    ndim := field (w 1) 13 2, rdim := field (w 1) 11 2, sat := field (w 1) 10 1 = 1, sfmt := field (w 1) 5 5
    fmt := (Fmt.ofCode? (field (w 1) 0 5)).getD .raw64
    ext := [field (w 2) 0 28, field (w 2) 28 20, field (w 2) 48 16]
    stride1 := field (w 3) 0 32, stride2 := field (w 3) 32 32, sbase := field (w 4) 0 57
    sstride1 := field (w 5) 0 32, sstride2 := field (w 5) 32 32 }

/-- The map a block took with it at its configuration (R204). -/
def Block.map? (b : Block) (n : Nat) : Option TMap := (b.maps.find? (fun m => m.1 = n)).map (fun m => TMap.ofWords m.2)

/-- The coordinates in slot a (R205). -/
def coords (a : Word) : List Nat := [field a.toNat 0 28, field a.toNat 28 20, field a.toNat 48 16]

/-- Whether some coordinate lies beyond its extent (R205). -/
def TMap.outside (m : TMap) (c : List Nat) : Bool := (List.range 3).any (fun k => m.ext.getD k 0 < c.getD k 0)

/-- The byte offset, the bit position in it, and the bits of an element (R203). -/
def TMap.place (m : TMap) (c : List Nat) : Nat × Nat × Nat :=
  let rows := c.getD 1 0 * m.stride1 + c.getD 2 0 * m.stride2
  let c0 := c.getD 0 0
  match m.fmt with
  | .e2m1 => (rows + c0 / 2, c0 % 2 * 4, 4)
  | .t6 => (rows + 3 * (c0 / 4) + c0 % 4 * 6 / 8, c0 % 4 * 6 % 8, 6)
  | fmt => (rows + c0 * fmtBytes fmt, 0, fmtBits fmt)

/-- The bytes of an element's scale: 2 for S12, 1 for E8M0. -/
def TMap.sw (m : TMap) : Nat := if m.sfmt = 15 then 2 else 1

/-- The scale's virtual address for coordinates (R203). -/
def TMap.scaleVa (m : TMap) (c : List Nat) : Nat :=
  let c := listSet c m.rdim (· / 32)
  m.sbase + c.getD 0 0 * m.sw + c.getD 1 0 * m.sstride1 + c.getD 2 0 * m.sstride2

/-- The scope of a map. -/
def TMap.scopeOf (m : TMap) : Scope := Scope.ofCode m.scope

/-- The class of a map. -/
def TMap.cls (m : TMap) : MemClass := if m.stream then .s else .g

/-- The cache policy of a map. -/
def TMap.policy (m : TMap) : CachePol := CachePol.ofCode m.cp

/-- The site of a firing that has made some accesses already. -/
def Site.after (x : Site) (ids : List Nat) : Site :=
  { x with spot := { x.spot with pass := { x.spot.pass with nextId := x.spot.pass.nextId + ids.length } } }

/-- Element bits read at a map's class: whole bytes at once, or the one or two bytes of a packed element one by one; with the place of
a second byte, where it is that byte whose read ends the firing too. -/
def State.readElement (s : State) (x : Site) (m : TMap) (va bit width : Nat) : Found × List (Nat × Nat) :=
  if bit = 0 && width % 8 = 0 then (s.readAt x m.cls m.policy va (width / 8) (width / 8) .load, [])
  else
    match s.readAt x m.cls m.policy va 1 1 .load with
    | .got s lo pa ids =>
      if bit + width ≤ 8 then (.got s (leBytes 1 (leNat lo / 2 ^ bit % 2 ^ width)) pa ids, [])
      else
        (match s.readAt (x.after ids) m.cls m.policy (va + 1) 1 1 .load with
         | .got s hi pa' ids' =>
           (.got s (leBytes 1 ((leNat lo + 256 * leNat hi) / 2 ^ bit % 2 ^ width)) pa (ids ++ ids'), [(pa', va + 1)])
         | r => (r, [(0, va + 1)]))
    | r => (r, [])

/-- The value of an LDT (R205): the element, times its scale when the map has one (R92). -/
def mapValue (m : TMap) (elem scale : Nat) : Word :=
  if m.sfmt = 0 then fmtDecode m.fmt elem
  else wWrite (scaledVal (fmtVal m.fmt elem) (if m.sfmt = 15 then s12Decode scale else e8m0Decode scale))

/-- LDT (R205): its element and then, of a map with a scale, the element's scale. Where a read of the first byte, of a second byte or of
the scale fails, the later ones are not made and the cause is its own: MODEL'S CHOICE (log 72), R199 gives the priority of causes of
one access. -/
def execLdt (f : Fields) (map : BitVec 12) (_oe : Bool) (s : State) : Host.Outcome State Fault Refusal :=
  .next (s.fire f (Fields.both f) (fun x s =>
    match x.spot.block.map? map.toNat with
    | none => .bad s (memCause .load reasonBounds) x.a.toNat
    | some m =>
      let c := coords x.a
      if m.outside c then .bad s (memCause .load reasonBounds) x.a.toNat
      else
        let pl := m.place c
        let va := m.base + pl.1
        match s.readElement x m va pl.2.1 pl.2.2 with
        | (.got s e pa ids, also) =>
          if m.sfmt = 0 then (Found.got s e pa ids).await x f va .load (fun b => mapValue m (leNat b) 0) also
          else
            (match s.readAt (x.after ids) m.cls m.policy (m.scaleVa c) m.sw m.sw .load with
             | .got s sc pa' ids' =>
               (Found.got s e pa (ids ++ ids')).await x f va .load (fun b => mapValue m (leNat b) (leNat sc)) (also ++ [(pa', m.scaleVa c)])
             | r => r.await x f (m.scaleVa c) .load (fun _ => 0))
        | (r, also) => r.await x f ((also.map (·.2)).headD va) .load (fun _ => 0)))

/-- The bytes and masks of a packed element: the low byte's, and the high byte's when it reaches there. -/
def packedBytes (bit width v : Nat) : List (Byte × Byte) :=
  let val := v * 2 ^ bit
  let mask := (2 ^ width - 1) * 2 ^ bit
  let lo : Byte × Byte := (BitVec.ofNat 8 val, BitVec.ofNat 8 mask)
  if bit + width ≤ 8 then [lo] else [lo, (BitVec.ofNat 8 (val / 256), BitVec.ofNat 8 (mask / 256))]

/-- STT (R205, R206): a scaled map's element goes to the block assembly at the end of the pass. The line of its scale does not count
against STORES, the element's does: MODEL'S CHOICE (log 89), R57 does not say whether a line written for 32 elements at the end of
the pass is one of the thread's. A load ordered after the done token of an STT to a map with a scale finds in its own pass the bytes
from before the STT, since the block is assembled at the pass's end: MODEL'S CHOICE (log 72), between R171 and R206. -/
def execStt (f : Fields) (map : BitVec 12) (_oe : Bool) (rm : RMode) (s : State) : Host.Outcome State Fault Refusal :=
  .next (s.fire f (Fields.both f) (fun x s =>
    match x.spot.block.map? map.toNat with
    | none => .bad s (memCause .store reasonBounds) x.a.toNat
    | some m =>
      let c := coords x.a
      if m.outside c then .bad s (memCause .store reasonBounds) x.a.toNat
      else
        let pl := m.place c
        let va := m.base + pl.1
        if m.sfmt ≠ 0 then
          -- the element's page is checked now, its bytes are decided at the end of the pass
          (match s.address x.at_.core x.at_.ctx m.cls va 1 .store with
           | (.bad cause, s) => .bad s cause va
           | (.park g, s) => s.parkOn x g .store va (Fields.both f)
           | (a, s) =>
             let keys := match a with
               | .device pa _ => if m.stream then [] else [lineKey x.at_.core .device pa]
               | _ => []
             match s.countLines x keys with
             | none => .bad s cStoreOverrun va
             | some s => .ok (s.updPass x.at_.core x.at_.ctx x.at_.pass (fun p =>
                 { p with
                   nextId := p.nextId + 1
                   scaled := p.scaled ++ [{ id := p.nextId, tidx := x.at_.tidx, idx := x.at_.idx, map := map.toNat
                                            coord := c, rm := rm, val := x.b none, before := x.deps }] }))
               (doneBoth f) [x.nextId])
        else
          let bits := fmtEncode m.fmt rm (s.storeRnd x.at_.ctx va pl.2.1) m.sat (x.b none)
          if pl.2.1 = 0 && pl.2.2 % 8 = 0 then
            s.writeAt x m.cls m.scopeOf m.policy va (fmtBytes m.fmt) (fullBytes (fmtBytes m.fmt) bits) false (Fields.both f) (doneBoth f)
          else
            match packedBytes pl.2.1 pl.2.2 bits with
            | [lo, hi] =>
              (match s.writeAt x m.cls m.scopeOf m.policy va 1 [lo] true (Fields.both f) [] with
               | .ok t _ ids =>
                 let x' : Site := { x with spot := { (x.after ids).spot with
                   run := match (t.spot? x.at_) with
                     | some p => p.run
                     | none => x.spot.run } }
                 (match t.writeAt x' m.cls m.scopeOf m.policy (va + 1) 1 [hi] true (Fields.both f) (doneBoth f) with
                  | .ok u out ids' => .ok u out (ids ++ ids')
                  | r => r)
               | r => r)
            | bytes => s.writeAt x m.cls m.scopeOf m.policy va 1 bytes true (Fields.both f) (doneBoth f)))

/-! ### PREF and EVICT (R207, R236, R237) -/

/-- The device line of an effective address, when an access of load kind to it would not fault. -/
def State.lineOf (s : State) (x : Site) (ea : Nat) : Option Nat × State :=
  match s.address x.at_.core x.at_.ctx .g ea 1 .load with
  | (.device pa key, t) => (if (s.readFault pa key .load).isNone then some (pa / 64) else none, t)
  | _ => (none, s)

/-- PREF (R207, R237): the normal and keep policies take the line into the core's CACHE banks. -/
def execPref (f : Fields) (m : MemOps) (s : State) : Host.Outcome State Fault Refusal :=
  .next (s.fire f (Fields.both f) (fun x s =>
    match s.lineOf x (effAddr x.a m.disp) with
    | (some line, t) =>
      .ok (t.fillCopy x.at_.core line false m.cp) (doneBoth f) []
    | (none, t) => .ok t (doneBoth f) []))

/-- EVICT (R207): the line's committed copy leaves the core's CACHE banks. -/
def execEvict (f : Fields) (m : MemOps) (s : State) : Host.Outcome State Fault Refusal :=
  .next (s.fire f (Fields.both f) (fun x s =>
    match s.lineOf x (effAddr x.a m.disp) with
    | (some line, t) =>
      .ok (t.updCore x.at_.core (fun c => { c with l1 := c.l1.filter (fun y => y.line ≠ line) })) (doneBoth f) []
    | (none, t) => .ok t (doneBoth f) []))

/-! ### Order instructions (R215-R218) -/

/-- OJOIN (R215). -/
def execOjoin (f : Fields) (s : State) : Host.Outcome State Fault Refusal :=
  .next (s.fireValue f (fun x _ => .ok x.a))

/-- The copies that S loads filled leave the core (R236); the others are brought up to their homes, so that no load ordered
after the fence returns a value older than a fence of that scope allows (R185, R186, R217). -/
def State.dropStreamCopies (s : State) (core : Nat) : State :=
  s.updCore core (fun c => { c with l1 := (c.l1.filter (fun y => !y.byS)).map (fun y =>
    { y with bytes := s.bytesAt (y.line * 64) 64 }) })

/-- REL (R216). Its store ordering is the order in which the deferred effects of a core are applied (R181; log 18). -/
def execRel (f : Fields) (scope : Scope) (s : State) : Host.Outcome State Fault Refusal :=
  .next (s.fire f (Fields.both f) (fun x s =>
    .ok (s.defer x.at_ x.deps (fun _ => .release scope)) (doneBoth f) [x.nextId]))

/-- The deferred effects of a lane that have not been handed on, of its committed chunks and of those that have linearized, the latter
marked. -/
def Lane.unpublished (l : Lane) : List (Deferred × Bool) :=
  l.deferred.map (fun d => (d, false)) ++ ((l.passes.filter (fun p => p.state = .granted)).flatMap (fun p =>
    (p.runs.filter (fun (r : Run) => !r.excluded)).flatMap (·.deferred))).map (fun d => (d, true))

/-- Whether the scope of a release or fence on one core holds another core. -/
def scopeHolds (sc : Scope) (core other : Nat) : Bool :=
  match sc with
  | .core => core = other
  | .die => dieOf core = dieOf other
  | _ => true

/-- The scope of a REL's or FENCE's mark among deferred effects. -/
def DeferredKind.mark? : DeferredKind → Option Scope
  | .fence sc => some sc
  | .release sc => some sc
  | _ => none

/-- Whether a deferred effect is a store that others are to see. -/
def DeferredKind.isStore : DeferredKind → Bool
  | .sStore _ _ _ _ _ => true
  | .hostStore _ _ _ => true
  | .hostAdd _ _ _ _ => true
  | _ => false

/-- Whether a deferred effect is handed on without waiting for anything. -/
def State.flows (s : State) (d : Deferred) : Bool :=
  match d.kind with
  | .sStore _ pa _ _ _ => !s.copyLocked pa
  | k => k.isStore || k.mark?.isSome

/-- Whether a write of a release or fence set that holds the acquiring core is still on its way (R185, R216, R217): a store that
stands on another core before the mark, or in a chunk of its own core that has not committed; its core sees those of its committed
chunks (R183). What the solo pass could have to wait for in vain, stores that do not flow, is left
out. -/
def State.releaseDue (s : State) (core : Nat) (solo : Bool) : Bool :=
  (s.lanes.map (·.core)).dedup.any (fun c =>
    let ds := ((s.lanes.filter (fun l => l.core = c)).flatMap (·.unpublished)).filter (fun d => decide (c ≠ core) || d.2)
    (!solo || ds.all (fun d => s.flows d.1)) &&
    ds.any (fun m => m.1.kind.mark?.any (fun sc => scopeHolds sc c core) &&
      ds.any (fun d => d.1.kind.isStore && (m.2 || (!d.2 && decide (d.1.seq ≤ m.1.seq))))))

/-- ACQ (R217): the acquired value to T0, an order token to T1; loads after it read the homes. At every scope, since the acquiring
thread lies in each of its own. MODEL'S CHOICE (log 94): it waits while a write of a release or fence set that holds its core is on
its way to its home, so that no load after it is older; R217 does not say how. -/
def execAcq (f : Fields) (_scope : Scope) (s : State) : Host.Outcome State Fault Refusal :=
  .next (s.fire f (Fields.both f) (fun x s =>
    if s.releaseDue x.at_.core (x.spot.pass.solo = .holding) then .wait
    else .ok (s.dropStreamCopies x.at_.core) (valueDone f x.a) []))

/-- FENCE (R185, R218, R236): of scope CORE it drops no copy. -/
def execFence (f : Fields) (scope : Scope) (s : State) : Host.Outcome State Fault Refusal :=
  .next (s.fire f (Fields.both f) (fun x s =>
    .ok ((if scope = .core then s else s.dropStreamCopies x.at_.core).defer x.at_ x.deps (fun _ => .fence scope)) (doneBoth f) [x.nextId]))

/-! ### WAITA (R219) -/

/-- Whether a WAITA's condition holds (R219). RAW64 compares as I64. -/
def waitHolds (fmt : Fmt) (cond : WaitCond) (m b : Word) : Bool :=
  let ty : IntTy := match fmt with
    | .i32 => .i32
    | .n32 => .n32
    | _ => .i64
  match cond with
  | .eq => val ty m = val ty b
  | .ne => val ty m ≠ val ty b
  | .lt => val ty m < val ty b
  | .ge => val ty b ≤ val ty m
  | .any => low ty (m &&& b) ≠ 0
  | .none => low ty (m &&& b) = 0

/-- WAITA (R219): satisfied, its value returns; not satisfied, its thread leaves the pass, sends nulls and drains. Of several
unsatisfied WAITAs of a block the one that fired first names the line that parks the thread: MODEL'S CHOICE (log 72), the spec
does not say. -/
def execWaita (f : Fields) (cls : MemClass) (fmt : Fmt) (_oe : Bool) (cond : WaitCond) (s : State) :
    Host.Outcome State Fault Refusal :=
  .next (s.fire f (Fields.both f) (fun x s =>
    let ea := x.a.toNat
    match s.readAt x cls .normal ea (fmtBytes fmt) (fmtBytes fmt) .load with
    | .got t bytes pa ids =>
      let m := fmtDecode fmt (leNat bytes)
      if waitHolds fmt cond m (x.b none) then
        (Found.got t bytes pa ids).await x f ea .load (fun _ => m)
      else
        let sp : Space := if cls = .p then .scratch else .device
        .ok (t.updRun x.at_ (fun r => { r with
          waita := match r.waita with
            | some w => some w
            | none => some { idx := x.at_.idx, key := lineKey x.at_.core sp pa } })) (toAll (Fields.both f) none) []
    | r => r.await x f ea .load (fun _ => 0)))

/-! ### Returns (R196) -/

/-- LOAD_DATA_RETURN: the oldest read of an instruction of a thread returns its value, and its tokens are sent. -/
def execLoadDataReturn (core ctx tidx idx : Nat) (s : State) : Host.Outcome State Fault Refusal :=
  .next (match s.lane? core ctx with
    | none => s
    | some l =>
      l.passes.foldl (fun s p =>
        match s.spot? { core := core, ctx := ctx, pass := p.id, tidx := tidx, idx := idx } with
        | none => s
        | some sp =>
          match sp.run.outstanding.find? (fun o => o.idx = idx), sp.block.instr? idx with
          | some o, some i =>
            let x : Firing := { core := core, ctx := ctx, pass := p.id, tidx := tidx, idx := idx }
            let out := match i.fields? with
              | some f => valueDone f o.val
              | none => []
            s.updRun x (fun r => sendTokens sp.block.occ idx o.gen o.deps out
              { r with outstanding := r.outstanding.erase o })
          | _, _ => s) s)

end Sys2Proof.Machine
end

