-- ==== Sys2Proof/Machine/Atomic.lean ====
section
/-! DEFINITION. The atomics and RED (spec/07 R208-R214): a returning atomic is performed at the core's atomic unit when it
fires (spec/06 R173), a non-returning one is recorded and applied at commit (R174). -/

namespace Sys2Proof.Machine

/-! ### New values (R209-R211, R214) -/

/-- The integer type under which a format's atomic works; RAW64 is unsigned where `unsigned` says so. -/
def atomicTy (fmt : Fmt) (unsigned : Bool) : IntTy :=
  match fmt with
  | .i32 => .i32
  | .n32 => .n32
  | _ => if unsigned then .n64 else .i64

/-- Whether an atomic is RED, which is never returning (R214). -/
def isRed : Instr → Bool
  | .red _ _ _ _ _ => true
  | _ => false

/-- The operations of the atomics. -/
inductive AtomicFn
  | add | min | max | and | or | xor | xchg | cas | incw | decw | fadd | fmin | fmax
  deriving DecidableEq, Repr

/-- The operation of a reduction's OPK (R214). -/
def foldAtomic : FoldOp → AtomicFn
  | .add => .add | .min => .min | .max => .max | .and => .and | .or => .or | .xor => .xor
  | .fadd => .fadd | .fmin => .fmin | .fmax => .fmax

/-- The operation of an atomic, and whether RAW64 compares unsigned (R210, R211, R214). -/
def atomicFn : Instr → AtomicFn × Bool
  | .amin _ _ => (.min, false)
  | .amax _ _ => (.max, false)
  | .aand _ _ => (.and, false)
  | .aor _ _ => (.or, false)
  | .axor _ _ => (.xor, false)
  | .axchg _ _ => (.xchg, false)
  | .acas _ _ => (.cas, false)
  | .aincw _ _ => (.incw, true)
  | .adecw _ _ => (.decw, true)
  | .afadd _ _ _ => (.fadd, false)
  | .afmin _ _ _ => (.fmin, false)
  | .afmax _ _ _ => (.fmax, false)
  | .red _ _ _ nu opk => (foldAtomic opk, nu)
  | _ => (.add, false)

/-- The exact sum of two values (R211); the sign of an exact zero follows R78. -/
def wExactAdd (mode : RMode) : WVal → WVal → WVal
  | .nan, _ => .nan
  | _, .nan => .nan
  | .inf a, .inf b => if a = b then .inf a else .nan
  | .inf a, _ => .inf a
  | _, .inf b => .inf b
  | .fin an am ae, .fin bn bm be =>
    if am = 0 && bm = 0 then .fin (if an = bn then an else decide (mode = .rdn)) 0 0
    else
      let (s, e) := exactSum an am ae bn bm be
      if s = 0 then .fin (decide (mode = .rdn)) 0 0 else .fin (decide (s < 0)) s.natAbs e

/-- A floating result stored in a format (R211): RAW64 rounds to W, the others encode the exact value once. -/
def atomicEncode (fmt : Fmt) (rm : RMode) (u : Nat) (y : WVal) : Nat :=
  match ieeeLayout fmt with
  | some l => ieeeEncode l rm u false y
  | none => (wRound rm u y).toNat

/-- The bits that an operation leaves for the bits m (R210, R211); `u` is the random word of HSR. -/
def atomicNew (op : AtomicFn × Bool) (fmt : Fmt) (rm : RMode) (u m : Nat) (b c : Word) : Nat :=
  let ty := atomicTy fmt op.2
  let w : Word := fmtDecode fmt m
  match op.1 with
  | .add => low ty (w + b)
  | .min => low ty (resMin ty w b)
  | .max => low ty (resMax ty w b)
  | .and => low ty (w &&& b)
  | .or => low ty (w ||| b)
  | .xor => low ty (w ^^^ b)
  | .xchg => low ty b
  | .cas => if low ty w = low ty c then low ty b else m
  | .incw => if low ty b ≤ low ty w then 0 else low ty w + 1
  | .decw => if low ty w = 0 || low ty b < low ty w then low ty b else low ty w - 1
  | .fadd => atomicEncode fmt rm u (wExactAdd rm (fmtVal fmt m) (wRead b))
  | .fmin => atomicEncode fmt rm u (wRead (resFminmax true false (fmtVal fmt m) (wRead b)))
  | .fmax => atomicEncode fmt rm u (wRead (resFminmax false false (fmtVal fmt m) (wRead b)))

/-- The word an atomic returns for the bits m (R209, R211). -/
def atomicOld (op : AtomicFn × Bool) (fmt : Fmt) (m : Nat) : Word :=
  match op.1 with
  | .fadd | .fmin | .fmax => wWrite (fmtVal fmt m)
  | _ => fmtDecode fmt m

/-- Whether an atomic is performed on a host or peer page (R190, R208). -/
def hostAtomic (i : Instr) (fmt : Fmt) (returning : Bool) : Bool :=
  !returning && fmt.isInt && decide ((atomicFn i).1 = .add)

/-! ### Performing -/

/-- A returning atomic at the atomic unit (R173): the bytes it finds, in the siding free ones (R283), replaced, its old value on its
way back. -/
def State.unitAtomic (s : State) (x : Site) (i : Instr) (m : MemOps) (rm : RMode) (sp : Space) (addr key ea : Nat) : Fired :=
  let n := fmtBytes m.fmt
  let p := x.spot.pass
  let l := x.spot.lane
  let here := fun k => p.accesses.any (fun a => (a.atomicAt sp (addr + k)).isSome)
  let fault := match sp with
    | .device =>
      if p.holds l x.at_.tidx x.deps sp addr n || (List.range n).all here then none else s.readFault addr key .rmw
    | .scratch => none
  match fault with
  | some c => .bad s c ea
  | none =>
    if s.soloWaits x (lineKey x.at_.core sp addr) then .wait
    else
      match s.countLines x [lineKey x.at_.core sp addr] with
      | none => .bad s cStoreOverrun ea
      | some t =>
        let v := t.sightOf x sp addr n m.cp
        let seen : State := { v.2 with mem := v.1 }
        let found := v.2.unspecified (sp = .device && s.inSiding x.at_.ctx ea) x.at_.ctx ((List.range n).map (fun k =>
          p.unitByte x.at_.tidx x.deps (seen.prePassByte l p.id sp (addr + k)) sp (addr + k)))
        let old := leNat found.1
        let new := atomicNew (atomicFn i) m.fmt rm (s.storeRnd x.at_.ctx ea 0) old (x.b none) x.c
        let t := found.2.access x sp addr n key ea (.returning (fullBytes n new))
        .ok (t.awaitReturn x (atomicOld (atomicFn i) m.fmt old) (x.deps ++ [x.nextId]).dedup .rmw addr ea) [] []

/-- A non-returning atomic recorded for the commit (R174). -/
def State.recordUpdate (s : State) (x : Site) (i : Instr) (f : Fields) (m : MemOps) (rm : RMode) (sp : Space)
    (addr key ea : Nat) : Fired :=
  match s.countLines x [lineKey x.at_.core sp addr] with
  | none => .bad s cStoreOverrun ea
  | some t =>
    .ok (t.access x sp addr (fmtBytes m.fmt) key ea
      (.update { kind := i, fmt := m.fmt, rm := rm, b := x.b none, c := x.c, va := ea })) (doneBoth f) [x.nextId]

/-- An atomic of the given instruction, tried for the current firing (R208). -/
def State.fireAtomic (s : State) (i : Instr) (f : Fields) (m : MemOps) (rm : RMode) : State :=
  let returning := f.t0.isSome && !isRed i
  s.fire f (Fields.both f) (fun x s =>
    let ea := effAddr x.a m.disp
    let permission := memCause .rmw reasonPermission
    if x.scratchWaits m.cls ea then .wait
    else
    match s.address x.at_.core x.at_.ctx m.cls ea (fmtBytes m.fmt) .rmw with
    | (.bad c, t) =>
      -- on a host or peer page the permission cause outranks misalignment (R394)
      if c = memCause .rmw reasonMisaligned && m.cls ≠ .p && !hostAtomic i m.fmt returning && ea < 2 ^ 57 then
        (match translate t x.at_.ctx ea .rmw with
         | (.ok _ _ .outside, t) => .bad t permission ea
         | (_, t) => .bad t c ea)
      else .bad t c ea
    | (.park g, t) => t.parkOn x g .rmw ea (Fields.both f)
    | (.outside pa, t) =>
      if hostAtomic i m.fmt returning then
        .ok (t.defer x.at_ x.deps (fun _ => .hostAdd ea pa (fmtBytes m.fmt) (x.b none))) (doneBoth f) [x.nextId]
      else .bad t permission ea
    | (.scratch a, t) =>
      if returning then t.unitAtomic x i m rm .scratch a 0 ea else t.recordUpdate x i f m rm .scratch a 0 ea
    | (.device pa key, t) =>
      if returning then t.unitAtomic x i m rm .device pa key ea else t.recordUpdate x i f m rm .device pa key ea)

/-! ### The instructions -/

/-- AADD (R210). -/
def execAadd (f : Fields) (m : MemOps) (s : State) : Host.Outcome State Fault Refusal :=
  .next (s.fireAtomic (.aadd f m) f m .rne)

/-- AMIN (R210). -/
def execAmin (f : Fields) (m : MemOps) (s : State) : Host.Outcome State Fault Refusal :=
  .next (s.fireAtomic (.amin f m) f m .rne)

/-- AMAX (R210). -/
def execAmax (f : Fields) (m : MemOps) (s : State) : Host.Outcome State Fault Refusal :=
  .next (s.fireAtomic (.amax f m) f m .rne)

/-- AAND (R210). -/
def execAand (f : Fields) (m : MemOps) (s : State) : Host.Outcome State Fault Refusal :=
  .next (s.fireAtomic (.aand f m) f m .rne)

/-- AOR (R210). -/
def execAor (f : Fields) (m : MemOps) (s : State) : Host.Outcome State Fault Refusal :=
  .next (s.fireAtomic (.aor f m) f m .rne)

/-- AXOR (R210). -/
def execAxor (f : Fields) (m : MemOps) (s : State) : Host.Outcome State Fault Refusal :=
  .next (s.fireAtomic (.axor f m) f m .rne)

/-- AXCHG (R210). -/
def execAxchg (f : Fields) (m : MemOps) (s : State) : Host.Outcome State Fault Refusal :=
  .next (s.fireAtomic (.axchg f m) f m .rne)

/-- ACAS (R210). -/
def execAcas (f : Fields) (m : MemOps) (s : State) : Host.Outcome State Fault Refusal :=
  .next (s.fireAtomic (.acas f m) f m .rne)

/-- AINCW (R210). -/
def execAincw (f : Fields) (m : MemOps) (s : State) : Host.Outcome State Fault Refusal :=
  .next (s.fireAtomic (.aincw f m) f m .rne)

/-- ADECW (R210). -/
def execAdecw (f : Fields) (m : MemOps) (s : State) : Host.Outcome State Fault Refusal :=
  .next (s.fireAtomic (.adecw f m) f m .rne)

/-- AFADD (R211). -/
def execAfadd (f : Fields) (m : MemOps) (rm : RMode) (s : State) : Host.Outcome State Fault Refusal :=
  .next (s.fireAtomic (.afadd f m rm) f m rm)

/-- AFMIN (R211). -/
def execAfmin (f : Fields) (m : MemOps) (rm : RMode) (s : State) : Host.Outcome State Fault Refusal :=
  .next (s.fireAtomic (.afmin f m rm) f m rm)

/-- AFMAX (R211). -/
def execAfmax (f : Fields) (m : MemOps) (rm : RMode) (s : State) : Host.Outcome State Fault Refusal :=
  .next (s.fireAtomic (.afmax f m rm) f m rm)

/-- RED (R214). -/
def execRed (f : Fields) (m : MemOps) (rm : RMode) (nu : Bool) (opk : FoldOp) (s : State) :
    Host.Outcome State Fault Refusal :=
  .next (s.fireAtomic (.red f m rm nu opk) f m rm)

/-! ### Updates at commit (R174) -/

/-- The bits a recorded update leaves for the bits m. -/
def AtomicOp.apply (o : AtomicOp) (u m : Nat) : Nat := atomicNew (atomicFn o.kind) o.fmt o.rm u m o.b o.c

end Sys2Proof.Machine
end

