-- ==== Sys2Proof/Machine/Stream.lean ====
section
/-! DEFINITION. BANKMODE, the stream instructions and the gathers (spec/07 R222-R232, spec/09 R273-R276). -/

namespace Sys2Proof.Machine

/-! ### BANKMODE (R222) -/

/-- BANKMODE (R222): a request recorded in the chunk, checked at the end of the pass (R223). -/
def execBankmode (f : Fields) (_oe : Bool) (s : State) : Host.Outcome State Fault Refusal :=
  .next (s.fireRecord f (fun x r => { r with banks := r.banks ++ [(x.at_.idx, x.a, x.b none)] }))

/-! ### Ports (R225, R274) -/

/-- The fields of a stream record (R274): KIND, FROM, TO, GEOM, BANK and NAME. -/
structure EdgeRec where
  kind : Nat
  src : Nat
  dst : Nat
  geom : Nat
  bank : Nat
  name : Nat
  deriving DecidableEq, Repr

/-- A stream record from its fields in order. -/
def EdgeRec.ofList (l : List Nat) : EdgeRec :=
  { kind := l.getD 0 0, src := l.getD 1 0, dst := l.getD 2 0, geom := l.getD 3 0, bank := l.getD 4 0, name := l.getD 5 0 }

/-- A stream record of a context's running graph. -/
def State.edge? (s : State) (ctx e : Nat) : Option EdgeRec :=
  (((s.ctx? ctx).bind (·.kernelPacket?)).bind (fun p => p.edges[e]?)).map EdgeRec.ofList

/-- The core of a region at an offset of 32 x row + column from its origin (R20, R273). -/
def Region.coreAt (r : Region) (offset : Nat) : Nat := r.row * 32 + r.col + offset

/-- The core on which a stage of a context's running graph stands (R273). -/
def State.stageCore (s : State) (ctx stage : Nat) : Option Nat :=
  match s.region? ctx, ((s.ctx? ctx).bind (·.kernelPacket?)).bind (fun p => p.stages[stage]?) with
  | some r, some st => some (r.coreAt st.offset)
  | _, _ => none

/-- Where a port's entries are held: a bank of a core, or an edge's receive buffer at its consumer. -/
inductive PortLoc
  | bank (core b : Nat)
  | link (core e : Nat)
  deriving DecidableEq, Repr

/-- The core that holds a port's entries. -/
def PortLoc.core : PortLoc → Nat
  | .bank c _ => c
  | .link c _ => c

/-- A bank of a core. -/
def State.bank? (s : State) (core b : Nat) : Option Bank := (s.core? core).bind (fun c => c.banks[b]?)

/-- The place of a port named on a core, when its bank stands in the mode given for the context (R225). -/
def State.portLoc (s : State) (core ctx : Nat) (port : PortRef) (mode : BankMode) : Option PortLoc :=
  if port.edge then
    match s.edge? ctx port.port.toNat with
    | none => none
    | some r =>
      (s.stageCore ctx r.dst).bind (fun c =>
        if r.kind = 2 then (if mode = .fifo then some (.link c port.port.toNat) else none)
        else if (match s.bank? c r.bank with | some b => decide (b.mode = mode) && decide (b.owner = ctx) | none => false) then some (.bank c r.bank)
        else none)
  else
    match s.bank? core port.port.toNat with
    | some b => if b.mode = mode && b.owner = ctx then some (.bank core port.port.toNat) else none
    | none => none

/-- The entries of a FIFO bank or LINK buffer, and how many it holds at most (R222, R227, R274). -/
def State.fifo? (s : State) (ctx : Nat) : PortLoc → Option (List FifoEntry × Nat)
  | .bank c b => (s.bank? c b).map (fun k => (k.fifo, k.geom % 4096 + 1))
  | .link c e => (s.lane? c ctx).bind (fun l => (l.links.find? (fun k => k.edge = e)).map (fun k => (k.entries, k.cap)))

/-- The state with the entries of a FIFO bank or LINK buffer replaced. -/
def State.setFifo (s : State) (ctx : Nat) (loc : PortLoc) (es : List FifoEntry) : State :=
  match loc with
  | .bank c b => s.updCore c (fun k => k.updBank b (fun k => { k with fifo := es }))
  | .link c e => s.updLane c ctx (fun l => { l with
      links := l.links.map (fun k => if k.edge = e then { k with entries := es } else k) })

/-- Whether a copy has a bank bound (R255). -/
def State.copyBound (s : State) : PortLoc → Bool
  | .bank c b => (match s.bank? c b with
      | some k => k.binding.any (fun x => match x with | .copy _ => true | _ => false)
      | none => false)
  | .link _ _ => false

/-! ### The order of a pass's firings (R226) -/

/-- Whether a run has drained its block (R56): no source unfired, no token waiting, none on its way. -/
def Run.drained (r : Run) : Bool := r.sources.isEmpty && r.tokens.isEmpty && r.outstanding.isEmpty

/-- Whether every lower thread of a pass has fired an instruction, been predicated off or taken a null there, or drained
the block (R226, R227). -/
def Pass.lowerDone (p : Pass) (pseq k : Nat) : Bool :=
  p.runs.all (fun r => decide (pseq ≤ r.pseq) || decide (0 < (r.idx k).consumed) || r.drained)

/-- The reference of a firing's pass. -/
def Site.ref (x : Site) : PassRef := { core := x.at_.core, ctx := x.at_.ctx, pass := x.at_.pass }

/-- Whether an uncommitted producer keeps a solo pass waiting (R287). -/
def Site.soloHolds (x : Site) (prod : Option PassRef) : Bool :=
  x.spot.pass.solo = .holding &&
  (match prod with
   | some q => decide (q ≠ x.ref)
   | none => false)

/-- The state with an uncommitted producer recorded in the chunk of a firing (R177); the thread of its own pass that entered what it
took is recorded with its run (R435). -/
def State.recordProducer (s : State) (x : Site) (prod : Option PassRef) (tidx : Nat) : State :=
  match prod with
  | none => s
  | some q =>
    if q = x.ref then s.updRun x.at_ (fun r => { r with fed := if r.fed.contains tidx then r.fed else tidx :: r.fed })
    else s.updPass x.at_.core x.at_.ctx x.at_.pass (fun p =>
      if p.producers.contains q then p else { p with producers := p.producers ++ [q] })

/-- One token accepted by a core from another core, or from a dray, in its rate window (R290); none when the window is
spent. -/
def State.acceptToken (s : State) (core ctx : Nat) : Option State :=
  match s.lane? core ctx with
  | none => some s
  | some l =>
    if l.regs.rltokens = 0 then some s
    else if l.regs.rltokens ≤ l.rateTokens then none
    else some (s.updLane core ctx (fun l => { l with rateTokens := l.rateTokens + 1 }))

/-- Whether a region holds a core. -/
def Region.holds (r : Region) (core : Nat) : Bool :=
  decide (r.row ≤ core / 32) && decide (core / 32 < r.row + r.h) && decide (r.col ≤ core % 32) && decide (core % 32 < r.col + r.w)

/-- The core to which a border switch refuses a token of a port: the consumer of its edge, where that lies outside the region of
the context (R340). -/
def State.borderRefuses (s : State) (ctx : Nat) (port : PortRef) : Option Nat :=
  if !port.edge then none
  else
    match (s.edge? ctx port.port.toNat).bind (fun r => s.stageCore ctx r.dst), s.region? ctx with
    | some c, some r => if r.holds c then none else some c
    | _, _ => none

/-- Whether a firing waits for the mode of the bank that its port names (R224, R233). -/
def Site.portWaits (x : Site) (port : PortRef) : Bool := !port.edge && x.bankWaits port.port.toNat

/-- What a port's token meets before its place: a border switch that discards it and traps its thread with reason isolation and the
refused core (R340), or a bank whose mode is about to change (R224); else it acts. -/
def State.throughPort (s : State) (x : Site) (port : PortRef) (act : Fired) : Fired :=
  match s.borderRefuses x.at_.ctx port with
  | some c => .bad s (memCause .store reasonIsolation) (some c)
  | none => if x.portWaits port then .wait else act

/-- A token sent over the token network by a firing: free on its own core (R290). -/
def State.sendAcross (s : State) (x : Site) (core : Nat) : Option State :=
  if core = x.at_.core then some s else s.acceptToken core x.at_.ctx

/-! ### FIFO and LINK (R226-R228) -/

/-- PUSH (R226). -/
def execPush (f : Fields) (port : PortRef) (_oe : Bool) (s : State) : Host.Outcome State Fault Refusal :=
  .next (s.fireOnce f (fun x s =>
    s.throughPort x port (
      match s.portLoc x.at_.core x.at_.ctx port .fifo with
      | none => .bad s (memCause .store reasonBounds) none
      | some loc =>
        if s.copyBound loc then .bad s (memCause .store reasonLocked) none
        else if !x.spot.pass.lowerDone x.spot.run.pseq x.at_.idx then .wait
        else
          match s.fifo? x.at_.ctx loc, s.sendAcross x loc.core with
          | some (es, cap), some t =>
            if cap ≤ es.length then .wait
            else .ok (t.setFifo x.at_.ctx loc (es ++ [{ val := x.a, prod := some x.ref, tidx := x.at_.tidx, pop := none }]))
              (doneBoth f) []
          | _, _ => .wait)))

/-- The oldest entry not yet popped, with the entries as its popping by a thread of a pass leaves them. -/
def popEntry (q : PassRef) (tidx : Nat) : List FifoEntry → Option (FifoEntry × List FifoEntry)
  | [] => none
  | e :: es =>
    if e.pop.isNone then some (e, { e with pop := some q, popTidx := tidx } :: es)
    else (popEntry q tidx es).map (fun r => (r.1, e :: r.2))

/-- POP (R227). -/
def execPop (f : Fields) (port : PortRef) (_oe : Bool) (s : State) : Host.Outcome State Fault Refusal :=
  .next (s.fireOnce f (fun x s =>
    if x.portWaits port then .wait else
    match s.portLoc x.at_.core x.at_.ctx port .fifo with
    | none => .bad s (memCause .load reasonBounds) none
    | some loc =>
      if !x.spot.pass.lowerDone x.spot.run.pseq x.at_.idx then .wait
      else
        match (s.fifo? x.at_.ctx loc).bind (fun q => popEntry x.ref x.at_.tidx q.1) with
        | none => .wait
        | some (e, es) =>
          if x.soloHolds e.prod then .wait
          else .ok ((s.setFifo x.at_.ctx loc es).recordProducer x e.prod e.tidx) (valueDone f e.val) []))

/-- PEEK (R227): its position counts from the head as the pass found it. -/
def execPeek (f : Fields) (port : PortRef) (_oe : Bool) (s : State) : Host.Outcome State Fault Refusal :=
  .next (s.fireOnce f (fun x s =>
    if x.portWaits port then .wait else
    match s.portLoc x.at_.core x.at_.ctx port .fifo with
    | none => .bad s (memCause .load reasonBounds) none
    | some loc =>
      match s.fifo? x.at_.ctx loc with
      | none => .bad s (memCause .load reasonBounds) none
      | some (es, cap) =>
        if cap ≤ (x.b none).toNat then .bad s (memCause .load reasonBounds) none
        else
          match (es.filter (fun e => e.pop.isNone || e.pop = some x.ref))[(x.b none).toNat]? with
          | none => .wait
          | some e => if x.soloHolds e.prod then .wait else .ok (s.recordProducer x e.prod e.tidx) (valueDone f e.val) []))

/-! ### WINDOW (R229, R230) -/

/-- The fields of a WINDOW geometry word (R222). -/
structure Geometry where
  rw : Nat
  kh : Nat
  kw : Nat
  str : Nat
  dil : Nat
  deriving DecidableEq, Repr

/-- The geometry of a word. -/
def Geometry.of (g : Nat) : Geometry :=
  { rw := field g 0 12 + 1, kh := field g 12 4 + 1, kw := field g 16 4 + 1, str := field g 20 3 + 1, dil := field g 23 3 + 1 }

/-- OW, the windows of a row of windows (R229). -/
def Geometry.ow (g : Geometry) : Nat := (g.rw - ((g.kw - 1) * g.dil + 1)) / g.str + 1

/-- The lowest row of window `n`. -/
def Geometry.firstRow (g : Geometry) (n : Nat) : Nat := n / g.ow * g.str

/-- The pixel of element `k` of window `n` (R229). -/
def Geometry.pixel (g : Geometry) (n k : Nat) : Nat :=
  (g.firstRow n + k / g.kw * g.dil) * g.rw + n % g.ow * g.str + k % g.kw * g.dil

/-- WFEED (R230). -/
def execWfeed (f : Fields) (port : PortRef) (_oe : Bool) (s : State) : Host.Outcome State Fault Refusal :=
  .next (s.fireOnce f (fun x s =>
    s.throughPort x port (
      match s.portLoc x.at_.core x.at_.ctx port .window with
      | some (.bank c b) =>
        if !x.spot.pass.lowerDone x.spot.run.pseq x.at_.idx then .wait
        else
          (match s.bank? c b, s.sendAcross x c with
           | some k, some t =>
             let g := Geometry.of k.geom
             if k.freeRow + (g.kh - 1) * g.dil + 1 + g.str ≤ (k.dropped + k.pixels.length) / g.rw then .wait
             else .ok (t.updCore c (fun y => y.updBank b (fun k => { k with
                 pixels := k.pixels ++ [{ val := x.a, prod := some x.ref, tidx := x.at_.tidx }] })))
               (doneBoth f) []
           | _, _ => .wait)
      | _ => .bad s (memCause .store reasonBounds) none)))

/-- WEMIT (R230). -/
def execWemit (f : Fields) (port : PortRef) (_oe : Bool) (s : State) : Host.Outcome State Fault Refusal :=
  .next (s.fireOnce f (fun x s =>
    if x.portWaits port then .wait else
    match s.portLoc x.at_.core x.at_.ctx port .window with
    | some (.bank c b) =>
      (match s.bank? c b with
       | none => .bad s (memCause .load reasonBounds) none
       | some k =>
         let g := Geometry.of k.geom
         let n := x.a.toNat
         let e := (x.b none).toNat
         let last := g.kh * g.kw - 1
         if last < e || g.firstRow n < k.freeRow then .bad s (memCause .load reasonBounds) none
         else if k.dropped + k.pixels.length ≤ g.pixel n last then .wait
         else
           match k.pixels[g.pixel n e - k.dropped]? with
           | none => .wait
           | some px =>
             if x.soloHolds px.prod then .wait
             else
               let t := if e = last then s.updRun x.at_ (fun r => { r with windows := r.windows ++ [(port, n)] }) else s
               .ok (t.recordProducer x px.prod px.tidx) (valueDone f px.val) [])
    | _ => .bad s (memCause .load reasonBounds) none))

/-- A bank after windows of it retire (R230): rows are freed lowest first, up to the lowest row of the first row of
windows that has not wholly retired; freed pixels whose producers have committed are no longer held. -/
def Bank.retire (k : Bank) (ns : List Nat) : Bank :=
  let g := Geometry.of k.geom
  let retired := (k.retired ++ ns).dedup
  let whole := fun oy => (List.range g.ow).all (fun i => retired.contains (oy * g.ow + i))
  let first := (List.range (retired.length + 1)).foldl
    (fun oy _ => if whole oy then oy + 1 else oy) (k.freeRow / g.str)
  let gone := ((k.pixels.take (first * g.str * g.rw - k.dropped)).takeWhile (fun x => x.prod.isNone)).length
  { k with
    freeRow := first * g.str
    retired := retired.filter (fun n => first * g.ow ≤ n)
    pixels := k.pixels.drop gone
    dropped := k.dropped + gone }

/-! ### Gathers (R231, R232) -/

/-- The gathers of an MEU of a core that have not returned (R231). -/
def State.mergerLoad (s : State) (core meu : Nat) : Nat :=
  ((s.lanes.filter (fun l => l.core = core)).flatMap (fun l => l.passes.flatMap (fun p => p.runs.flatMap (fun r =>
    if r.drained then [] else r.gathers.filter (fun g => !g.returned && g.idx % 16 = meu))))).length

/-- A free word that none of the tickets given equals, looked for from a counter on, and the counter after it. -/
def freshTicket (used : List Nat) : Nat → Nat → Word × Nat
  | 0, ctr => (Config.freeWord ctr, ctr + 1)
  | fuel + 1, ctr =>
    if used.contains (Config.freeWord ctr).toNat then freshTicket used fuel (ctr + 1) else (Config.freeWord ctr, ctr + 1)

/-- GATH (R231): an S load whose value waits at the merger; its ticket, a free word, goes to both targets. It leaves as GATH fires:
MODEL'S CHOICE (log 72), since GRECV waits for the row's return, while R196 has GATH's tokens wait for a value that has returned. -/
def execGath (f : Fields) (m : MemOps) (s : State) : Host.Outcome State Fault Refusal :=
  .next (s.fire f (Fields.both f) (fun x s =>
    let ea := effAddr x.a m.disp
    if 32 ≤ s.mergerLoad x.at_.core (x.at_.idx % 16) then .wait
    else
      match s.readAt x .s m.cp ea (fmtBytes m.fmt) (fmtBytes m.fmt) .load with
      | .bad t c => .bad t c ea
      | .park t g => t.parkOn x g .load ea (Fields.both f)
      | .wait => .wait
      | .got t bytes pa _ =>
        let used := x.spot.run.gathers.map (·.ticket)
        let pick := freshTicket used (used.length + 1) t.freeCtr
        .ok (({ t with freeCtr := pick.2 } : State).touchPhys pa 8 |>.updRun x.at_ (fun r => { r with
            gathers := r.gathers ++ [{ ticket := pick.1.toNat, idx := x.at_.idx, gen := x.gen, val := fmtDecode m.fmt (leNat bytes)
                                       pa := pa, va := ea, returned := false, received := false, deps := x.deps }] }))
          (toAll (Fields.both f) (some pick.1)) []))

/-- GRECV (R232). -/
def execGrecv (f : Fields) (s : State) : Host.Outcome State Fault Refusal :=
  .next (s.fire f (Fields.both f) (fun x s =>
    match x.spot.run.gathers.find? (fun g => g.ticket = x.a.toNat && !g.received) with
    | none => .bad s cGatherTicket none
    | some g =>
      if !g.returned then .wait
      else .ok (s.updRun x.at_ (fun r => { r with
          gathers := r.gathers.map (fun y => if y = g then { y with received := true } else y) })) (valueDone f g.val) g.deps))

/-- GATHER_RETURN (R231): the row read of a thread's gather returns, the gather named by its place among the thread's. -/
def execGatherReturn (core ctx tidx ticket : Nat) (s : State) : Host.Outcome State Fault Refusal :=
  .next (s.updLane core ctx (fun l => { l with
    passes := l.passes.map (fun p => if p.state = .streaming && !l.frozen then p.updRun tidx (fun r => { r with
      gathers := r.gathers.mapIdx (fun i g => if i = ticket then { g with returned := true } else g) }) else p) }))

end Sys2Proof.Machine
end

