-- ==== Sys2Proof/Machine/Engine.lean ====
section
/-! DEFINITION. Accesses made outside the chunks, by the matrix engine, the drays and the front strip: runs of bytes of a
context's virtual memory, translated line by line, and the scratchpad of a core (spec/05 R142, R147, R151; spec/08 R235,
R253). -/

namespace Sys2Proof.Machine

/-! ### Virtual memory -/

/-- What an access of several lines meets: a cause at an address, a page that migrates, or its end. -/
inductive Reach (α : Type)
  | bad (cause va : Nat)
  | park (mig : Nat)
  | ok (v : α)
  deriving DecidableEq, Repr

/-- The bytes of [va, va + n) cut at line boundaries, as start and length. -/
def lineSpans (va n : Nat) : List (Nat × Nat) :=
  let first := va / 64
  let last := (va + n + 63) / 64
  (List.range (last - first)).map (fun i =>
    let lo := max va ((first + i) * 64)
    (lo, min (va + n) ((first + i + 1) * 64) - lo))

/-- One span of a line at its physical place, for an access that a context makes (R342-R347, R188 when `locks`). What the part keeps
there is touched: a guard covers whole lines. -/
def State.placeVa (s : State) (ctx va : Nat) (k : AccKind) (locks : Bool) : Reach (Nat × Nat × MemType) × State :=
  if 2 ^ 57 ≤ va then (.bad (memCause k reasonBounds) va, s)
  else
    match translate s ctx va k with
    | (.bad c, s) => (.bad c va, s)
    | (.mot pa big, s) => (.park (s.requestMigration ctx va pa big).1, (s.requestMigration ctx va pa big).2)
    | (.ok pa key mt, s) =>
      if locks && mt = .device && s.lockedFor pa (k ≠ .load) then (.bad (memCause k reasonLocked) va, s)
      else (.ok (pa, key, mt), s.touchPhys pa 1)

/-- Bytes read through a context's translation, span by span, as a reader finds them in memory, with what it does about a device
line that it reads; the bytes before a fault are in the second part. Those of the siding are free (R283). -/
def State.readSpansWith (look : List Host.Cell → List Host.Cell) (fill : Nat → State → State) (s : State) (ctx : Nat) (k : AccKind) (locks : Bool) :
    List (Nat × Nat) → Reach (List Byte) × List Byte × State
  | [] => (.ok [], [], s)
  | (va, n) :: rest =>
    match s.placeVa ctx va k locks with
    | (.bad c a, s) => (.bad c a, [], s)
    | (.park m, s) => (.park m, [], s)
    | (.ok (pa, key, mt), s) =>
      let fault := match mt with
        | .device => s.readFault pa key k
        | .outside => s.outerFault pa k
      match fault with
      | some c => (.bad c va, [], s)
      | none =>
        let found := s.unspecified (s.inSiding ctx va) ctx (Memory.readBytes (look s.mem) pa n)
        let here := found.1
        let s := found.2
        let s := if mt = .outside then s.noteSent ctx pa n false else fill (pa / 64) s
        match State.readSpansWith look fill s ctx k locks rest with
        | (.ok bs, _, s) => (.ok (here ++ bs), here ++ bs, s)
        | (r, bs, s) => (r, here ++ bs, s)

/-- Bytes read by a reader that keeps no copy of a line. -/
def State.readSpansBy (look : List Host.Cell → List Host.Cell) (s : State) (ctx : Nat) (k : AccKind) (locks : Bool)
    (spans : List (Nat × Nat)) : Reach (List Byte) × List Byte × State := State.readSpansWith look (fun _ s => s) s ctx k locks spans

/-- Committed bytes read through a context's translation. -/
def State.readSpans (s : State) (ctx : Nat) (k : AccKind) (locks : Bool) (spans : List (Nat × Nat)) :
    Reach (List Byte) × List Byte × State := State.readSpansBy id s ctx k locks spans

/-- `n` bytes of a context's memory. -/
def State.readVa (s : State) (ctx va n : Nat) (k : AccKind) (locks : Bool) : Reach (List Byte) × State :=
  match s.readSpans ctx k locks (lineSpans va n) with
  | (r, _, s) => (r, s)

/-- A piece of a context's write at its physical place: the bytes, the key index and whether the page is device memory. -/
structure Piece where
  ctx : Nat
  va : Nat
  pa : Nat
  key : Nat
  device : Bool
  bytes : List Byte
  deriving DecidableEq, Repr

/-- The pieces of a write, span by span; those before a fault are in the second part. -/
def State.writeSpans (s : State) (ctx : Nat) (k : AccKind) (locks : Bool) (base : Nat) (bytes : List Byte) :
    List (Nat × Nat) → Reach (List Piece) × List Piece × State
  | [] => (.ok [], [], s)
  | (va, n) :: rest =>
    match s.placeVa ctx va k locks with
    | (.bad c a, s) => (.bad c a, [], s)
    | (.park m, s) => (.park m, [], s)
    | (.ok (pa, key, mt), s) =>
      let here : Piece := { ctx := ctx, va := va, pa := pa, key := key, device := decide (mt = .device)
                            bytes := (bytes.drop (va - base)).take n }
      match State.writeSpans s ctx k locks base bytes rest with
      | (.ok ps, _, s) => (.ok (here :: ps), here :: ps, s)
      | (r, ps, s) => (r, here :: ps, s)

/-- The pieces of a write of bytes at a virtual address. -/
def State.writeVa (s : State) (ctx va : Nat) (bytes : List Byte) (k : AccKind) (locks : Bool) :
    Reach (List Piece) × List Piece × State :=
  s.writeSpans ctx k locks va bytes (lineSpans va bytes.length)

/-- The device bytes of pieces. -/
def deviceBytes (ps : List Piece) : List DevByte :=
  (ps.filter (·.device)).flatMap (fun p => devBytes p.pa p.key p.bytes)

/-- A piece of a host or peer page sent through its port (R190, R356). -/
def State.sendPiece (s : State) (p : Piece) : State :=
  { s.noteSent p.ctx p.pa p.bytes.length true with mem := Memory.writeBytes s.mem p.pa p.bytes }

/-- Pieces written: device memory in one engine commit (R189), host and peer pages through their ports (R190). -/
def State.commitPieces (s : State) (ps : List Piece) : State :=
  let out := ps.filter (fun p => !p.device)
  let s := out.foldl State.sendPiece s
  if (deviceBytes ps).isEmpty then s else s.engineCommit (deviceBytes ps)

/-- A write by the part itself of a record, a word or a snapshot: its pieces, or the first fault in translation or in the
check of a block that it does not write whole (R252, R253, R294, R353). -/
def State.writeChecked (s : State) (ctx va : Nat) (bytes : List Byte) : Reach (List Piece) × State :=
  match s.writeVa ctx va bytes .store false with
  | (.ok ps, _, t) =>
    let ws := deviceBytes ps
    let bad := ps.findSome? (fun p =>
      if !p.device || decide (128 ≤ (ws.filter (fun w => w.pa / 128 = p.pa / 128)).length) then none
      else (t.readFault p.pa p.key .store).map (fun c => (c, p.va)))
    (match bad with
     | some (c, a) => (.bad c a, t)
     | none => (.ok ps, t))
  | (r, _, t) => (r, t)

/-! ### The solo pass (R163, R287) -/

/-- Whether the pass that holds the solo ticket has read one of the lines given; its W lines count as read. -/
def State.soloReads (s : State) (lines : List Nat) : Bool :=
  match s.soloHolder with
  | none => false
  | some q =>
    match (s.lane? q.core q.ctx).bind (fun l => l.pass? q.pass) with
    | none => false
    | some p => p.accesses.any (fun a => (a.inR || a.inW) && lines.contains (lineKey q.core a.space a.addr))

/-- Whether an engine commit of pieces has to wait for the solo pass (R163). -/
def State.soloBlocks (s : State) (ps : List Piece) : Bool := s.soloReads ((ps.filter (·.device)).map (fun p => p.pa / 64))

/-- Whether an engine commit of the lines given may be made (R162, R163, R189): it holds the grants of their dies. One that
meets what the solo pass has read gives up its grants and waits for that pass. -/
def State.mayCommitLines (s : State) (o : EngineOp) (lines : List Nat) : Bool × State :=
  if s.soloReads lines then (false, s.dropRequests (.engine o))
  else s.takeGrants o (lines.map (fun l => homeDie (64 * l)))

/-- Whether an engine commit of pieces may be made. -/
def State.mayCommit (s : State) (o : EngineOp) (ps : List Piece) : Bool × State :=
  s.mayCommitLines o ((ps.filter (·.device)).map (fun p => p.pa / 64))

/-- An engine commit of pieces that releases the grants taken for it (R162, R189). -/
def State.commitAs (s : State) (o : EngineOp) (ps : List Piece) : State := (s.commitPieces ps).dropRequests (.engine o)

/-! ### The completion ring (R252, R363, R364) -/

/-- A completion record: KIND, CAUSE, BYTES, CORE, TIDX and ADDR. -/
structure CompRec where
  kind : Nat
  cause : Nat
  bytes : Nat
  core : Nat
  tidx : Nat
  addr : Nat
  deriving DecidableEq, Repr

/-- The 32 bytes of a record with its SEQ. -/
def CompRec.image (r : CompRec) (seq : Nat) : List Byte :=
  leBytes 8 (seq % 2 ^ 32 * 2 ^ 32 + r.kind * 2 ^ 24 + r.cause % 512 * 2 ^ 15 + (if r.cause = 0 then 0 else 1)) ++
  leBytes 8 r.bytes ++ leBytes 8 (r.core % 1024 * 2 ^ 32 + r.tidx % 2 ^ 32) ++ leBytes 8 (r.addr % 2 ^ 57)

/-- Where the record of a sequence number lies. -/
def CtxPage.recordVa (p : CtxPage) (seq : Nat) : Nat :=
  p.crBase / (32 * 2 ^ p.crLog2) * (32 * 2 ^ p.crLog2) + 32 * (seq % 2 ^ p.crLog2)

/-- The register page after a record that was written, or that CROVF counts. -/
def CtxPage.tookRecord (p : CtxPage) (written : Bool) : CtxPage :=
  { p with crTail := (p.crTail + 1) % 2 ^ 32, crOvf := if written then p.crOvf else (p.crOvf + 1) % 2 ^ 32 }

/-- A record appended to a context's ring, or counted in CROVF (R252, R364); false while it has to wait. -/
def State.appendRecord (s : State) (o : EngineOp) (ctx : Nat) (r : CompRec) : Bool × State :=
  match s.ctx? ctx with
  | none => (true, s)
  | some c =>
    let p := c.page
    let full := 2 ^ p.crLog2 ≤ (p.crTail + 2 ^ 32 - p.crHead) % 2 ^ 32
    let counted := fun (s : State) => s.updCtx ctx (·.updPage (·.tookRecord false))
    if !p.crEn || full then (true, counted s)
    else
      match s.writeChecked ctx (p.recordVa p.crTail) (r.image p.crTail) with
      | (.bad _ _, t) => (true, counted t)
      | (.park _, t) => (false, t.dropRequests (.engine o))
      | (.ok ps, t) =>
        match t.mayCommit o ps with
        | (false, t) => (false, t)
        | (true, t) => (true, (t.commitAs o ps).updCtx ctx (·.updPage (·.tookRecord true)))

/-! ### Scratchpad (R235) -/

/-- Whether bytes [addr, addr + n) of a core's scratchpad lie in banks in SCRATCH mode for a context. -/
def State.scratchSpan (s : State) (core ctx addr n : Nat) : Bool :=
  n = 0 || (decide (addr + n ≤ 2 ^ 20) &&
    (List.range ((addr + n - 1) / 32768 - addr / 32768 + 1)).all (fun i => s.scratchBank core ctx (addr / 32768 + i)))

/-- Committed scratchpad bytes. -/
def State.scratchBytes (s : State) (core addr n : Nat) : List Byte :=
  (List.range n).map (fun i => s.scratchAt core (addr + i))

/-- The state with one scratchpad byte written. -/
def State.scratchPut (s : State) (core addr : Nat) (b : Byte) : State :=
  s.updCore core (fun c => c.updBank (addr / 32768) (fun k => { k with bytes := Memory.write k.bytes (addr % 32768) b }))

/-- The state with scratchpad bytes written. -/
def State.scratchWrite (s : State) (core addr : Nat) (bytes : List Byte) : State :=
  (bytes.mapIdx (fun i b => (addr + i, b))).foldl (fun s x => s.scratchPut core x.1 x.2) s

end Sys2Proof.Machine
end

