-- ==== Sys2Proof/Machine/Matrix.lean ====
section
/-! DEFINITION. The matrix engine (spec/05 R136-R153): its queued instructions, MREAD, and the events of the queue. -/

namespace Sys2Proof.Machine

/-! ### Formats (R138) -/

/-- The greatest K of an operand format, in 32-row blocks; 0 for a format that is none. -/
def depthLimit : Fmt → Nat
  | .bf16 => 4
  | .e4m3 | .e5m2 | .t8 => 8
  | .e2m1 => 16
  | .t6 => 10
  | _ => 0

/-- The bytes of `n` elements packed by R83. -/
def rowBytes (fmt : Fmt) (n : Nat) : Nat := n * fmtBits fmt / 8

/-- Element `j` of a packed row. -/
def rowElem (fmt : Fmt) (row : List Byte) (j : Nat) : Nat :=
  let bit := fmtBits fmt * j
  leNat ((row.drop (bit / 8)).take 3) / 2 ^ (bit % 8) % 2 ^ fmtBits fmt

/-- Elements packed into a row. -/
def packRow (fmt : Fmt) (codes : List Nat) : List Byte :=
  leBytes (rowBytes fmt codes.length) (codes.foldr (fun c n => c + 2 ^ fmtBits fmt * n) 0)

/-! ### Issue (R137, R139, R141) -/

/-- Whether a context uses configuration slots 0 and 1 of its cores: it does unless it shares its region (R24, R406). -/
def State.ownsEngine (s : State) (ctx : Nat) : Bool := !s.regions.any (fun r => r.sharer = some ctx)

/-- Whether one more entry may be outstanding under a flag of the thread of a firing (R141). -/
def Site.flagRoom (x : Site) (flag : Option (BitVec 4)) : Bool :=
  match flag with
  | none => true
  | some k =>
    let deferredFlag := fun (d : Deferred) => match d.kind with
      | .copy _ _ g => g
      | .tlbinv _ _ _ g => g
      | .cfginv _ _ _ g => g
      | _ => none
    decide (x.spot.thread.counts.getD k.toNat 0
      + (x.spot.run.matrix.filter (fun m => m.flag = some k.toNat)).length
      + (x.spot.run.deferred.filter (fun d => deferredFlag d = some k.toNat)).length < 255)

/-- What a queued instruction's own checks find. -/
inductive Checked
  | wait
  | bad (s : State) (cause : Nat) (info : Option Nat)
  | ok (s : State) (kind : MatrixKind)

/-- A queued instruction (R139): the owner and flag checks, then the instruction's own, then its entry in the chunk.
Of several causes of one firing MATRIX_NOT_OWNED is met first, then those of the parameters, then FLAG_OVERFLOW: MODEL'S CHOICE
(log 34), the spec does not order them. -/
def State.fireQueued (s : State) (f : Fields) (flag : Option (BitVec 4))
    (check : Site → State → Checked) : State :=
  s.fire f (Fields.both f) (fun x s =>
    if !s.ownsEngine x.at_.ctx then .bad s cMatrixNotOwned none
    else
      match check x s with
      | .wait => .wait
      | .bad s cause info => .bad s cause info
      | .ok s kind =>
        if !x.flagRoom flag then .bad s cFlagOverflow none
        else .ok (s.updRun x.at_ (fun r => { r with
            matrix := r.matrix ++ [{ tidx := x.at_.tidx, idx := x.at_.idx, gen := x.gen, kind := kind
                                     flag := flag.map (·.toNat) }] })) (doneBoth f) [])

/-- MBLD (R147). -/
def execMbld (f : Fields) (cls : MemClass) (_scope : Scope) (fmt : Fmt) (cp : CachePol) (_oe : Bool)
    (flag : Option (BitVec 4)) (s : State) : Host.Outcome State Fault Refusal :=
  .next (s.fireQueued f flag (fun x s =>
    let addr := x.a.toNat
    let b := (x.b none).toNat
    let stride := field b 0 32
    let kb := field b 32 4
    if addr % 16 ≠ 0 then .bad s (memCause .load reasonMisaligned) (some addr)
    else if stride % 16 ≠ 0 || stride < rowBytes fmt 128 || depthLimit fmt ≤ kb || field b 36 28 ≠ 0 then
      .bad s cMatrixParam none
    else .ok s (.mbld cls fmt cp addr stride kb)))

/-- MZERO (R150). -/
def execMzero (f : Fields) (_oe : Bool) (flag : Option (BitVec 4)) (tile : BitVec 2) (s : State) :
    Host.Outcome State Fault Refusal :=
  .next (s.fireQueued f flag (fun _ s => .ok s (.mzero tile.toNat)))

/-- MSTORE (R151). -/
def execMstore (f : Fields) (cls : MemClass) (scope : Scope) (fmt : Fmt) (cp : CachePol) (_oe : Bool)
    (flag : Option (BitVec 4)) (tile : BitVec 2) (rm : RMode) (s : State) : Host.Outcome State Fault Refusal :=
  .next (s.fireQueued f flag (fun x s =>
    let addr := x.a.toNat
    let b := (x.b none).toNat
    if addr % 16 ≠ 0 then .bad s (memCause .store reasonMisaligned) (some addr)
    else if field b 0 32 % 16 ≠ 0 || field b 0 32 < rowBytes fmt 128 || field b 32 32 ≠ 0 then .bad s cMatrixParam none
    else .ok s (.mstore cls scope fmt cp rm tile.toNat addr (field b 0 32))))

/-! ### The MMA parameter block (R149) -/

/-- The fields of a parameter block. -/
structure MmaParam where
  acc : Nat
  bsfmt : Nat
  asfmt : Nat
  afmt : Nat
  kb : Nat
  astride : Nat
  aaddr : Nat
  asstride : Nat
  asaddr : Nat
  bsstride : Nat
  bsaddr : Nat
  deriving DecidableEq, Repr

/-- The fields of the block's words. -/
def MmaParam.ofWords (ws : List Word) : MmaParam :=
  let w := fun k => (ws.getD k 0).toNat
  { acc := field (w 0) 22 2, bsfmt := field (w 0) 17 5, asfmt := field (w 0) 12 5, afmt := field (w 0) 7 5
    kb := field (w 0) 0 4, astride := field (w 1) 32 32, aaddr := field (w 1) 0 32, asstride := field (w 2) 32 32
    asaddr := field (w 2) 0 32, bsstride := field (w 3) 32 32, bsaddr := field (w 3) 0 32 }

/-- The bytes of a scale: 2 for S12, 1 for E8M0. -/
def scaleBytes (sfmt : Nat) : Nat := if sfmt = 15 then 2 else 1

/-- The format of A. -/
def MmaParam.fmt (p : MmaParam) : Fmt := (Fmt.ofCode? p.afmt).getD .raw64

/-- K. -/
def MmaParam.k (p : MmaParam) : Nat := 32 * (p.kb + 1)

/-- The spans of scratchpad that an MMA reads, as address and length. -/
def MmaParam.spans (p : MmaParam) : List (Nat × Nat) :=
  (List.range 64).map (fun i => (p.aaddr + i * p.astride, rowBytes p.fmt p.k)) ++
  (if p.asfmt = 0 then []
   else (List.range 64).map (fun i => (p.asaddr + i * p.asstride, (p.kb + 1) * scaleBytes p.asfmt))) ++
  (if p.bsfmt = 0 then []
   else (List.range (p.kb + 1)).map (fun kb => (p.bsaddr + kb * p.bsstride, 128 * scaleBytes p.bsfmt)))

/-- The checks of R149 on the fields, but for where the bytes lie. -/
def mmaFieldsOk (ws : List Word) : Bool :=
  let p := MmaParam.ofWords ws
  let w := fun k => (ws.getD k 0).toNat
  decide (field (w 0) 24 40 = 0) && decide (field (w 0) 4 3 = 0)
  && [4, 5, 6, 7].all (fun k => decide (w k = 0))
  && [0, 15, 16].contains p.bsfmt && [0, 15, 16].contains p.asfmt
  && decide (9 ≤ p.afmt) && decide (p.afmt ≤ 14) && !(p.afmt = 9 && p.asfmt ≠ 0)
  && decide (p.kb < depthLimit p.fmt)
  && decide (p.astride % 16 = 0) && decide (rowBytes p.fmt p.k ≤ p.astride) && decide (p.aaddr % 16 = 0)
  && !(p.asfmt = 0 && p.asstride ≠ 0) && !(p.asfmt = 15 && p.asaddr % 2 ≠ 0)
  && !(p.bsfmt = 0 && p.bsstride ≠ 0) && !(p.bsfmt = 15 && p.bsaddr % 2 ≠ 0)

/-- The first span that does not lie in SCRATCH banks for the context. -/
def State.mmaSpanFault (s : State) (core ctx : Nat) (p : MmaParam) : Option Nat :=
  (p.spans.find? (fun x => !s.scratchSpan core ctx x.1 x.2)).map (·.1)

/-- MMA (R148): the parameter block is a class P load of 64 bytes; its copy stands in the entry. -/
def execMma (f : Fields) (_oe : Bool) (flag : Option (BitVec 4)) (s : State) : Host.Outcome State Fault Refusal :=
  .next (s.fireQueued f flag (fun x s =>
    match s.readAt x .p .normal x.a.toNat 64 64 .load with
    | .got t bytes _ _ =>
      let ws := leWords 8 bytes
      if (List.range 32).any (fun b => x.bankWaits b && (MmaParam.ofWords ws).spans.any (fun y =>
          decide (y.1 < (b + 1) * 32768) && decide (b * 32768 < y.1 + y.2))) then .wait
      else if !mmaFieldsOk ws || (t.mmaSpanFault x.at_.core x.at_.ctx (MmaParam.ofWords ws)).isSome then
        .bad t cMatrixParam none
      else .ok t (.mma ws)
    | .bad t c => .bad t c (some x.a.toNat)
    | .park t _ => .bad t (memCause .load reasonBounds) (some x.a.toNat)
    | .wait => .wait))

/-! ### MREAD (R152) -/

/-- A tile's element; an element that is not listed is +0. -/
def tileElem (t : List (Nat × Word)) (n : Nat) : Word :=
  match t.find? (fun x => x.1 = n) with
  | some x => x.2
  | none => 0

/-- Whether an entry writes a tile. -/
def MatrixKind.writes (k : MatrixKind) (tile : Nat) : Bool :=
  match k with
  | .mma ws => decide ((MmaParam.ofWords ws).acc = tile)
  | .mzero t => decide (t = tile)
  | _ => false

/-- MREAD (R152). One that meets both MATRIX_NOT_OWNED and MATRIX_PARAM reports MATRIX_NOT_OWNED: MODEL'S CHOICE (log 34), R394
ranks the two alike. -/
def execMread (f : Fields) (_oe : Bool) (tile : BitVec 2) (s : State) : Host.Outcome State Fault Refusal :=
  .next (s.fire f (Fields.both f) (fun x s =>
    if !s.ownsEngine x.at_.ctx then .bad s cMatrixNotOwned none
    else if 2 ^ 13 ≤ x.a.toNat then .bad s cMatrixParam none
    else
      match s.core? x.at_.core with
      | none => .wait
      | some c =>
        if c.queue.any (fun e => e.record.kind.writes tile.toNat) then .wait
        else .ok s (valueDone f (tileElem (c.tiles.getD tile.toNat []) x.a.toNat)) []))

/-! ### The accumulation (R145) -/

/-- The block sum of products. -/
def blockSum (ps : List WVal) : Word :=
  let isNan := fun p => match p with | WVal.nan => true | _ => false
  let infs := ps.filterMap (fun p => match p with | .inf n => some n | _ => none)
  let fins := ps.filterMap (fun p => match p with | .fin n m e => some (n, m, e) | _ => none)
  let nz := fins.filter (fun p => p.2.1 ≠ 0)
  if ps.any isNan then wNaN
  else
    match infs with
    | n :: rest => if rest.any (fun m => m ≠ n) then wNaN else wInf n
    | [] =>
      match nz with
      | [] => wZero (fins.all (fun p => p.1))
      | p :: rest =>
        let top := rest.foldl (fun t q => max t (wExp q.2.1 q.2.2)) (wExp p.2.1 p.2.2)
        let g := top - 64
        let q := fun (x : Bool × Nat × Int) =>
          let m : Int := ((if g ≤ x.2.2 then x.2.1 * 2 ^ (x.2.2 - g).toNat else x.2.1 / 2 ^ (g - x.2.2).toNat : Nat) : Int)
          if x.1 then -m else m
        let sum := nz.foldl (fun t x => t + q x) 0
        roundExact .rne 0 false (decide (sum < 0)) sum.natAbs g

/-- One element of an MMA: 32-wide block sums added in increasing K order. -/
def mmaElem (c : Word) (a b : Nat → WVal) (blocks : Nat) : Word :=
  (List.range blocks).foldl (fun c kb =>
    wAdd .rne 0 (wRead c) (wRead (blockSum ((List.range 32).map (fun t => wProduct (a (32 * kb + t)) (b (32 * kb + t))))))) c

/-- An element times its scale, when there is one (R92). -/
def scaledElem (fmt : Fmt) (bits sfmt scale : Nat) : WVal :=
  if sfmt = 0 then fmtVal fmt bits
  else scaledVal (fmtVal fmt bits) (if sfmt = 15 then s12Decode scale else e8m0Decode scale)

/-- A tile after an MMA on a core whose B operand is given. -/
def State.mmaTile (s : State) (core : Nat) (p : MmaParam) (bf : Fmt) (brows : List (List Byte)) (t : List (Nat × Word)) :
    List (Nat × Word) :=
  let scale := fun sfmt addr => leNat (s.scratchBytes core addr (scaleBytes sfmt))
  let arow := fun i => s.scratchBytes core (p.aaddr + i * p.astride) (rowBytes p.fmt p.k)
  (List.range 64).flatMap (fun i =>
    let row := arow i
    let a := fun k => scaledElem p.fmt (rowElem p.fmt row k) p.asfmt
      (scale p.asfmt (p.asaddr + i * p.asstride + k / 32 * scaleBytes p.asfmt))
    (List.range 128).filterMap (fun j =>
      let b := fun k => scaledElem bf (rowElem bf (brows.getD k []) j) p.bsfmt
        (scale p.bsfmt (p.bsaddr + k / 32 * p.bsstride + j * scaleBytes p.bsfmt))
      let w := mmaElem (tileElem t (128 * i + j)) a b (p.kb + 1)
      if w = 0 then none else some (128 * i + j, w)))

/-! ### The queue's events (R139, R142, R147-R151) -/

/-- The head of a core's matrix queue, when it has not run. -/
def CoreState.head? (c : CoreState) : Option MatrixEntry :=
  match c.queue with
  | e :: _ => if e.stage = .queued then some e else none
  | [] => none

/-- The core with its head entry run, with the failure it met. -/
def CoreState.ran (c : CoreState) (fail : Option (Nat × Nat)) : CoreState :=
  { c with queue := match c.queue with
      | e :: es => { e with stage := .ran fail } :: es
      | [] => [] }

/-- The core with a tile replaced. -/
def CoreState.setTile (c : CoreState) (tile : Nat) (t : List (Nat × Word)) : CoreState :=
  { c with tiles := listSet c.tiles tile (fun _ => t) }

/-- A tile of unspecified elements, each zero or a value of the context's own (R34, R142). -/
def freeTile (pool : List Word) (ctr : Nat) : List (Nat × Word) :=
  (List.range 8192).filterMap (fun n => if liveWord pool (ctr + n) = 0 then none else some (n, liveWord pool (ctr + n)))

/-- The rows of B (R147): read in turn, or the first failure. -/
def State.readRows (s : State) (core ctx : Nat) (cls : MemClass) (cp : CachePol) (addr stride n : Nat) :
    List Nat → Reach (List (List Byte)) × State
  | [] => (.ok [], s)
  | k :: ks =>
    let a := addr + k * stride
    let row : Reach (List Byte) × State :=
      if cls = .p then
        (if s.scratchSpan core ctx a n then (.ok (s.scratchBytes core a n), s) else (.bad (memCause .load reasonBounds) a, s))
      else
        -- streamed reads of the core, which sees its own stores before they reach their homes (R151, R153, R158), and takes the
        -- lines into its CACHE banks as the policy has it (R237)
        (match State.readSpansWith (s.seenMem core) (fun line s => s.refreshCopy core line true cp) s ctx .load true
            (lineSpans a n) with
         | (r, _, s) => (r, s))
    match row with
    | (.ok bs, s) =>
      (match State.readRows s core ctx cls cp addr stride n ks with
       | (.ok rs, s) => (.ok (bs :: rs), s)
       | (r, s) => (r, s))
    | (.bad c a, s) => (.bad c a, s)
    | (.park m, s) => (.park m, s)

/-- MBLD_ENTRY_RUN (R147): a failure leaves the depth 0 (R142); a migrating page keeps the entry waiting. -/
def execMbldEntryRun (core : Nat) (s : State) : Host.Outcome State Fault Refusal :=
  .next (match (s.core? core).bind (·.head?) with
    | some e =>
      (match e.record.kind with
       | .mbld cls fmt cp addr stride kb =>
         (match s.readRows core e.ctx cls cp addr stride (rowBytes fmt 128) (List.range (32 * (kb + 1))) with
          | (.ok rows, s) => s.updCore core (fun c => ({ c with bfmt := fmt.code, bdepth := kb + 1, brows := rows }).ran none)
          | (.bad cause a, s) => s.updCore core (fun c => ({ c with bfmt := fmt.code, bdepth := 0, brows := [] }).ran (some (cause, a)))
          | (.park _, s) => s)
       | _ => s)
    | none => s)

/-- MMA_ENTRY_START (R148): once leave was granted or the wait for it has ended (R144). An entry that meets both a shape failure and
a bank that has left SCRATCH mode reports MATRIX_SHAPE: MODEL'S CHOICE (log 34), R148 and R149 do not order them. -/
def execMmaEntryStart (core : Nat) (s : State) : Host.Outcome State Fault Refusal :=
  .next (match s.core? core with
    | none => s
    | some c =>
      match c.head? with
      | none => s
      | some e =>
        match e.record.kind with
        | .mma ws =>
          let p := MmaParam.ofWords ws
          if !e.leave then s
          else if c.bdepth < p.kb + 1 || (c.bfmt = 9 && p.bsfmt ≠ 0) then
            s.updCore core (·.ran (some (cMatrixShape, 0)))
          else
            (match s.mmaSpanFault core e.ctx p with
             | some a =>
               { s.updCore core (fun c => (c.setTile p.acc (freeTile (s.livePool e.ctx) s.freeCtr)).ran (some (memCause .load reasonBounds, a)))
                 with freeCtr := s.freeCtr + 8192 }
             | none =>
               let bf := (Fmt.ofCode? c.bfmt).getD .raw64
               let t := s.mmaTile core p bf c.brows (c.tiles.getD p.acc [])
               s.updCore core (fun c => (c.setTile p.acc t).ran none))
        | _ => s)

/-- MZERO_ENTRY_RUN (R150). -/
def execMzeroEntryRun (core : Nat) (s : State) : Host.Outcome State Fault Refusal :=
  .next (match (s.core? core).bind (·.head?) with
    | some e =>
      (match e.record.kind with
       | .mzero tile => s.updCore core (fun c => (c.setTile tile []).ran none)
       | _ => s)
    | none => s)

/-- A row of a tile encoded for MSTORE (R151); `rnd` gives the random word of an element. -/
def storeRow (fmt : Fmt) (rm : RMode) (rnd : Nat → Nat) (t : List (Nat × Word)) (i : Nat) : List Byte :=
  packRow fmt ((List.range 128).map (fun j => fmtEncode fmt rm (rnd j) false (tileElem t (128 * i + j))))

/-- The pieces of an MSTORE of class S, row by row, those before a fault in the second part. -/
def State.storeRows (s : State) (ctx : Nat) : List (Nat × List Byte) → Reach (List Piece) × List Piece × State
  | [] => (.ok [], [], s)
  | (va, bytes) :: rest =>
    match s.writeVa ctx va bytes .store true with
    | (.ok ps, _, s) =>
      (match State.storeRows s ctx rest with
       | (.ok qs, _, s) => (.ok (ps ++ qs), ps ++ qs, s)
       | (r, qs, s) => (r, ps ++ qs, s))
    | (r, ps, s) => (r, ps, s)

/-- Pieces handed to a core's store path as S stores, visible to the core at once (R151, R183, R190); their device lines are taken
into the CACHE banks as the policy has it (R237). -/
def State.streamPieces (s : State) (core ctx tidx : Nat) (scope : Scope) (cp : CachePol) (ps : List Piece) : State :=
  let s := (ps.filter (·.device)).foldl (fun s p => s.fillCopy core (p.pa / 64) false cp) s
  let n : Nat := match s.core? core with
    | some c => c.commits
    | none => 0
  s.updLane core ctx (fun l => { l with deferred := l.deferred ++ ps.map (fun p =>
    let bytes := p.bytes.map (fun b => (b, (0xFF : Byte)))
    { id := 0, tidx := tidx, idx := 0
      kind := if p.device then .sStore p.va p.pa p.key bytes scope else .hostStore p.va p.pa bytes
      before := [], seq := n }) })

/-- The 64 rows of a tile as MSTORE writes them (R151), with their addresses. -/
def State.tileRows (s : State) (ctx : Nat) (fmt : Fmt) (rm : RMode) (addr stride : Nat) (t : List (Nat × Word)) :
    List (Nat × List Byte) :=
  (List.range 64).map (fun i =>
    (addr + i * stride, storeRow fmt rm (fun j => s.storeRnd ctx (addr + i * stride + fmtBits fmt * j / 8) (fmtBits fmt * j % 8)) t i))

/-- Rows cut where `cut` says, each part with its address. -/
def rowParts (cut : Nat → Nat → List (Nat × Nat)) (rows : List (Nat × List Byte)) : List (Nat × List Byte) :=
  rows.flatMap (fun r => (cut r.1 r.2.length).map (fun x => (x.1, (r.2.drop (x.1 - r.1)).take x.2)))

/-- Those of some lines that an entry can write. -/
def State.openLines (s : State) (ctx : Nat) : List (Nat × List Byte) → List Piece × State
  | [] => ([], s)
  | (va, bytes) :: rest =>
    match s.writeVa ctx va bytes .store true with
    | (.ok ps, _, t) => (ps ++ (State.openLines t ctx rest).1, (State.openLines t ctx rest).2)
    | (_, _, t) => State.openLines t ctx rest

/-- What an abandoned MSTORE of class S leaves (R142): the pieces done, and the rows of another tile in every other line that it can
write. -/
def State.streamAbandoned (s : State) (core : Nat) (e : MatrixEntry) (scope : Scope) (cp : CachePol) (done : List Piece)
    (rows : List (Nat × List Byte)) : State :=
  let made := s.openLines e.ctx (rowParts lineSpans rows)
  made.2.streamPieces core e.ctx e.record.tidx scope cp (done ++ made.1.filter (fun p => done.all (fun d => d.va ≠ p.va)))

/-- What an abandoned MSTORE of class P leaves (R142): the rows of another tile where the context's SCRATCH banks hold them, and over
them the rows done. -/
def State.scratchAbandoned (s : State) (core ctx : Nat) (done rows : List (Nat × List Byte)) : State :=
  let parts := rowParts (fun a n => (List.range (n / 16)).map (fun i => (a + 16 * i, 16))) rows
  (parts.filter (fun x => s.scratchSpan core ctx x.1 x.2.length) ++ done).foldl (fun s r => s.scratchWrite core r.1 r.2) s

/-- MSTORE_ENTRY_RUN (R151). After a failure a free number of the pieces or rows before it have been written; every other element that
the entry can reach holds an unspecified value of R34, zero or one of the context's own (R142). One that it cannot reach, at a fault,
at a locked line or on a page that migrates, keeps the bytes it had: MODEL'S CHOICE (log 8). -/
def execMstoreEntryRun (core : Nat) (s : State) : Host.Outcome State Fault Refusal :=
  .next (match s.core? core with
    | none => s
    | some c =>
      match c.head? with
      | none => s
      | some e =>
        match e.record.kind with
        | .mstore cls scope fmt cp rm tile addr stride =>
          let rowsOf := s.tileRows e.ctx fmt rm addr stride
          let rows := rowsOf (c.tiles.getD tile [])
          let lost := fun (u : State) => rowsOf (freeTile (s.livePool e.ctx) u.freeCtr)
          let used := fun (u : State) => { u with freeCtr := u.freeCtr + 8192 }
          if cls = .p then
            let good := rows.takeWhile (fun r => s.scratchSpan core e.ctx r.1 r.2.length)
            (match rows.drop good.length with
             | [] => (good.foldl (fun s r => s.scratchWrite core r.1 r.2) s).updCore core (·.ran none)
             | r :: _ =>
               let pick := s.choose (good.length + 1)
               ((used pick.2).scratchAbandoned core e.ctx (good.take pick.1) (lost pick.2)).updCore core
                 (·.ran (some (memCause .store reasonBounds, r.1))))
          else
            (match s.storeRows e.ctx rows with
             | (.ok ps, _, s) => (s.streamPieces core e.ctx e.record.tidx scope cp ps).updCore core (·.ran none)
             | (.bad cause a, ps, s) =>
               let pick := s.choose (ps.length + 1)
               ((used pick.2).streamAbandoned core e scope cp (ps.take pick.1) (lost pick.2)).updCore core (·.ran (some (cause, a)))
             | (.park _, _, s) => s)
        | _ => s)

/-- One outstanding entry fewer under a flag of a thread, when it names one. -/
def Lane.clearFlag (l : Lane) (tidx : Nat) (flag : Option Nat) : Lane :=
  match flag with
  | some k => l.updThread tidx (·.countDown k)
  | none => l

/-- MATRIX_ENTRY_FINISH (R141, R142): the entry leaves the queue, its flag count falls, its failure is recorded against
its thread; a failure of a thread that has ended fails the packet. -/
def execMatrixEntryFinish (core : Nat) (s : State) : Host.Outcome State Fault Refusal :=
  .next (match s.core? core with
    | none => s
    | some c =>
      match c.queue with
      | [] => s
      | e :: es =>
        match e.stage with
        | .queued => s
        | .ran fail =>
          let s := s.updCore core (fun c => { c with queue := es })
          let s := s.updLane core e.ctx (fun l => l.clearFlag e.record.tidx e.record.flag)
          match fail with
          | none => s
          | some r =>
            let s := s.blemish e.ctx r.1
            if (match s.lane? core e.ctx with | some l => (l.thread? e.record.tidx).isSome | none => false) then
              s.updLane core e.ctx (fun l => l.updThread e.record.tidx (fun t => { t with
                matrixFail := match t.matrixFail with
                  | some q => some q
                  | none => some r }))
            else s.failPacket e.ctx r.1)

end Sys2Proof.Machine
end

