-- ==== Sys2Proof/Machine/Copy.lean ====
section
/-! DEFINITION. Copies (spec/08 R245-R257, spec/06 R187-R189): COPY, CREDIT and CSTAT, the range locks, and the events of a
dray. -/

namespace Sys2Proof.Machine

/-! ### The parameter block (R248) -/

/-- The bytes a copy moves. -/
def CopyParam.total (p : CopyParam) : Nat := p.rowbytes * p.nrows

/-- SLOT: the bytes of a tile. -/
def CopyParam.slotBytes (p : CopyParam) : Nat := p.rowbytes * p.trows

/-- The number of tiles. -/
def CopyParam.tiles (p : CopyParam) : Nat := p.nrows / p.trows

/-- Whether [lo, hi) meets a row of `len` bytes among rows base + r x stride, r < n. -/
def rowsMeet (base stride n len lo hi : Nat) : Bool :=
  if stride = 0 then decide (base < hi) && decide (lo < base + len)
  else
    let r := if base + len ≤ lo then (lo - base - len) / stride + 1 else 0
    decide (r < n) && decide (base + r * stride < hi)

/-- Whether a source byte of MODE 0 is a destination byte (R250). -/
def CopyParam.overlaps (p : CopyParam) : Bool :=
  (List.range p.nrows).any (fun r =>
    rowsMeet p.dst p.dststride p.nrows p.rowbytes (p.src + r * p.srcstride) (p.src + r * p.srcstride + p.rowbytes))

/-- The checks of R250 on the fields of a block. -/
def copyFieldsOk (ws : List Word) : Bool :=
  let p := CopyParam.ofWords ws
  let w := fun k => (ws.getD k 0).toNat
  decide (field (w 0) 57 7 = 0) && decide (field (w 1) 57 7 = 0) && decide (field (w 2) 56 8 = 0)
  && decide (field (w 4) 57 7 = 0) && decide (field (w 7) 30 34 = 0) && decide (p.rowbytes ≠ 0) && decide (p.cwaddr % 8 = 0)
  && decide (p.src + (p.nrows - 1) * p.srcstride + p.rowbytes ≤ 2 ^ 57)
  && (match p.mode with
      | 0 => decide (field (w 7) 2 28 = 0) && decide (p.dst + (p.nrows - 1) * p.dststride + p.rowbytes ≤ 2 ^ 57)
              && !p.overlaps
      | 1 => decide (p.dststride = 0) && decide (p.dst < 2 ^ 20) && decide (p.nrows % p.trows = 0)
      | 2 => decide (p.dststride = 0) && decide (field (w 7) 2 28 = 0) && decide (p.dst < 32) && decide (p.rowbytes % 8 = 0)
      | _ => false)

/-- The checks of R250 on the banks that a block names. -/
def State.copyBanksOk (s : State) (core ctx : Nat) (p : CopyParam) : Bool :=
  match p.mode with
  | 1 => s.scratchSpan core ctx p.dst (p.slotBytes * p.nslot)
  | 2 => (match s.bank? core p.dst with
          | some b => b.mode = .fifo && b.owner = ctx && !b.binding.any (fun x => match x with | .edge _ => true | _ => false)
          | none => false)
  | _ => true

/-- The banks that a copy uses on its core (R250, R255). -/
def copyBankList (p : CopyParam) : List Nat :=
  match p.mode with
  | 1 => (List.range 32).filter (fun b => p.dst < (b + 1) * 32768 && b * 32768 < p.dst + p.slotBytes * p.nslot)
  | 2 => [p.dst]
  | _ => []

/-! ### Instructions -/

/-- COPY (R249, R250). -/
def execCopy (f : Fields) (cls : MemClass) (_oe : Bool) (flag : Option (BitVec 4)) (s : State) :
    Host.Outcome State Fault Refusal :=
  .next (s.fire f (Fields.both f) (fun x s =>
    let ea := x.a.toNat
    match s.readAt x cls .normal ea 64 64 .load with
    | .bad t c => .bad t c ea
    | .park t g => t.parkOn x g .load ea (Fields.both f)
    | .wait => .wait
    | .got t bytes _ ids =>
      let ws := leWords 8 bytes
      if (copyBankList (CopyParam.ofWords ws)).any x.bankWaits then .wait
      else if !copyFieldsOk ws || !t.copyBanksOk x.at_.core x.at_.ctx (CopyParam.ofWords ws) then .bad t cCopyParam (some ea)
      else if !x.flagRoom flag then .bad t cFlagOverflow none
      else .ok (t.defer x.at_ x.deps (fun _ => .copy ws ea (flag.map (·.toNat)))) (doneBoth f) [x.nextId + ids.length]))

/-- CREDIT (R256). -/
def execCredit (f : Fields) (_oe : Bool) (s : State) : Host.Outcome State Fault Refusal :=
  .next (s.fire f (Fields.both f) (fun x s =>
    let a := x.a.toNat
    if 2 ^ 12 ≤ a then .bad s cCopyParam none
    else .ok (s.defer x.at_ x.deps (fun _ => .credit (a % 16) (a / 16 + 1))) (doneBoth f) [x.nextId]))

/-- The state of a ring as CSTAT codes it (R257). -/
def RingState.code : RingState → Nat
  | .idle => 0
  | .active => 1
  | .finished => 2
  | .failed => 3

/-- CSTAT (R257). -/
def execCstat (f : Fields) (_oe : Bool) (s : State) : Host.Outcome State Fault Refusal :=
  .next (s.fire f (Fields.both f) (fun x s =>
    let a := x.a.toNat
    if 2 ^ 6 ≤ a then .bad s cCopyParam none
    else
      let r := x.spot.lane.rings.getD (a % 16) { state := .idle, free := 0, slots := 0, tiles := 0 }
      let v := match a / 16 with
        | 0 => r.tiles % 2 ^ 32
        | 1 => r.free
        | 2 => r.state.code
        | _ => (s.copies.filter (fun c => c.ctx = x.at_.ctx && c.core = x.at_.core && c.packet.isNone)).length % 2 ^ 16
      .ok s (valueDone f (BitVec.ofNat 64 v)) []))

/-! ### Hand-over and leave (R251, R257, R291) -/

/-- A lane's ring changed. -/
def Lane.updRing (l : Lane) (rid : Nat) (f : Ring → Ring) : Lane := { l with rings := listSet l.rings rid f }

/-- A copy of the state changed. -/
def State.updCopy (s : State) (id : Nat) (f : Copy → Copy) : State :=
  { s with copies := s.copies.map (fun c => if c.id = id then f c else c) }

/-- Whether a dray that serves COPY is free (R22). -/
def State.drayFree (s : State) (die dray : Nat) : Bool :=
  decide (die < 16) && decide (dray < 7) && !s.copies.any (fun c => c.die = die && c.dray = dray)

/-- The banks that a copy binds on its core (R255). -/
def Copy.banks (c : Copy) : List Nat := copyBankList c.param

/-- A copy handed over to a dray: its ring becomes ACTIVE, its banks are bound, and it asks for leave when it is large; a
ring that is busy fails it at once (R251, R255, R257). That its banks are still in the mode that R250 asked for at issue is not
looked at again: MODEL'S CHOICE (log 72), the spec does not say what a copy does whose bank has changed its mode meanwhile. -/
def State.handOver (s : State) (core ctx tidx : Nat) (words : List Word) (info : Nat) (flag : Option Nat)
    (packet : Option (Nat × Nat)) (die dray : Nat) : State :=
  let p := CopyParam.ofWords words
  let busy := decide (p.mode = 1) && (match s.lane? core ctx with
    | some l => decide ((l.rings.getD p.rid { state := .idle, free := 0, slots := 0, tiles := 0 }).state = .active)
    | none => false)
  let c : Copy :=
    { id := s.nextCopy, ctx := ctx, core := core, tidx := tidx, words := words, info := info, flag := flag, packet := packet
      die := die, dray := dray, stage := if 65536 < p.total && !busy then .waitingLeave else .waitingLock, leaveWait := 0
      leave := false, tile := 0, published := 0, cause := if busy then cRingBusy else 0, faultAddr := 0 }
  let s := { s with copies := s.copies ++ [c], nextCopy := s.nextCopy + 1 }
  if busy then s
  else
    let s := if p.mode = 1 then s.updLane core ctx (fun l => l.updRing p.rid (fun _ =>
        { state := .active, free := p.nslot, slots := p.nslot, tiles := 0 })) else s
    s.updCore core (fun k => { k with banks := k.banks.mapIdx (fun i b =>
      if c.banks.contains i then { b with binding := b.binding ++ [.copy c.id] } else b) })

/-- The lane with its first deferred effect gone. -/
def Lane.popDeferred (l : Lane) : Lane := { l with deferred := l.deferred.drop 1 }

/-- The first deferred effect of a lane, when no chunk of the core that committed earlier has one left (R181). -/
def State.headDeferred (s : State) (core ctx : Nat) : Option Deferred :=
  match (s.lane? core ctx).bind (fun l => l.deferred.head?) with
  | some d =>
    if s.lanes.all (fun m => m.core ≠ core || (match m.deferred.head? with
      | some e => decide (d.seq ≤ e.seq)
      | none => true)) then some d else none
  | none => none

/-- COPY_HANDOVER (R251): the first deferred effect of a lane, a COPY, goes to a free dray. -/
def execCopyHandover (core ctx die dray : Nat) (s : State) : Host.Outcome State Fault Refusal :=
  .next (match s.headDeferred core ctx with
    | some d =>
      (match d.kind with
       | .copy words info flag =>
         if s.drayFree die dray then
           (s.updLane core ctx (·.popDeferred)).handOver core ctx d.tidx words info flag none die dray
         else s
       | _ => s)
    | none => s)

/-- CREDIT_APPLY (R256). -/
def execCreditApply (core ctx : Nat) (s : State) : Host.Outcome State Fault Refusal :=
  .next (match s.headDeferred core ctx with
    | some d =>
      (match d.kind with
       | .credit rid n => s.updLane core ctx (fun l => l.popDeferred.updRing rid (fun r =>
           if r.state = .active then { r with free := min r.slots (r.free + n) } else r))
       | _ => s)
    | none => s)

/-- Leave given to a waiting operation: a core's head MMA, or a copy numbered from 1024 (R144, R251). -/
def State.giveLeave (s : State) (site : Nat) (ok : Nat → Bool) : State :=
  if site < 1024 then
    s.updCore site (fun c => { c with queue := match c.queue with
      | e :: es =>
        (match e.record.kind with
         | .mma _ => if ok e.leaveWait then { e with leave := true } :: es else e :: es
         | _ => e :: es)
      | [] => [] })
  else
    s.updCopy (site - 1024) (fun c =>
      if c.stage = .waitingLeave && ok c.leaveWait then { c with leave := true, stage := .waitingLock } else c)

/-- LEAVE_GRANT (R144, R291). -/
def execLeaveGrant (site : Nat) (s : State) : Host.Outcome State Fault Refusal := .next (s.giveLeave site (fun _ => true))

/-- LEAVE_WAIT_EXPIRY (R144, R291): after 4096 core cycles the operation starts anyway. -/
def execLeaveWaitExpiry (site : Nat) (s : State) : Host.Outcome State Fault Refusal :=
  .next (s.giveLeave site (fun w => decide (4096 ≤ w)))

/-! ### Range locks (R187, R245, R246) -/

/-- The pieces of rows, each cut at the pages of 64 KiB it crosses. -/
def pagePieces (va n : Nat) : List (Nat × Nat) :=
  (List.range ((va + n + 65535) / 65536 - va / 65536)).map (fun i =>
    let lo := max va ((va / 65536 + i) * 65536)
    (lo, min (va + n) ((va / 65536 + i + 1) * 65536) - lo))

/-- The physical ranges that pieces translate to, in order, each with whether it is device memory; a page that migrates keeps
the copy waiting, and a piece that faults locks nothing. A copy that has joined a migration asks for the page again when that
migration fails: MODEL'S CHOICE (log 38), R243 traps threads alone. -/
def State.physRanges (s : State) (ctx : Nat) (k : AccKind) : List (Nat × Nat) → Reach (List (Bool × Nat × Nat × Nat)) × State
  | [] => (.ok [], s)
  | (va, n) :: rest =>
    match s.placeVa ctx va k false with
    | (.park m, s) => (.park m, s)
    | (.bad _ _, s) => State.physRanges s ctx k rest
    | (.ok (pa, _, mt), s) =>
      match State.physRanges s ctx k rest with
      | (.ok rs, s) => (.ok ((decide (mt = .device), va, pa, n) :: rs), s)
      | r => r

/-- The ranges of device memory among physical ranges: their virtual address, physical address and length. -/
def deviceOnly (rs : List (Bool × Nat × Nat × Nat)) : List (Nat × Nat × Nat) := (rs.filter (·.1)).map (·.2)

/-- The physical ranges of device memory that pieces translate to. -/
def State.deviceRanges (s : State) (ctx : Nat) (k : AccKind) (ps : List (Nat × Nat)) :
    Reach (List (Nat × Nat × Nat)) × State :=
  match s.physRanges ctx k ps with
  | (.ok rs, s) => (.ok (deviceOnly rs), s)
  | (.park m, s) => (.park m, s)
  | (.bad c a, s) => (.bad c a, s)

/-- The rows of a strided range as pieces. -/
def rowPieces (base stride n len : Nat) : List (Nat × Nat) :=
  (List.range n).flatMap (fun r => pagePieces (base + r * stride) len)

/-- Byte ranges meet. -/
def rangesMeet (xs ys : List (Nat × Nat)) : Bool :=
  xs.any (fun x => ys.any (fun y => decide (x.1 < y.1 + y.2) && decide (y.1 < x.1 + x.2)))

/-- Whether a lock belongs to a migration. -/
def RangeLock.moves (l : RangeLock) : Bool :=
  match l.owner with
  | .migration _ => true
  | _ => false

/-- The conflict of R246: a destination of either meets a source or a destination of the other. A migration's page, though
registered as a source, also waits for the sources of copies (R258). -/
def RangeLock.conflicts (a b : RangeLock) : Bool :=
  a.ctx = b.ctx && (!(a.source && b.source) || a.moves || b.moves) && rangesMeet a.ranges b.ranges

/-- The dies that home a lock's lines (R239). -/
def RangeLock.dies (l : RangeLock) : List Nat :=
  (List.range 16).filter (fun d => l.ranges.any (fun r => (List.range (r.2 / 65536 + 2)).any (fun i =>
    decide (r.1 / 65536 * 65536 + i * 65536 < r.1 + r.2) && decide (homeDie (r.1 / 65536 * 65536 + i * 65536) = d))))

/-- Whether a lock belongs to a measured packet (R436). -/
def RangeLock.measured (l : RangeLock) : Bool :=
  match l.owner with
  | .packet _ _ _ => true
  | _ => false

/-- Whether copies' and migrations' entries are left on every die for new locks (R436). -/
def State.lockRoom (s : State) (ls : List RangeLock) : Bool :=
  (List.range 16).all (fun d =>
    decide (((s.locks.filter (fun l => !l.measured && l.dies.contains d)).length
      + (ls.filter (fun l => !l.measured && l.dies.contains d)).length) ≤ 448))

/-- The chunks in flight that a registration squashes: R∪W meets a destination line, or W a source line (R187). -/
def State.lockVictims (s : State) (ls : List RangeLock) : List PassRef :=
  s.lanes.flatMap (fun l => (l.passes.filter (fun p => p.state.inFlight && p.accesses.any (fun a =>
    a.space = .device && ls.any (fun k => k.meets (a.addr / 64 * 64) 64 &&
      (if k.source then a.inW else a.inR || a.inW))))).map
        (fun p => { core := l.core, ctx := l.ctx, pass := p.id }))

/-- Whether a registration has to wait for the solo pass, which is not squashed (R163). -/
def State.lockWaitsSolo (s : State) (ls : List RangeLock) : Bool :=
  match s.soloHolder with
  | some q => (s.lockVictims ls).contains q
  | none => false

/-- Locks registered: the conflicting chunks are squashed (R187). -/
def State.registerLocks (s : State) (ls : List RangeLock) : State :=
  ({ s with locks := s.locks ++ ls }).squash true (s.lockVictims ls)

/-- Whether a registration may take its place in the commit order now (R187, R246, R436): no active lock conflicts with it,
entries are left, the solo pass stands clear, and it holds the grants of the dies that home its lines. One that has to wait
for more than a grant gives up those it holds. -/
def State.mayRegister (s : State) (o : EngineOp) (ls : List RangeLock) : Bool × State :=
  if ls.any (fun l => s.locks.any (fun k => l.conflicts k)) || !s.lockRoom ls || s.lockWaitsSolo ls then
    (false, s.dropRequests (.engine o))
  else s.takeGrants o (ls.flatMap (·.dies))

/-- The locks of an owner released (R189). -/
def State.releaseLocks (s : State) (o : LockOwner) : State := { s with locks := s.locks.filter (fun l => l.owner ≠ o) }

/-- Whether an earlier copy of the same core has still to register (R246). -/
def State.earlierCopy (s : State) (c : Copy) : Bool :=
  s.copies.any (fun d => d.core = c.core && d.ctx = c.ctx && d.packet.isNone && d.id < c.id &&
    (d.stage = .waitingLeave || d.stage = .waitingLock))

/-- RANGE_LOCK_REGISTER (R187, R246): source lines, and destination lines in MODE 0. A copy whose ranges share a physical
byte fails here (R253). -/
def execRangeLockRegister (id : Nat) (s : State) : Host.Outcome State Fault Refusal :=
  .next (match s.copy? id with
    | none => s
    | some c =>
      if c.stage ≠ .waitingLock || c.cause ≠ 0 || (c.packet.isNone && s.earlierCopy c) then s
      else
        let p := c.param
        match s.physRanges c.ctx .load (rowPieces p.src p.srcstride p.nrows p.rowbytes) with
        | (.park _, t) => t.dropRequests (.engine (.copy id))
        | (.bad _ _, t) => t
        | (.ok src, t) =>
          match (if p.mode = 0 then t.physRanges c.ctx .store (rowPieces p.dst p.dststride p.nrows p.rowbytes)
                 else (.ok [], t)) with
          | (.park _, t) => t.dropRequests (.engine (.copy id))
          | (.bad _ _, t) => t
          | (.ok dst, t) =>
            let srcs := src.map (·.2.2)
            let locked := (deviceOnly src).map (·.2)
            let ls : List RangeLock :=
              { owner := .copy id, ctx := c.ctx, source := true, ranges := locked } ::
              (if p.mode = 0 then
                [{ owner := .copy id, ctx := c.ctx, source := false, ranges := (deviceOnly dst).map (·.2) }] else [])
            match (dst.map (·.2)).find? (fun d => rangesMeet [d.2] srcs) with
            | some d =>
              -- the first destination byte that a source byte shares
              let first := ((List.range d.2.2).find? (fun i => rangesMeet [(d.2.1 + i, 1)] srcs)).getD 0
              t.updCopy id (fun c => { c with cause := cCopyParam, faultAddr := d.1 + first })
            | none =>
              match t.mayRegister (.copy id) ls with
              | (false, t) => t
              | (true, t) =>
                ((t.dropRequests (.engine (.copy id))).registerLocks ls).updCopy id (fun c =>
                  { c with stage := .moving, snap := cellsIn locked t.mem }))

/-! ### Moving (R251) -/

/-- The result of moving rows: the pieces for the destination, the bytes moved, and the first fault. -/
structure Moved where
  pieces : List Piece
  bytes : Nat
  fault : Option (Nat × Nat)
  waits : Bool
  deriving DecidableEq, Repr

/-- Memory as a copy finds it: its locked source as it stood at its registration (R247), whatever has reached the homes
since. -/
def State.copySight (s : State) (c : Copy) (m : List Host.Cell) : List Host.Cell :=
  withCells ((s.locks.filter (fun l => l.owner = .copy c.id && l.source)).flatMap (·.ranges)) c.snap m

/-- The rows of a MODE 0 copy in turn, up to the first fault (R251, R253). -/
def State.moveRows (look : List Host.Cell → List Host.Cell) (s : State) (ctx : Nat) (p : CopyParam) : List Nat → Moved × State
  | [] => ({ pieces := [], bytes := 0, fault := none, waits := false }, s)
  | r :: rs =>
    match State.readSpansBy look s ctx .load false (lineSpans (p.src + r * p.srcstride) p.rowbytes) with
    | (rd, got, s) =>
      match s.writeVa ctx (p.dst + r * p.dststride) got .store false with
      | (wr, ps, s) =>
        let n := (ps.map (fun q => q.bytes.length)).foldl (· + ·) 0
        match rd, wr with
        | .ok _, .ok _ =>
          (match State.moveRows look s ctx p rs with
           | (m, s) => ({ m with pieces := ps ++ m.pieces, bytes := n + m.bytes }, s))
        | _, .bad c a => ({ pieces := ps, bytes := n, fault := some (c, a), waits := false }, s)
        | .bad c a, _ => ({ pieces := ps, bytes := n, fault := some (c, a), waits := false }, s)
        | _, _ => ({ pieces := ps, bytes := n, fault := none, waits := true }, s)

/-- The stage after a copy's bytes are published. -/
def Copy.afterData (c : Copy) : CopyStage := if c.param.cwaddr = 0 then .record else .word

/-- DRAY_ENGINE_COMMIT (R189, R251): a MODE 0 copy that meets no fault publishes its lines in one engine commit, which
releases its locks. -/
def execDrayEngineCommit (id : Nat) (s : State) : Host.Outcome State Fault Refusal :=
  .next (match s.copy? id with
    | none => s
    | some c =>
      if c.stage ≠ .moving || c.param.mode ≠ 0 then s
      else
        match State.moveRows (s.copySight c) s c.ctx c.param (List.range c.param.nrows) with
        | (m, t) =>
          if m.waits then t.dropRequests (.engine (.copy id))
          else if m.fault.isSome then s
          else
            match t.mayCommit (.copy id) m.pieces with
            | (false, t) => t
            | (true, t) => ((t.commitAs (.copy id) m.pieces).releaseLocks (.copy id)).updCopy id (fun c =>
                { c with published := m.bytes, stage := c.afterData }))

/-- A completion word written, checked as R253 says: a fault, a wait, or the state after it. -/
def State.writeWord (s : State) (o : EngineOp) (ctx cw : Nat) (v : Word) : Reach State × State :=
  if cw = 0 then (.ok s, s)
  else
    match s.writeChecked ctx cw (leBytes 8 v.toNat) with
    | (.bad c a, t) => (.bad c a, t)
    | (.park m, t) => (.park m, t.dropRequests (.engine o))
    | (.ok ps, t) =>
      match t.mayCommit o ps with
      | (false, t) => (.park 0, t)
      | (true, t) => (.ok (t.commitAs o ps), t)

/-- The bytes of tile `t` of a MODE 1 copy, row by row, and those of them that stand before a fault. -/
def State.tileRead (s : State) (c : Copy) (t : Nat) : Reach (List Byte) × List Byte × State :=
  let p := c.param
  State.readSpansBy (s.copySight c) s c.ctx .load false ((List.range p.trows).flatMap (fun r =>
    lineSpans (p.src + (t * p.trows + r) * p.srcstride) p.rowbytes))

/-- The bytes of tile `t` of a MODE 1 copy. -/
def State.tileBytes (s : State) (c : Copy) (t : Nat) : Reach (List Byte) × State := s.tileRead c t |> fun (r, _, s) => (r, s)

/-- The scratchpad address of the slot that tile `c.tile` of a MODE 1 copy goes to (R251). -/
def Copy.slotAddr (c : Copy) : Nat := c.param.dst + c.tile % c.param.nslot * c.param.slotBytes

/-- The lane's ring of a copy. -/
def State.ringOf (s : State) (c : Copy) : Option Ring := (s.lane? c.core c.ctx).bind (fun l => l.rings[c.param.rid]?)

/-- The scratchpad lines that bytes cover, as broadcast lines of their core. -/
def scratchLines (core addr n : Nat) : List (Nat × Nat) :=
  (lineSpans addr n).map (fun x => (lineKey core .scratch x.1, (2 ^ x.2 - 1) * 2 ^ (x.1 % 64)))

/-- The chunks of a core whose scratchpad R∪W meets lines written by an engine commit (R251). -/
def State.scratchVictims (s : State) (core : Nat) (lines : List (Nat × Nat)) : List PassRef :=
  (s.lanes.filter (fun l => l.core = core)).flatMap (fun l =>
    (l.passes.filter (fun p => p.state.inFlight && lines.any (fun x => s.meets core p x.1 x.2))).map
      (fun p => { core := l.core, ctx := l.ctx, pass := p.id }))

/-- The waiters of a core whose line is among those given, or meets one of them by the hash of the signatures when `hashed`, put back
in their blocks' waiting vectors (R220, R221). -/
def State.wakeWaiters (s : State) (core : Nat) (hashed : Bool) (lines : List Nat) : State :=
  let woken := fun (key : Nat) => lines.contains key || (hashed && lines.any (sameSignatureBit key))
  { s with lanes := s.lanes.map (fun l => if l.core = core then
      { l with
        activeCycle := l.activeCycle || l.threads.any (fun t => match t.place with
          | .parked _ key => woken key
          | _ => false)
        threads := l.threads.map (fun t => match t.place with
          | .parked blk key => if woken key then { t with place := .waiting blk false } else t
          | _ => t) }
      else l) }

/-- An engine commit of bytes of a copy's slot on the issuing core: they are written, the victims given are squashed, and the waiters
of the lines are woken (R251, R220). -/
def State.slotWrite (s : State) (c : Copy) (victims : List PassRef) (bytes : List Byte) : State :=
  ((s.scratchWrite c.core c.slotAddr bytes).squash true victims).wakeWaiters c.core false
    ((scratchLines c.core c.slotAddr bytes.length).map (·.1))

/-- The banks a copy bound set free (R255). -/
def State.unbindCopy (s : State) (c : Copy) : State :=
  s.updCore c.core (fun k => { k with banks := k.banks.map (fun b => { b with binding := b.binding.filter (fun x => x ≠ .copy c.id) }) })

/-- RING_TILE_WRITE (R251): with credit, the next tile is written into its slot and committed on the issuing core, then the
completion word counts it; a fault on that word stops the copy after the tile (R253). -/
def execRingTileWrite (id : Nat) (s : State) : Host.Outcome State Fault Refusal :=
  .next (match s.copy? id with
    | none => s
    | some c =>
      let p := c.param
      match s.ringOf c with
      | none => s
      | some ring =>
        if c.stage ≠ .moving || p.mode ≠ 1 || c.cause ≠ 0 || ring.free = 0 then s
        else
          match s.tileBytes c c.tile with
          | (.bad _ _, _) => s
          | (.park _, t) => t
          | (.ok bytes, t) =>
            let lines := scratchLines c.core c.slotAddr bytes.length
            if t.soloReads (lines.map (·.1)) then t
            else
              match t.writeWord (.copy id) c.ctx p.cwaddr (p.cwval + BitVec.ofNat 64 (c.tile + 1)) with
              | (.park _, t) => t
              | (word, t) =>
                let victims := t.scratchVictims c.core lines
                let done := match word with
                  | .ok u => u
                  | _ => t
                let u := (done.slotWrite c victims bytes).updCopy id (fun c => { c with tile := c.tile + 1, published := c.published + bytes.length })
                match word with
                | .bad cause _ =>
                  (u.updLane c.core c.ctx (fun l => l.updRing p.rid (fun r => { r with free := r.free - 1 }))).updCopy id
                    (fun c => { c with cause := cause, faultAddr := p.cwaddr })
                | _ =>
                  let last := decide (c.tile + 1 = p.tiles)
                  let u := u.updLane c.core c.ctx (fun l => l.updRing p.rid (fun r =>
                    { r with free := r.free - 1, tiles := r.tiles + 1, state := if last then .finished else r.state }))
                  if last then ((u.releaseLocks (.copy id)).unbindCopy c).updCopy id (fun c => { c with stage := .record })
                  else u)

/-- The next 8 source bytes of a MODE 2 copy. -/
def State.entryBytes (s : State) (c : Copy) : Reach (List Byte) × State :=
  let p := c.param
  State.readSpansBy (s.copySight c) s c.ctx .load false
    (lineSpans (p.src + c.published / p.rowbytes * p.srcstride + c.published % p.rowbytes) 8) |> fun (r, _, s) => (r, s)

/-- DRAY_FIFO_ENTRY (R251): the next 8 bytes of a MODE 2 copy enter the FIFO bank as a committed entry, when it has space
and its window accepts a token (R290). -/
def execDrayFifoEntry (id : Nat) (s : State) : Host.Outcome State Fault Refusal :=
  .next (match s.copy? id with
    | none => s
    | some c =>
      let p := c.param
      if c.stage ≠ .moving || p.mode ≠ 2 || c.cause ≠ 0 then s
      else
        match s.fifo? c.ctx (.bank c.core p.dst), s.acceptToken c.core c.ctx with
        | some (es, cap), some t =>
          if cap ≤ es.length then s
          else
            (match t.entryBytes c with
             | (.bad _ _, _) => s
             | (.park _, _) => (s.entryBytes c).2
             | (.ok bytes, t) =>
               let u := t.setFifo c.ctx (.bank c.core p.dst)
                 (es ++ [{ val := BitVec.ofNat 64 (leNat bytes), prod := none, tidx := c.tidx, pop := none }])
               let u := u.updCopy id (fun c => { c with published := c.published + 8 })
               if c.published + 8 = p.total then
                 ((u.releaseLocks (.copy id)).unbindCopy c).updCopy id (fun c => { c with stage := c.afterData })
               else u)
        | _, _ => s)

/-- COMPLETION_WORD_WRITE (R189, R253): a fault on the success word fails the copy. -/
def execCompletionWordWrite (id : Nat) (s : State) : Host.Outcome State Fault Refusal :=
  .next (match s.copy? id with
    | none => s
    | some c =>
      if c.stage ≠ .word || c.cause ≠ 0 then s
      else
        match s.writeWord (.copy id) c.ctx c.param.cwaddr c.param.cwval with
        | (.ok u, _) => u.updCopy id (fun c => { c with stage := .record })
        | (.park _, t) => t
        | (.bad cause _, t) => t.updCopy id (fun c => { c with cause := cause, faultAddr := c.param.cwaddr }))

/-! ### Failing and finishing (R252-R254) -/

/-- Whether the work of a copy's context has to end, so that MODES 1 and 2 stop (R411): it is frozen, or being reset. -/
def State.mustStop (s : State) (c : Copy) : Bool :=
  match s.ctx? c.ctx with
  | some x => (x.frozen && c.packet.isNone) || x.dying.isSome
  | none => true

/-- How a copy stops (R253): its cause and faulting address, the pieces it still publishes, for a fault inside a tile the tile's
bytes before the faulting one, and the bytes it has published by then. -/
structure CopyStop where
  cause : Nat
  addr : Nat
  pieces : List Piece
  tile : Option (List Byte)
  bytes : Nat
  deriving DecidableEq, Repr

/-- The stop a copy comes to now: the fault recorded, that of its next access, which in MODE 1 is a tile's and waits for credit (R251),
or the stop of R411; none while it can go on. -/
def State.copyFault (s : State) (c : Copy) : Option CopyStop :=
  let p := c.param
  let waits := decide (c.stage = .waitingLeave) || decide (c.stage = .waitingLock) || decide (c.stage = .moving)
  if c.cause ≠ 0 then some { cause := c.cause, addr := c.faultAddr, pieces := [], tile := none, bytes := c.published }
  else if decide (p.mode ≠ 0) && waits && s.mustStop c then
    some { cause := cCopyStopped, addr := 0, pieces := [], tile := none, bytes := c.published }
  else if c.stage ≠ .moving then none
  else
    match p.mode with
    | 0 =>
      (match State.moveRows (s.copySight c) s c.ctx p (List.range p.nrows) with
       | (m, _) => m.fault.map (fun x => { cause := x.1, addr := x.2, pieces := m.pieces, tile := none, bytes := m.bytes }))
    | 1 =>
      (match s.ringOf c, s.tileRead c c.tile with
       | some ring, (.bad cause a, part, _) =>
         if ring.free = 0 then none
         else some { cause := cause, addr := a, pieces := [], tile := some part, bytes := c.published + part.length }
       | _, _ => none)
    | _ =>
      (match s.entryBytes c with
       | (.bad cause a, _) => some { cause := cause, addr := a, pieces := [], tile := none, bytes := c.published }
       | _ => none)

/-- The part of a tile that a stopped copy has written, committed to its slot, for which it has taken a credit (R251, R253). -/
def State.stopTile (s : State) (c : Copy) (stop : CopyStop) : State :=
  match stop.tile with
  | none => s
  | some part =>
    (s.slotWrite c (s.scratchVictims c.core (scratchLines c.core c.slotAddr part.length)) part).updLane c.core c.ctx (fun l =>
      l.updRing c.param.rid (fun r => { r with free := r.free - 1 }))

/-- What a stopping copy would write to lines that a solo chunk reads (R287): it waits. -/
def State.stopWaits (s : State) (c : Copy) (stop : CopyStop) : Bool :=
  s.soloReads ((scratchLines c.core c.slotAddr ((stop.tile.getD []).length)).map (·.1))

/-- COPY_FAIL (R253): the copy publishes what it has written, releases its locks, writes CWFAIL, and goes on to its record;
its ring is FAILED unless it was the ring that was busy (R257). -/
def execCopyFail (id : Nat) (s : State) : Host.Outcome State Fault Refusal :=
  .next (match s.copy? id with
    | none => s
    | some c =>
      match s.copyFault c with
      | none => s
      | some stop =>
        if c.stage = .record || s.stopWaits c stop then s
        else
        match s.mayCommit (.copy id) stop.pieces with
        | (false, s) => s
        | (true, s) =>
          let t := (((s.stopTile c stop).commitAs (.copy id) stop.pieces).releaseLocks (.copy id)).unbindCopy c
          match t.writeWord (.copy id) c.ctx c.param.cwaddr c.param.cwfail with
          | (.park _, _) => (s.writeWord (.copy id) c.ctx c.param.cwaddr c.param.cwfail).2
          | (w, t) =>
            let u := match w with
              | .ok u => u
              | _ => t
            let u := if c.param.mode = 1 && stop.cause ≠ cRingBusy then
                u.updLane c.core c.ctx (fun l => l.updRing c.param.rid (fun r => { r with state := .failed }))
              else u
            u.updCopy id (fun c => { c with stage := .record, cause := stop.cause, faultAddr := stop.addr, published := stop.bytes }))

/-- COMPLETION_RECORD_APPEND (R252): the record of a finished copy is appended or counted; its flag clears, and a COPY
packet goes on to its end (R369). -/
def execCompletionRecordAppend (id : Nat) (s : State) : Host.Outcome State Fault Refusal :=
  .next (match s.copy? id with
    | none => s
    | some c =>
      if c.stage ≠ .record then s
      else
        match s.appendRecord (.copy id) c.ctx
          { kind := 0, cause := c.cause, bytes := c.published, core := c.core, tidx := c.tidx
            addr := if c.cause = 0 then 0 else c.faultAddr } with
        | (false, t) => t
        | (true, t) =>
          let t := { t with copies := t.copies.filter (fun d => d.id ≠ id) }
          match c.packet with
          | none => (if c.cause = 0 then t else t.blemish c.ctx c.cause).updLane c.core c.ctx (fun l => l.clearFlag c.tidx c.flag)
          | some (q, i) => t.updCtx c.ctx (fun x => x.updPacket q i (fun k => { k with
              stage := .retired, cause := if c.cause = 0 then k.cause else some c.cause })))

end Sys2Proof.Machine
end

