-- ==== Sys2Proof/Machine/Placing.lean ====
section
/-! DEFINITION. Fetching an instruction from a configured block (spec/02 R42, R59), and placing one word so that the next
step runs it. -/

namespace Sys2Proof.Machine

/-- The instruction word and extension word that a firing names, when its thread stands in a streaming pass whose block
has that index (R42, R43). -/
def State.fetch (s : State) (x : Firing) : Option (Nat × Nat) :=
  match s.spot? x with
  | none => none
  | some p => p.block.words[x.idx]?

/-- The slots that must be fed for an instruction to fire (R53, R54, R300): all of them for one that is never a source or
has a predicate, none otherwise. -/
def placedSlots (i : Instr) : List Slot :=
  match i with
  | .merge _ => [.a, .b, .c]
  | .carry _ => [.a, .b]
  | .invar _ => [.a, .b]
  | i =>
    match i.fields? with
    | some f => if f.pm = .always then [] else [.p]
    | none => []

/-- A predicate that matches. -/
def placedPredicate (i : Instr) : Word :=
  match i.fields? with
  | some f => if f.pm = .onTrue then 1 else 0
  | none => 0

/-- The word at index 1 of the placed block: a FAN that feeds the slots given of index 0. -/
def feederWords (sls : List Slot) : List (Nat × Nat) :=
  match sls with
  | [] => []
  | sls =>
    let t := fun (k : Nat) => (sls[k]?).map (fun sl => ({ idx := 0, slot := sl } : Target))
    let r := encodeRaw (.fan { pm := .always, hot := false, t0 := t 0, t1 := t 1 } (t 2) (t 3))
    [(r.word, r.ext)]

/-- A bank after the assignment of its core to a region (R29, R35). -/
def Bank.reset : Bank :=
  { mode := .cache, geom := 0, owner := 0, bytes := [], fifo := [], pixels := [], dropped := 0, freeRow := 0, retired := []
    binding := [] }

/-- A core after its assignment to a region (R29, R35, R137). -/
def CoreState.reset (core : Nat) : CoreState :=
  { core := core, banks := List.replicate 32 Bank.reset, tiles := List.replicate 4 [], bfmt := 0, bdepth := 0
    brows := [], queue := [], l1 := [], contended := [], commits := 0 }

/-- A barrier that is unbound (R34, R320). -/
def Barrier.reset : Barrier :=
  { bound := false, expected := none, members := [], arrived := [], gen := false, contribs := [] }

/-- A ring before its first copy (R257): `free` and the tiles count are 0, MODEL'S CHOICE (log 70), since the spec gives
them from ACTIVE on. -/
def Ring.reset : Ring := { state := .idle, free := 0, slots := 0, tiles := 0 }

/-- A context's lane on a core of a region it has just been given (R24, R34, R35, R264). -/
def Lane.reset (core ctx : Nat) (regs : SysRegs) : Lane :=
  { core := core, ctx := ctx, barriers := List.replicate 96 Barrier.reset, threads := [], passes := []
    slots := [{ block := none }, { block := none }], ages := []
    pendingNext := 0, pendingPos := 0, pendingLeft := 0, deferred := [], rings := List.replicate 16 Ring.reset
    links := [], regs := regs, regWrites := [], quiet := 0, activeCycle := false, rateCycles := 0, rateTokens := 0
    nextPass := 0, stage := 0, frozen := false }

/-- A thread newly created (R33, R261). -/
def Thread.fresh (tidx rslot blk : Nat) (lives : List Word) : Thread :=
  { tidx := tidx, rslot := rslot, lvsn := lives.length, lives := lives, swFlags := 0, counts := List.replicate 12 0
    group := none, place := .waiting blk false, spill := none, handler := none, matrixFail := none, refetchFail := none
    yieldLeft := none }

/-- A pass in which one thread runs a block. -/
def Pass.single (sources : List Nat) (tokens : List Token) : Pass :=
  { id := 0, blk := 0, slot := 0, state := .streaming, admission := [0], admitted := 1
    runs := [{ Run.empty 0 0 sources with tokens := tokens }], nextId := 0, accesses := [], scaled := [], producers := []
    squashes := 0, solo := .no, need := [], got := [], requested := false, groupsAfter := none, bankSets := []
    usedPages := [], fails := [] }

/-- The state with one instruction configured on core 0 for context 0, thread 0 of a streaming pass there, and its firing
as the next move. The instruction's bits are its word in [63:0] and its extension word above; its slots hold zero tokens
where it could not fire as a source. This stands for the loading of a program (log 11). -/
def placeWord (s : State) (_nbits w : Nat) : State :=
  let word := w % 2 ^ 64
  let ext := w / 2 ^ 64 % 2 ^ 64
  let placed : List Slot × Word := match decodeWord word ext with
    | .ok i => (placedSlots i, placedPredicate i)
    | .error _ => ([], 0)
  let block : Block :=
    { blk := 0, header := [0, 0, 0, 0], words := (word, ext) :: feederWords placed.1, maps := [], va := 0, stale := false }
  let tokens := placed.1.map (fun sl =>
    ({ idx := 0, slot := sl, val := some (if sl = .p then placed.2 else 0), deps := [] } : Token))
  let lane : Lane := { Lane.reset 0 0 SysRegs.reset with
    threads := [{ Thread.fresh 0 0 0 (List.replicate 64 0) with place := .inPass 0 }]
    slots := [{ block := some block }, { block := none }]
    passes := [Pass.single (if placed.1.isEmpty then [0] else []) tokens]
    nextPass := 1 }
  { s with
    moves := .fire 0 0 0 0 0 :: s.moves
    lanes := lane :: s.lanes.filter (fun l => !(l.core = 0 && l.ctx = 0))
    cores := CoreState.reset 0 :: s.cores.filter (fun c => c.core ≠ 0) }

end Sys2Proof.Machine
end

