-- ==== Sys2Proof/Machine/Resident.lean ====
section
/-! DEFINITION. The live-value store of a core (spec/01 R28, spec/09 R280-R284): resident and spilled threads, and what the
marshals know of a packet's blocks. -/

namespace Sys2Proof.Machine

/-! ### The blocks of a packet (R63, R266, R273) -/

/-- The blocks of a stage, or of the kernel. -/
def Packet.stageBlocks (p : Packet) (stage : Nat) : List BlockInfo :=
  match p.stages[stage]? with
  | some st => p.runs.getD st.run []
  | none => []

/-- The entry block of a stage. -/
def Packet.entry (p : Packet) (stage : Nat) : Nat :=
  match p.stageBlocks stage with
  | b :: _ => b.blk
  | [] => 0

/-- The blocks of the kernel or stage that holds a block; a handler may stand in another than the running one (R397). -/
def Packet.blocksWith (p : Packet) (blk : Nat) : List BlockInfo :=
  (p.runs.find? (fun r => r.any (fun b => b.blk = blk))).getD []

/-- What is known of a block; an offset that was no block of the image at the load has no limits. -/
def Packet.info (p : Packet) (blk : Nat) : BlockInfo :=
  ((p.blocksWith blk).find? (fun b => b.blk = blk)).getD { blk := blk, rank := 0, stores := 0, wait := 0 }

/-- What is known of a block of a context's running packet. -/
def State.blockInfo (s : State) (ctx blk : Nat) : BlockInfo :=
  match (s.ctx? ctx).bind (·.kernelPacket?) with
  | some p => p.info blk
  | none => { blk := blk, rank := 0, stores := 0, wait := 0 }

/-! ### Slots -/

/-- The resident threads of a core (R28). -/
def State.residents (s : State) (core : Nat) : List Thread :=
  (s.lanes.filter (fun l => l.core = core)).flatMap (fun l => l.threads.filter (fun t => t.spill.isNone))

/-- The live-value slots in use on a core. -/
def State.slotsUsed (s : State) (core : Nat) : Nat := (s.residents core).foldl (fun n t => n + t.lvsn) 0

/-- The free resident slot numbered `k` among the free ones, looked for from `n` on. -/
def kthFree (used : List Nat) : Nat → Nat → Nat → Nat
  | 0, _, n => n
  | fuel + 1, k, n =>
    if used.contains n then kthFree used fuel k (n + 1) else if k = 0 then n else kthFree used fuel (k - 1) (n + 1)

/-- A free resident slot, by a free choice (R33). -/
def State.freeSlot (s : State) (core : Nat) : Nat × State :=
  let used := (s.residents core).map (·.rslot)
  let pick := s.choose (4096 - used.length)
  (kthFree used 4096 pick.1 0, pick.2)

/-! ### Spilling (R282-R284) -/

/-- Whether a thread can be spilled into a siding of `units` x 64 KiB (R282, R284). -/
def Thread.spillable (t : Thread) (units : Nat) : Bool :=
  t.spill.isNone && decide (t.tidx < units * 64) &&
  (match t.place with
   | .waiting _ _ => true
   | .held _ _ => true
   | .parked _ _ => true
   | _ => false)

/-- The order of spilling: held members, then threads parked by WAITA, then waiting ones by rank, the highest index first
in each class (R284). -/
def spillKey (s : State) (ctx : Nat) (t : Thread) : Nat :=
  (match t.place with
   | .held _ _ => 2 * 2 ^ 60
   | .parked _ _ => 2 ^ 60
   | .waiting blk _ => (s.blockInfo ctx blk).rank * 2 ^ 33
   | _ => 0) + t.tidx

/-- The thread with the greatest key. -/
def greatest (key : Thread → Nat) : List Thread → Option Thread
  | [] => none
  | t :: ts =>
    match greatest key ts with
    | none => some t
    | some u => if key u < key t then some t else some u

/-- The outcome of making room: done, waiting for a page that migrates, or not to be had, with the address at which an access to
the siding faulted when that is why (R282). `lost` says that the fault was of the siding of the region's other context: that
context's packet has failed, and the need is tried again. -/
inductive Room
  | ok (s : State)
  | wait (s : State)
  | full (s : State) (at_ : Option Nat)
  | lost (s : State)

/-- `n` free bytes. -/
def freeBytes (ctr n : Nat) : List Byte := (List.range n).map (fun i => Config.freeByte (ctr + i))

/-- What stands in the siding for a thread. Its layout is the part's own; what software reads there are values of R34 (R283). -/
def sidingImage (pool : List Word) (ctr : Nat) : List Byte := (liveWords pool ctr 128).flatMap (fun w => leBytes 8 w.toNat)

/-- Where the pieces of a siding image lie; an image lies within one page. -/
def spillAt (va : Nat) (ps : List Piece) (image : List Byte) : Spill := { va := va, pa := (ps.head?.map (·.pa)).getD 0, image := image }

/-- A siding image stored, and guarded (R283). -/
def State.storeImage (s : State) (ctx : Nat) (ps : List Piece) : State :=
  (s.commitBytes (deviceBytes ps)).watch
    { ctx := ctx, save := false, pa := (ps.head?.map (·.pa)).getD 0, len := 1024, touched := false }

/-- A thread written to the siding and its resident slot freed (R282, R284). Siding writes enter no signature. -/
def State.spillThread (s : State) (core ctx tidx : Nat) : Room :=
  match s.lane? core ctx with
  | none => .full s none
  | some l =>
    let va := l.regs.sidebase + 1024 * tidx
    let image := sidingImage (s.livePool ctx) s.freeCtr
    match ({ s with freeCtr := s.freeCtr + 128 } : State).writeVa ctx va image .store false with
    | (.park _, _, t) => .wait t
    | (.bad _ a, _, t) => .full t (some a)
    | (.ok ps, _, t) =>
      .ok ((t.storeImage ctx ps).updLane core ctx (fun l => l.updThread tidx (fun t => { t with
        spill := some (spillAt va ps image) })))

/-- The next thread to spill on a core for a need of a context: of its own threads first, then of a partner's. -/
def State.victim (s : State) (core ctx : Nat) (keep : Nat) : Option (Nat × Thread) :=
  let of := fun (own : Bool) => (s.lanes.filter (fun l => l.core = core && (decide (l.ctx = ctx) == own))).findSome? (fun l =>
    (greatest (spillKey s l.ctx) (l.threads.filter (fun t =>
      t.spillable l.regs.sidelen && !(own && decide (t.tidx = keep))))).map (fun t => (l.ctx, t)))
  match of true with
  | some v => some v
  | none => of false

/-- Room for live-value slots, and for a resident slot when `new`, on a core for a thread of a context (R280). -/
def State.makeRoom : Nat → State → Nat → Nat → Nat → Nat → Bool → Room
  | 0, s, _, _, _, _, _ => .full s none
  | fuel + 1, s, core, ctx, keep, need, new =>
    if s.slotsUsed core + need ≤ 65536 && (!new || decide ((s.residents core).length < 4096)) then .ok s
    else
      match s.victim core ctx keep with
      | none => .full s none
      | some (c, t) =>
        match s.spillThread core c t.tidx with
        | .ok u => State.makeRoom fuel u core ctx keep need new
        | .full u a => if c = ctx then .full u a else .lost (u.failPacket c cLvsExhausted a)
        | r => r

/-- Room for a need, by at most as many spills as a core has resident threads. -/
def State.roomFor (s : State) (core ctx keep need : Nat) (new : Bool) : Room := State.makeRoom 4097 s core ctx keep need new

/-- The migrations and grants that a waiting operation has requested, kept while the rest of it is not done. -/
def State.onlyMigrations (s t : State) : State :=
  { s with migrations := t.migrations, nextMigration := t.nextMigration, freeCtr := t.freeCtr, arbiters := t.arbiters }

/-! ### Creating and refetching threads -/

/-- The live values of a new thread (R34, R317, R374): those given, the others unspecified. -/
def newLives (pool : List Word) (ctr slots : Nat) (given : List (Option Word)) : List Word :=
  (List.range slots).map (fun k => match given.getD k none with
    | some w => w
    | none => liveWord pool (ctr + k))

/-- A thread created on a core in a place (R261, R263, R317). -/
def State.createThread (s : State) (core ctx tidx slots : Nat) (given : List (Option Word)) (place : Place) : Room :=
  match s.roomFor core ctx tidx slots true with
  | .ok s =>
    let pick := s.freeSlot core
    let t := { Thread.fresh tidx pick.1 0 (newLives (s.livePool ctx) pick.2.freeCtr slots given) with place := place }
    .ok ((({ pick.2 with freeCtr := pick.2.freeCtr + slots } : State).updLane core ctx (fun l => { l with
      threads := l.threads ++ [t] })).noteLives ctx (given.filterMap id))
  | r => r

/-- Whether a cause reports data that cannot be used: an integrity failure or an uncorrectable error (R400). -/
def dataCause (c : Nat) : Bool := decide (c / 64 = 7) || (decide (c / 64 = 2) && decide (c % 16 = reasonUncorrectable))

/-- Whether a thread's image still stands in the siding as the marshal wrote it. -/
def State.imageStands (s : State) (ctx : Nat) (sp : Spill) : Bool :=
  match s.placeVa ctx sp.va .load false with
  | (.ok (pa, _, _), _) => Memory.readBytes s.mem pa 1024 = sp.image
  | _ => false

/-- A spilled thread brought back (R268, R283): its live values are unspecified where anything but the marshal has accessed its
image, or the siding no longer holds it; where its data cannot be used the thread then traps as it is admitted (R400). An access to
the siding that faults in translation exhausts the context's live-value store (R282). -/
def State.refetch (s : State) (core ctx : Nat) (t : Thread) (sp : Spill) : Room :=
  match s.roomFor core ctx t.tidx t.lvsn true with
  | .ok s =>
    let pick := s.freeSlot core
    let s := pick.2
    let back := fun (s : State) (keep : Bool) (fail : Option (Nat × Nat)) =>
      (({ s with freeCtr := if keep then s.freeCtr else s.freeCtr + t.lvsn } : State).unwatch ctx false (some sp.pa)).updLane core ctx (fun l =>
        l.updThread t.tidx (fun t => { t with
          spill := none, rslot := pick.1, lives := if keep then t.lives else liveWords (s.livePool ctx) s.freeCtr t.lvsn
          refetchFail := fail }))
    match s.readVa ctx sp.va 1024 .load false with
    | (.park _, u) => .wait u
    | (.bad c a, u) => if dataCause c then .ok (back u false (some (c, a))) else .full u (some a)
    | (.ok _, u) => .ok (back u (!s.imageTouched ctx sp.pa && s.imageStands ctx sp) none)
  | r => r

/-- Whether a pass that is being admitted on a core has spilled threads still to be refetched, whose needs come first (R281). -/
def State.refetchDue (s : State) (core : Nat) : Bool :=
  s.lanes.any (fun l => l.core = core && !l.frozen && l.passes.any (fun p => p.state = .streaming &&
    (p.admission.drop p.admitted).any (fun i => match l.thread? i with
      | some t => t.spill.isSome
      | none => false)))

/-- Whether the siding holds a thread index (R282). -/
def SysRegs.sidingHolds (r : SysRegs) (tidx : Nat) : Bool := decide (tidx < r.sidelen * 64)

end Sys2Proof.Machine
end

