-- ==== Sys2Proof/Machine/Image.lean ====
section
/-! DEFINITION. The load checks of spec/02 R59-R66, R434, spec/07 R204, R217, R225, R232 and spec/09 R273-R275: what a
block, a NATIVE section and a code object must satisfy, each failure by its CONFIG detail. -/

namespace Sys2Proof.Machine

/-- The number in `n` bytes at an offset of a byte string, least significant first. -/
def natAt (bs : List Byte) (off n : Nat) : Nat := leNat ((bs.drop off).take n)

/-- Up to a multiple of 64. -/
def up64 (n : Nat) : Nat := (n + 63) / 64 * 64

/-! ### One block (R42-R48, R60) -/

/-- What the checks of a block draw from its surroundings: the starts of the blocks of its kernel or stage, the tensor
maps it can name, the stage it belongs to, and the stream records of its graph, none for a kernel of KIND 0. -/
structure LoadEnv where
  starts : List Nat
  mapCount : Nat
  stage : Nat
  edges : Option (List EdgeRec)
  deriving DecidableEq, Repr

/-- The opcode of each word of a block. -/
def Block.opcodes (b : Block) : List Nat := b.words.map (fun w => field w.1 56 8)

/-- Whether an opcode is of the memory class (R25). -/
def opMemory (op : Nat) : Bool :=
  (decide (0x78 ≤ op) && decide (op ≤ 0xBF)) || (decide (0xC0 ≤ op) && decide (op ≤ 0xC4)) ||
  (decide (0xD0 ≤ op) && decide (op ≤ 0xDF)) || (decide (0xE2 ≤ op) && decide (op ≤ 0xE5))

/-- Whether an opcode is of the live-value class (R25). -/
def opLive (op : Nat) : Bool := op = 0x06 || op = 0x07

/-- VER, XCOUNT and the reserved header bits (R44, R45). -/
def Block.headerOk (b : Block) : Bool :=
  decide (field (b.hword 0) 60 4 = 1) && decide (b.xcount ≤ 8) && decide (field (b.hword 0) 0 4 = 0)
  && decide (field (b.hword 1) 40 2 = 0) && decide (field (b.hword 2) 60 4 = 0) && decide (field (b.hword 3) 60 4 = 0)

/-- The counts of READs, WRITEs and memory-class instructions (R44). -/
def Block.countOk (b : Block) : Bool :=
  let reads := (b.opcodes.filter (fun o => o = 0x06)).length
  let writes := (b.opcodes.filter (fun o => o = 0x07)).length
  decide (field (b.hword 0) 26 7 = reads) && decide (field (b.hword 0) 19 7 = writes) && decide (reads + writes ≤ 64)
  && decide ((b.opcodes.filter opMemory).length ≤ 64)

/-- The exits an instruction names (R314, R317). -/
def Instr.exits : Instr → List Nat
  | .exit _ xn => [xn.toNat]
  | .call _ _ xr xn => [xn.toNat, xr.toNat]
  | .spawn _ xn => [xn.toNat]
  | _ => []

/-- The exit table (R46): targets at block starts, unused entries zero, exits named below XCOUNT. -/
def Block.exitsOk (b : Block) (starts : List Nat) : Bool :=
  (List.range 8).all (fun xn =>
    if xn < b.xcount then starts.any (fun t => decide ((t : Int) = (b.blk : Int) + exitOffset b.header xn))
    else decide (exitOffset b.header xn = 0))
  && b.instrs.all (fun x => (Instr.exits x.2).all (fun xn => decide (xn < b.xcount)))

/-- SETn: its flag when valid (R45). -/
def Block.setFlag (b : Block) (n : Nat) : Option Nat :=
  let f := field (b.hword 1) (47 - 5 * n) 5
  if 16 ≤ f then some (f - 16) else none

/-- SET0 and SET1 are well formed, and every flag an instruction names is one of them (R46, R141). -/
def Block.flagsOk (b : Block) : Bool :=
  (List.range 2).all (fun n =>
    let f := field (b.hword 1) (47 - 5 * n) 5
    decide (f = 0) || (decide (16 ≤ f) && decide (f ≤ 27)))
  && b.instrs.all (fun x => match x.2.flag? with
      | some k => b.setFlag 0 = some k || b.setFlag 1 = some k
      | none => true)

/-- The slots of an instruction that some arc names. -/
def Wired.fed (g : Wired) (k : Nat) : List Slot :=
  [Slot.a, .b, .c, .p].filter (fun sl => g.arcs.any (fun a => a.dst = k && a.slot = sl))

/-- The instruction at an index. -/
def Wired.instr? (g : Wired) (k : Nat) : Option Instr := (g.instrs.find? (fun x => x.1 = k)).map (·.2)

/-- Slot p of each instruction is named exactly when it is predicated (R60). -/
def Wired.predicatesOk (g : Wired) : Bool :=
  g.instrs.all (fun x =>
    let named := (g.fed x.1).contains .p
    match x.2.fields? with
    | some f => decide (named = !decide (f.pm = .always))
    | none => true)

/-- One target (R48): an index of the block, and a slot its consumer has; slot p is judged by `predicatesOk`. -/
def Wired.arcOk (g : Wired) (a : Arc) : Bool :=
  decide (a.dst < g.size) &&
  (decide (a.slot = .p) ||
    (match g.instr? a.dst with
     | some i => i.opSlots.contains a.slot
     | none => true))

/-- The arcs into a slot. -/
def Wired.into (g : Wired) (k : Nat) (sl : Slot) : List Arc := g.arcs.filter (fun a => a.dst = k && a.slot = sl)

/-- The instructions whose T0 an ACQ may take (R217). -/
def Instr.acquirable : Instr → Bool
  | .ld _ _ | .ldt _ _ _ | .waita _ _ _ _ _ | .grecv _ => true
  | .aadd f _ | .amin f _ | .amax f _ | .aand f _ | .aor f _ | .axor f _ | .axchg f _ | .acas f _ | .aincw f _
  | .adecw f _ | .afadd f _ _ | .afmin f _ _ | .afmax f _ _ => f.t0.isSome
  | _ => false

/-- What feeds an instruction (R217, R232, R300). -/
def Wired.feedsOk (g : Wired) (k : Nat) (i : Instr) : Bool :=
  match i with
  | .carry _ | .invar _ => (g.fed k).contains .a && (g.fed k).contains .b
  | .merge _ => (g.fed k).contains .a && (g.fed k).contains .b && (g.fed k).contains .c
  | .acq _ _ => (g.into k .a).all (fun a => a.first && (g.instr? a.src).any Instr.acquirable)
  | .grecv _ => (g.into k .a).all (fun a => match g.instr? a.src with
      | some (.gath _ _) => true
      | _ => false)
  | _ => true

/-- Every target and every slot that must be fed (R48, R217, R232, R300). -/
def Wired.targetsOk (g : Wired) : Bool := g.arcs.all g.arcOk && g.instrs.all (fun x => g.feedsOk x.1 x.2)

/-- A GRECV stands on the unit of the GATHs that feed it (R232). -/
def Wired.gathersOk (g : Wired) : Bool :=
  g.instrs.all (fun x => match x.2 with
    | .grecv _ => (g.into x.1 .a).all (fun a => decide (a.src % 16 = x.1 % 16))
    | _ => true)

/-- Whether the numbers of a list are all different. -/
def distinct : List Nat → Bool
  | [] => true
  | n :: ns => !ns.contains n && distinct ns

/-- A port as a number. -/
def portCode (p : PortRef) : Nat := boolCode p.edge * 64 + p.port.toNat

/-- The rules on what one block may hold together (R155, R225, R308, R314, R323, R324, R325). R225 names no detail for a block that
holds a POP and a PEEK of one port: FIELD, that of its limits beside it, is the MODEL'S CHOICE (log 62). -/
def Block.togetherOk (b : Block) : Bool :=
  let is := b.instrs.map (·.2)
  let writes := is.filterMap (fun i => match i with | .write _ lk => some lk.toNat | _ => none)
  let links := is.filterMap (fun i => match i with | .call _ lk _ _ => some lk.toNat | _ => none)
  let pushes := is.filterMap (fun i => match i with | .push _ p _ => some (portCode p) | _ => none)
  let pops := is.filterMap (fun i => match i with | .pop _ p _ => some (portCode p) | _ => none)
  let feeds := is.filterMap (fun i => match i with | .wfeed _ p _ => some (portCode p) | _ => none)
  let peeks := is.filterMap (fun i => match i with | .peek _ p _ => some (portCode p) | _ => none)
  decide ((is.filter (fun i => match i with | .bar _ => true | _ => false)).length ≤ 1)
  && decide ((is.filter (fun i => match i with | .grow _ _ | .shrink _ _ => true | _ => false)).length ≤ 1)
  && distinct (is.filterMap (·.collective?)) && distinct writes && links.all (fun k => !writes.contains k)
  && distinct pushes && distinct pops && distinct feeds && peeks.all (fun p => !pops.contains p)

/-- SFMT and FMT pair (R91). -/
def scalePairOk (fmt sfmt : Nat) : Bool := sfmt = 0 || ((sfmt = 15 || sfmt = 16) && [10, 11, 12, 13, 14].contains fmt)

/-- A tensor map's words (R202, R204). -/
def mapOk (ws : List Word) : Bool :=
  let w := fun k => (ws.getD k 0).toNat
  let m := TMap.ofWords ws
  let ext := m.ext
  let align := fmtBits m.fmt / 8
  let al := if m.fmt = .e2m1 || m.fmt = .t6 then 1 else align
  let last := m.place ext
  decide (field (w 0) 57 7 = 0) && decide (field (w 1) 20 44 = 0) && decide (field (w 4) 57 7 = 0)
  && decide (w 6 = 0) && decide (w 7 = 0) && (m.stream || decide (m.scope = 0)) && decide (m.ndim ≤ 2)
  && decide (m.rdim ≤ m.ndim) && decide (field (w 1) 0 5 ≤ 16)
  && (decide (m.sfmt ≠ 0) || (decide (m.rdim = 0) && decide (m.sbase = 0)))
  && (decide (1 ≤ m.ndim) || (decide (ext.getD 1 0 = 0) && decide (m.stride1 = 0) && decide (m.sstride1 = 0)))
  && (decide (2 ≤ m.ndim) || (decide (ext.getD 2 0 = 0) && decide (m.stride2 = 0) && decide (m.sstride2 = 0)))
  && scalePairOk (field (w 1) 0 5) m.sfmt
  && (decide (m.sfmt = 0) || decide ((ext.getD m.rdim 0 + 1) % 32 = 0))
  && decide (m.base % al = 0) && decide (m.stride1 % al = 0) && decide (m.stride2 % al = 0)
  && (decide (m.sfmt = 0) ||
      (decide (m.sbase % m.sw = 0) && decide (m.sstride1 % m.sw = 0) && decide (m.sstride2 % m.sw = 0)
       && decide (m.scaleVa ext + m.sw ≤ 2 ^ 57)))
  && decide (m.base + last.1 + (last.2.1 + last.2.2 + 7) / 8 ≤ 2 ^ 57)

/-- The map numbers a block names, each once. -/
def Block.mapNumbers (b : Block) : List Nat := (b.instrs.filterMap (fun x => x.2.map?)).dedup

/-- The maps a block names (R204). -/
def Block.mapsOk (b : Block) (count : Nat) : Bool :=
  b.mapNumbers.all (fun n => decide (n < count)) && b.maps.all (fun m => mapOk m.2)

/-- An STT of an integer format or RAW64 has FN 0 (R81, R205). A map of a reserved FMT is a fault of its own (R204). -/
def Block.sttFnOk (b : Block) : Bool :=
  b.instrs.all (fun x => match x.2 with
    | .stt _ m _ rm => (match b.maps.find? (fun w => w.1 = m.toNat) with
        | some w => decide (16 < field ((w.2.getD 1 0).toNat) 0 5) || (TMap.ofWords w.2).fmt.rmOk rm
        | none => true)
    | _ => true)

/-- At most four instructions on each MEU and each live-value port (R25, R26). -/
def Block.placementOk (b : Block) : Bool :=
  let ops := b.opcodes.mapIdx (fun k o => (k, o))
  (List.range 16).all (fun u =>
    decide ((ops.filter (fun x => x.1 % 16 = u && opMemory x.2)).length ≤ 4) &&
    decide ((ops.filter (fun x => x.1 % 16 = u && opLive x.2)).length ≤ 4))

/-- What is left of a set of nodes once those that no arc from the set enters are taken away again and again. -/
def peel (arcs : List Arc) : Nat → List Nat → List Nat
  | 0, ns => ns
  | fuel + 1, ns =>
    let left := ns.filter (fun n => arcs.any (fun a => a.dst = n && ns.contains a.src))
    if left.length = ns.length then ns else peel arcs fuel left

/-- No cycle of targets but through slot b of a CARRY (R60). -/
def Wired.cyclesOk (g : Wired) : Bool :=
  let carries := g.carries
  (peel (g.arcs.filter (fun a => !(a.slot = .b && carries.contains a.dst))) g.size (List.range g.size)).isEmpty

/-- The store-class instructions outside every loop (R434). -/
def Wired.loopFree (g : Wired) : Nat :=
  let loop := g.reach g.size g.recurrence
  (g.instrs.filter (fun x => x.2.storeClass && !loop.contains x.1)).length

/-- The loop-free count of a block. -/
def Block.loopFree (b : Block) : Nat := b.wired.loopFree

/-- S, D and STORES (R44, R434), for the instructions and arcs given. -/
def Block.attributesOk (b : Block) (g : Wired) : Bool :=
  let deferred := fun (i : Instr) => i.deferredKind || (match i with
    | .stt _ m _ _ => (match b.map? m.toNat with | some t => t.stream | none => false)
    | _ => false)
  (decide (field (b.hword 0) 5 1 = 1) || !b.instrs.any (fun x => x.2.streams))
  && (decide (field (b.hword 0) 4 1 = 1) || !b.instrs.any (fun x => deferred x.2))
  && decide (g.loopFree ≤ b.stores)

/-- One edge port (R225): its family, and its end on this stage. -/
def edgePortOk (env : LoadEnv) (p : PortRef) (window producer : Bool) : Bool :=
  if !p.edge then true
  else
    match env.edges.bind (fun es => es[p.port.toNat]?) with
    | none => false
    | some e => decide ((e.kind = 1) = (window = true)) && decide ((if producer then e.src else e.dst) = env.stage)

/-- The edge ports of a block (R225). -/
def Block.portsOk (b : Block) (env : LoadEnv) : Bool :=
  b.instrs.all (fun x => match x.2 with
    | .push _ p _ => edgePortOk env p false true
    | .pop _ p _ => edgePortOk env p false false
    | .peek _ p _ => edgePortOk env p false false
    | .wfeed _ p _ => edgePortOk env p true true
    | .wemit _ p _ => edgePortOk env p true false
    | _ => true)

/-- The faults of the words of a block, each on its own. -/
def Block.wordFaults (b : Block) : List LoadFault :=
  b.words.filterMap (fun w => match decodeWord w.1 w.2 with
    | .ok _ => none
    | .error e => some e)

/-- A block with every word that fails a check of its own replaced by what its sound fields make of it, so that its targets, exits,
flags and slots are judged all the same. -/
def Block.readable (b : Block) : Block :=
  { b with words := b.words.map (fun w =>
      match decodeWord w.1 w.2 with
      | .ok _ => w
      | .error _ =>
        match readThrough 16 (Raw.ofWord w.1 w.2) with
        | some i => ((encodeRaw i).word, (encodeRaw i).ext)
        | none => w) }

/-- A fault where a check fails. -/
def checked (ok : Bool) (e : LoadFault) : List LoadFault := if ok then [] else [e]

/-- The checks of R60 that a block and a hyperblock share, for the instructions and arcs given: those of their words, counts and
places apart. -/
def Block.sharedFaults (b : Block) (g : Wired) (env : LoadEnv) : List LoadFault :=
  checked (b.exitsOk env.starts) .exitTable ++ checked b.flagsOk .flag ++ checked b.sttFnOk .fn ++ checked g.predicatesOk .predicate ++
  checked g.targetsOk .target ++ checked (b.togetherOk && b.mapsOk env.mapCount) .field ++ checked g.cyclesOk .cycle ++
  checked (b.attributesOk g) .attr ++ checked (b.portsOk env) .stage

/-- Every check that a block whose words can all be read fails, but for those of the words themselves. -/
def Block.ownFaults (b : Block) (env : LoadEnv) : List LoadFault :=
  checked b.headerOk .header ++ checked b.countOk .count ++ checked b.wired.gathersOk .target ++ checked b.placementOk .placement ++
  b.sharedFaults b.wired env

/-- Every check that a block fails (R60): those of its words, and those of the block they make. A target into a word of a reserved
opcode is not judged by slot. -/
def Block.faults (b : Block) (env : LoadEnv) : List LoadFault := b.wordFaults ++ b.readable.ownFaults env

/-- The lowest detail among failures (R60). -/
def leastDetail : List LoadFault → Option Nat
  | [] => none
  | e :: es =>
    match leastDetail es with
    | none => some e.detail
    | some n => some (min e.detail n)

/-! ### A run of blocks in an image (R42, R63) -/

/-- `n` instruction words, each with the extension word that follows it, and the bytes after them. -/
def parseWords : Nat → List Byte → Option (List (Nat × Nat) × List Byte)
  | 0, bs => some ([], bs)
  | n + 1, bs =>
    if bs.length < 8 then none
    else
      let w := natAt bs 0 8
      let x := wordHasExt w
      if x && decide (bs.length < 16) then none
      else
        match parseWords n (bs.drop (if x then 16 else 8)) with
        | none => none
        | some (ws, rest) => some ((w, if x then natAt bs 8 8 else 0) :: ws, rest)

/-- ICOUNT of a header word 0. -/
def icount (w0 : Nat) : Nat := field w0 53 7 + 1

/-- The block at a byte offset of an image, with the offset of its end; none where it runs past the image. -/
def parseBlock (img : List Byte) (off : Nat) : Option (Block × Nat) :=
  if img.length < off + 32 then none
  else
    let header := (List.range 4).map (fun k => natAt img (off + 8 * k) 8)
    match parseWords (icount (header.getD 0 0)) (img.drop (off + 32)) with
    | none => none
    | some (ws, rest) =>
      some ({ blk := off / 64, header := header, words := ws, maps := [], va := 0, stale := false }, img.length - rest.length)

/-- The run of `n` blocks that begins at an offset. -/
def parseRun (img : List Byte) : Nat → Nat → Option (List Block)
  | 0, _ => some []
  | n + 1, off =>
    match parseBlock img off with
    | none => none
    | some (b, e) => (parseRun img n (up64 e)).map (b :: ·)

/-- What the marshals know of a block. -/
def Block.info (b : Block) : BlockInfo := { blk := b.blk, rank := b.rank, stores := b.stores, wait := b.wait.toNat }

/-- A block with the tensor maps that it names. -/
def Block.withMaps (maps : List (List Word)) (b : Block) : Block :=
  { b with maps := b.mapNumbers.filterMap (fun n => (maps[n]?).map (fun m => (n, m))) }

/-- The failures of a run: those of its blocks, and a rank that two share. `maps` are the tensor maps by number. -/
def runFaults (maps : List (List Word)) (stage : Nat) (edges : Option (List EdgeRec)) (bs : List Block) : List LoadFault :=
  let env : LoadEnv := { starts := bs.map (·.blk), mapCount := maps.length, stage := stage, edges := edges }
  bs.flatMap (fun b => (b.withMaps maps).faults env) ++ (if distinct (bs.map (·.rank)) then [] else [.rank])

/-! ### A NATIVE section (R63, R273-R275) -/

/-- A kernel record's fields. -/
structure KernelFields where
  entry : Nat
  slots : Nat
  kind : Nat
  nblock : Nat
  psize : Nat
  name : Nat
  deriving DecidableEq, Repr

/-- A kernel record. -/
def KernelFields.ofBytes (bs : List Byte) : KernelFields :=
  { entry := natAt bs 0 8, slots := natAt bs 8 1, kind := natAt bs 9 1, nblock := natAt bs 10 2, psize := natAt bs 12 4
    name := natAt bs 16 16 }

/-- The stream records that follow a graph's stages, to their terminating record: their fields, whether they end within
the section, and the faults of their positions. -/
def parseEdges : Nat → List Byte → Option (List (List Byte) × List Byte)
  | 0, _ => none
  | fuel + 1, bs =>
    if bs.length < 32 then none
    else if natAt bs 0 32 = 0 then some ([], bs.drop 32)
    else (parseEdges fuel (bs.drop 32)).map (fun r => (bs.take 32 :: r.1, r.2))

/-- The fields of a stream record. -/
def edgeFields (bs : List Byte) : List Nat :=
  [natAt bs 1 1, natAt bs 2 1, natAt bs 3 1, natAt bs 4 4, natAt bs 8 1, natAt bs 16 16]

/-- A FIFO, WINDOW or LINK geometry (R222, R274). -/
def edgeGeomOk (kind geom : Nat) : Bool :=
  match kind with
  | 0 => decide (geom < 2 ^ 12)
  | 1 => decide (geom < 2 ^ 26) &&
      (let g := Geometry.of geom
       decide (((g.kh - 1) * g.dil + 1 + g.str) * g.rw ≤ 4096) && decide ((g.kw - 1) * g.dil + 1 ≤ g.rw))
  | _ => decide (geom < 2 ^ 6)

/-- One stream record (R274, R275). -/
def edgeOk (bs : List Byte) (nstage : Nat) : Bool :=
  let e := EdgeRec.ofList (edgeFields bs)
  decide (natAt bs 0 1 = 2) && decide (e.kind ≤ 2) && decide (e.src < nstage) && decide (e.dst < nstage)
  && (decide (e.kind = 0) || decide (e.src ≠ e.dst)) && edgeGeomOk e.kind e.geom
  && (if e.kind = 2 then decide (e.bank = 0) else decide (e.bank < 32)) && decide (natAt bs 9 7 = 0)

/-- One stage record (R273, R275). -/
def stageOk (bs : List Byte) : Bool :=
  decide (natAt bs 0 1 = 1) && decide (natAt bs 1 1 < 32) && decide (natAt bs 2 1 < 32) && decide (natAt bs 3 1 = 0)
  && decide (natAt bs 8 6 % 64 = 0) && decide (1 ≤ natAt bs 14 2)

/-- A stage's offset in the core grid. -/
def stageOffset (bs : List Byte) : Nat := 32 * natAt bs 2 1 + natAt bs 1 1

/-- The records of a graph (R275). -/
def graphOk (stages edges : List (List Byte)) : Bool :=
  let es := edges.map (fun e => EdgeRec.ofList (edgeFields e))
  stages.all stageOk && edges.all (fun e => edgeOk e stages.length) && decide (edges.length ≤ 64)
  && distinct (stages.map stageOffset) && distinct ((es.filter (fun e => e.kind ≠ 2)).map (fun e => e.dst * 32 + e.bank))

/-- What the parsing of a NATIVE section gives: its kernels, its runs and its failures. -/
structure Parsed where
  kernels : List KernelRec
  runs : List (List BlockInfo)
  names : List Nat
  faults : List LoadFault
  deriving DecidableEq, Repr

/-- The bytes that `n` kernel records take with the stage and stream records of their graphs; none where one runs past the section. -/
def recordBytes : Nat → List Byte → Option Nat
  | 0, _ => some 0
  | n + 1, bs =>
    let k := KernelFields.ofBytes bs
    let own := if k.kind = 1 then 32 * (k.nblock + 1) else 32
    if bs.length < own then none
    else if k.kind = 1 then
      (parseEdges bs.length (bs.drop own)).bind (fun r =>
        (recordBytes n r.2).map (fun m => bs.length - r.2.length + m))
    else (recordBytes n (bs.drop own)).map (own + ·)

/-- Where the block images of a section begin: at the next 64-byte boundary after its records (R63). -/
def imagesFrom (img : List Byte) : Nat := 64 + up64 ((recordBytes (natAt img 0 4) (img.drop 64)).getD 0)

/-- Whether an ENTRY can be the start of a block: a multiple of 64 behind the records (R63, R42). -/
def entryOk (first entry : Nat) : Bool := entry % 64 = 0 && first ≤ entry

/-- The run of `n` blocks that an ENTRY locates; one that is no start of a block locates none. -/
def runAt (img : List Byte) (first n entry : Nat) : Option (List Block) :=
  if entryOk first entry then parseRun img n entry else some []

/-- The runs of the stages of a graph, in order. An ENTRY that is no start of a block is STAGE. -/
def parseStages (img : List Byte) (first : Nat) (maps : List (List Word)) (edges : List EdgeRec) :
    Nat → List (List Byte) → List (Option (List Block)) × List LoadFault
  | _, [] => ([], [])
  | j, st :: rest =>
    let r := runAt img first (natAt st 14 2) (natAt st 8 6)
    let more := parseStages img first maps edges (j + 1) rest
    (r :: more.1, (match r with
      | none => [.imageFormat]
      | some bs => (if entryOk first (natAt st 8 6) then [] else [.stage]) ++ runFaults maps j (some edges) bs) ++ more.2)

/-- The kernel records from the one at hand on (R63), the block images beginning at `first`. A record that runs past the section ends
the parsing. The spec names no fault for NBLOCK 0: a kernel without a block, or a graph without a stage, has no entry block, and
KERNEL is the MODEL'S CHOICE (log 62). -/
def parseKernels (img : List Byte) (first : Nat) (maps : List (List Word)) : Nat → List Byte → Parsed → Parsed
  | 0, _, p => p
  | n + 1, bs, p =>
    if bs.length < 32 then { p with faults := .imageFormat :: p.faults }
    else
      let k := KernelFields.ofBytes bs
      let bad := (if k.slots < 4 || 64 < k.slots || 1 < k.kind || !entryOk first k.entry then [LoadFault.kernel] else [])
      if k.kind ≠ 1 then
        let run := runAt img first k.nblock k.entry
        let faults := match run with
          | none => [LoadFault.imageFormat]
          | some bs => (if bs.isEmpty then [LoadFault.kernel] else []) ++ runFaults maps 0 none bs
        parseKernels img first maps n (bs.drop 32)
          { kernels := p.kernels ++ [{ slots := k.slots, kind := k.kind, psize := k.psize, edges := []
                                       stages := [{ offset := 0, nthr := 0, name := k.name, run := p.runs.length }] }]
            runs := p.runs ++ [(run.getD []).map (·.info)], names := p.names ++ [k.name], faults := p.faults ++ bad ++ faults }
      else
        let stages := (List.range k.nblock).map (fun j => (bs.drop (32 * (j + 1))).take 32)
        let short := decide (bs.length < 32 * (k.nblock + 1))
        match (if short then none else parseEdges bs.length (bs.drop (32 * (k.nblock + 1)))) with
        | none => { p with faults := .imageFormat :: p.faults ++ bad }
        | some (edges, rest) =>
          let es := edges.map edgeFields
          let rs := parseStages img first maps (es.map EdgeRec.ofList) 0 stages
          let entry := match stages with
            | st :: _ => if natAt st 8 6 = k.entry then [] else [LoadFault.kernel]
            | [] => [LoadFault.kernel]
          parseKernels img first maps n rest
            { kernels := p.kernels ++ [{ slots := k.slots, kind := 1, psize := k.psize, edges := es
                                         stages := stages.mapIdx (fun j st => { offset := stageOffset st, nthr := natAt st 4 4
                                                                                name := natAt st 16 16
                                                                                run := p.runs.length + j }) }]
              runs := p.runs ++ rs.1.map (fun r => (r.getD []).map (·.info)), names := p.names ++ [k.name]
              faults := p.faults ++ bad ++ entry ++ rs.2 ++ (if graphOk stages edges then [] else [.stage]) }

/-- A NATIVE section read whole (R63, R60). -/
def parseNative (img : List Byte) (maps : List (List Word)) : Parsed :=
  let none_ : Parsed := { kernels := [], runs := [], names := [], faults := [.imageFormat] }
  if img.length < 64 || natAt img 0 4 = 0 || 4096 < natAt img 0 4 || natAt img 4 60 ≠ 0 then none_
  else
    let p := parseKernels img (imagesFrom img) maps (natAt img 0 4) (img.drop 64) { none_ with faults := [] }
    if distinct p.names then p else { p with faults := .kernel :: p.faults }

/-! ### The container (R61, R62, R64-R66) -/

/-- A section entry. -/
structure Section where
  kind : Nat
  major : Nat
  minor : Nat
  stepset : Nat
  offset : Nat
  size : Nat
  deriving DecidableEq, Repr

/-- A section entry's fields. -/
def Section.ofBytes (bs : List Byte) : Section :=
  { kind := natAt bs 0 2, major := natAt bs 2 1, minor := natAt bs 3 1, stepset := natAt bs 4 2, offset := natAt bs 8 8
    size := natAt bs 16 8 }

/-- The container header (R61). -/
def containerHeadOk (h : List Byte) : Bool :=
  decide (natAt h 0 4 = 0x4F435256) && decide (natAt h 4 2 = 1) && decide (1 ≤ natAt h 6 2) && decide (natAt h 6 2 ≤ 256)
  && decide (natAt h 16 48 = 0)

/-- One section entry (R62, R64), within an object of a length; it lies after the table. -/
def sectionOk (length count : Nat) (bs : List Byte) : Bool :=
  let s := Section.ofBytes bs
  decide (1 ≤ s.kind) && decide (s.kind ≤ 6)
  && (decide (s.kind = 1) || (decide (s.major = 0) && decide (s.minor = 0) && decide (s.stepset = 0)))
  && decide (natAt bs 6 2 = 0) && decide (natAt bs 24 8 = 0) && decide (s.offset % 64 = 0)
  && decide (64 + 32 * count ≤ s.offset) && decide (s.offset + s.size ≤ length)
  && (decide (s.kind ≠ 6) || decide (s.size % 64 = 0))

/-- Sections that do not overlap (R62). An empty section whose OFFSET lies inside another counts as overlapping it: the spec does not
say, the MODEL'S CHOICE (log 62). -/
def apart : List Section → Bool
  | [] => true
  | s :: rest => rest.all (fun t => decide (s.offset + s.size ≤ t.offset) || decide (t.offset + t.size ≤ s.offset)) && apart rest

/-- The section table (R62). -/
def sectionsOk (length : Nat) (entries : List (List Byte)) : Bool :=
  let ss := entries.map Section.ofBytes
  entries.all (sectionOk length entries.length) && apart ss
  && [2, 3, 4].all (fun k => decide ((ss.filter (fun s => s.kind = k)).length ≤ 1))

/-- The image section selected on stepping A0 of version 1.0 (R65), by its number. -/
def selectImage (ss : List Section) : Option Nat :=
  let fits := fun (s : Section) => s.kind = 1 && s.major = 1 && s.minor = 0
  match ss.findIdx? (fun s => fits s && s.stepset % 2 = 1) with
  | some n => some n
  | none =>
    match ss.findIdx? fits with
    | some n => some n
    | none => ss.findIdx? (fun s => s.kind = 2)

/-- The place of a section among the NATIVE and VPB sections, by which HASHES lists its value (R64). -/
def hashOrdinal (ss : List Section) (n : Nat) : Nat := ((ss.take n).filter (fun s => s.kind = 1 || s.kind = 2)).length

/-- The reserved bytes of the entries of an ERRATA section are zero (R9, R64). MODEL'S CHOICES (log 62): R60 names no detail for them,
that of the section table, IMAGE_FORMAT, stands; and of a section whose size is no multiple of 8 the bytes left over are no entry,
and are ignored. -/
def errataOk (errata : List Byte) : Bool := (List.range (errata.length / 8)).all (fun k => natAt errata (8 * k + 4) 4 = 0)

/-- Whether an ERRATA section makes a section depend on an erratum; stepping A0 recognises none (R66). -/
def dependsOnErratum (errata : List Byte) (n : Nat) : Bool :=
  (List.range (errata.length / 8)).any (fun k => natAt errata (8 * k) 2 = n)

end Sys2Proof.Machine
end

