-- ==== Sys2Proof/Machine/Vpb.lean ====
section
/-! DEFINITION. VPB images (spec/02 R67, R68): the layout of a hyperblock, its checks, and its translation into a native block with
the targets beyond two carried by FANs, or into several where it exceeds the native limits. A VPB section begins with the kernel,
stage and stream records of R63, R273 and R274 (log 32). -/

namespace Sys2Proof.Machine

/-! ### Reading hyperblocks (R68) -/

/-- A record of a hyperblock: its base word, its four target fields, and what follows it: an extension word and the rest of its
record. -/
structure HyperRec where
  word : Nat
  tgts : List Nat
  ext : Nat
  rest : Nat
  deriving DecidableEq, Repr

/-- A hyperblock: where it begins, in 64-byte units of its section, its eight header words and its records. -/
structure Hyper where
  blk : Nat
  header : List Nat
  recs : List HyperRec
  deriving DecidableEq, Repr

/-- Whether the base word of a record is MOVX, the one instruction with an extension word in a hyperblock. -/
def HyperRec.isMovx (r : HyperRec) : Bool := field r.word 56 8 = 3

/-- `n` records, and the bytes after them. The further record stands behind a MOVX with X = 1 alone. -/
def parseRecs : Nat → List Byte → Option (List HyperRec × List Byte)
  | 0, bs => some ([], bs)
  | n + 1, bs =>
    let x := wordHasExt (natAt bs 0 8) && decide (natAt bs 7 1 = 3)
    if bs.length < (if x then 32 else 16) then none
    else
      let r : HyperRec := { word := natAt bs 0 8, tgts := [natAt bs 8 2, natAt bs 10 2, natAt bs 12 2, natAt bs 14 2]
                            ext := if x then natAt bs 16 8 else 0, rest := if x then natAt bs 24 8 else 0 }
      (parseRecs n (bs.drop (if x then 32 else 16))).map (fun p => (r :: p.1, p.2))

/-- The hyperblock at a byte offset of a section, with the offset of its end; none where it runs past the section. -/
def parseHyper (sec : List Byte) (off : Nat) : Option (Hyper × Nat) :=
  if sec.length < off + 64 then none
  else
    let header := (List.range 8).map (fun k => natAt sec (off + 8 * k) 8)
    (parseRecs (field (header.getD 0 0) 48 12 + 1) (sec.drop (off + 64))).map (fun p =>
      ({ blk := off / 64, header := header, recs := p.1 }, sec.length - p.2.length))

/-- The run of `n` hyperblocks that begins at an offset. -/
def parseHypers (sec : List Byte) : Nat → Nat → Option (List Hyper)
  | 0, _ => some []
  | n + 1, off =>
    match parseHyper sec off with
    | none => none
    | some (h, e) => (parseHypers sec n (up64 e)).map (h :: ·)

/-! ### A record as a native instruction -/

/-- One target field: an invalid one is all zero, and a valid one names an index of the hyperblock. -/
def targetFieldOk (n t : Nat) : Bool :=
  if field t 15 1 = 1 then decide (field t 3 12 < n) && decide (field t 0 1 = 0) else decide (t = 0)

/-- A target field of a hyperblock of `n` instructions as the ten bits of a native target (R47, R68); one that fails its check names
nothing. -/
def nativeTarget (n t : Nat) : Nat :=
  if targetFieldOk n t && field t 15 1 = 1 then 512 + field t 3 12 % 128 * 4 + field t 1 2 else 0

/-- Whether a record is a FAN. -/
def HyperRec.isFan (r : HyperRec) : Bool := field r.word 56 8 = 4

/-- The valid targets of a record after its first. -/
def HyperRec.later (r : HyperRec) : List Nat := (r.tgts.drop 1).filter (fun t => field t 15 1 = 1)

/-- A native word from a base word, its X bit and its first two targets. -/
def nativeWord (base x t0 t1 : Nat) : Nat := base / 2 ^ 49 * 2 ^ 49 + x * 2 ^ 48 + t0 * 2 ^ 38 + t1 * 2 ^ 28 + field base 0 28

/-- The native instruction of a record, with its extension word; `fan` is the index of the FAN added for it, if it needs one. Without
one its first sound target after TGT0 stands as T1. -/
def HyperRec.native (n : Nat) (r : HyperRec) (fan : Option Nat) : Nat × Nat :=
  let t := fun (k : Nat) => nativeTarget n (r.tgts.getD k 0)
  if r.isFan then (nativeWord r.word 1 (t 0) (t 1), t 2 * 2 ^ 54 + t 3 * 2 ^ 44)
  else
    let t1 := match fan with
      | some k => 512 + k % 128 * 4
      | none => nativeTarget n ((r.later.find? (targetFieldOk n)).getD 0)
    (nativeWord r.word (field r.word 48 1) (t 0) t1, r.ext)

/-- Whether a record names more targets than its native form carries, so that the loader adds a FAN (R68). -/
def HyperRec.wantsFan (r : HyperRec) : Bool := !r.isFan && decide (2 ≤ r.later.length)

/-- The FAN added for a record, which carries its targets after the first. -/
def HyperRec.fan (n : Nat) (r : HyperRec) : Nat × Nat :=
  let t := fun (k : Nat) => nativeTarget n (r.later.getD k 0)
  (nativeWord (4 * 2 ^ 56) 1 (t 0) (t 1), t 2 * 2 ^ 54)

/-- The native words of records: each at its own index, the FANs added after the last. -/
def nativeWords (rs : List HyperRec) : List (Nat × Nat) :=
  let fans := rs.filter (·.wantsFan)
  rs.mapIdx (fun k r => r.native rs.length
      (if r.wantsFan then some (rs.length + ((rs.take k).filter (·.wantsFan)).length) else none))
    ++ fans.map (HyperRec.fan rs.length)

/-! ### The checks of R68 -/

/-- VER, XCOUNT, NREAD, NWRITE and the reserved bits of a hyperblock's header. -/
def Hyper.headerOk (h : Hyper) : Bool :=
  let w := fun (k : Nat) => h.header.getD k 0
  decide (field (w 0) 60 4 = 1) && decide (field (w 0) 44 4 ≤ 8) && decide (field (w 0) 0 13 = 0) && decide (field (w 1) 40 2 = 0)
  && decide (field (w 2) 60 4 = 0) && decide (field (w 3) 60 4 = 0) && decide (field (w 4) 26 38 = 0)
  && decide (field (w 4) 13 13 ≤ 4096) && decide (field (w 4) 0 13 ≤ 4096)
  && [5, 6, 7].all (fun k => decide (w k = 0))

/-- NREAD and NWRITE name the READs and WRITEs present. -/
def Hyper.countOk (h : Hyper) : Bool :=
  let ops := h.recs.map (fun r => field r.word 56 8)
  let w4 := h.header.getD 4 0
  decide (field w4 13 13 = (ops.filter (fun o => o = 6)).length) && decide (field w4 0 13 = (ops.filter (fun o => o = 7)).length)

/-- The faults of one record of a hyperblock of `n` instructions, each by the detail that a native block would raise. A base word
whose target bits are not zero has no native counterpart: FIELD is the MODEL'S CHOICE (log 32). -/
def HyperRec.faults (n : Nat) (r : HyperRec) : List LoadFault :=
  let first := r.native n (if r.wantsFan then some 0 else none)
  (if field r.word 28 20 = 0 then [] else [.field]) ++ (if r.tgts.all (targetFieldOk n) then [] else [.target]) ++
  (if decide (field r.word 48 1 = 1) = r.isMovx then [] else [.extension]) ++ (if r.rest = 0 then [] else [.field]) ++
  (match decodeWord first.1 first.2 with
   | .ok _ => []
   | .error e => [e])

/-- Header word 0 of a native block of `count` words (R44), with the counts of READs and WRITEs given and the other fields of the
hyperblock's. -/
def Hyper.word0 (h : Hyper) (count reads writes : Nat) : Nat :=
  let w0 := h.header.getD 0 0
  2 ^ 60 + (count - 1) % 128 * 2 ^ 53 + field w0 44 4 * 2 ^ 49 + field w0 28 16 * 2 ^ 33 + reads % 128 * 2 ^ 26 + writes % 128 * 2 ^ 19
  + field w0 18 10 * 2 ^ 9 + field w0 15 3 * 2 ^ 6 + field w0 14 1 * 2 ^ 5 + field w0 13 1 * 2 ^ 4

/-- A hyperblock read as one block of any number of words, for the checks that do not look at its targets. -/
def Hyper.wide (maps : List (List Word)) (h : Hyper) : Block :=
  Block.withMaps maps (Block.readable
    { blk := h.blk, header := h.word0 1 0 0 :: (h.header.drop 1).take 3
      words := h.recs.map (fun r => r.native h.recs.length none), maps := [], va := 0, stale := false })

/-- The arcs of a record that reads as an instruction: its sound targets (R68). -/
def HyperRec.arcs (n k : Nat) (r : HyperRec) (i : Instr) : List Arc :=
  let later := match i with
    | .fan _ _ _ => true
    | _ => (i.fields?.bind (·.t1)).isSome
  (r.tgts.mapIdx (fun j t => (j, t))).filterMap (fun x =>
    if field x.2 15 1 = 1 && targetFieldOk n x.2 && (if x.1 = 0 then (i.fields?.bind (·.t0)).isSome else later) then
      some { src := k, dst := field x.2 3 12, slot := Slot.ofCode (field x.2 1 2), first := x.1 = 0 }
    else none)

/-- A hyperblock as its instructions and arcs. -/
def Hyper.wired (h : Hyper) (wide : Block) : Wired :=
  { instrs := wide.instrs, size := h.recs.length
    arcs := wide.instrs.flatMap (fun x => match h.recs[x.1]? with
      | some r => r.arcs h.recs.length x.1 x.2
      | none => []) }

/-- The faults of a hyperblock in its own layout: what R60 checks in a native block, the native limits and places apart. -/
def Hyper.faults (env : LoadEnv) (maps : List (List Word)) (h : Hyper) : List LoadFault :=
  let wide := h.wide maps
  checked h.headerOk .header ++ checked h.countOk .count ++ h.recs.flatMap (HyperRec.faults h.recs.length) ++
  wide.sharedFaults (h.wired wide) env

/-! ### The native blocks of a hyperblock (R67) -/

/-- The native block of a hyperblock with the words given, each with its record: header words 0 and 1 as R44 and R46 lay them out, its
exits below XCOUNT those of the hyperblock and the others as they stand. -/
def Hyper.asOne (h : Hyper) (ws : List ((Nat × Nat) × Option Nat)) : Config.VpbBlock :=
  let count := fun (op : Nat) => (ws.filter (fun w => field w.1.1 56 8 = op)).length
  { word0 := h.word0 ws.length (count 6) (count 7), set := h.header.getD 1 0 / 2 ^ 40
    exits := (List.range 8).map (fun xn =>
      if xn < field (h.header.getD 0 0) 44 4 then .hyper xn else .bits (exitOffset h.header xn % 2 ^ 20).toNat)
    words := ws.map (·.1), origins := ws.map (·.2) }

/-- The native words of a hyperblock, each with the record that it is made of; none for an added FAN. -/
def Hyper.words (h : Hyper) : List ((Nat × Nat) × Option Nat) :=
  (nativeWords h.recs).mapIdx (fun k w => (w, if k < h.recs.length then some k else none))

/-- A target field with its index moved. -/
def movedTarget (place : Nat → Nat) (t : Nat) : Nat := if t < 512 then 0 else 512 + place (field t 2 7) % 128 * 4 + t % 4

/-- A native word with the indices in its targets moved (R47, R301). -/
def movedWord (place : Nat → Nat) (w : Nat × Nat) : Nat × Nat :=
  (nativeWord w.1 (field w.1 48 1) (movedTarget place (field w.1 38 10)) (movedTarget place (field w.1 28 10)),
   if field w.1 56 8 = 4 then movedTarget place (field w.2 54 10) * 2 ^ 54 + movedTarget place (field w.2 44 10) * 2 ^ 44 else w.2)

/-- The words of a hyperblock in another order: those of the memory class first, then those of the live-value class, so that no unit
has more than its share (R25). -/
def Hyper.spread (h : Hyper) : List ((Nat × Nat) × Option Nat) :=
  let ws := h.words
  let at_ := fun (k : Nat) => field (ws.getD k ((0, 0), none)).1.1 56 8
  let ks := List.range ws.length
  let order := ks.filter (fun k => opMemory (at_ k)) ++ ks.filter (fun k => opLive (at_ k))
    ++ ks.filter (fun k => !opMemory (at_ k) && !opLive (at_ k))
  order.filterMap (fun k => (ws[k]?).map (fun w => (movedWord (fun i => order.idxOf i) w.1, w.2)))

/-- A native block as the checks of R60 see it, its exits put to its own beginning. -/
def nativeBlock (maps : List (List Word)) (b : Config.VpbBlock) : Block :=
  Block.withMaps maps { blk := 0, header := [b.word0, b.set * 2 ^ 40, 0, 0], words := b.words, maps := [], va := 0, stale := false }

/-- Whether a native block meets the limits of R2 and R25 and every check of R60 but those of where its exits lead and of its maps. -/
def nativeOk (env : LoadEnv) (b : Config.VpbBlock) : Bool :=
  let n := nativeBlock [] b
  decide (1 ≤ b.words.length) && decide (icount b.word0 = b.words.length)
  && (n.wordFaults ++ n.ownFaults { env with starts := [0] }).isEmpty

/-- The live-value slots that an instruction names (R307, R308, R314, R154). -/
def Instr.liveSlots : Instr → List Nat
  | .read _ lk => [lk.toNat]
  | .write _ lk => [lk.toNat]
  | .call _ lk _ _ => [lk.toNat]
  | .reduce _ _ _ _ ls => [ls.toNat]
  | .scan _ _ _ _ ls _ => [ls.toNat]
  | .bcast _ ls => [ls.toNat]
  | _ => []

/-- The live-value slots that none of the hyperblocks of a run names, below the count that its kernel declares. -/
def spareSlots (declared : Nat) (hs : List Hyper) : List Nat :=
  let named := hs.flatMap (fun h => (h.wide []).instrs.flatMap (fun x => Instr.liveSlots x.2))
  (List.range declared).filter (fun k => !named.contains k)

/-- Whether a word added by the loader carries values and order alone, within a block or to the next: MOV, FAN, NULL, READ, WRITE,
STEER or EXIT. A READ or WRITE names a slot that the program leaves alone. -/
def mayAdd (spare : List Nat) (w : Nat × Nat) : Bool :=
  [0x01, 0x04, 0x05, 0x06, 0x07, 0x09, 0x0D].contains (field w.1 56 8)
  && (!opLive (field w.1 56 8) || spare.contains (w.1 % 64))

/-- Whether a native word is the instruction of a record: all its fields but the targets. -/
def HyperRec.madeInto (r : HyperRec) (w : Nat × Nat) : Bool :=
  decide (w.1 / 2 ^ 49 = r.word / 2 ^ 49) && decide (w.1 % 2 ^ 28 = r.word % 2 ^ 28) && (r.isFan || decide (w.2 = r.ext))

/-- What a token sent along arcs of a block reaches, through the MOVs and FANs that the loader added. -/
def carriedTo (b : Block) (g : Wired) (added : Nat → Bool) : Nat → List Arc → List Arc
  | 0, as => as
  | fuel + 1, as =>
    as ++ carriedTo b g added fuel (g.arcs.filter (fun x =>
      added x.src && decide (field (b.words.getD x.src (0, 0)).1 56 8 = 1 ∨ field (b.words.getD x.src (0, 0)).1 56 8 = 4)
      && as.any (fun a => a.dst = x.src && decide (a.slot = .a))))

/-- Where the instruction of a record stands in native blocks. -/
def standsAt (bs : List Config.VpbBlock) (k : Nat) : Option (Nat × Nat) :=
  (bs.findIdx? (fun b => b.origins.contains (some k))).bind (fun j =>
    ((bs[j]?).map (fun b => (j, b.origins.idxOf (some k)))))

/-- Whether an arc of a hyperblock stands in the native blocks: from producer to consumer in one of them, or through a live-value slot
that the producer's block writes and the consumer's reads. -/
def arcStands (bs : List Config.VpbBlock) (maps : List (List Word)) (fan : Bool) (a : Arc) : Bool :=
  match standsAt bs a.src, standsAt bs a.dst with
  | some p, some c =>
    let at_ := fun (j : Nat) => ((bs[j]?).map (nativeBlock maps)).getD (nativeBlock maps ⟨0, 0, [], [], []⟩)
    let added := fun (j k : Nat) => decide (((bs[j]?).bind (·.origins[k]?)) = some none)
    let sent := fun (j k : Nat) (any first : Bool) =>
      carriedTo (at_ j) (at_ j).wired (added j) 128 ((at_ j).wired.arcs.filter (fun x => x.src = k && (any || x.first == first)))
    let out := sent p.1 p.2 fan a.first
    let ends := fun (as : List Arc) => as.any (fun x => x.dst = c.2 && decide (x.slot = a.slot))
    let slots := fun (j : Nat) (op : Nat) => ((at_ j).words.mapIdx (fun k w => (k, w.1))).filterMap (fun w =>
      if added j w.1 && field w.2 56 8 = op then some (w.1, w.2 % 64) else none)
    if p.1 = c.1 then ends out
    else (slots p.1 7).any (fun w => out.any (fun x => x.dst = w.1 && decide (x.slot = .a)) &&
      (slots c.1 6).any (fun r => r.2 = w.2 && ends (sent c.1 r.1 true true)))
  | _, _ => false

/-- Whether native blocks are a split of a hyperblock without faults (R67): every record's instruction stands in them once, with its
own fields and exits; what is added only carries values, order and control; every target of the hyperblock stands in them; no loop is
cut; and exits lead to the blocks or as the hyperblock's own. `spare` are the live-value slots that may carry values between them. -/
def Hyper.splitInto (h : Hyper) (spare : List Nat) (bs : List Config.VpbBlock) : Bool :=
  let maps : List (List Word) := []
  let words := bs.flatMap (fun b => b.words.zip b.origins)
  let made := words.filterMap (·.2)
  let g := h.wired (h.wide maps)
  let loop := g.recurrence
  let x := field (h.header.getD 0 0) 44 4
  bs.all (fun b => decide (b.words.length = b.origins.length) && decide (b.exits.length = 8)
    && (b.exits.mapIdx (fun k e => (k, e))).all (fun e => match e.2 with
      | .own k => decide (k < bs.length ∧ e.1 < field b.word0 49 4)
      | .hyper xn => decide (xn < x ∧ e.1 < field b.word0 49 4)
      | .bits n => decide (n = 0 ∧ field b.word0 49 4 ≤ e.1))
    && ((nativeBlock maps b).instrs).all (fun i => decide (b.origins[i.1]? = some none) ||
      (Instr.exits i.2).all (fun xn => decide (b.exits[xn]? = some (.hyper xn)))))
  && decide (made.length = h.recs.length) && (List.range h.recs.length).all (fun k => made.contains k)
  && words.all (fun w => match w.2 with
    | none => mayAdd spare w.1
    | some k => (h.recs[k]?).any (fun r => r.madeInto w.1))
  && g.arcs.all (fun a => arcStands bs maps ((h.recs[a.src]?).any (·.isFan)) a
    && (!(loop.contains a.src && loop.contains a.dst) || decide ((standsAt bs a.src).map (·.1) = (standsAt bs a.dst).map (·.1))))

/-- A block of one NULL in place of a hyperblock whose own faults fail the load. -/
def Hyper.standIn (h : Hyper) : Config.VpbBlock :=
  { word0 := 2 ^ 60 + field (h.header.getD 0 0) 28 16 * 2 ^ 33, set := 0, exits := List.replicate 8 (.bits 0)
    words := [(5 * 2 ^ 56, 0)], origins := [none] }

/-- The native blocks of a hyperblock (R67): the one that its records make as they stand, or in the order of `Hyper.spread`, where
that one meets every limit; else what the loader's firmware splits it into. R67 gives no rule of the split, so it is the opaque
`Config.vpbSplit`, taken where it is a split into blocks that meet every limit; else there are none (log 32). The maps have no part in
it: what is wrong with them is found in the hyperblock. -/
def Hyper.blocks (firmware sec : List Byte) (env : LoadEnv) (spare : List Nat) (h : Hyper) : List Config.VpbBlock :=
  let ok := nativeOk { env with mapCount := 4096 }
  if !(h.faults { env with mapCount := 4096 } []).isEmpty then [h.standIn]
  else if ok (h.asOne h.words) then [h.asOne h.words]
  else if ok (h.asOne h.spread) then [h.asOne h.spread]
  else
    let split := Config.vpbSplit firmware sec h.blk
    if h.splitInto spare split && split.all ok then split else []

/-- A hyperblock with its native blocks. -/
abbrev HyperParts := Hyper × List Config.VpbBlock

/-- The bytes of a native block image without its padding. -/
def nativeBytes (header : List Nat) (ws : List (Nat × Nat)) : List Byte :=
  header.flatMap (leBytes 8) ++ ws.flatMap (fun w => leBytes 8 w.1 ++ (if wordHasExt w.1 then leBytes 8 w.2 else []))

/-- The length of a native block, up to the next block's beginning, in 64-byte units. -/
def blockUnits (b : Config.VpbBlock) : Nat := up64 (nativeBytes [0, 0, 0, 0] b.words).length / 64

/-- Where native blocks that follow one another begin. -/
def unitsFrom : Nat → List Config.VpbBlock → List Nat
  | _, [] => []
  | u, b :: bs => u :: unitsFrom (u + blockUnits b) bs

/-- RANK of a hyperblock. -/
def Hyper.rank (h : Hyper) : Nat := field (h.header.getD 0 0) 28 16

/-- A run with the ranks of its native blocks. Where a hyperblock of it is split, all are numbered anew in the order of the
hyperblocks' ranks, the blocks of one in their own order (log 32). -/
def ranked (hs : List HyperParts) : List HyperParts :=
  if hs.all (fun h => decide (h.2.length ≤ 1)) then hs
  else hs.map (fun h =>
    let before := ((hs.filter (fun x => x.1.rank < h.1.rank)).map (·.2.length)).sum
    (h.1, h.2.mapIdx (fun k b => { b with word0 := b.word0 / 2 ^ 49 * 2 ^ 49 + (before + k) % 2 ^ 16 * 2 ^ 33 + b.word0 % 2 ^ 33 })))

/-- Where the native blocks of a run begin, in 64-byte units, each with the beginning of its hyperblock. -/
def placeRun : Nat → List HyperParts → List (Nat × Nat)
  | _, [] => []
  | u, h :: hs => (h.1.blk, u) :: placeRun (u + (h.2.map blockUnits).foldl (· + ·) 0) hs

/-- An exit of a native block at unit `own`, one of those at `units` that its hyperblock has become; with EXIT_TABLE where it is no
beginning of a block. -/
def exitBits (places : List (Nat × Nat)) (h : Hyper) (units : List Nat) (own : Nat) (x : Config.VpbExit) : Nat × List LoadFault :=
  let reach := fun (u : Option Nat) => match u with
    | some u => ((((u : Int) - (own : Int)) % 2 ^ 20).toNat, [])
    | none => (0, [LoadFault.exitTable])
  match x with
  | .bits n => (n, [])
  | .own k => reach units[k]?
  | .hyper xn => reach ((places.find? (fun p => decide ((p.1 : Int) = (h.blk : Int) + exitOffset h.header xn))).map (·.2))

/-- Bytes filled up to a multiple of 64. -/
def pad64 (bs : List Byte) : List Byte := bs ++ List.replicate (up64 bs.length - bs.length) 0

/-- Faults with the native block, by its unit, that they keep from being configured; unit 0 holds none, and stands for a section as a
whole. -/
abbrev FaultsAt := List (Nat × LoadFault)

/-- The faults of the native block at a unit. -/
def faultsOf (unit : Nat) (fs : List LoadFault) : FaultsAt := fs.map (fun x => (unit, x))

/-- A native block placed at a unit, with the faults of its exits (R44, R45). -/
def placeBlock (places : List (Nat × Nat)) (h : Hyper) (units : List Nat) (b : Config.VpbBlock) (own : Nat) :
    FaultsAt × List Byte :=
  let xs := b.exits.map (exitBits places h units own)
  let x := fun (k : Nat) => (xs.getD k (0, [])).1
  (faultsOf own (xs.flatMap (·.2)), pad64 (nativeBytes [b.word0, b.set * 2 ^ 40 + x 0 * 2 ^ 20 + x 1, x 2 * 2 ^ 40 + x 3 * 2 ^ 20 + x 4,
    x 5 * 2 ^ 40 + x 6 * 2 ^ 20 + x 7] b.words))

/-- The native blocks of a run placed from a unit on, with the faults of their hyperblocks and of their own. -/
def nativeRun (u : Nat) (own : Hyper → List LoadFault) (hs : List HyperParts) : FaultsAt × List Byte :=
  let places := placeRun u hs
  let parts := hs.flatMap (fun h =>
    let units := unitsFrom (((places.find? (fun p => p.1 = h.1.blk)).map (·.2)).getD u) h.2
    (h.2.zip units).map (fun b =>
      let placed := placeBlock places h.1 units b.1 b.2
      (faultsOf b.2 (own h.1) ++ placed.1, placed.2)))
  (parts.flatMap (·.1), parts.flatMap (·.2))

/-! ### A section -/

/-- A record of the table before the hyperblocks: its bytes, and the run of hyperblocks that its ENTRY begins, if it has one, with the
stage and the stream records of its graph, the faults of its own that re-basing it would hide, and the live-value slots that its
kernel declares. -/
structure VpbRecord where
  bytes : List Byte
  run : Option (List Hyper)
  kernel : Bool
  stage : Nat
  edges : Option (List EdgeRec)
  own : List LoadFault
  slots : Nat

/-- The run of `n` hyperblocks that an ENTRY begins; one that is no start of a hyperblock begins none (R68). -/
def hyperRun (sec : List Byte) (n entry : Nat) : Option (List Hyper) :=
  if entryOk (imagesFrom sec) entry then parseHypers sec n entry else some []

/-- The records of the stages of a graph from number `j` on, each with its run; none where a run leaves the section. -/
def vpbStages (sec : List Byte) (slots : Nat) (edges : List EdgeRec) : Nat → List (List Byte) → Option (List VpbRecord)
  | _, [] => some []
  | j, st :: rest =>
    match hyperRun sec (natAt st 14 2) (natAt st 8 6), vpbStages sec slots edges (j + 1) rest with
    | some hs, some more =>
      some ({ bytes := st, run := some hs, kernel := false, stage := j, edges := some edges, own := [], slots := slots } :: more)
    | _, _ => none

/-- The records of a section from the kernel record at hand on; none where they or their runs leave the section. -/
def vpbRecords (sec : List Byte) : Nat → List Byte → Option (List VpbRecord)
  | 0, _ => some []
  | n + 1, bs =>
    if bs.length < 32 then none
    else
      let k := KernelFields.ofBytes bs
      let bare := fun (kernel : Bool) (bytes : List Byte) =>
        ({ bytes := bytes, run := none, kernel := kernel, stage := 0, edges := none, own := [], slots := k.slots } : VpbRecord)
      if k.kind ≠ 1 then
        (match hyperRun sec k.nblock k.entry, vpbRecords sec n (bs.drop 32) with
         | some hs, some more => some ({ bare true (bs.take 32) with run := some hs } :: more)
         | _, _ => none)
      else
        let stages := (List.range k.nblock).map (fun j => (bs.drop (32 * (j + 1))).take 32)
        if bs.length < 32 * (k.nblock + 1) then none
        else
          match parseEdges bs.length (bs.drop (32 * (k.nblock + 1))) with
          | none => none
          | some (edges, rest) =>
            (vpbStages sec k.slots (edges.map (fun e => EdgeRec.ofList (edgeFields e))) 0 stages).bind (fun sts =>
              (vpbRecords sec n rest).map (fun more =>
                { bare true (bs.take 32) with
                  own := checked ((stages.head?.map (fun st => natAt st 8 6)) = some k.entry) .kernel } :: sts
                  ++ (edges ++ [List.replicate 32 0]).map (bare false) ++ more))

/-- A record with its ENTRY re-based and, where it begins a run, with the number of native blocks that the run has become. An ENTRY
that begins no hyperblock stays. -/
def VpbRecord.rebased (r : VpbRecord) (unit n : Nat) : List Byte :=
  if !r.kernel then r.bytes.take 8 ++ leBytes 6 (64 * unit) ++ leBytes 2 n ++ r.bytes.drop 16
  else if r.run.isNone then leBytes 8 (64 * unit) ++ r.bytes.drop 8
  else leBytes 8 (64 * unit) ++ (r.bytes.drop 8).take 2 ++ leBytes 2 n ++ r.bytes.drop 12

/-- What the checks of the hyperblocks of a record's run draw from their surroundings. -/
def VpbRecord.env (r : VpbRecord) (mapCount : Nat) : LoadEnv :=
  { starts := (r.run.getD []).map (·.blk), mapCount := mapCount, stage := r.stage, edges := r.edges }

/-- The faults of a record and its run as a whole, in the layout of R68: its own, and a rank that two hyperblocks share. -/
def VpbRecord.faults (r : VpbRecord) : List LoadFault := r.own ++ checked (distinct ((r.run.getD []).map (·.rank))) .rank

/-- The faults, the records and the native blocks of a section, from a unit on; the faults of a hyperblock are those of every block
that it becomes. A graph's own record takes the ENTRY of its first stage. A hyperblock that becomes no native block breaks their
limits: PLACEMENT, the MODEL'S CHOICE (log 32). -/
def nativeParts (firmware sec : List Byte) (mapCount : Nat) (maps : List (List Word)) :
    Nat → List VpbRecord → FaultsAt × List Byte × List Byte
  | _, [] => ([], [], [])
  | u, r :: rest =>
    match r.run with
    | none =>
      let more := nativeParts firmware sec mapCount maps u rest
      (more.1, (if r.kernel then r.rebased u 0 else r.bytes) ++ more.2.1, more.2.2)
    | some hs =>
      let made := hs.map (fun h => (h, h.blocks firmware sec (r.env mapCount) (spareSlots r.slots hs)))
      let placed := ranked (made.map (fun p => if p.2.isEmpty then (p.1, [p.1.standIn]) else p))
      let whole := fun (h : Hyper) => made.all (fun p => p.1 != h || !p.2.isEmpty)
      let run := nativeRun u (fun h => h.faults (r.env mapCount) maps ++ checked (whole h) .placement) placed
      let more := nativeParts firmware sec mapCount maps (u + run.2.length / 64) rest
      (run.1 ++ more.1, r.rebased u (placed.map (·.2.length)).sum ++ more.2.1, run.2 ++ more.2.2)

/-- A VPB section as the loader takes it (R67, R68): the faults of its own layout, and its native image, which is checked as such. -/
def vpbNative (firmware sec : List Byte) (mapCount : Nat) (maps : List (List Word)) : FaultsAt × List Byte :=
  if sec.length < 64 || natAt sec 0 4 = 0 || 4096 < natAt sec 0 4 || natAt sec 4 60 ≠ 0 then ([(0, .imageFormat)], [])
  else
    match vpbRecords sec (natAt sec 0 4) (sec.drop 64) with
    | none => ([(0, .imageFormat)], [])
    | some rs =>
      let parts := nativeParts firmware sec mapCount maps (up64 (64 + 32 * rs.length) / 64) rs
      (faultsOf 0 (rs.flatMap (·.faults)) ++ parts.1, pad64 (sec.take 64 ++ parts.2.1) ++ parts.2.2)

end Sys2Proof.Machine
end

