-- ==== Sys2Proof/Machine/Load.lean ====
section
/-! DEFINITION. Configuration loads (spec/02 R59, R60, spec/07 R204, spec/09 R269) and the object register of a context
(spec/12 R365). -/

namespace Sys2Proof.Machine

/-! ### Reading a block for its configuration -/

/-- What a configuration load ends with: a wait for a page that migrates, a cause with its TINFO, or the block. -/
inductive Loaded
  | wait (s : State)
  | bad (s : State) (cause : Nat) (info : Option Nat)
  | ok (s : State) (b : Block)

/-- Bytes of a packet's image at an offset in it, as a block load finds memory: of the translation of a VPB image (`State.asNative`), or
of the object in memory (R365). -/
def State.imageBytes (look : List Host.Cell → List Host.Cell) (s : State) (ctx : Nat) (p : Packet) (off n : Nat) :
    Reach (List Byte) × State :=
  match p.native with
  | some img => (.ok ((img.drop off).take n), s)
  | none =>
    match State.readSpansBy look s ctx .fetch false (lineSpans (p.objVa + p.image.1 + off) n) with
    | (r, _, t) => (r, t)

/-- A packet with its image as the loader finds it in the object, by a read of kind fetch (R365, R380): a NATIVE section stands there as
it is, and a VPB section is read and translated anew (R67), with the faults of its blocks. -/
def State.asNative (look : List Host.Cell → List Host.Cell) (s : State) (ctx : Nat) (p : Packet) : Reach (Packet × FaultsAt) × State :=
  match p.native with
  | none => (.ok (p, []), s)
  | some _ =>
    match State.readSpansBy look s ctx .fetch false (lineSpans (p.objVa + p.image.1) p.image.2) with
    | (.ok bs, _, t) =>
      let made := vpbNative s.firmware.running bs p.mapCount []
      (.ok ({ p with native := some made.2 }, made.1), t)
    | (.bad c a, _, t) => (.bad c a, t)
    | (.park m, _, t) => (.park m, t)

/-- The faults that a translation holds against a block; a section that is none fails every one. -/
def faultsAt (blk : Nat) (fs : FaultsAt) : List LoadFault :=
  (fs.filter (fun x => decide (x.1 = blk) || decide (x.2 = .imageFormat))).map (·.2)

/-- `n` instruction words of a block from an offset, each with its extension word. -/
def State.fetchWords (look : List Host.Cell → List Host.Cell) (s : State) (ctx : Nat) (p : Packet) : Nat → Nat → Reach (List (Nat × Nat)) × State
  | 0, _ => (.ok [], s)
  | n + 1, off =>
    match State.imageBytes look s ctx p off 8 with
    | (.bad c a, t) => (.bad c a, t)
    | (.park m, t) => (.park m, t)
    | (.ok bs, t) =>
      let w := leNat bs
      let x := wordHasExt w
      match (if x then State.imageBytes look t ctx p (off + 8) 8 else (.ok [], t)) with
      | (.bad c a, t) => (.bad c a, t)
      | (.park m, t) => (.park m, t)
      | (.ok es, t) =>
        match State.fetchWords look t ctx p n (off + if x then 16 else 8) with
        | (.ok ws, u) => (.ok ((w, leNat es) :: ws), u)
        | r => r

/-- The tensor maps of the numbers given, from their copies in memory (R204, R365). -/
def State.fetchMaps (s : State) (ctx : Nat) (p : Packet) : List Nat → Reach (List (Nat × List Word)) × State
  | [] => (.ok [], s)
  | n :: ns =>
    match s.readVa ctx (p.mapBase + 64 * n) 64 .fetch false with
    | (.bad c a, t) => (.bad c a, t)
    | (.park m, t) => (.park m, t)
    | (.ok bs, t) =>
      match State.fetchMaps t ctx p ns with
      | (.ok ms, u) => (.ok ((n, leWords 8 bs) :: ms), u)
      | r => r

/-- Memory with a packet's image as its acquire found it. -/
def Packet.sight (p : Packet) (m : List Host.Cell) : List Host.Cell := withCells p.old.1 p.old.2 m

/-- What a block load finds (R380): the image as the packet's acquire found it, or, where it has been patched since, as it stands
now; which of the two is free at each load. MODEL'S CHOICE (log 77): the stores that one commit publishes are one patch, as the spec
does not say what holds the stores of a patch together. -/
def State.loadSight (s : State) (p : Packet) : (List Host.Cell → List Host.Cell) × State :=
  if cellsIn p.old.1 s.mem = p.old.2 then (id, s)
  else
    let pick := s.choose 2
    (if pick.1 = 0 then p.sight else id, pick.2)

/-- A block of a packet's image at an offset, without its maps, as a reader finds the image. -/
def State.blockAt (look : List Host.Cell → List Host.Cell) (s : State) (ctx : Nat) (p : Packet) (off : Nat) : Reach Block :=
  match State.imageBytes look s ctx p off 32 with
  | (.bad c a, _) => .bad c a
  | (.park m, _) => .park m
  | (.ok hs, t) =>
    let header := (List.range 4).map (fun k => natAt hs (8 * k) 8)
    match State.fetchWords look t ctx p (icount (header.getD 0 0)) (off + 32) with
    | (.ok ws, _) => .ok { blk := off / 64, header := header, words := ws, maps := [], va := p.blockVa (off / 64), stale := false }
    | (.bad c a, _) => .bad c a
    | (.park m, _) => .park m

/-- The bytes of a block image (R42, R43). -/
def Block.bytes (b : Block) : Nat := 32 + (b.words.map (fun w => if wordHasExt w.1 then 16 else 8)).foldl (· + ·) 0

/-- The bytes of a packet's native image. -/
def Packet.imageEnd (p : Packet) : Nat :=
  match p.native with
  | some img => img.length
  | none => p.image.2

/-- The blocks of a run from an offset on, as many as are known of it, each after the end of the one before (R63); a block that runs
past the image ends the run. Where a page of the image cannot be read the known blocks stand: MODEL'S CHOICE (log 77). -/
def State.walkRun (look : List Host.Cell → List Host.Cell) (s : State) (ctx : Nat) (p : Packet) : List BlockInfo → Nat → List BlockInfo
  | [], _ => []
  | k :: ks, off =>
    match State.blockAt look s ctx p off with
    | .ok b => if p.imageEnd < off + b.bytes then [] else b.info :: State.walkRun look s ctx p ks (up64 (off + b.bytes))
    | _ => k :: ks

/-- A run of a packet's image as a reader finds it. -/
def State.runNow (look : List Host.Cell → List Host.Cell) (s : State) (ctx : Nat) (p : Packet) (run : List BlockInfo) : List BlockInfo :=
  match run with
  | [] => []
  | b :: _ =>
    match State.asNative look s ctx p with
    | (.ok q, t) => State.walkRun look t ctx q.1 run (64 * b.blk)
    | _ => run

/-- The starts of the blocks of a run, as a reader finds the packet's image: those of the image that its acquire found, and where the
image has been patched since they are found anew (R63, R314, R327, R380). -/
def State.runStarts (look : List Host.Cell → List Host.Cell) (s : State) (ctx : Nat) (p : Packet) (run : List BlockInfo) : List Nat :=
  (if cellsIn p.old.1 (look s.mem) = p.old.2 then run else State.runNow look s ctx p run).map (·.blk)

/-- A block of a packet read at one point of the commit order, and checked, as it is streamed into a configuration slot (R59, R60,
R204, R380). -/
def State.loadBlock (s : State) (ctx : Nat) (p : Packet) (stage blk : Nat) : Loaded :=
  let eye := s.loadSight p
  match State.asNative eye.1 eye.2 ctx p with
  | (.bad c a, t) => .bad t c (some a)
  | (.park _, t) => .wait t
  | (.ok q, t) =>
    let p := q.1
    match State.imageBytes eye.1 t ctx p (64 * blk) 32 with
    | (.bad c a, t) => .bad t c (some a)
    | (.park _, t) => .wait t
    | (.ok hs, t) =>
      let header := (List.range 4).map (fun k => natAt hs (8 * k) 8)
      match State.fetchWords eye.1 t ctx p (icount (header.getD 0 0)) (64 * blk + 32) with
      | (.bad c a, t) => .bad t c (some a)
      | (.park _, t) => .wait t
      | (.ok ws, t) =>
        let b : Block := { blk := blk, header := header, words := ws, maps := [], va := p.blockVa blk, stale := false }
        match t.fetchMaps ctx p (b.mapNumbers.filter (fun n => n < p.mapCount)) with
        | (.bad c a, t) => .bad t c (some a)
        | (.park _, t) => .wait t
        | (.ok ms, t) =>
          let b := { b with maps := ms }
          let env : LoadEnv :=
            { starts := State.runStarts eye.1 t ctx p (p.blocksWith blk), mapCount := p.mapCount, stage := stage
              edges := if p.type = 2 then some (p.edges.map EdgeRec.ofList) else none }
          match leastDetail (faultsAt blk q.2 ++ b.faults env) with
          | some d => .bad t (0x040 + d) none
          | none => .ok t b

/-! ### CONFIGURATION_LOAD_DONE -/

/-- The threads of an admission set that are still pending are created, so that they can trap (R59, R261). -/
def State.createAll (s : State) (core ctx blk slots : Nat) (arg : Word) : List Nat → Room
  | [] => .ok s
  | t :: ts =>
    let known := match s.lane? core ctx with
      | some l => (l.thread? t).isSome
      | none => true
    if known then State.createAll s core ctx blk slots arg ts
    else
      match s.createThread core ctx t slots [some arg] (.waiting blk false) with
      | .ok u => State.createAll u core ctx blk slots arg ts
      | r => r

/-- ARG of a LAUNCH or GRAPH packet (R373). -/
def Packet.arg (p : Packet) : Word := p.words.getD 5 0

/-- The pass of a lane that waits for its configuration. -/
def Lane.loading? (l : Lane) : Option Pass := l.passes.find? (fun p => p.state = .loading)

/-- A pass that is gone keeps neither the solo ticket nor a place in the queue for it (R286). -/
def State.forgetPass (s : State) (q : PassRef) : State :=
  { s with
    soloHolder := if s.soloHolder = some q then none else s.soloHolder
    soloQueue := s.soloQueue.filter (fun x => x ≠ q) }

/-- The chosen threads of a pass whose block failed trap at the block's entry, and the pass is not run (R59, R269). -/
def State.failLoad (s : State) (core ctx : Nat) (k : Packet) (p : Pass) (cause : Nat) (info : Option Nat) : State :=
  match s.createAll core ctx p.blk k.slots k.arg p.admission with
  | .wait t => s.onlyMigrations t
  | .full t a => t.failPacket ctx cLvsExhausted a
  | .lost t => t
  | .ok t =>
    let t := (t.updLane core ctx (fun l => { l with passes := l.passes.filter (fun q => q.id ≠ p.id) })).forgetPass
      { core := core, ctx := ctx, pass := p.id }
    p.admission.foldl (fun t i => t.takeTrap core ctx i p.blk cause info) t

/-- CONFIGURATION_LOAD_DONE (R59): the block stands in the slot of the pass that waits for it, which then admits. -/
def execConfigurationLoadDone (core ctx : Nat) (s : State) : Host.Outcome State Fault Refusal :=
  .next (match s.lane? core ctx, (s.ctx? ctx).bind (·.kernelPacket?) with
    | some l, some k =>
      (match l.loading? with
       | none => s
       | some p =>
         if l.frozen then s
         else
           match s.loadBlock ctx k l.stage p.blk with
           | .wait t => s.onlyMigrations t
           | .bad t cause info => (t.failLoad core ctx k p cause info).active core ctx
           | .ok t b => (t.updLane core ctx (fun l => { l.updPass p.id (fun p => { p with state := .streaming }) with
               slots := listSet l.slots p.slot (fun _ => { block := some b }) })).active core ctx)
    | _, _ => s)

/-! ### Code objects (R365) -/

/-- What an object load ends with. -/
inductive ObjRead
  | wait (s : State)
  | bad (s : State) (cause : Nat)
  | ok (s : State) (o : BoundObject)

/-- A copy of a section into the context's memory, an engine commit under the grants that the load holds; the address after it. -/
def State.copySection (s : State) (ctx src dst n : Nat) : Reach Nat × State :=
  match s.readVa ctx src n .load false with
  | (.bad c a, t) => (.bad c a, t)
  | (.park m, t) => (.park m, t)
  | (.ok bs, t) =>
    match t.writeChecked ctx dst bs with
    | (.bad c a, t) => (.bad c a, t)
    | (.park m, t) => (.park m, t)
    | (.ok ps, t) => (.ok (up64 (dst + n)), t.commitPieces ps)

/-- Sections copied to consecutive addresses that are multiples of 64. -/
def State.copySections (s : State) (ctx objVa : Nat) : Nat → List Section → Reach Nat × State
  | dst, [] => (.ok dst, s)
  | dst, sec :: rest =>
    match s.copySection ctx (objVa + sec.offset) dst sec.size with
    | (.ok d, t) => State.copySections t ctx objVa d rest
    | r => r

/-- The sizes of sections, each rounded up to 64 bytes. -/
def sectionsSize (secs : List Section) : Nat := (secs.map (fun x => up64 x.size)).foldl (· + ·) 0

/-- Whether the copies of an object may be made (R162, R163): the load holds the grants of the dies that home every line they
will write. An area that faults is left to the copies to find. -/
def State.mayCopyObject (s : State) (ctx dst n : Nat) : Bool × State :=
  match s.writeVa ctx dst (List.replicate n 0) .store false with
  | (.ok ps, _, t) => t.mayCommit (.strip ctx 16) ps
  | (.park _, _, t) => (false, t.dropRequests (.engine (.strip ctx 16)))
  | (.bad _ _, _, t) => (true, t)

/-- The bytes of each section given, in turn. -/
def State.readSections (s : State) (ctx objVa : Nat) : List Section → Reach (List (List Byte)) × State
  | [] => (.ok [], s)
  | sec :: rest =>
    match s.readVa ctx (objVa + sec.offset) sec.size .load false with
    | (.bad c a, t) => (.bad c a, t)
    | (.park m, t) => (.park m, t)
    | (.ok bs, t) =>
      match State.readSections t ctx objVa rest with
      | (.ok bss, u) => (.ok (bs :: bss), u)
      | r => r

/-- The 64-byte maps of TMAPS sections. -/
def mapsOf (secs : List (List Byte)) : List (List Word) :=
  secs.flatMap (fun bs => (List.range (bs.length / 64)).map (fun n => leWords 8 ((bs.drop (64 * n)).take 64)))

/-- What remains of a failure found with details (R60): a CONFIG-class cause. -/
def configCause (d : Nat) : Nat := 0x040 + d

/-- The checks of R63-R68 on the selected image and its companions: the object as it will be bound, or the lowest detail. The images
that R65 does not select are not checked: MODEL'S CHOICE (log 62), the spec does not say whether they are. -/
def checkImage (firmware : List Byte) (o : BoundObject) (number : Nat) (vpb : Bool) (img : List Byte) (hash errata : List Byte)
    (maps : List (List Word)) : Except Nat BoundObject :=
  let native : FaultsAt × List Byte := if vpb then vpbNative firmware img maps.length maps else ([], img)
  let own : List LoadFault := (if sha384 img = hash then [] else [.imageHash]) ++
    (if errataOk errata then [] else [.imageFormat]) ++ (if dependsOnErratum errata number then [.erratum] else [])
  let p := parseNative native.2 maps
  match leastDetail (own ++ native.1.map (·.2) ++ p.faults) with
  | some d => .error d
  | none => .ok { o with native := if vpb then some native.2 else none, kernels := p.kernels, runs := p.runs, hashEntry := hash }

/-- Steps 1 and 2 of an object load (R365): the container is read and checked, its image, hashes, errata and maps are read
and checked, and DATA and TMAPS are copied. -/
def State.loadObject (s : State) (ctx handle : Nat) (page : CtxPage) : ObjRead :=
  match s.readVa ctx page.objVa 64 .load false with
  | (.bad c _, t) => .bad t c
  | (.park _, t) => .wait t
  | (.ok h, t) =>
    if !containerHeadOk h then .bad t (configCause 0)
    else
      let n := natAt h 6 2
      match t.readVa ctx (page.objVa + 64) (32 * n) .load false with
      | (.bad c _, t) => .bad t c
      | (.park _, t) => .wait t
      | (.ok table, t) =>
        let entries := (List.range n).map (fun k => (table.drop (32 * k)).take 32)
        if !sectionsOk (natAt h 8 8) entries then .bad t (configCause 0)
        else
          let ss := entries.map Section.ofBytes
          match selectImage ss with
          | none => .bad t (configCause 2)
          | some k =>
            let img := ss.getD k { kind := 0, major := 0, minor := 0, stepset := 0, offset := 0, size := 0 }
            match t.readSections ctx page.objVa (img :: ss.filter (fun x => x.kind = 3 || x.kind = 4 || x.kind = 6)) with
            | (.bad c _, t) => .bad t c
            | (.park _, t) => .wait t
            | (.ok [], t) => .bad t (configCause 0)
            | (.ok (bytes :: others), t) =>
              let kinds := (ss.filter (fun x => x.kind = 3 || x.kind = 4 || x.kind = 6)).map (·.kind)
              let pick := fun (q : Nat) => (kinds.zip others).filterMap (fun x => if x.1 = q then some x.2 else none)
              let hashes := (pick 4).flatten
              let maps := mapsOf (pick 6)
              let o : BoundObject :=
                { handle := handle, objVa := page.objVa, dataVa := page.objData, imageOff := img.offset
                  imageSize := img.size, native := none, kernels := [], runs := [], hashEntry := [], mapBase := 0
                  mapCount := maps.length }
              match checkImage s.firmware.running o k (img.kind = 2) bytes ((hashes.drop (48 * hashOrdinal ss k)).take 48) (pick 3).flatten maps with
              | .error d => .bad t (configCause d)
              | .ok o =>
                let data := ss.filter (fun x => x.kind = 5)
                let tmaps := ss.filter (fun x => x.kind = 6)
                match t.mayCopyObject ctx page.objData (sectionsSize (data ++ tmaps)) with
                | (false, t) => .wait t
                | (true, t) =>
                  match t.copySections ctx page.objVa page.objData data with
                  | (.bad c _, t) => .bad t c
                  | (.park _, t) => .wait t
                  | (.ok d, t) =>
                    match t.copySections ctx page.objVa d tmaps with
                    | (.bad c _, t) => .bad t c
                    | (.park _, t) => .wait t
                    | (.ok _, t) => .ok t { o with mapBase := d }

/-- Whether an open LAUNCH or GRAPH packet of a context names a handle (R365). -/
def Context.names (c : Context) (handle : Nat) : Bool :=
  c.packets.any (fun p => (p.type = 1 || p.type = 2) && p.handle = handle)

/-- A context whose object command waits, BUSY set (R365). -/
def Context.objWait (c : Context) (load : Bool) (handle : Nat) : Context :=
  { c with objWaiting := some (load, handle), page := { c.page with objBusy := true } }

/-- A context whose object command has ended. -/
def Context.objDone (c : Context) (cause : Nat) (bound : List BoundObject) : Context :=
  { c with
    objWaiting := none, objects := bound
    page := { c.page with objBusy := false, objFail := decide (cause ≠ 0), objCause := cause } }

/-- Whether an object command may run now: none is under way, or it is the one that waits. -/
def Context.objFree (c : Context) (load : Bool) (handle : Nat) : Bool :=
  !c.page.objBusy || c.objWaiting = some (load, handle)

/-- OBJECT_LOAD (R365): a bound handle is unloaded first; a command on a handle that a running packet names waits. -/
def execObjectLoad (ctx handle : Nat) (s : State) : Host.Outcome State Fault Refusal :=
  .next (match s.ctx? ctx with
    | none => s
    | some c =>
      let h := handle % 256
      if !c.objFree true h then s
      else if c.names h then s.updCtx ctx (·.objWait true h)
      else
        let others := c.objects.filter (fun o => o.handle ≠ h)
        match s.loadObject ctx h c.page with
        | .wait t => (s.onlyMigrations t).updCtx ctx (·.objWait true h)
        | .bad t cause => (t.dropRequests (.engine (.strip ctx 16))).updCtx ctx (·.objDone cause others)
        | .ok t o => (t.dropRequests (.engine (.strip ctx 16))).updCtx ctx (·.objDone 0 (others ++ [o])))

/-- OBJECT_UNLOAD (R365). -/
def execObjectUnload (ctx handle : Nat) (s : State) : Host.Outcome State Fault Refusal :=
  .next (match s.ctx? ctx with
    | none => s
    | some c =>
      let h := handle % 256
      if !c.objFree false h then s
      else if c.names h then s.updCtx ctx (·.objWait false h)
      else s.updCtx ctx (·.objDone 0 (c.objects.filter (fun o => o.handle ≠ h))))

end Sys2Proof.Machine
end

