-- ==== Sys2Proof/Machine/System.lean ====
section
/-! DEFINITION. The system instructions (spec/13 R418-R425) and the system registers (spec/01 R37, R38). -/

namespace Sys2Proof.Machine

/-! ### System registers (R37, R38) -/

/-- A value clamped to a register's range. -/
def clampTo (lo hi v : Nat) : Nat := max lo (min v hi)

/-- The registers with one written: whole values are clamped, other bits above the width are dropped, RO and unassigned
numbers ignore it (R37, R38). -/
def SysRegs.write (r : SysRegs) (num v : Nat) : SysRegs :=
  match num with
  | 0x00 => { r with handler := v % 2 ^ 57 }
  | 0x10 => { r with fill := clampTo 1 256 v }
  | 0x11 => { r with age := clampTo 16 (2 ^ 20) v }
  | 0x12 => { r with plimit := clampTo 16 256 v }
  | 0x13 => { r with qlimit := clampTo 12 30 v }
  | 0x14 => { r with rltokens := v % 2 ^ 16 }
  | 0x15 => { r with rlwindow := clampTo 64 65535 v }
  | 0x16 => { r with hseed := v % 2 ^ 64 }
  | 0x17 => { r with sidebase := v % 2 ^ 57 / 65536 * 65536 }
  | 0x18 => { r with sidelen := v % 2 ^ 24 }
  | _ => r

/-- A register as it reads (R37); TCAUSE, TINFO and TBLOCK are a thread's. -/
def SysRegs.read (r : SysRegs) (num : Nat) : Nat :=
  match num with
  | 0x00 => r.handler
  | 0x10 => r.fill
  | 0x11 => r.age
  | 0x12 => r.plimit
  | 0x13 => r.qlimit
  | 0x14 => r.rltokens
  | 0x15 => r.rlwindow
  | 0x16 => r.hseed
  | 0x17 => r.sidebase
  | 0x18 => r.sidelen
  | _ => 0

/-- A register as a thread reads it on its core (R38, R420). -/
def sysValue (l : Lane) (t : Thread) (num : Nat) : Nat :=
  match num, t.handler with
  | 0x01, some h => h.tcause
  | 0x02, some h => h.tinfo
  | 0x03, some h => h.tblock
  | n, _ => l.regs.read n

/-- SYSRD (R420). -/
def execSysrd (f : Fields) (_oe : Bool) (num : BitVec 8) (s : State) : Host.Outcome State Fault Refusal :=
  .next (s.fire f (Fields.both f) (fun x s =>
    .ok s (valueDone f (BitVec.ofNat 64 (sysValue x.spot.lane x.spot.thread num.toNat))) []))

/-- SYSWR (R421). -/
def execSyswr (f : Fields) (_oe : Bool) (num : BitVec 8) (s : State) : Host.Outcome State Fault Refusal :=
  .next (s.fire f (Fields.both f) (fun x s =>
    .ok (s.defer x.at_ x.deps (fun _ => .syswr num.toNat (x.b none))) (doneBoth f) [x.nextId]))

/-! ### Traps (R419) -/

/-- TRAP (R419). -/
def execTrap (f : Fields) (code : BitVec 6) (s : State) : Host.Outcome State Fault Refusal :=
  .next (s.fire f [] (fun x s => .bad s (0x140 + code.toNat) (some (x.a.toNat % 2 ^ 57))))

/-- BRK (R419). -/
def execBrk (f : Fields) (tag : BitVec 16) (s : State) : Host.Outcome State Fault Refusal :=
  .next (s.fire f [] (fun _ s => .bad s cBreakpoint (some tag.toNat)))

/-! ### Invalidations (R422, R423) -/

/-- TLBINV (R422). -/
def execTlbinv (f : Fields) (all _oe : Bool) (flag : Option (BitVec 4)) (s : State) : Host.Outcome State Fault Refusal :=
  .next (s.fire f (Fields.both f) (fun x s =>
    let a := x.a.toNat
    let b := (x.b none).toNat
    if !all && (a % 65536 ≠ 0 || 2 ^ 57 ≤ a || 2 ^ 41 ≤ b) then .bad s cInvParam none
    else if !x.flagRoom flag then .bad s cFlagOverflow none
    else .ok (s.defer x.at_ x.deps (fun _ => .tlbinv all a (b + 1) (flag.map (·.toNat)))) (doneBoth f) [x.nextId]))

/-- CFGINV (R423). -/
def execCfginv (f : Fields) (all _oe : Bool) (flag : Option (BitVec 4)) (s : State) : Host.Outcome State Fault Refusal :=
  .next (s.fire f (Fields.both f) (fun x s =>
    let a := x.a.toNat
    let b := (x.b none).toNat
    if !all && (2 ^ 57 ≤ a || 2 ^ 32 ≤ b) then .bad s cInvParam none
    else if !x.flagRoom flag then .bad s cFlagOverflow none
    else .ok (s.defer x.at_ x.deps (fun _ => .cfginv all a (b + 1) (flag.map (·.toNat)))) (doneBoth f) [x.nextId]))

/-! ### Leaving a handler, and failing the packet (R424, R425) -/

/-- RESUME (R424): its link is checked at the end of the pass. -/
def execResume (f : Fields) (link : Bool) (s : State) : Host.Outcome State Fault Refusal :=
  .next (s.fireExit f (fun x _ =>
    if x.spot.thread.handler.isNone then .error cNotInHandler
    else if link then .ok (.resumeLink x.at_.idx x.a) else .ok .resume))

/-- HALT (R425). -/
def execHalt (f : Fields) (ic : Bool) (cause : BitVec 9) (s : State) : Host.Outcome State Fault Refusal :=
  .next (s.fireExit f (fun x _ => .ok (.halt (if ic then cause.toNat else x.a.toNat % 512))))

end Sys2Proof.Machine
end

