-- ==== Sys2Proof/Machine/Marshal.lean ====
section
/-! DEFINITION. The marshal (spec/09 R261, R264-R270, R285, R286, R290, spec/01 R37, R40, spec/10 R316): waiting counts
and ages, the choice of a block, admission, replay and the solo ticket, and system-register writes taking effect. -/

namespace Sys2Proof.Machine

/-! ### Waiting counts (R264) -/

/-- Whether a thread is counted for a block (R264, R316). -/
def Thread.counted (t : Thread) (blk : Nat) (mask : Nat) : Bool :=
  (match t.place with
   | .waiting b _ => decide (b = blk)
   | _ => false) && t.yieldLeft.isNone && t.ready (BitVec.ofNat 12 mask)

/-- The pending threads of a lane counted for a block: those of its stage's entry block (R264). -/
def Lane.pendingFor (l : Lane) (k : Packet) (blk : Nat) : Nat := if blk = k.entry l.stage then l.pendingLeft else 0

/-- The waiting count of a block. -/
def Lane.waitingCount (l : Lane) (k : Packet) (blk : Nat) : Nat :=
  (l.threads.filter (fun t => t.counted blk (k.info blk).wait)).length + l.pendingFor k blk

/-- The blocks whose waiting count is not 0, each once. -/
def Lane.nonempty (l : Lane) (k : Packet) : List Nat :=
  ((l.threads.filterMap (fun t => match t.place with
    | .waiting b _ => some b
    | _ => none)) ++ [k.entry l.stage]).dedup.filter (fun b => 0 < l.waitingCount k b)

/-- The age of a block; a block that has none listed is at 0. -/
def Lane.ageOf (l : Lane) (blk : Nat) : Nat :=
  match l.ages.find? (fun a => a.blk = blk) with
  | some a => a.age
  | none => 0

/-- The lane with its ages after core cycles (R265): a block that nothing waits for is at 0. -/
def Lane.tickAges (l : Lane) (k : Packet) (n : Nat) : Lane :=
  let live := l.nonempty k
  let old := l.ages.map (fun a => { a with age := if live.contains a.blk then min (a.age + n) (2 ^ 22 - 1) else 0 })
  let new := (live.filter (fun b => !l.ages.any (fun a => a.blk = b))).map (fun b =>
    ({ blk := b, age := min n (2 ^ 22 - 1), everChosen := false } : BlockAge))
  { l with ages := old ++ new }

/-! ### The choice (R266-R268) -/

/-- The element that beats all others. -/
def best (beats : α → α → Bool) : List α → Option α
  | [] => none
  | x :: xs =>
    match best beats xs with
    | none => some x
    | some y => if beats y x then some y else some x

/-- Whether a pass has been chosen and has still threads to take in. A pass that waits for its configuration or for its replay
counts: MODEL'S CHOICE (log 72), R267 does not say whether a LOADING or a SQUASHED pass is being admitted. -/
def Pass.admitting (p : Pass) : Bool :=
  p.state = .loading || p.state = .squashed || (p.state = .streaming && decide (p.admitted < p.admission.length))

/-- The block the marshal chooses (R266). -/
def Lane.chosen? (l : Lane) (k : Packet) : Option Nat :=
  let live := l.nonempty k
  let rank := fun b => (k.info b).rank
  let low := fun a b => decide (rank a < rank b)
  let overdue := live.filter (fun b => 2 * l.regs.age ≤ l.ageOf b)
  let eligible := live.filter (fun b => l.regs.fill ≤ l.waitingCount k b || l.regs.age ≤ l.ageOf b)
  match best (fun a b => decide (l.ageOf b < l.ageOf a) || (decide (l.ageOf a = l.ageOf b) && low a b)) overdue with
  | some b => some b
  | none =>
    match best low eligible with
    | some b => some b
    | none => if l.passes.any (fun p => p.state = .streaming) then none else best low live

/-- The free slots of a lane (R39). -/
def Lane.freeSlots (l : Lane) : List Nat :=
  (List.range l.slots.length).filter (fun n => !l.passes.any (fun p => p.slot = n))

/-- Whether the marshal may choose (R267), for a packet whose gates are open. -/
def Lane.mayChoose (l : Lane) (k : Packet) : Bool :=
  !l.frozen && k.stage = .running && !l.freeSlots.isEmpty && l.passes.all (fun p => p.solo = .no && !p.admitting)

/-- A number put into a rising list. -/
def insertNat (n : Nat) : List Nat → List Nat
  | [] => [n]
  | m :: ms => if n ≤ m then n :: m :: ms else m :: insertNat n ms

/-- A list in rising order. -/
def sortNat (ns : List Nat) : List Nat := ns.foldr insertNat []

/-- The next `n` pending threads of a core (R260, R261): runs of 256 indices, one run in `cores`. -/
def pendingIds (cores : Nat) : Nat → Nat → List Nat
  | 0, _ => []
  | n + 1, t => t :: pendingIds cores n (if (t + 1) % 256 = 0 then t + 1 + 256 * (cores - 1) else t + 1)

/-- The number of cores over which a LAUNCH's threads are dealt out (R260); none for a GRAPH (R273). -/
def State.dealCores (s : State) (ctx : Nat) (k : Packet) : Option Nat :=
  if k.type = 2 then none else (s.region? ctx).map (fun r => r.h * r.w)

/-- The pending threads that would come next on a lane; a stage's threads are all of its one core. -/
def Lane.pendingList (l : Lane) (cores : Option Nat) (n : Nat) : List Nat :=
  match cores with
  | some c => pendingIds c n l.pendingNext
  | none => (List.range n).map (· + l.pendingNext)

/-- The most threads a pass of a block may take in (R268). -/
def passLimit (plimit stores : Nat) : Nat := if stores = 0 then plimit else min plimit (1024 / stores)

/-- The admission set of a block (R268): old threads first, then new, each in ascending index; and how many of it were
pending. -/
def Lane.admissionSet (l : Lane) (k : Packet) (cores : Option Nat) (blk : Nat) : List Nat × Nat :=
  let limit := passLimit l.regs.plimit (k.info blk).stores
  let ever := l.ages.any (fun a => a.blk = blk && a.everChosen)
  let mine := l.threads.filter (fun t => t.counted blk (k.info blk).wait)
  let isOld := fun (t : Thread) => match t.place with
    | .waiting _ o => o || !ever
    | _ => false
  let pend := l.pendingList cores (min limit (l.pendingFor k blk))
  let old := sortNat ((mine.filter isOld).map (·.tidx) ++ pend)
  let new := sortNat ((mine.filter (fun t => !isOld t)).map (·.tidx))
  let set := (old ++ new).take limit
  (sortNat set, (pend.filter (fun t => set.contains t)).length)

/-- The slot a choice takes: a free one that holds the block already, else the first free one (R267). -/
def Lane.slotFor (l : Lane) (blk : Nat) : Nat × Bool :=
  match l.freeSlots.find? (fun n => match (l.slots[n]?).bind (·.block) with
    | some b => b.blk = blk && !b.stale
    | none => false) with
  | some n => (n, true)
  | none => (l.freeSlots.headD 0, false)

/-- The lane after `n` of its pending threads have been taken into a pass. -/
def Lane.takePending (l : Lane) (cores : Option Nat) (n : Nat) : Lane :=
  { l with pendingNext := (l.pendingList cores (n + 1)).getLastD l.pendingNext, pendingLeft := l.pendingLeft - n }

/-- A pass as it is chosen. -/
def Pass.chosen (id blk slot : Nat) (set : List Nat) (configured : Bool) : Pass :=
  { id := id, blk := blk, slot := slot, state := if configured then .streaming else .loading, admission := set, admitted := 0
    runs := [], nextId := 0, accesses := [], scaled := [], producers := [], squashes := 0, solo := .no, need := [], got := []
    requested := false, groupsAfter := none, bankSets := [], usedPages := [], fails := [] }

/-- The lane after the choice of a block (R265, R266, R268, R316). -/
def Lane.choose (l : Lane) (k : Packet) (cores : Option Nat) (blk : Nat) : Lane :=
  let set := l.admissionSet k cores blk
  let slot := l.slotFor blk
  let threads := l.threads.map (fun t =>
    let t : Thread := { t with yieldLeft := t.yieldLeft.map (fun (y : Nat × List Nat) => (y.1, y.2.filter (fun b => b ≠ blk))) }
    if set.1.contains t.tidx then { t with place := .inPass l.nextPass }
    else
      match t.place with
      | .waiting b _ => if b = blk then { t with place := .waiting b true } else t
      | _ => t)
  let age : BlockAge := { blk := blk, age := 0, everChosen := true }
  { l.takePending cores set.2 with
    threads := threads
    passes := l.passes ++ [Pass.chosen l.nextPass blk slot.1 set.1 slot.2]
    slots := if slot.2 then l.slots else listSet l.slots slot.1 (fun _ => { block := none })
    ages := age :: l.ages.filter (fun a => a.blk ≠ blk)
    nextPass := l.nextPass + 1 }

/-- MARSHAL_BLOCK_CHOICE (R266-R268). -/
def execMarshalBlockChoice (core ctx : Nat) (s : State) : Host.Outcome State Fault Refusal :=
  .next (match s.lane? core ctx, (s.ctx? ctx).bind (·.kernelPacket?) with
    | some l, some k =>
      if !l.mayChoose k then s
      else
        (match l.chosen? k with
         | none => s
         | some blk => (s.updLane core ctx (fun l => l.choose k (s.dealCores ctx k) blk)).active core ctx)
    | _, _ => s)

/-! ### Core cycles of a marshal (R265, R290, R292, R316) -/

/-- Whether a deferred effect is work that keeps a core from counting (R292): a memory access, a COPY or a CREDIT. A SPAWN, a
SYSWR, an invalidation, a FENCE and a REL are none of the kinds listed there. -/
def DeferredKind.counts : DeferredKind → Bool
  | .sStore _ _ _ _ _ => true
  | .hostStore _ _ _ => true
  | .hostAdd _ _ _ _ => true
  | .copy _ _ _ => true
  | .credit _ _ => true
  | .spawn _ _ _ _ _ => false
  | .syswr _ _ => false
  | .tlbinv _ _ _ _ => false
  | .cfginv _ _ _ _ => false
  | .fence _ => false
  | .release _ => false

/-- Whether work of a context is outstanding on a core (R292): reads and gathers on their way, matrix entries, deferred
accesses, COPYs and CREDITs, copies that do not wait for credit, and migrations. MODEL'S CHOICE (log 72): a migration, a copy of a
packet and a range-lock registration that waits for an entry belong to no one core, and count on every core of the context. -/
def State.outstandingWork (s : State) (l : Lane) : Bool :=
  l.passes.any (fun p => p.runs.any (fun r => !r.outstanding.isEmpty || r.gathers.any (fun g => !g.returned && !r.drained)))
  || (match s.core? l.core with
      | some c => c.queue.any (fun e => e.ctx = l.ctx)
      | none => false)
  || l.deferred.any (fun d => d.kind.counts)
  || s.copies.any (fun c => c.ctx = l.ctx && (c.core = l.core || c.packet.isSome) &&
      !(c.stage = .moving && c.param.mode = 1 && decide ((l.rings.getD c.param.rid Ring.reset).free = 0)))
  || s.migrations.any (fun m => m.ctx = l.ctx)
  || s.waitingLocks.any (fun k => k.ctx = l.ctx)

/-- Whether stream entries of a context's graph wait on a core: in LINK buffers, or in banks bound to FIFO edges. These are the
tokens that keep a core from being idle (R292). MODEL'S CHOICE (log 72): the pixels that stand in a WINDOW bank, which stay there
after they have been read, are no tokens. -/
def State.streamWaits (s : State) (l : Lane) : Bool :=
  l.links.any (fun k => !k.entries.isEmpty) ||
  (match s.core? l.core with
   | some c => c.banks.any (fun b => b.owner = l.ctx && !b.fifo.isEmpty && b.binding.any (fun x => match x with
       | .edge _ => true
       | _ => false))
   | none => false)

/-- Whether a core is idle for a context (R292). -/
def State.idleCore (s : State) (l : Lane) : Bool :=
  l.threads.isEmpty && l.pendingLeft = 0 && l.passes.isEmpty && !s.streamWaits l &&
  !s.outstandingWork l && !s.copies.any (fun c => c.ctx = l.ctx && c.core = l.core && c.param.mode = 1)

/-- A lane after core cycles: ages, the quiescence count, which a cycle with activity returned to 0 at their start (R292), the
yields, and the rate window, whose count of tokens restarts at each boundary that the cycles reach (R290). -/
def State.tickLane (s : State) (n : Nat) (l : Lane) : Lane :=
  let aged := match (s.ctx? l.ctx).bind (·.kernelPacket?) with
    | some k => l.tickAges k n
    | none => { l with ages := [] }
  { aged with
    quiet := if s.outstandingWork l || s.idleCore l then 0 else if l.activeCycle then n - 1 else l.quiet + n
    activeCycle := l.activeCycle && decide (n = 0)
    rateCycles := (l.rateCycles + n) % l.regs.rlwindow
    rateTokens := if l.rateCycles + n < l.regs.rlwindow then l.rateTokens else 0
    threads := l.threads.map (fun t => { t with yieldLeft := t.yieldLeft.map (fun y => (y.1 - n, y.2)) }) }

/-- Core cycles pass on a core's clock (R5): its marshals, and the waits for leave of its head MMA and its copies. -/
def State.elapseCore (s : State) (core n : Nat) : State :=
  { s with
    lanes := s.lanes.map (fun l => if l.core = core && !l.frozen then s.tickLane n l else l)
    cores := s.cores.map (fun c =>
      if c.core = core then
        { c with queue := c.queue.mapIdx (fun i e => if i = 0 then { e with leaveWait := e.leaveWait + n } else e) }
      else c)
    copies := s.copies.map (fun c =>
      if c.core = core && c.stage = .waitingLeave then { c with leaveWait := c.leaveWait + n } else c) }

/-- AGE_THRESHOLD_REACHED (R265): the core cycles pass that bring the age of a block that threads wait for to AGE, or from
there to 2 x AGE. -/
def execAgeThresholdReached (core ctx blk : Nat) (s : State) : Host.Outcome State Fault Refusal :=
  .next (match s.lane? core ctx, (s.ctx? ctx).bind (·.kernelPacket?) with
    | some l, some k =>
      let age := l.ageOf blk
      let goal := if age < l.regs.age then l.regs.age else 2 * l.regs.age
      if l.frozen || l.waitingCount k blk = 0 || goal ≤ age then s else s.elapseCore core (goal - age)
    | _, _ => s)

/-- YIELD_RELEASE (R316). -/
def execYieldRelease (core ctx tidx : Nat) (s : State) : Host.Outcome State Fault Refusal :=
  .next (match s.lane? core ctx, (s.ctx? ctx).bind (·.kernelPacket?) with
    | some l, some k =>
      (match l.thread? tidx with
       | none => s
       | some t =>
         match t.yieldLeft, t.place with
         | some (left, blks), .waiting b _ =>
           if left = 0 || blks.isEmpty || (l.nonempty k).all (fun x => x = b) then
             s.updLane core ctx (fun l => l.updThread tidx (fun t => { t with yieldLeft := none }))
           else s
         | _, _ => s)
    | _, _ => s)

/-- RATE_WINDOW_EXPIRY (R290): the core cycles pass that bring the rate window of a lane to its end, where the count of tokens
restarts. -/
def execRateWindowExpiry (core ctx : Nat) (s : State) : Host.Outcome State Fault Refusal :=
  .next (match s.lane? core ctx with
    | none => s
    | some l => if l.frozen then s else s.elapseCore core (l.regs.rlwindow - l.rateCycles))

/-! ### System-register writes (R37, R40) -/

/-- A register write sent to every core of a context's region (R37). MODEL'S CHOICES (log 88): a read of the register through the page
answers the new value at once, also while cores have not taken the write, since R37 speaks of readers on a core alone; and writes
of one register that two cores send reach every core in one order, that in which they were sent, since R181 gives none. -/
def State.sendRegWrite (s : State) (ctx num v : Nat) : State :=
  (s.updCtx ctx (fun c => { c with regs := c.regs.write num v })).updLanes ctx (fun l => { l with
    regWrites := l.regWrites ++ [(num, v)] })

/-- A lane with the register writes that have reached it in force (R37, R40). A write that leaves QLIMIT, RLTOKENS or RLWINDOW at
its old value restarts the counts too: MODEL'S CHOICE (log 72), R40 says when they change and does not say whether such a write
counts. -/
def Lane.takeWrites (l : Lane) : Lane :=
  let restarts := l.regWrites.any (fun w => w.1 = 0x13 || w.1 = 0x14 || w.1 = 0x15)
  { l with
    regs := l.regWrites.foldl (fun r w => r.write w.1 w.2) l.regs
    regWrites := []
    quiet := if restarts then 0 else l.quiet
    rateCycles := if restarts then 0 else l.rateCycles
    rateTokens := if restarts then 0 else l.rateTokens }

/-- SYSWR_TAKE_EFFECT (R37, R421): a SYSWR that stands first among the core's deferred effects is sent out; the writes that
have reached the core take effect unless a pass is being admitted there. MODEL'S CHOICE (log 72): a pass that was squashed before
it had admitted its last thread, and is not yet replayed, is not being admitted, so the writes take effect at once and its replay
admits under the new values. -/
def execSyswrTakeEffect (core ctx : Nat) (s : State) : Host.Outcome State Fault Refusal :=
  let sent := match s.headDeferred core ctx with
    | some d =>
      (match d.kind with
       | .syswr num v => (s.updLane core ctx (·.popDeferred)).sendRegWrite ctx num v.toNat
       | _ => s)
    | none => s
  .next (sent.updLane core ctx (fun l =>
    if l.passes.any (fun p => p.state = .streaming && p.admitting) then l else l.takeWrites))

/-! ### Admission (R268, R270) -/

/-- The pass of a lane that admits next: the earliest that has threads left, once it streams and no other does. A later pass never
goes before an earlier one that is to be replayed (R285). -/
def Lane.admits? (l : Lane) : Option Pass :=
  if l.frozen then none
  else
    match l.passes.find? (·.admitting) with
    | none => none
    | some p =>
      if p.state ≠ .streaming || l.passes.any (fun q => q.id ≠ p.id && q.state = .streaming && 0 < q.admitted) then none else some p

/-- The failure with which a thread traps as it is admitted: that of its earliest failed matrix entry (R142), else that of its
refetch (R283, R400). It stands until the thread has trapped for it, so that a replay of its pass traps again. -/
def Thread.entryTrap (t : Thread) : Option (EntryFail × Nat × Nat) :=
  match t.matrixFail with
  | some f => some (.matrix, f)
  | none => t.refetchFail.map (fun f => (.refetch, f))

/-- The run of a thread as it is admitted: its sources, or the cause with which it traps at the block's entry. -/
def admittedRun (b : Block) (tidx pseq : Nat) (fail : Option (EntryFail × Nat × Nat)) : Run :=
  match fail with
  | none => Run.empty tidx pseq b.sources
  | some (which, cause, info) => { (Run.empty tidx pseq []).record 0 0 cause (some info) with entryFail := some which }

/-- The run with which a thread enters a pass: that in which it has left one that is run again without it (R193), else one of its
own. -/
def Pass.entryRun (p : Pass) (b : Block) (tidx : Nat) (fail : Option (EntryFail × Nat × Nat)) : Run :=
  (p.left.find? (fun r => r.tidx = tidx)).getD (admittedRun b tidx p.admitted fail)

/-- A thread admitted to a pass. -/
def State.admitThread (s : State) (core ctx : Nat) (p : Pass) (b : Block) (tidx : Nat)
    (fail : Option (EntryFail × Nat × Nat)) : State :=
  (s.updLane core ctx (fun l =>
    (l.updPass p.id (fun p => { p with admitted := p.admitted + 1, runs := p.runs ++ [p.entryRun b tidx fail] })).updThread
      tidx (fun t => { t with place := .inPass p.id }))).active core ctx

/-- What makes a thread trap as it is admitted. -/
def State.entryTrap (s : State) (core ctx tidx : Nat) : Option (EntryFail × Nat × Nat) :=
  ((s.lane? core ctx).bind (fun l => l.thread? tidx)).bind (·.entryTrap)

/-- THREAD_ADMISSION (R261, R268, R270): a pending thread is created, a spilled one refetched, and the failure of an
earlier matrix entry raised. -/
def execThreadAdmission (core ctx : Nat) (s : State) : Host.Outcome State Fault Refusal :=
  .next (match s.lane? core ctx, (s.ctx? ctx).bind (·.kernelPacket?) with
    | some l, some k =>
      (match l.admits? with
       | none => s
       | some p =>
         match l.block? p, p.admission[p.admitted]? with
         | some b, some tidx =>
           (match l.thread? tidx with
            | none =>
              (match s.createThread core ctx tidx k.slots [some k.arg] (.inPass p.id) with
               | .ok t => t.admitThread core ctx p b tidx none
               | .wait t => s.onlyMigrations t
               | .full t a => t.failPacket ctx cLvsExhausted a
               | .lost t => t)
            | some t =>
              match t.spill with
              | some sp =>
                (match s.refetch core ctx t sp with
                 | .wait u => s.onlyMigrations u
                 | .full u a => u.failPacket ctx cLvsExhausted a
                 | .lost u => u
                 | .ok u => u.admitThread core ctx p b tidx (u.entryTrap core ctx tidx))
              | none => s.admitThread core ctx p b tidx t.entryTrap)
         | _, _ => s)
    | _, _ => s)

/-! ### Replay (R285, R286) -/

/-- The squashed pass of a lane that is replayed next: the earliest, once it may run (R285, R286, R287). -/
def Lane.replays? (l : Lane) : Option Pass :=
  if l.frozen then none
  else
    match l.passes.find? (fun p => p.state = .squashed) with
    | none => none
    | some p =>
      if p.solo = .waiting then none
      else if p.solo = .holding && l.passes.any (fun q => q.id < p.id) then none
      else some p

/-- PASS_REPLAY (R285): the same slot and the same admission set; a slot that no longer holds the block is loaded again. -/
def execPassReplay (core ctx : Nat) (s : State) : Host.Outcome State Fault Refusal :=
  .next (match s.lane? core ctx with
    | none => s
    | some l =>
      match l.replays? with
      | none => s
      | some p =>
        let configured : Bool := match l.block? p with
          | some b => decide (b.blk = p.blk)
          | none => false
        s.updPass core ctx p.id (fun p => { p with state := if configured then .streaming else .loading }))

/-- The requests for the solo ticket whose passes still stand, in the order in which they were made (R286). -/
def State.soloSeekersNow (s : State) : List PassRef :=
  s.soloQueue.filter (fun q => ((s.lane? q.core q.ctx).bind (fun l => l.pass? q.pass)).isSome)

/-- Whether no earlier pass of its core and context stands uncommitted before a pass (R287, third rule). -/
def State.firstOnCore (s : State) (q : PassRef) : Bool :=
  match s.lane? q.core q.ctx with
  | some l => (l.uncommitted q.pass).isEmpty
  | none => false

/-- SOLO_TICKET_GRANT (R286): the first request in the queue receives the ticket. MODEL'S CHOICE (log 93): a pass that
stands behind an earlier one of its core and context that has not committed is passed over until that one has. R287
says that no earlier uncommitted pass is left there when the ticket is held, and R288 that no cycle of waits includes the solo
pass; an earlier pass that came to need the ticket itself would close one. -/
def execSoloTicketGrant (s : State) : Host.Outcome State Fault Refusal :=
  .next (match s.soloHolder with
    | some _ => s
    | none =>
      match s.soloSeekersNow.find? s.firstOnCore with
      | some q =>
        ({ s with soloHolder := some q, soloQueue := s.soloSeekersNow.erase q } : State).updPass q.core q.ctx q.pass
          (fun p => { p with solo := .holding })
      | none => { s with soloQueue := s.soloSeekersNow })

end Sys2Proof.Machine
end

