-- ==== Sys2Proof/Machine/Publish.lean ====
section
/-! DEFINITION. The linearization of a chunk (spec/06 R163, R164, R173, R174): its buffered bytes are published at their
homes and its updates applied after them, both visible to every observer at once. -/

namespace Sys2Proof.Machine

/-- The reference of a pass of a lane. -/
def Lane.ref (l : Lane) (p : Pass) : PassRef := { core := l.core, ctx := l.ctx, pass := p.id }

/-- The bytes of a space that a chunk writes, each once. -/
def Pass.writtenBytes (p : Pass) (sp : Space) : List Nat :=
  ((p.accesses.filter (fun a => a.inW && a.space = sp)).flatMap (fun a => (List.range a.len).map (· + a.addr))).dedup

/-- The key index under which a byte is written: that of the latest access to it. -/
def Pass.keyOf (p : Pass) (pa : Nat) : Nat :=
  match (p.accesses.filter (fun a => a.inW && a.covers .device pa)).getLast? with
  | some a => a.key
  | none => 0

/-- The bytes that a chunk leaves in device memory before its updates (R172, R173). -/
def Pass.published (p : Pass) (s : State) : List DevByte :=
  (p.writtenBytes .device).map (fun pa => { pa := pa, val := p.byteAfter (s.byteAt pa) .device pa, key := p.keyOf pa })

/-- The scratchpad bytes that a chunk leaves. -/
def Pass.scratchPublished (p : Pass) (s : State) (core : Nat) : List (Nat × Byte) :=
  (p.writtenBytes .scratch).map (fun a => (a, p.byteAfter (s.scratchAt core a) .scratch a))

/-- Whether an access comes before another among updates (R163): by thread, then by instruction. The firings of one instruction
for one thread in one pass, those of a loop, stand in the order in which they arrived: MODEL'S CHOICE (log 72), R98, R163 and R174
order them no further. -/
def Access.before_ (a b : Access) : Bool :=
  decide (a.tidx < b.tidx) || (decide (a.tidx = b.tidx) &&
    (decide (a.idx < b.idx) || (decide (a.idx = b.idx) && decide (a.id ≤ b.id))))

/-- An access put in its place among updates. -/
def insertUpdate (a : Access) : List Access → List Access
  | [] => [a]
  | b :: bs => if a.before_ b then a :: b :: bs else b :: insertUpdate a bs

/-- The updates of a chunk in the order in which they are applied (R163, R174). -/
def Pass.updates (p : Pass) : List Access := (p.accesses.filter (·.inC)).foldr insertUpdate []

/-- One update applied at its home, with the threads and causes of those that could not be (R174). -/
def State.applyUpdate (ctx core : Nat) (acc : State × List (Nat × Nat)) (a : Access) : State × List (Nat × Nat) :=
  match a.kind, a.space with
  | .update op, .device =>
    (match acc.1.readFault a.addr a.key .rmw with
     | some c => (acc.1, acc.2 ++ [(a.tidx, c)])
     | none =>
       let new := op.apply (acc.1.storeRnd ctx op.va 0) (leNat (acc.1.bytesAt a.addr a.len))
       (acc.1.commitBytes (devBytes a.addr a.key (leBytes a.len new)), acc.2))
  | .update op, .scratch =>
    let new := op.apply (acc.1.storeRnd ctx op.va 0) (leNat (acc.1.scratchBytes core a.addr a.len))
    (acc.1.scratchWrite core a.addr (leBytes a.len new), acc.2)
  | _, _ => acc

/-- The threads of a lane in the wait table. -/
def Lane.parkedCount (l : Lane) : Nat :=
  (l.threads.filter (fun t => match t.place with
    | .parked _ _ => true
    | _ => false)).length

/-- A thread placed on a lane. -/
def State.placeThread (s : State) (core ctx tidx : Nat) (pl : Place) : State :=
  s.updLane core ctx (fun l => l.updThread tidx (fun t => { t with place := pl }))

/-- A thread that an unsatisfied WAITA made leave its pass is parked in the wait table at the linearization point (R219,
R220), or put back in its block's waiting vector when the table is full (R221). One that has recorded a cause traps (R395); one that
waits for a migration is not parked: MODEL'S CHOICE (log 72), the spec does not say which of the two wins. -/
def State.parkWaiter (core ctx blk : Nat) (s : State) (r : Run) : State :=
  match r.waita with
  | none => s
  | some w =>
    if !r.excluded || !r.causes.isEmpty || r.migPark.isSome then s
    else
      let room : Bool := match s.lane? core ctx with
        | some l => decide (l.parkedCount < 64)
        | none => false
      s.placeThread core ctx r.tidx (if room then .parked blk w.key else .waiting blk false)

/-- The lines that a chunk leaves changed are no longer copied in its own core's CACHE banks: later loads of the core find
what it published (R165, R169, R236). -/
def State.dropOwnCopies (s : State) (core : Nat) (p : Pass) : State :=
  let lines := (p.accesses.filter (fun a => (a.inW || a.inC) && a.space = .device)).map (fun a => a.addr / 64)
  s.updCore core (fun c => { c with l1 := c.l1.filter (fun x => !lines.contains x.line) })

/-- A chunk linearizes (R164): its bytes are published, its updates applied, its waiters parked, its read grants released;
one that took no grant makes its broadcast at this point. -/
def State.linearize (s : State) (core ctx : Nat) (p : Pass) : State :=
  let q : PassRef := { core := core, ctx := ctx, pass := p.id }
  let scratch := p.scratchPublished s core
  let s := (p.published s).foldl (fun t w => t.touchPhys w.pa 1) (s.commitBytes (p.published s))
  let s := scratch.foldl (fun s x => s.scratchPut core x.1 x.2) s
  let r := p.updates.foldl (State.applyUpdate ctx core) (s, [])
  let s := (r.1.updPass core ctx p.id (fun p => { p with state := .granted, fails := r.2 })).dropOwnCopies core p
  let s := p.runs.foldl (State.parkWaiter core ctx p.blk) s
  let s : State := { s with arbiters := s.arbiters.mapIdx (fun d a =>
      if p.got.contains (d, false) then { a with granted := a.granted.erase (.chunk q) } else a) }
  if p.got.isEmpty then s.broadcast (some q) (p.lines core (·.inW)) (p.lines core (·.inC)) [] else s

end Sys2Proof.Machine
end

