-- ==== Sys2Proof/Machine/Ending.lean ====
section
/-! DEFINITION. The end of a pass (spec/09 R269, spec/10 R321, spec/07 R206, R223, spec/06 R162, R435, spec/02 R57): the
checks made when every thread has left, the exclusion of threads, the withdrawal of their stream entries, and the grants
that the chunk will need. -/

namespace Sys2Proof.Machine

/-! ### The checks of a drained thread (R57, R308, R314) -/

/-- The live-value count a thread holds after its block (R308). -/
def Run.countAfter (r : Run) (lvsn : Nat) : Nat :=
  match r.lvOp with
  | none => lvsn
  | some (.grow n) => max lvsn n
  | some (.shrink n) => min lvsn n

/-- The WRITE of a block that names a slot; a block holds at most one (R308). -/
def Block.writeOf (b : Block) (lk : Nat) : Nat :=
  match b.instrs.find? (fun x => match x.2 with
    | .write _ k => decide (k.toNat = lk)
    | _ => false) with
  | some x => x.1
  | none => 0

/-- Whether a thread left its block without completing it, or holds a cause: its effects are excluded. -/
def Run.leaves (r : Run) : Bool := !r.causes.isEmpty || r.waita.isSome || r.migPark.isSome

/-- A drained run with the slots of its WRITEs and its CALL checked, and NO_EXIT raised when it has no reason to have left. -/
def Run.settle (b : Block) (lvsn : Nat) (r : Run) : Run :=
  let n := r.countAfter lvsn
  let r := r.writes.foldl (fun r w => if n ≤ w.1 then r.record (b.writeOf w.1) 0 cLiveSlot none else r) r
  let r := match r.exit with
    | some (idx, .call _ lk _) => if n ≤ lk then r.record idx 0 cLiveSlot none else r
    | _ => r
  if !r.leaves && r.exit.isNone then r.record 0 0 cNoExit none else r

/-! ### Links, groups and banks (R314, R321, R223) -/

/-- The group a thread belongs to. -/
def groupOf (bs : List Barrier) (tidx : Nat) : Option Nat := bs.findIdx? (fun b => b.bound && b.members.contains tidx)

/-- One group operation (R321): the barriers after it, or its failing cause. -/
def groupStep (tidx : Nat) (bs : List Barrier) (op : GroupOp) : Except Nat (List Barrier) :=
  match op, groupOf bs tidx with
  | .gnew, none =>
    (match bs.findIdx? (fun b => !b.bound) with
     | some n => .ok (listSet bs n (fun _ => { Barrier.reset with bound := true, members := [tidx] }))
     | none => .error cBarrierExhausted)
  | .join a, none =>
    (match bs[a.toNat]? with
     | some b => if b.bound then .ok (listSet bs a.toNat (fun b => { b with members := tidx :: b.members })) else .error cGroupState
     | none => .error cGroupState)
  | .leave, some n => .ok (listSet bs n (fun b => { b with members := b.members.erase tidx }))
  | .barinit a, some n =>
    if 4096 < a.toNat then .error cGroupState
    else .ok (listSet bs n (fun b => { b with expected := if a = 0 then none else some a.toNat }))
  | .gfree a, _ =>
    (match bs[a.toNat]? with
     | some b => if b.bound && b.members.isEmpty then .ok (listSet bs a.toNat (fun _ => Barrier.reset)) else .error cGroupState
     | none => .error cGroupState)
  | _, _ => .error cGroupState

/-- A thread that has ended leaves its group (R315). -/
def leaveGroup (bs : List Barrier) (tidx : Nat) : List Barrier :=
  bs.map (fun b => { b with members := b.members.erase tidx })

/-- The mode of a BANKMODE's word (R222). -/
def bankModeOf (a : Nat) : BankMode :=
  match field a 5 2 with
  | 0 => .cache
  | 1 => .scratch
  | 2 => .fifo
  | _ => .window

/-- The fields of a BANKMODE (R222). -/
def bankFieldsOk (a b : Nat) : Bool :=
  decide (a < 2 ^ 7) &&
  (match bankModeOf a with
   | .cache => decide (b = 0)
   | .scratch => decide (b = 0)
   | .fifo => decide (b < 2 ^ 12)
   | .window => edgeGeomOk 1 b)

/-- What the end-of-pass checks of a thread are made against. -/
structure EndView where
  barriers : List Barrier
  modes : List BankMode
  deriving DecidableEq, Repr

/-- Whether a context's region is shared (R406). -/
def State.shared (s : State) (ctx : Nat) : Bool :=
  match s.region? ctx with
  | some r => r.sharer.isSome
  | none => false

/-- One BANKMODE (R223, R255). -/
def State.bankStep (s : State) (core ctx : Nat) (v : EndView) (ab : Word × Word) : Except Nat EndView :=
  let a := ab.1.toNat
  let n := a % 32
  let modes := listSet v.modes n (fun _ => bankModeOf a)
  let bound := match s.bank? core n with
    | some b => !b.binding.isEmpty
    | none => true
  let least := if s.shared ctx then 4 else 2
  if !bankFieldsOk a ab.2.toNat || bound || !s.ownsEngine ctx || decide ((modes.filter (fun m => m = .cache)).length < least) then
    .error cBankParam
  else .ok { v with modes := modes }

/-- Steps taken in turn until one fails. -/
def steps (f : β → α → Except Nat β) : β → List α → Except Nat β
  | v, [] => .ok v
  | v, x :: xs =>
    match f v x with
    | .ok w => steps f w xs
    | .error c => .error c

/-- What was recorded by index, in ascending index. -/
def insertByIdx (x : Nat × α) : List (Nat × α) → List (Nat × α)
  | [] => [x]
  | y :: ys => if x.1 < y.1 then x :: y :: ys else y :: insertByIdx x ys

/-- Operations in ascending instruction index. -/
def byIdx (xs : List (Nat × α)) : List α := (xs.foldl (fun l x => insertByIdx x l) []).map (·.2)

/-- Whether a word is a link of a block of the running kernel or stage, as its image stands (R314, R327). -/
def State.linkOk (s : State) (ctx : Nat) (k : Packet) (stage : Nat) (w : Word) : Bool :=
  (State.runStarts id s ctx k (k.stageBlocks stage)).contains w.toNat

/-- The link check of a thread (R314, R424). -/
def State.exitLinkOk (s : State) (ctx : Nat) (k : Packet) (stage : Nat) (r : Run) : Bool :=
  match r.exit with
  | some (_, .ret _ w) => s.linkOk ctx k stage w
  | some (_, .resumeLink _ w) => s.linkOk ctx k stage w
  | _ => true

/-- The end-of-pass checks of one thread (R321): the view after it, or the cause with which it traps. They stop at the first that
fails, whose cause is reported: MODEL'S CHOICE (log 72), R321 does not say whether later ones are made, whose causes R394 could
rank before it. -/
def State.judge (s : State) (l : Lane) (k : Packet) (v : EndView) (r : Run) : Except Nat EndView :=
  if !s.exitLinkOk l.ctx k l.stage r then .error cReturnTarget
  else
    match steps (groupStep r.tidx) v.barriers (byIdx r.groupOps) with
    | .error c => .error c
    | .ok bs =>
      match steps (s.bankStep l.core l.ctx) { v with barriers := bs } (byIdx (r.banks.map (fun b => (b.1, b.2)))) with
      | .error c => .error c
      | .ok w => .ok w

/-- The view that an earlier uncommitted pass leaves at its commit (R169, R223, R321). -/
def EndView.afterPass (v : EndView) (p : Pass) : EndView :=
  let ops := p.groupsAfter.getD []
  let bs := ops.foldl (fun bs o => match groupStep o.1 bs o.2.1 with
    | .ok x => x
    | .error _ => bs) v.barriers
  let ended := p.runs.filter (fun r => !r.excluded && (match r.exit with
    | some (_, .ended) => true
    | some (_, .halt _) => true
    | _ => false))
  { barriers := ended.foldl (fun bs r => leaveGroup bs r.tidx) bs
    modes := p.bankSets.foldl (fun ms b => listSet ms (b.2.1.toNat % 32) (fun _ => bankModeOf b.2.1.toNat)) v.modes }

/-- The view before the checks of a pass. -/
def State.viewFor (s : State) (l : Lane) (p : Pass) : EndView :=
  let now : EndView := { barriers := l.barriers, modes := match s.core? l.core with
    | some c => c.banks.map (·.mode)
    | none => [] }
  (l.uncommitted p.id).foldl EndView.afterPass now

/-- A run put into ascending thread index. -/
def insertRun (r : Run) : List Run → List Run
  | [] => [r]
  | q :: qs => if r.tidx < q.tidx then r :: q :: qs else q :: insertRun r qs

/-- Runs in ascending thread index. -/
def byThread (rs : List Run) : List Run := rs.foldr insertRun []

/-- The runs of a pass after the end-of-pass checks, thread by thread (R321). -/
def State.judgeAll (s : State) (l : Lane) (k : Packet) : EndView → List Run → List Run
  | _, [] => []
  | v, r :: rs =>
    if r.leaves then r :: State.judgeAll s l k v rs
    else
      match s.judge l k v r with
      | .ok w => r :: State.judgeAll s l k w rs
      | .error c => r.record 0 0 c none :: State.judgeAll s l k v rs

/-! ### Blocks of scaled maps (R206) -/

/-- The block of a scaled map that holds an element. -/
def TMap.blockOf (m : TMap) (c : List Nat) : List Nat := listSet c m.rdim (· / 32)

/-- The stores of a pass into scaled maps by threads that have not left it. -/
def Pass.liveScaled (p : Pass) : List ScaledStore :=
  p.scaled.filter (fun st => match p.run? st.tidx with
    | some r => !r.leaves
    | none => false)

/-- The stores of a pass by block: its map's number, its coordinates, its stores. -/
def Pass.scaledBlocks (p : Pass) (b : Block) : List (TMap × List Nat × List ScaledStore) :=
  let keyed := p.liveScaled.filterMap (fun st => (b.map? st.map).map (fun m => (st.map, m.blockOf st.coord, st)))
  let keys := (keyed.map (fun x => (x.1, x.2.1))).dedup
  keys.filterMap (fun q => (b.map? q.1).map (fun m =>
    (m, q.2, (keyed.filter (fun x => x.1 = q.1 && x.2.1 = q.2)).map (fun x => x.2.2))))

/-- The store that stands for an element among those of a pass (R172). -/
def standingStore (sts : List ScaledStore) : Option ScaledStore :=
  let ws := sts.map (fun st =>
    ({ id := st.id, tidx := st.tidx, idx := st.idx, val := 0, mask := 0, before := st.before } : ByteWrite))
  (standing ws).bind (fun w => sts.find? (fun st => st.id = w.id))

/-- The 32 elements of a block: their coordinates and the store that stands for each. -/
def blockElems (m : TMap) (blk : List Nat) (sts : List ScaledStore) : List (List Nat × Option ScaledStore) :=
  (List.range 32).map (fun j =>
    let c := listSet blk m.rdim (fun n => 32 * n + j)
    (c, standingStore (sts.filter (fun st => st.coord = c))))

/-- The scale's address of a block. -/
def TMap.blockScaleVa (m : TMap) (blk : List Nat) : Nat := m.scaleVa (listSet blk m.rdim (32 * ·))

/-- What the assembly of a block finds before it writes. -/
inductive BlockFate
  | bad (cause va : Nat)
  | park (mig va : Nat)
  | ok
  deriving DecidableEq, Repr

/-- The places of a block's writes checked in turn: element addresses with alignment 1, the scale's with its own. -/
def State.probePlaces (s : State) (core ctx : Nat) (m : TMap) : List (Nat × Nat) → BlockFate × State
  | [] => (.ok, s)
  | (va, align) :: rest =>
    match s.address core ctx m.cls va align .store with
    | (.bad c, t) => (.bad c va, t)
    | (.park g, t) => (.park g va, t)
    | (_, t) => State.probePlaces t core ctx m rest

/-- The check of a block before it is written (R206). -/
def State.probeBlock (s : State) (core ctx : Nat) (m : TMap) (blk : List Nat) (sts : List ScaledStore) : BlockFate × State :=
  let elems := blockElems m blk sts
  let oneMode := match sts with
    | st :: rest => rest.all (fun x => x.rm = st.rm)
    | [] => true
  if !oneMode || elems.any (fun e => e.2.isNone) then
    (.bad (memCause .store reasonBounds) (m.blockScaleVa blk), s)
  else
    s.probePlaces core ctx m (elems.map (fun e => (m.base + (m.place e.1).1, 1)) ++ [(m.blockScaleVa blk, m.sw)])

/-- A run that leaves with what a block it stored into met. -/
def BlockFate.mark (f : BlockFate) (sts : List ScaledStore) (r : Run) : Run :=
  match f with
  | .ok => r
  | .bad cause va => (sts.filter (fun st => st.tidx = r.tidx)).foldl (fun r st => r.record st.idx 0 cause (some va)) r
  | .park g va => if sts.any (fun st => st.tidx = r.tidx) then { r with migPark := some (g, AccKind.store.code, va) } else r

/-- The fates of the blocks of a pass; true when none fails. -/
def State.probeBlocks (s : State) (x : Firing) : List (TMap × List Nat × List ScaledStore) → Bool × State
  | [] => (true, s)
  | (m, blk, sts) :: rest =>
    let r := s.probeBlock x.core x.ctx m blk sts
    let t := r.2.updPass x.core x.ctx x.pass (fun p => { p with runs := p.runs.map (r.1.mark sts) })
    let more := State.probeBlocks t x rest
    (decide (r.1 = .ok) && more.1, more.2)

/-- One write of the assembly, under the number of the store that it comes from, so that it keeps that store's order (R170, R181,
R201, R206): chunked, or deferred for class S, its line taken into
the CACHE banks as the map's policy has it (R237). A chunked one names its page for shootdowns (R348) and takes a line of the write
buffer (R236). -/
def State.assembled (s : State) (x : Firing) (m : TMap) (st : ScaledStore) (va align : Nat) (bytes : List (Byte × Byte))
    (reads : Bool) : State :=
  let at_ : Firing := { x with tidx := st.tidx, idx := st.idx }
  match s.address x.core x.ctx m.cls va align .store with
  | (.device pa key, t) =>
    let t := t.fillCopy x.core (pa / 64) false m.policy
    if m.stream then t.deferAs at_ st.id st.before (.sStore va pa key bytes m.scopeOf)
    else (t.updPass x.core x.ctx x.pass (fun p =>
      { p with
        accesses := p.accesses ++ [{ id := st.id, tidx := st.tidx, idx := st.idx, space := .device, addr := pa
                                     len := bytes.length, key := key, kind := .store bytes reads, before := st.before }]
        usedPages := addPage (some (va / 65536)) p.usedPages })).trimL1 x.core
  | (.outside pa, t) => t.deferAs at_ st.id st.before (.hostStore va pa bytes)
  | (_, t) => t

/-- One element written. -/
def State.assembleElem (s : State) (x : Firing) (m : TMap) (st : ScaledStore) (c : List Nat) (bits : Nat) : State :=
  let pl := m.place c
  let va := m.base + pl.1
  if pl.2.1 = 0 && pl.2.2 % 8 = 0 then s.assembled x m st va (pl.2.2 / 8) (fullBytes (pl.2.2 / 8) bits) false
  else
    let bytes := packedBytes pl.2.1 pl.2.2 bits
    (bytes.mapIdx (fun i b => (va + i, b))).foldl (fun s b => s.assembled x m st b.1 1 [b.2] true) s

/-- A block written whole (R93, R206). -/
def State.assembleBlock (s : State) (x : Firing) (m : TMap) (blk : List Nat) (sts : List ScaledStore) : State :=
  let elems := (blockElems m blk sts).filterMap (fun e => e.2.map (fun st => (e.1, st)))
  let rm := match sts with
    | st :: _ => st.rm
    | [] => .rne
  let vals := elems.map (fun e =>
    let pl := m.place e.1
    (wRead e.2.val, s.storeRnd x.ctx (m.base + pl.1) pl.2.1))
  let r := scaledBlock m.fmt (m.sfmt = 15) rm vals
  let s := (elems.zip r.2).foldl (fun s e => s.assembleElem x m e.1.2 e.1.1 e.2) s
  match standingStore sts with
  | some st => s.assembled x m st (m.blockScaleVa blk) m.sw (fullBytes m.sw r.1) false
  | none => s

/-- The pass of a firing. -/
def State.passOf? (s : State) (x : Firing) : Option Pass := (s.lane? x.core x.ctx).bind (fun l => l.pass? x.pass)

/-- The blocks of a pass checked until no further thread leaves on their account (R206). -/
def State.checkBlocks : Nat → State → Firing → Block → State
  | 0, s, _, _ => s
  | fuel + 1, s, x, b =>
    match s.passOf? x with
    | none => s
    | some p =>
      let r := s.probeBlocks x (p.scaledBlocks b)
      if r.1 then r.2 else State.checkBlocks fuel r.2 x b

/-- The blocks of a pass written (R206). -/
def State.writeBlocks (s : State) (x : Firing) (b : Block) : State :=
  match s.passOf? x with
  | none => s
  | some p => (p.scaledBlocks b).foldl (fun s q => s.assembleBlock x q.1 q.2.1 q.2.2) s

/-! ### Exclusion and withdrawal (R57, R219, R242, R435) -/

/-- The accesses that stay in a chunk (R57, R219): those of its other threads, and the loads of a thread that WAITA parks. -/
def Pass.keptAccesses (p : Pass) : List Access :=
  p.accesses.filter (fun a => match p.run? a.tidx with
    | none => false
    | some r =>
      if !r.leaves then true
      else if r.causes.isEmpty && r.migPark.isNone then a.inR && !a.inW
      else false)

/-- Whether an entry comes from an excluded thread of a pass. -/
def withdrawn (q : PassRef) (out : List Nat) (prod : Option PassRef) (tidx : Nat) : Bool :=
  prod = some q && out.contains tidx

/-- An entry that an excluded thread of a pass has popped stands in its place again: the POP is an effect of its block (log 84). -/
def unpopped (q : PassRef) (out : List Nat) (e : FifoEntry) : FifoEntry :=
  if e.pop = some q && out.contains e.popTidx then { e with pop := none, popTidx := 0 } else e

/-- The entries that the excluded threads of a pass have popped, given back (R57, R219, R241). -/
def State.giveBack (s : State) (q : PassRef) (out : List Nat) : State :=
  { s with
    cores := s.cores.map (fun c => { c with banks := c.banks.map (fun b => { b with fifo := b.fifo.map (unpopped q out) }) })
    lanes := s.lanes.map (fun l => { l with links := l.links.map (fun k => { k with entries := k.entries.map (unpopped q out) }) }) }

/-- What excluded threads have popped is given back and what they have entered withdrawn; when there is such an entry, the chunks
that recorded the pass as a producer are squashed (R435). -/
def State.withdraw (s : State) (q : PassRef) (out : List Nat) : State :=
  let s := s.giveBack q out
  let any_ := s.cores.any (fun c => c.banks.any (fun b =>
      b.fifo.any (fun e => withdrawn q out e.prod e.tidx) || b.pixels.any (fun e => withdrawn q out e.prod e.tidx)))
    || s.lanes.any (fun l => l.links.any (fun k => k.entries.any (fun e => withdrawn q out e.prod e.tidx)))
  if !any_ then s
  else
    let s := s.squash true (s.inFlightRefs.filter (fun r =>
      match (s.lane? r.core r.ctx).bind (fun l => l.pass? r.pass) with
      | some p => p.producers.contains q
      | none => false))
    { s with
      cores := s.cores.map (fun c => { c with banks := c.banks.map (fun b => { b with
        fifo := b.fifo.filter (fun e => !withdrawn q out e.prod e.tidx)
        pixels := b.pixels.filter (fun e => !withdrawn q out e.prod e.tidx) }) })
      lanes := s.lanes.map (fun l => { l with links := l.links.map (fun k => { k with
        entries := k.entries.filter (fun e => !withdrawn q out e.prod e.tidx) }) }) }

/-! ### Grants (R162, R262) -/

/-- The grants a chunk needs, in ascending die order, write grants marked true (R162, R262). -/
def Pass.grantsNeeded (p : Pass) : List (Nat × Bool) :=
  let dev := p.accesses.filter (fun a => a.space = .device)
  let writes := (dev.filter (fun a => a.inW || a.inC)).map (fun a => homeDie a.addr)
  let all := sortedDies (dev.map (fun a => homeDie a.addr))
  let reads := if 2 ≤ all.length then all else []
  let spawns := p.runs.any (fun r => !r.excluded && r.deferred.any (fun d => match d.kind with
    | .spawn _ _ _ _ _ => true
    | _ => false))
  let w := if spawns then 0 :: writes else writes
  (sortedDies (w ++ reads)).map (fun d => (d, w.contains d))

/-- Whether a chunk's W∪C meets what the solo pass has read (R163, R287). -/
def State.meetsSolo (s : State) (q : PassRef) (p : Pass) : Bool :=
  s.soloHolder ≠ some q &&
  s.soloReads ((p.accesses.filter (fun a => a.inW || a.inC)).map (fun a => lineKey q.core a.space a.addr))

/-- The matrix entries of a chunk. -/
def Pass.entries (p : Pass) : List MatrixRec := p.runs.flatMap (fun r => if r.excluded then [] else r.matrix)

/-- Whether the matrix entries of a chunk fit in its core's queue (R140). A chunk with more than 64 entries fits once the
queue is empty: MODEL'S CHOICE (log 73), since it would never fit otherwise and the rule says that the wait always ends. -/
def CoreState.entriesFit (c : CoreState) (n : Nat) : Bool := decide (c.queue.length + n ≤ 64) || c.queue.isEmpty

/-- Whether a chunk may ask for its first grant, or linearize when it needs none: the earlier pass of its core has
committed (R169), its producers have (R177), its matrix entries fit (R140), and it does not meet the solo pass (R163). -/
def State.mayRequest (s : State) (l : Lane) (p : Pass) : Bool :=
  p.state = .submitted && !l.frozen && (l.uncommitted p.id).isEmpty
  && p.producers.all (fun q => (match s.lane? q.core q.ctx with
      | some m => (m.pass? q.pass).isNone
      | none => true))
  && (p.entries.isEmpty || (match s.core? l.core with
      | some c => c.entriesFit p.entries.length
      | none => true))
  && !s.meetsSolo { core := l.core, ctx := l.ctx, pass := p.id } p

/-- The lines of a broadcast that a chunk's R∪W meets (R163). A later pass of the committing lane has read the chunk's W
lines as they now are (R169; log 16). -/
def State.metLines (s : State) (l : Lane) (p : Pass) (b : Broadcast) : List (Nat × Nat) :=
  let own := match b.source with
    | some q => decide (q.core = l.core) && decide (q.ctx = l.ctx)
    | none => false
  ((if own then [] else b.wlines) ++ b.clines).filter (fun x => s.meets l.core p x.1 x.2)

/-- Whether a commit that has linearized will squash a chunk once its broadcast reaches the chunk's core (R163): the
broadcast is on its way, or is still to be made. A chunk that takes no grant does not linearize before it (R164, R165). -/
def State.dueMeets (s : State) (l : Lane) (p : Pass) : Bool :=
  s.broadcasts.any (fun b => b.cores.contains l.core && !(s.metLines l p b).isEmpty) ||
  s.lanes.any (fun m => m.passes.any (fun q => q.state = .granted && !q.got.isEmpty &&
    !(m.core = l.core && m.ctx = l.ctx) &&
    (q.lines m.core (fun a => a.inW || a.inC)).any (fun x => s.meets l.core p x.1 x.2)))

/-- The first pass of a lane linearizes at once when it needs no grant and may (R164). -/
def State.linearizeIdle (s : State) (core ctx : Nat) : State :=
  match s.lane? core ctx with
  | none => s
  | some l =>
    match l.passes with
    | [] => s
    | p :: _ => if p.need.isEmpty && s.mayRequest l p && !s.dueMeets l p then s.linearize core ctx p else s

/-! ### PASS_END -/

/-- The pass of a lane whose threads have all left. -/
def Lane.over? (l : Lane) : Option Pass :=
  if l.frozen then none
  else l.passes.find? (fun p => p.state = .streaming && p.admitted = p.admission.length && p.runs.all (·.drained))

/-- The pass with its runs judged, excluded runs marked, its accepted operations kept and its grants named. -/
def Pass.submit (p : Pass) : Pass :=
  let kept := p.keptAccesses
  let runs := p.runs.map (fun r => { r with excluded := r.leaves })
  let ins := byThread (runs.filter (fun (r : Run) => !r.excluded))
  let q := { p with
    accesses := kept, runs := runs, state := PassState.submitted
    groupsAfter := some (ins.flatMap (fun (r : Run) => (byIdx r.groupOps).map (fun o => (r.tidx, o, 0))))
    bankSets := ins.flatMap (fun (r : Run) => (byIdx (r.banks.map (fun (b : Nat × Word × Word) => (b.1, b.2)))).map (fun b => (r.tidx, b))) }
  { q with need := q.grantsNeeded, got := [], requested := false }

/-- Whether two accesses are returning atomics on a common byte, the first of them performed first (R173). -/
def Access.atomicBefore (a b : Access) : Bool :=
  let returns := fun (x : Access) => match x.kind with
    | .returning _ => true
    | _ => false
  returns a && returns b && decide (a.id < b.id) && decide (a.space = b.space) && decide (a.addr < b.addr + b.len)
  && decide (b.addr < a.addr + a.len)

/-- Whether a thread that leaves a pass performed a returning atomic which one of a thread that stays was computed on, or entered
into a stream what one that stays has taken (R435). -/
def Pass.tainted (p : Pass) : Bool :=
  let leaver := fun (t : Nat) => (p.run? t).any (·.leaves)
  p.accesses.any (fun a => leaver a.tidx && p.accesses.any (fun b => !leaver b.tidx && a.atomicBefore b))
  || p.runs.any (fun r => !r.leaves && r.fed.any leaver)

/-- A pass to be run again without the threads that leave it: of these their runs stay as they are, and the loads of those that WAITA
parks. -/
def Pass.again (p : Pass) : Pass :=
  let out := p.runs.filter (·.leaves)
  { p.squash false with
    state := .streaming, squashes := p.squashes, solo := p.solo, nextId := p.nextId, usedPages := p.usedPages, left := out
    accesses := p.keptAccesses.filter (fun a => out.any (fun r => r.tidx = a.tidx)) }

/-- A pass run again without the threads that leave it, so that nothing they did remains in what its other threads found (R57, R193):
its stream entries and what depends on it fall as at a squash, and it keeps the solo ticket. MODEL'S CHOICE (log 92): the spec says
what the outcome holds and not how a returning atomic is taken out of those that were computed on it, nor a stream entry out of a
thread of the same pass that took it. -/
def State.runAgain (s : State) (q : PassRef) (p : Pass) : State :=
  { s.squash false [q] with
    soloHolder := s.soloHolder
    soloQueue := (s.squash false [q]).soloQueue.filter (fun r => r ≠ q) }.updPass q.core q.ctx q.pass (fun _ => p.again)

/-- PASS_END (R269): the checks of R57, R206, R321 and R223, the exclusions, and the withdrawal of R435. MODEL'S CHOICE (log 72): the
blocks of scaled maps are checked before the links, groups and banks, and once more after them, since a thread that trapped there has
left blocks that others stored into; a thread that traps in the second round has been counted in what the others were judged by,
and, as R321 says, no judgement is made again. -/
def execPassEnd (core ctx : Nat) (s : State) : Host.Outcome State Fault Refusal :=
  .next (match s.lane? core ctx, (s.ctx? ctx).bind (·.kernelPacket?) with
    | some l, some k =>
      (match l.over? with
       | none => s
       | some p =>
         match l.block? p with
         | none => s
         | some b =>
           let x : Firing := { core := core, ctx := ctx, pass := p.id, tidx := 0, idx := 0 }
           let late := p.runs.map (fun r => r.settle b ((l.thread? r.tidx).elim 0 (·.lvsn)))
           let s := s.updPass core ctx p.id (fun p => { p with runs := late })
           let fuel := p.runs.length + 1
           let s := State.checkBlocks fuel s x b
           let s := match s.passOf? x with
             | none => s
             | some q => s.updPass core ctx p.id (fun p => { p with
                 runs := State.judgeAll s l k (s.viewFor l q) (byThread q.runs) })
           -- a thread that trapped there has left blocks that others stored into
           let s := State.checkBlocks fuel s x b
           let q : PassRef := { core := core, ctx := ctx, pass := p.id }
           match (s.passOf? x).filter (·.tainted) with
           | some p => (s.runAgain q p).active core ctx
           | none =>
             let s := (s.writeBlocks x b).updPass core ctx p.id (·.submit)
             let out := match s.passOf? x with
               | none => []
               | some q => (q.runs.filter (·.excluded)).map (·.tidx)
             ((s.withdraw q out).linearizeIdle core ctx).active core ctx)
    | _, _ => s)

end Sys2Proof.Machine
end

