-- ==== Sys2Proof/Machine/Grants.lean ====
section
/-! DEFINITION. The die arbiters (spec/01 R41, spec/06 R162, R163, spec/09 R262): requests, grants, the check of the solo
pass's reads, and the thread indices allocated at the grant of die 0. -/

namespace Sys2Proof.Machine

/-! ### The order of deferred effects (R181) -/

/-- The next of a thread's deferred effects: of those that none of the others stands before, the one of lowest index. Of several
firings of one instruction the first comes first: MODEL'S CHOICE (log 72), R181 gives the index alone. -/
def nextDeferred (ds : List Deferred) : Option Deferred :=
  best (fun a b => decide (a.idx < b.idx) || (decide (a.idx = b.idx) && decide (a.id < b.id)))
    (ds.filter (fun d => !ds.any (fun e => d.before.contains e.id)))

/-- A thread's deferred effects in their order. -/
def orderDeferred : Nat → List Deferred → List Deferred
  | 0, ds => ds
  | fuel + 1, ds =>
    match nextDeferred ds with
    | none => ds
    | some d => d :: orderDeferred fuel (ds.erase d)

/-- A chunk's deferred effects in the order of R181. -/
def Pass.orderedDeferred (p : Pass) : List Deferred :=
  (byThread (p.runs.filter (fun (r : Run) => !r.excluded))).flatMap (fun r => orderDeferred r.deferred.length r.deferred)

/-! ### Spawned indices (R262) -/

/-- Whether a deferred effect is a SPAWN. -/
def DeferredKind.isSpawn : DeferredKind → Bool
  | .spawn _ _ _ _ _ => true
  | _ => false

/-- Whether the SPAWNs of a chunk have their indices; an index is never 0. -/
def Pass.allocated (p : Pass) : Bool :=
  p.orderedDeferred.all (fun d => match d.kind with
    | .spawn _ _ _ _ t => decide (t ≠ 0)
    | _ => true)

/-- A chunk with an index for each of its SPAWNs, named by their numbers in order from `first`. -/
def Pass.withIndices (p : Pass) (ids : List Nat) (first : Nat) : Pass :=
  { p with runs := p.runs.map (fun r => { r with deferred := r.deferred.map (fun d =>
      match d.kind, ids.findIdx? (· = d.id) with
      | .spawn xn l0 l1 l2 _, some i => { d with kind := .spawn xn l0 l1 l2 (first + i) }
      | _, _ => d) }) }

/-- The indices of a chunk's SPAWNs allocated: a contiguous range from the spawn counter, or, when one would exceed
2^32 - 1, indices from 2^32, which no thread has (R262). -/
def State.allocateSpawns (s : State) (q : PassRef) (p : Pass) : State :=
  let ids := (p.orderedDeferred.filter (fun d => d.kind.isSpawn)).map (·.id)
  match s.ctx? q.ctx with
  | none => s
  | some c =>
    if ids.isEmpty || p.allocated then s
    else if c.spawnCounter + ids.length ≤ 2 ^ 32 then
      (s.updCtx q.ctx (fun c => { c with spawnCounter := c.spawnCounter + ids.length })).updPass q.core q.ctx q.pass
        (·.withIndices ids c.spawnCounter)
    else s.updPass q.core q.ctx q.pass (·.withIndices ids (2 ^ 32))

/-! ### Requests -/

/-- Whether a pass stands ready to ask an arbiter for its next grant. -/
def State.asks (s : State) (die : Nat) (l : Lane) (p : Pass) : Bool :=
  !p.requested && (match p.need with
    | g :: _ => decide (g.1 = die)
    | [] => false) &&
  (if p.got.isEmpty then s.mayRequest l p else p.state = .submitted && !l.frozen)

/-- The passes that ask an arbiter now. -/
def State.requesters (s : State) (die : Nat) : List PassRef :=
  s.lanes.flatMap (fun l => (l.passes.filter (s.asks die l)).map l.ref)

/-- A list turned round at a place. -/
def rotate (k : Nat) (xs : List α) : List α := xs.drop k ++ xs.take k

/-- Whether what a requester stands for still exists: an engine operation that is over leaves its requests and grants. -/
def State.liveRequester (s : State) : Requester → Bool
  | .chunk _ => true
  | .engine (.copy id) => s.copies.any (fun c => c.id = id)
  | .engine (.migration id) => s.migrations.any (fun m => m.id = id)
  | .engine (.port n) => s.posted.any (fun w => w.port = n)
  | .engine (.shootdown id) => s.shootdowns.any (fun d => d.id = id)
  | .engine (.retrain port) => (match s.cxl[port]? with
      | some p => !p.up
      | none => false)
  | .engine (.strip ctx part) =>
    (match s.ctx? ctx with
     | none => false
     | some c =>
       if part < 16 then c.packets.any (fun p => p.q = part)
       else if part = 16 then c.page.objBusy
       else if part = 17 then c.stall.isSome || (c.preempt && c.frozen)
       else c.dying.isSome)

/-- The requests that stand ready enter an arbiter's queue; which of them arrives first is free. -/
def State.queueRequests (s : State) (die : Nat) : State :=
  let qs := s.requesters die
  let pick := if qs.length ≤ 1 then (0, s) else s.choose qs.length
  let s := pick.2.updArbiter die (fun a =>
    let a := a.without (fun r => !s.liveRequester r)
    { a with queue := a.queue ++ (rotate pick.1 qs).map Requester.chunk })
  qs.foldl (fun s q => s.updPass q.core q.ctx q.pass (fun p => { p with requested := true })) s

/-! ### Grants -/

/-- The pass of a reference. -/
def State.passAt? (s : State) (q : PassRef) : Option Pass := (s.lane? q.core q.ctx).bind (fun l => l.pass? q.pass)

/-- A chunk whose SPAWNs have no indices any more. -/
def Pass.withoutIndices (p : Pass) : Pass :=
  { p with runs := p.runs.map (fun r => { r with deferred := r.deferred.map (fun d =>
      match d.kind with
      | .spawn xn l0 l1 l2 _ => { d with kind := .spawn xn l0 l1 l2 0 }
      | _ => d) }) }

/-- A chunk gives up its requests and grants, with the indices that came with the grant of die 0 (R262), and asks again from its
first die (R163). -/
def State.giveUp (s : State) (q : PassRef) : State :=
  let back := s.allottedTo q.ctx [q]
  ((s.dropRequests (.chunk q)).updCtx q.ctx (fun c => { c with spawnCounter := c.spawnCounter - back })).updPass q.core q.ctx q.pass
    (fun p => { p.withoutIndices with need := p.grantsNeeded, got := [], requested := false })

/-- Whether a commit that an arbiter granted earlier has still to reach a core (R162): another chunk or an engine commit
holds its grant, a chunk has linearized without having been broadcast, or its broadcast is on its way. -/
def State.unheard (s : State) (die : Nat) (q : PassRef) : Bool :=
  (match s.arbiters[die]? with
   | some a => a.granted.any (fun r => r ≠ .chunk q)
   | none => false) ||
  s.lanes.any (fun l => l.passes.any (fun p => p.state = .granted && p.got.any (fun g => g.1 = die))) ||
  s.broadcasts.any (fun b => b.dies.contains die && b.cores.contains q.core)

/-- A grant issued to the head of an arbiter's queue; the last one linearizes the chunk (R162, R164). Its core was active (R292). -/
def State.issueGrant (s : State) (die : Nat) (q : PassRef) : State :=
  let s := (s.active q.core q.ctx).updArbiter die (fun a => { queue := a.queue.erase (.chunk q), granted := a.granted ++ [.chunk q] })
  let s := match s.passAt? q with
    | some p => if die = 0 then s.allocateSpawns q p else s
    | none => s
  let s := s.updPass q.core q.ctx q.pass (fun p => { p with
    got := p.got ++ p.need.take 1, need := p.need.drop 1, requested := false })
  match s.passAt? q with
  | some p => if p.need.isEmpty then s.linearize q.core q.ctx p else s
  | none => s

/-- Whether the last grant of a chunk has to wait for a broadcast that will squash it: a chunk may read a line of a die whose grant
it does not take, the one that it takes being for its SPAWNs (R162, R164, R165, R262). -/
def State.lastGrantWaits (s : State) (q : PassRef) (p : Pass) : Bool :=
  decide (p.need.length ≤ 1) && (match s.lane? q.core q.ctx with
    | some l => s.dueMeets l p
    | none => false)

/-- The head of an arbiter's queue served, when it may be (R162, R163). An engine operation that has its grant goes on at its
own next event. -/
def State.serveHead (s : State) (die : Nat) : State :=
  match (s.arbiters[die]?).bind (fun a => a.queue.head?) with
  | none => s
  | some (.engine o) =>
    s.updArbiter die (fun a => if a.granted.isEmpty then { queue := a.queue.drop 1, granted := [.engine o] } else a)
  | some (.chunk q) =>
    match s.passAt? q with
    | none => s.updArbiter die (fun a => { a with queue := a.queue.drop 1 })
    | some p =>
      if (p.got.isEmpty || p.need.length ≤ 1) && s.meetsSolo q p then s.giveUp q
      else if s.unheard die q || s.lastGrantWaits q p then s
      else s.issueGrant die q

/-- ARBITER_GRANT (R162, R163, R262). -/
def execArbiterGrant (die : Nat) (s : State) : Host.Outcome State Fault Refusal :=
  .next (if die < 16 then (s.queueRequests die).serveHead die else s)

end Sys2Proof.Machine
end

