-- ==== Sys2Proof/Machine/Commit.lean ====
section
/-! DEFINITION. CHUNK_COMMIT (spec/06 R163, spec/09 R270, R278-R280, spec/10 R308, R314-R325, spec/05 R139, R141, R155,
spec/07 R219, R223, R224, R230, spec/13 R396-R399): what a chunk that has linearized does to its threads, groups, streams,
banks and queues, and its broadcast. -/

namespace Sys2Proof.Machine

/-! ### A thread's own part (R308, R314, R318, R325, R141) -/

/-- The flags that a thread's entries set, one for each entry (R141). -/
def Run.entryFlags (r : Run) : List Nat :=
  r.matrix.filterMap (·.flag) ++ r.deferred.filterMap (fun d => match d.kind with
    | .copy _ _ f => f
    | .tlbinv _ _ _ f => f
    | .cfginv _ _ _ f => f
    | _ => none)

/-- The slots that a thread writes: its WRITEs, and the link of its CALL (R308, R314). -/
def Run.slotWrites (b : Block) (r : Run) : List (Nat × Word) :=
  r.writes ++ (match r.exit with
    | some (_, .call _ lk xr) => [(lk, BitVec.ofNat 64 (b.exitBlock xr))]
    | _ => [])

/-- Live values with slots written. -/
def writeSlots (ws : List (Nat × Word)) (ls : List Word) : List Word := ws.foldl (fun ls w => listSet ls w.1 (fun _ => w.2)) ls

/-- A thread after its block: live values, count, entry counts and then software bits (R141, R318). -/
def Thread.commit (b : Block) (r : Run) (t : Thread) : Thread :=
  let n := match r.lvOp with
    | some (.shrink n) => min n t.lvsn
    | _ => t.lvsn
  let t := r.entryFlags.foldl (fun (t : Thread) k => t.countUp k) t
  { t with
    lvsn := n, lives := (writeSlots (r.slotWrites b) t.lives).take n
    swFlags := applyFlagOps r.flagOps t.swFlags }

/-- Whether a thread has ended with its block (R314, R425). -/
def Run.ended (r : Run) : Bool :=
  match r.exit with
  | some (_, .ended) => true
  | some (_, .halt _) => true
  | _ => false

/-- The block a thread goes on to (R314, R424). -/
def nextBlock (k : Packet) (b : Block) (t : Thread) (r : Run) : Nat :=
  match r.exit with
  | some (_, .exit xn) => b.exitBlock xn
  | some (_, .call xn _ _) => b.exitBlock xn
  | some (_, .ret _ w) => w.toNat
  | some (_, .resumeLink _ w) => w.toNat
  | some (_, .resume) => ((t.handler.bind (fun h => k.blockAt h.tblock)).getD b.blk)
  | _ => b.blk

/-- Whether a thread leaves its handler with its block (R424). -/
def Run.resumes (r : Run) : Bool :=
  match r.exit with
  | some (_, .resume) => true
  | some (_, .resumeLink _ _) => true
  | _ => false

/-! ### Groups (R155, R278, R279, R320, R322) -/

/-- Whether completing a block makes a thread arrive at its barrier (R278, R323). -/
def Block.arrives (b : Block) : Bool :=
  b.instrs.any (fun x => match x.2 with
    | .bar _ => true
    | .elect _ _ => true
    | .vote _ _ _ => true
    | .reduce _ _ _ _ _ => true
    | .scan _ _ _ _ _ _ => true
    | .bcast _ _ => true
    | _ => false)

/-- A thread's contributions (R155). -/
def Run.contributions (b : Block) (r : Run) : List Contribution :=
  r.contribs.filterMap (fun c => (b.instr? c.1).map (fun i =>
    { blk := b.blk, idx := c.1, instr := i, tidx := r.tidx, val := c.2 }))

/-- Results written into their slots (R155). -/
def Thread.takeResults (rs : List (Nat × Nat × Word)) (t : Thread) : Thread :=
  { t with lives := writeSlots ((rs.filter (fun x => x.1 = t.tidx)).map (·.2)) t.lives }

/-- Whether a generation completes (R320). -/
def Barrier.complete (b : Barrier) : Bool :=
  b.bound && decide (0 < b.arrived.length) && decide (b.expected.getD b.members.length ≤ b.arrived.length)

/-- A held member released to its exit block (R279). -/
def Thread.release (t : Thread) : Thread :=
  match t.place with
  | .held _ x => { t with place := .waiting x false }
  | _ => t

/-- A lane with the generations that are complete ended: results written, members released, arrivals 0, the bit flipped. -/
def Lane.completeGenerations (hseed : Word) (l : Lane) : Lane :=
  let done := l.barriers.filter (·.complete)
  let results := done.flatMap (fun b => generationResults hseed b.contribs)
  { l with
    threads := l.threads.map (fun t =>
      let t := t.takeResults results
      if done.any (fun b => b.arrived.contains t.tidx) then t.release else t)
    barriers := l.barriers.map (fun b => if b.complete then { b with arrived := [], contribs := [], gen := !b.gen } else b) }

/-- The barriers after a thread's accepted operations (R321). -/
def applyGroupOps (tidx : Nat) (ops : List GroupOp) (bs : List Barrier) : List Barrier :=
  ops.foldl (fun bs o => match groupStep tidx bs o with
    | .ok x => x
    | .error _ => bs) bs

/-- A thread arrives at a barrier, once for a generation (R278). -/
def Barrier.arrive (tidx : Nat) (cs : List Contribution) (b : Barrier) : Barrier :=
  { b with arrived := if b.arrived.contains tidx then b.arrived else tidx :: b.arrived, contribs := b.contribs ++ cs }

/-- One thread of a chunk committed on its lane (R322). -/
def Lane.commitRun (hseed : Word) (k : Packet) (b : Block) (l : Lane) (r : Run) : Lane :=
  let bars := applyGroupOps r.tidx (byIdx r.groupOps) l.barriers
  let cs := r.contributions b
  let group := if b.arrives then groupOf bars r.tidx else none
  let alone := if b.arrives && group.isNone then generationResults hseed cs else []
  let bars := match group with
    | some n => listSet bars n (Barrier.arrive r.tidx cs)
    | none => bars
  let bars := if r.ended then leaveGroup bars r.tidx else bars
  let after := fun (t : Thread) =>
    let next := nextBlock k b t r
    let u := (t.commit b r).takeResults alone
    { u with
      place := if group.isSome then .held b.blk next else .waiting next false
      handler := if r.resumes then none else u.handler
      group := groupOf bars r.tidx }
  let l : Lane := { l with
    barriers := bars
    threads := if r.ended then l.threads.filter (fun t => t.tidx ≠ r.tidx)
               else l.threads.map (fun t => if t.tidx = r.tidx then after t else t) }
  l.completeGenerations hseed

/-! ### Threads that left their block (R219, R242, R396) -/

/-- What made a thread trap at its admission is over once the trap is taken (R142, R283); a failure recorded since then
stands for the next admission. -/
def State.clearEntryFail (s : State) (core ctx : Nat) (r : Run) : State :=
  match r.entryFail with
  | some .matrix => s.updLane core ctx (fun l => l.updThread r.tidx (fun t => { t with matrixFail := none }))
  | some .refetch => s.updLane core ctx (fun l => l.updThread r.tidx (fun t => { t with refetchFail := none }))
  | none => s

/-- An excluded thread at the commit: it traps or waits for its migration (R270, R395); one that its WAITA parked has been
in the wait table since the linearization (`State.parkWaiter`). A thread that met both a migrating page and an unsatisfied
WAITA waits for the migration; one whose migration has ended or failed before its pass commits was not parked when it failed, and
goes back to wait at its block, to meet the page again. Both are MODEL'S CHOICES (log 72): the spec does not say which wins, nor
whether R243 traps a thread that touched the page in a pass still to commit. -/
def State.commitExcluded (s : State) (core ctx blk : Nat) (r : Run) : State :=
  match reported r.causes, r.migPark with
  | some c, _ => (s.clearEntryFail core ctx r).takeTrap core ctx r.tidx blk c.cause c.info
  | none, some (id, kind, va) =>
    if s.migrations.any (fun m => m.id = id) then
      let s := s.placeThread core ctx r.tidx (.migrating blk id)
      { s with migrations := s.migrations.map (fun m =>
          if m.id = id then { m with parked := m.parked ++ [(core, r.tidx, kind, va)] } else m) }
    else s.placeThread core ctx r.tidx (.waiting blk false)
  | none, none => s

/-! ### Needs of the pass's GROWs (R280) -/

/-- The GROWs of a chunk met in turn; the threads whose need cannot be met fail the packet, with the address of a fault of the
siding (R282). -/
def State.growAll (core ctx : Nat) : List Run → State → Room × List (Nat × Nat × Option Nat)
  | [], s => (.ok s, [])
  | r :: rs, s =>
    match r.lvOp, (s.lane? core ctx).bind (fun l => l.thread? r.tidx) with
    | some (.grow n), some t =>
      if n ≤ t.lvsn || r.excluded then State.growAll core ctx rs s
      else
        (match s.roomFor core ctx r.tidx (n - t.lvsn) false with
         | .wait u => (.wait u, [])
         | .lost u => (.lost u, [])
         | .full u a =>
           let more := State.growAll core ctx rs u
           (more.1, (r.tidx, cLvsExhausted, a) :: more.2)
         | .ok u =>
           let u := { u with freeCtr := u.freeCtr + (n - t.lvsn) }
           State.growAll core ctx rs (u.updLane core ctx (fun l => l.updThread r.tidx (fun t =>
             { t with lvsn := n, lives := t.lives ++ liveWords (u.livePool ctx) (u.freeCtr - (n - t.lvsn)) (n - t.lvsn) }))))
    | _, _ => State.growAll core ctx rs s

/-! ### Streams and banks (R179, R224, R230) -/

/-- Entries after the commit of a chunk: what it popped is gone, what it pushed is committed. -/
def commitEntries (q : PassRef) (es : List FifoEntry) : List FifoEntry :=
  (es.filter (fun e => e.pop ≠ some q)).map (fun e => if e.prod = some q then { e with prod := none } else e)

/-- A bank after the commit of a chunk, with the windows that retire. -/
def Bank.commit (q : PassRef) (wins : List Nat) (b : Bank) : Bank :=
  let b := { b with
    fifo := commitEntries q b.fifo
    pixels := b.pixels.map (fun x => if x.prod = some q then { x with prod := none } else x) }
  if wins.isEmpty then b else b.retire wins

/-- The windows that retire at a bank with a chunk. -/
def State.retiring (s : State) (core ctx : Nat) (p : Pass) (loc : PortLoc) : List Nat :=
  (p.runs.filter (fun (r : Run) => !r.excluded)).flatMap (fun r => (r.windows.filter (fun w =>
    s.portLoc core ctx w.1 .window = some loc)).map (·.2))

/-- The streams after the commit of a chunk. -/
def State.commitStreams (s : State) (core ctx : Nat) (p : Pass) : State :=
  let q : PassRef := { core := core, ctx := ctx, pass := p.id }
  { s with
    cores := s.cores.map (fun c => { c with
      banks := c.banks.mapIdx (fun i b => b.commit q (s.retiring core ctx p (.bank c.core i))) })
    lanes := s.lanes.map (fun l => { l with links := l.links.map (fun k => { k with entries := commitEntries q k.entries }) }) }

/-- A bank's mode set (R224): it is zero-filled but for SCRATCH to SCRATCH, and belongs to the context unless it returns to
CACHE. -/
def Bank.setMode (ctx : Nat) (a g : Word) (b : Bank) : Bank :=
  let m := bankModeOf a.toNat
  { Bank.reset with
    mode := m, geom := g.toNat, owner := if m = .cache then 0 else ctx, binding := b.binding
    bytes := if m = .scratch && b.mode = .scratch then b.bytes else [] }

/-- The last accepted BANKMODE for each bank (R223). -/
def lastBankSets : List (Nat × Word × Word) → List (Nat × Word × Word)
  | [] => []
  | x :: xs =>
    if xs.any (fun y => y.2.1.toNat % 32 = x.2.1.toNat % 32) then lastBankSets xs else x :: lastBankSets xs

/-- The accepted BANKMODEs of a chunk take effect, the last one for each bank (R223, R224); L1 lines of a bank that leaves
CACHE mode are dropped. -/
def State.commitBanks (s : State) (core ctx : Nat) (p : Pass) : State :=
  (lastBankSets p.bankSets).foldl (fun s x =>
    (s.updCore core (fun c => c.updBank (x.2.1.toNat % 32) (Bank.setMode ctx x.2.1 x.2.2))).trimL1 core) s

/-! ### Queues (R139, R180, R181) -/

/-- Whether a deferred effect stays for the deferred stage; a FENCE or REL has done its ordering there (log 18), and a SPAWN
without an index spawns nothing (R262). -/
def DeferredKind.stays : DeferredKind → Bool
  | .fence _ => false
  | .release _ => false
  | .spawn _ _ _ _ t => decide (t < 2 ^ 32)
  | _ => true

/-- A chunk's deferred effects queued at its core, after those of every chunk that has committed there (R181). -/
def State.queueDeferred (s : State) (core ctx : Nat) (p : Pass) : State :=
  let n : Nat := match s.core? core with
    | some c => c.commits + 1
    | none => 0
  let ds := (p.orderedDeferred.filter (fun d => d.kind.stays)).map (fun d => { d with seq := n })
  (s.updLane core ctx (fun l => { l with deferred := l.deferred ++ ds })).updCore core (fun c => { c with commits := n })

/-- Matrix entries by thread, instruction and generation. The order of an instruction's several firings is the MODEL'S CHOICE (log 72):
R139 orders by thread and instruction alone. -/
def MatrixRec.before (a b : MatrixRec) : Bool :=
  decide (a.tidx < b.tidx) || (decide (a.tidx = b.tidx) &&
    (decide (a.idx < b.idx) || (decide (a.idx = b.idx) && decide (a.gen ≤ b.gen))))

/-- A matrix entry put in its place. -/
def insertRec (a : MatrixRec) : List MatrixRec → List MatrixRec
  | [] => [a]
  | b :: bs => if a.before b then a :: b :: bs else b :: insertRec a bs

/-- A chunk's matrix entries appended to the core's queue (R139). -/
def State.appendEntries (s : State) (core ctx : Nat) (p : Pass) : State :=
  s.updCore core (fun c => { c with queue := c.queue ++ (p.entries.foldr insertRec []).map (fun r =>
    { ctx := ctx, record := r, stage := .queued, leaveWait := 0, leave := false }) })

/-! ### Yield (R316) -/

/-- The threads that yielded step aside until the other blocks with waiting threads have been chosen; a block in which only such
threads wait has a waiting count of 0. -/
def Lane.commitYields (l : Lane) (k : Packet) (p : Pass) : Lane :=
  let ys := (p.runs.filter (fun (r : Run) => !r.excluded && r.yielded)).map (·.tidx)
  let aside : Lane := { l with threads := l.threads.map (fun t => if ys.contains t.tidx then { t with yieldLeft := some (0, []) } else t) }
  let live := aside.nonempty k
  { l with threads := l.threads.map (fun t =>
      if !ys.contains t.tidx then t
      else
        let next := match t.place with
          | .waiting b _ => b
          | .held _ b => b
          | _ => 0
        let others := live.filter (fun b => b ≠ next)
        if others.isEmpty then t else { t with yieldLeft := some (l.regs.age, others) }) }

/-! ### The commit -/

/-- The failures of a packet that one thread of a chunk brings (R399), in the order in which they are met; a failed matrix
entry of a thread that ends with this block is among them (R142). -/
def Pass.failures (p : Pass) (grown : List (Nat × Nat × Option Nat)) (entry : Option (Nat × Nat)) (r : Run) :
    List (Nat × Option Nat) :=
  (p.fails.filter (fun f => f.1 = r.tidx)).map (fun f => (f.2, none)) ++ (grown.filter (fun f => f.1 = r.tidx)).map (·.2) ++
  (if !r.excluded && r.ended then (entry.map (fun e => (e.1, some e.2))).toList else []) ++
  (match r.excluded, r.exit with
   | false, some (_, .halt c) => [(c, none)]
   | _, _ => []) ++
  (if !r.excluded && r.deferred.any (fun d => d.kind.isSpawn && !d.kind.stays) then [(cTidxExhausted, none)] else [])

/-- One thread of a chunk at its commit. -/
def State.commitThread (core ctx : Nat) (k : Packet) (b : Block) (p : Pass) (grown : List (Nat × Nat × Option Nat))
    (s : State) (r : Run) : State :=
  let hseed := s.hseed ctx
  let entry := ((s.lane? core ctx).bind (fun l => l.thread? r.tidx)).bind (·.matrixFail)
  let s := if r.excluded then s.commitExcluded core ctx b.blk r
    else s.updLane core ctx (fun l => l.commitRun hseed k b r)
  let s := if r.excluded then s else s.noteLives ctx (r.writes.map (·.2))
  (p.failures grown entry r).foldl (fun s c => s.failPacket ctx c.1 c.2) s

/-- What remains of a pass once its chunk has committed: nothing of it is held any longer. -/
def State.dropPass (s : State) (q : PassRef) : State :=
  { s with
    lanes := s.lanes.map (fun l => if l.core = q.core && l.ctx = q.ctx then
      { l with passes := l.passes.filter (fun p => p.id ≠ q.pass) } else l)
    arbiters := s.arbiters.map (Arbiter.without (fun r => r = .chunk q))
    soloHolder := if s.soloHolder = some q then none else s.soloHolder }

/-- A chunk that has linearized takes effect on its core and is broadcast (R163). -/
def State.commitPass (s : State) (core ctx : Nat) (k : Packet) (b : Block) (p : Pass)
    (grown : List (Nat × Nat × Option Nat)) : State :=
  let q : PassRef := { core := core, ctx := ctx, pass := p.id }
  let runs := byThread p.runs
  let s := runs.foldl (State.commitThread core ctx k b p grown) s
  let s := (s.updLane core ctx (fun l => l.commitYields k p)).queueDeferred core ctx p
  let s := ((s.commitStreams core ctx p).appendEntries core ctx p).commitBanks core ctx p
  let s := if p.got.isEmpty then s
    else s.broadcast (some q) (p.lines core (·.inW)) (p.lines core (·.inC)) (sortedDies (p.got.map (·.1)))
  ((s.dropPass q).linearizeIdle core ctx).active core ctx

/-- Whether a chunk has a GROW whose need is to be met at its commit (R280). -/
def Pass.grows (p : Pass) : Bool :=
  p.runs.any (fun r => !r.excluded && (match r.lvOp with
    | some (.grow _) => true
    | _ => false))

/-- CHUNK_COMMIT (R163, R164): the first pass of a lane, once it has linearized. A GROW that waits for a page of the siding
keeps it waiting, and so do the refetches of a pass that is being admitted (R281). The GROWs are met before the slots that the
pass's SHRINKs and ENDs free count as free: MODEL'S CHOICE (log 83), R263, R280 and R325 give no order. -/
def execChunkCommit (core ctx : Nat) (s : State) : Host.Outcome State Fault Refusal :=
  let s := s.linearizeIdle core ctx
  .next (match s.lane? core ctx, (s.ctx? ctx).bind (·.kernelPacket?) with
    | some l, some k =>
      (match l.passes with
       | [] => s
       | p :: _ =>
         match l.block? p with
         | none => s
         | some b =>
           if p.state ≠ .granted || (p.grows && s.refetchDue core) then s
           else
             match State.growAll core ctx (byThread p.runs) s with
             | (.ok t, grown) => t.commitPass core ctx k b p grown
             | (.wait t, _) => s.onlyMigrations t
             | (.lost t, _) => t
             | (.full _ _, _) => s)
    | _, _ => s)

end Sys2Proof.Machine
end

