-- ==== Sys2Proof/Machine/Arrive.lean ====
section
/-! DEFINITION. Broadcasts reaching a core (spec/06 R163, R166, R168, spec/07 R220, spec/08 R240) and the deferred effects
that go to an S home, a port, the marshal or the configuration slots (spec/06 R180-R184, R190, spec/09 R263, spec/13
R423). -/

namespace Sys2Proof.Machine

/-! ### W_C_BROADCAST_ARRIVAL -/

/-- The broadcast that reaches a core next: they arrive in the order of their commits. -/
def State.nextBroadcast (s : State) (core : Nat) : Option Broadcast := s.broadcasts.find? (fun b => b.cores.contains core)

/-- The chunks of a core that a broadcast can squash: those in flight with some R or W line, but for the solo pass. -/
def State.exposed (s : State) (core : Nat) : List (Lane × Pass) :=
  (s.lanes.filter (fun l => l.core = core)).flatMap (fun l =>
    (l.passes.filter (fun p => p.state.inFlight && s.soloHolder ≠ some (l.ref p) &&
      p.accesses.any (fun a => a.inR || a.inW))).map (fun p => (l, p)))

/-- The L2 slice of a line of a die (R239). -/
def sliceOf (line : Nat) : Nat :=
  let f := fun k => field line k 4
  homeDie (line * 64) * 16 + ((f 0 ^^^ f 4) ^^^ (f 8 ^^^ f 12))

/-- A line put first in a table that holds at most `n`; the oldest falls out. -/
def remember (n line : Nat) (ls : List Nat) : List Nat := (line :: ls.filter (fun x => x ≠ line)).take n

/-- The home's records with a line added; a slice holds 1024 (R240). A line marked again while its record stands counts as
the newest record: MODEL'S CHOICE (log 72), the spec does not say. -/
def rememberHome (line : Nat) (ls : List Nat) : List Nat :=
  let all := line :: ls.filter (fun x => x ≠ line)
  match ((all.filter (fun x => sliceOf x = sliceOf line)).drop 1024).head? with
  | some old => all.filter (fun x => x ≠ old)
  | none => all

/-- Whether a core has a chunk in flight that touches a line. -/
def State.touches (s : State) (core line : Nat) : Bool :=
  s.lanes.any (fun l => l.core = core && l.passes.any (fun p => p.state.inFlight &&
    p.accesses.any (fun a => lineKey core a.space a.addr = line)))

/-- Byte tracking after a squash on a device line (R168): a line that was tracked has met an overlap, and is tracked no more where
that was one of two chunks; another becomes tracked at its home and on each core that touches it. MODEL'S CHOICE (log 72): a core that
first touches a line already tracked takes it into its table at the first squash there, since the spec does not say when. -/
def State.trackLine (core : Nat) (chunk : Bool) (s : State) (line : Nat) : State :=
  if 2 ^ 50 ≤ line then s
  else
    let tracked := s.byteTracked.contains line && (match s.core? core with
      | some c => c.contended.contains line
      | none => false)
    if tracked && !chunk then s
    else if tracked then
      { s with
        byteTracked := s.byteTracked.filter (fun x => x ≠ line)
        cores := s.cores.map (fun c => { c with contended := c.contended.filter (fun x => x ≠ line) }) }
    else
      { s with
        byteTracked := rememberHome line s.byteTracked
        cores := s.cores.map (fun c =>
          if c.core = core || s.touches c.core line then { c with contended := remember 64 line c.contended } else c) }

/-- A core has received a broadcast. -/
def State.received (s : State) (core : Nat) (b : Broadcast) : State :=
  let left := s.broadcasts.map (fun (x : Broadcast) => if x = b then { x with cores := x.cores.erase core } else x)
  { s with broadcasts := left.filter (fun x => !x.cores.isEmpty) }

/-- W_C_BROADCAST_ARRIVAL (R163, R166, R168, R220): L1 copies are dropped, chunks squashed and waiters woken. With
`falseMatch` the chunks and waiters count too that the lines meet by the hash of the signatures alone (R160, R221): MODEL'S CHOICE
(log 95), the hash is not given, and both outcomes are the machine's. -/
def execWcBroadcastArrival (core : Nat) (falseMatch : Bool) (s : State) : Host.Outcome State Fault Refusal :=
  .next (match s.nextBroadcast core with
    | none => s
    | some b =>
      let lines := (b.wlines ++ b.clines).map (·.1)
      let hit := (s.exposed core).filter (fun x => !(s.metLines x.1 x.2 b).isEmpty)
      let met := (hit.flatMap (fun x => (s.metLines x.1 x.2 b).map (·.1))).dedup
      let fallen := (s.exposed core).filter (fun x => hit.contains x || (falseMatch && x.2.signatureMeets core lines))
      let s := met.foldl (State.trackLine core b.source.isSome) s
      let s := s.updCore core (fun c => { c with l1 := c.l1.filter (fun x => !lines.contains x.line) })
      let s := s.squash true (fallen.map (fun x => x.1.ref x.2))
      (s.wakeWaiters core falseMatch lines).received core b)

/-! ### S stores and stores to hosts and peers (R183, R190) -/

/-- The first deferred effect of a lane has been handed on. -/
def State.popHead (s : State) (core ctx : Nat) : State := s.updLane core ctx (·.popDeferred)

/-- Bytes of an S store under their masks, over what their homes hold. -/
def State.maskedBytes (s : State) (pa key : Nat) (bytes : List (Byte × Byte)) : List DevByte :=
  bytes.mapIdx (fun i b => { pa := pa + i, val := mergeByte (s.byteAt (pa + i)) b.1 b.2, key := key })

/-- S_STORE_PUBLISH (R183, R184): the store reaches its line's home. It is no commit: nothing is broadcast. A store whose
link is down is lost with the link (R244). -/
def execSStorePublish (core ctx : Nat) (s : State) : Host.Outcome State Fault Refusal :=
  .next (match s.headDeferred core ctx with
    | some d =>
      (match d.kind with
       | .sStore _ pa key bytes _ =>
         if s.copyLocked pa then s
         else
           let t := s.popHead core ctx
           if s.linkUp pa then ((t.commitBytes (t.maskedBytes pa key bytes)).updateCopy core (pa / 64)).touchPhys pa bytes.length else t
       | _ => s)
    | none => s)

/-- HOST_PEER_STORE_SEND (R190): a store, or an integer addition at the port, leaves in the order of R181. -/
def execHostPeerStoreSend (core ctx : Nat) (s : State) : Host.Outcome State Fault Refusal :=
  .next (match s.headDeferred core ctx with
    | some d =>
      (match d.kind with
       | .hostStore _ pa bytes =>
         let t := s.popHead core ctx
         if s.linkUp pa then { (t.noteSent ctx pa bytes.length true).touchPhys pa bytes.length with mem := writeMasked t.mem pa bytes } else t
       | .hostAdd _ pa len b =>
         let t := s.popHead core ctx
         if s.linkUp pa then
           { (t.noteSent ctx pa len true).touchPhys pa len with mem := Memory.writeBytes t.mem pa (leBytes len (leNat (t.bytesAt pa len) + b.toNat)) }
         else t
       | _ => s)
    | none => s)

/-! ### SPAWN_PLACE (R263) -/

/-- A spawned thread written to the siding (R263, R284). -/
def State.spawnSpilled (s : State) (core ctx tidx blk slots : Nat) (given : List (Option Word)) : Room :=
  match s.lane? core ctx with
  | none => .full s none
  | some l =>
    if !l.regs.sidingHolds tidx then .full s none
    else
      let va := l.regs.sidebase + 1024 * tidx
      let image := sidingImage (s.livePool ctx) s.freeCtr
      match ({ s with freeCtr := s.freeCtr + 128 } : State).writeVa ctx va image .store false with
      | (.park _, _, t) => .wait t
      | (.bad _ a, _, t) => .full t (some a)
      | (.ok ps, _, t) =>
        let lives := newLives (t.livePool ctx) t.freeCtr slots given
        .ok (((({ t with freeCtr := t.freeCtr + slots } : State).storeImage ctx ps).updLane core ctx (fun l =>
          { l with threads := l.threads ++ [{ Thread.fresh tidx 0 blk lives with spill := some (spillAt va ps image) }]
            })).noteLives ctx (given.filterMap id))

/-- Whether needs for live-value slots that come before a SPAWN's are open on a core (R281): refetches of a pass being admitted,
GROWs of chunks that have linearized. -/
def State.needsBefore (s : State) (core : Nat) : Bool :=
  s.refetchDue core || s.lanes.any (fun l => l.core = core && l.passes.any (fun p => p.state = .granted && p.grows))

/-- SPAWN_PLACE (R263, R281): the new thread takes free slots, or is written to the siding. -/
def execSpawnPlace (core ctx : Nat) (s : State) : Host.Outcome State Fault Refusal :=
  .next (match s.headDeferred core ctx with
    | some d =>
      (match d.kind with
       | .spawn blk l0 l1 l2 tidx =>
         if s.needsBefore core then s
         else
         let slots := s.declared ctx
         let given := [l0, l1, l2]
         let free := decide (s.slotsUsed core + slots ≤ 65536) && decide ((s.residents core).length < 4096)
         (match (if free then s.createThread core ctx tidx slots given (.waiting blk false)
                 else s.spawnSpilled core ctx tidx blk slots given) with
          | .ok t => (t.popHead core ctx).active core ctx
          | .wait t => s.onlyMigrations t
          | .full t a => (t.popHead core ctx).failPacket ctx cLvsExhausted a
          | .lost t => t)
       | _ => s)
    | none => s)

/-! ### CFGINV_MARK (R423) -/

/-- Whether a range of addresses meets a block image or one of the maps it took with it. -/
def Block.overlaps (b : Block) (mapBase va n : Nat) : Bool :=
  (decide (b.va < va + n) && decide (va < b.va + b.bytes)) ||
  b.maps.any (fun m => decide (mapBase + 64 * m.1 < va + n) && decide (va < mapBase + 64 * m.1 + 64))

/-- A slot marked stale when its block overlaps the range. -/
def CfgSlot.mark (all : Bool) (mapBase va n : Nat) (c : CfgSlot) : CfgSlot :=
  { block := c.block.map (fun b => if all || b.overlaps mapBase va n then { b with stale := true } else b) }

/-- The part of a packet's image that a CFGINV covers, as pieces of pages. -/
def Packet.covered (p : Packet) (all : Bool) (va n : Nat) : List (Nat × Nat) :=
  let base := p.objVa + p.image.1
  let lo := if all then base else max base va
  let hi := if all then base + p.image.2 else min (base + p.image.2) (va + n)
  if hi ≤ lo then [] else pagePieces lo (hi - lo)

/-- Whether a CFGINV covers every block of a packet. The blocks of a VPB image are made of the section as a whole (R67), so that a
range which meets the section covers each of them. -/
def Packet.marksAll (p : Packet) (all : Bool) (va n : Nat) : Bool := all || (p.native.isSome && !(p.covered false va n).isEmpty)

/-- A packet whose block loads find the byte ranges given as they stand in memory, and no longer as its acquire found them. -/
def Packet.refreshed (spans : List (Nat × Nat)) (m : List Host.Cell) (p : Packet) : Packet :=
  { p with old := (p.old.1, cellsIn p.old.1 (withCells spans (cellsIn spans m) p.old.2)) }

/-- A packet refreshed so, with the blocks of its runs as they then are: its later block loads and the checks of its RETs take them
(R314, R327). -/
def State.refreshRuns (s : State) (ctx : Nat) (spans : List (Nat × Nat)) (p : Packet) : Packet :=
  let q := p.refreshed spans s.mem
  { q with runs := q.runs.map (State.runNow q.sight s ctx q) }

/-- The patches that a CFGINV puts into every later configuration of a packet (R423): its block loads no longer find what stood in
the range before. One that is committed after the CFGINV's chunk and before its mark is among them: MODEL'S CHOICE (log 77). -/
def State.refreshImage (s : State) (ctx : Nat) (k : Packet) (all : Bool) (va n : Nat) : Reach Unit × State :=
  match s.physRanges ctx .fetch (k.covered all va n) with
  | (.ok rs, t) => (.ok (), t.updCtx ctx (fun c => c.updPacket k.q k.index (t.refreshRuns ctx (rs.map (·.2.2)))))
  | (.park m, t) => (.park m, t)
  | (.bad c a, t) => (.bad c a, t)

/-- CFGINV_MARK (R423). -/
def execCfginvMark (core ctx : Nat) (s : State) : Host.Outcome State Fault Refusal :=
  .next (match s.headDeferred core ctx, (s.ctx? ctx).bind (·.kernelPacket?) with
    | some d, some k =>
      (match d.kind with
       | .cfginv all va n flag =>
         (match s.refreshImage ctx k all va n with
          | (.ok _, t) =>
            ((t.popHead core ctx).updLanes ctx (fun l =>
              { l with slots := l.slots.map (CfgSlot.mark (k.marksAll all va n) k.mapBase va n) })).updLane core ctx (fun l => l.clearFlag d.tidx flag)
          | (_, t) => s.onlyMigrations t)
       | _ => s)
    | _, _ => s)

end Sys2Proof.Machine
end

