-- ==== Sys2Proof/Machine/Shootdown.lean ====
section
/-! DEFINITION. Shootdowns (spec/11 R346-R349, spec/13 R422), the leaves of a context's page tables, and migrations
(spec/08 R241-R243). -/

namespace Sys2Proof.Machine

/-! ### Shootdowns (R348) -/

/-- Whether an access of a 64 KiB page of its context may have used a translation that a shootdown drops: a page of its range, or one
that a dropped translation serves. -/
def Shootdown.covers (d : Shootdown) (page : Nat) : Bool :=
  d.all || (decide (d.page ≤ page) && decide (page < d.page + d.pages)) ||
  d.dropped.any (fun x => decide (x.1 ≤ page) && decide (page < x.1 + x.2))

/-- Whether a cached translation of its context meets a shootdown's range. -/
def Shootdown.meetsEntry (d : Shootdown) (t : TlbEntry) : Bool :=
  decide (t.ctx = d.ctx) && (d.all || (decide (d.page < t.page + t.pages) && decide (t.page < d.page + d.pages)))

/-- A shootdown with the pages of the translations that it drops, or has dropped. -/
def State.widen (s : State) (d : Shootdown) : Shootdown :=
  if d.broadcast then d else { d with dropped := (s.tlb.filter d.meetsEntry).map (fun t => (t.page, t.pages)) }

/-- Whether a chunk used a translation that a shootdown drops. -/
def Shootdown.hits (d : Shootdown) (l : Lane) (p : Pass) : Bool :=
  decide (l.ctx = d.ctx) && p.state.inFlight && p.usedPages.any (d.covers ·)

/-- A shootdown requested; its number is the next. -/
def State.requestShootdown (s : State) (ctx : Nat) (all : Bool) (page pages : Nat) (starter : ShootStarter) : State :=
  { s with
    nextShootdown := s.nextShootdown + 1
    shootdowns := s.shootdowns ++ [{ id := s.nextShootdown, ctx := ctx, all := all, page := page, pages := pages
                                     starter := starter, broadcast := false }] }

/-- Whether the solo pass used a translation that a shootdown drops, so that it waits for its commit. -/
def State.soloUses (s : State) (d : Shootdown) : Bool :=
  match s.soloHolder with
  | none => false
  | some q =>
    match s.lane? q.core q.ctx, s.passAt? q with
    | some l, some p => (s.widen d).hits l p
    | _, _ => false

/-- A shootdown broadcast: its translations are dropped everywhere and the chunks that used one are squashed. -/
def State.broadcastShootdown (s : State) (d : Shootdown) : State :=
  let d := s.widen d
  let users := s.lanes.flatMap (fun l => (l.passes.filter (fun p => d.hits l p)).map l.ref)
  let t := s.squash true users
  { t with
    tlb := t.tlb.filter (fun e => !d.meetsEntry e)
    shootdowns := t.shootdowns.map (fun (x : Shootdown) => if x.id = d.id then { x with broadcast := true, dropped := d.dropped } else x) }

/-- The TLBINV that stands first among a lane's deferred effects becomes a shootdown requested (R422). -/
def State.takeTlbinv (s : State) (core ctx : Nat) : State :=
  match s.headDeferred core ctx with
  | some d =>
    (match d.kind with
     | .tlbinv all va pages flag =>
       (s.popHead core ctx).requestShootdown ctx all (va / 65536) pages (.thread core d.tidx flag)
     | _ => s)
  | none => s

/-- Whether a deferred effect writes through a translation that a shootdown drops. -/
def Shootdown.coversStore (d : Shootdown) (e : Deferred) : Bool :=
  match e.kind with
  | .sStore va _ _ _ _ => d.covers (va / 65536)
  | .hostStore va _ _ => d.covers (va / 65536)
  | .hostAdd va _ _ _ => d.covers (va / 65536)
  | _ => false

/-- Whether a store made under a dropped translation by a chunk that has its place in the commit order has still to reach its home
or its port (R348, R349). -/
def State.storesDue (s : State) (d : Shootdown) : Bool :=
  let d := s.widen d
  (s.lanes.filter (fun l => l.ctx = d.ctx)).any (fun l =>
    l.passes.any (fun p => p.state = .granted && p.runs.any (fun r => !r.excluded && r.deferred.any d.coversStore)) ||
    l.deferred.any d.coversStore)

/-- Whether an access made under a dropped translation is outstanding (R348): a read or gather on its way, an S store not
yet at its home, a store not yet sent to a port, a write of a matrix entry under way. A posted write through an aperture is
translated when it is made, so that it never uses a dropped translation. -/
def State.drainsFor (s : State) (d : Shootdown) : Bool :=
  s.storesDue d ||
  (s.lanes.filter (fun l => l.ctx = d.ctx)).any (fun l =>
    l.passes.any (fun p => p.runs.any (fun r =>
      r.outstanding.any (fun o => (o.va :: o.also.map (·.2)).any (fun va => d.covers (va / 65536))) ||
      r.gathers.any (fun g => !g.returned && !r.drained && d.covers (g.va / 65536)))))

/-- The register page after an invalidation command has completed (R363). -/
def CtxPage.invalidated (p : CtxPage) : CtxPage := { p with invBusy := false, invDone := (p.invDone + 1) % 2 ^ 32 }

/-- The report of a shootdown's completion to its starter. -/
def State.reportShootdown (s : State) (d : Shootdown) : State :=
  match d.starter with
  | .thread core tidx flag => s.updLane core d.ctx (fun l => l.clearFlag tidx flag)
  | .register => s.updCtx d.ctx (·.updPage (·.invalidated))
  | _ => s

/-- SHOOTDOWN_COMPLETE (R348, R349): its grants are released and its completion is reported. -/
def execShootdownComplete (id : Nat) (s : State) : Host.Outcome State Fault Refusal :=
  .next (match s.shootdowns.find? (fun d => d.id = id) with
    | none => s
    | some d =>
      if !d.broadcast || s.drainsFor d then s
      else
        (({ s with shootdowns := s.shootdowns.filter (fun x => x.id ≠ id) } : State).dropRequests
          (.engine (.shootdown id))).reportShootdown d)

/-! ### The leaves of a page table (R342-R344) -/

/-- A leaf with its virtual page and the place of its entry. -/
structure LeafAt where
  va : Nat
  at_ : Nat
  entry : Nat
  level : Nat
  deriving DecidableEq, Repr

/-- The places of the entries of a table that are not zero. -/
def State.tableEntries (s : State) (table size : Nat) : List Nat :=
  ((s.mem.filter (fun c => decide (table ≤ c.1) && decide (c.1 < table + size))).map (fun c => c.1 / 8 * 8)).dedup

/-- An entry of a context's table, when the part can read it. -/
def State.tableEntry (s : State) (c : Context) (at_ : Nat) : Option Nat :=
  if s.linkUp at_ && (s.readFault at_ (c.keyIndex 0) .load).isNone then some (leNat (s.bytesAt at_ 8)) else none

/-- The leaves below a table, level by level. -/
def State.leavesBelow (s : State) (c : Context) : Nat → Nat → Nat → Nat → Nat → List LeafAt
  | 0, _, _, _, _ => []
  | fuel + 1, level, table, size, va =>
    if !inRanges c.ranges table size then []
    else
      let span := if level = 0 then 2 ^ 42 else if level = 1 then 2 ^ 29 else 65536
      (s.tableEntries table size).flatMap (fun at_ =>
        match s.tableEntry c at_ with
        | none => []
        | some e =>
          let here := va + (at_ - table) / 8 * span
          if e % 2 = 0 then []
          else if field e 1 1 = 1 then [{ va := here, at_ := at_, entry := e, level := level }]
          else State.leavesBelow s c fuel (level + 1) (entryAddr e) 65536 here)

/-- Every leaf of a context's page table that the part can read. -/
def State.leaves (s : State) (c : Context) : List LeafAt := s.leavesBelow c 3 0 (c.root * 2 ^ 18) (2 ^ 18) 0

/-- A table entry rewritten by the part (R346): an engine commit under key slot 0. -/
def State.rewriteEntry (s : State) (c : Context) (at_ e : Nat) : State :=
  s.engineCommit (devBytes at_ (c.keyIndex 0) (leBytes 8 e))

/-- A mark whose entry cannot be read any more, since its own port has been lost meanwhile, is kept for that port's return (R244). -/
def State.keepMark (s : State) (at_ : Nat) : State :=
  match physKind at_, physKind (entryAddr (leNat (s.bytesAt at_ 8))) with
  | .capacity b, .capacity a =>
    { s with cxl := listSet s.cxl b (fun p => if p.up then p else { p with missed := p.missed ++ [(a, b)] }) }
  | _, _ => s

/-- The mark that a shootdown brings with it is set, when the entry still maps a page behind a link that is down (R244). -/
def State.applyMark (s : State) (d : Shootdown) : State :=
  match d.mark, s.ctx? d.ctx with
  | some at_, some c =>
    (match s.tableEntry c at_ with
     | some e =>
       if e % 2 = 1 && field e 1 1 = 1 && field e 9 1 = 0 && field e 59 2 = 0 && !s.linkUp (entryAddr e) then
         s.rewriteEntry c at_ (e + 2 ^ 9)
       else s
     | none => s.keepMark at_)
  | _, _ => s

/-- SHOOTDOWN_START (R348): a TLBINV that stands first on the core is taken; the first shootdown of the context that has not been
broadcast takes a grant of every die in turn, sets its mark, and is broadcast. It holds its grants until it completes. It waits for
the solo pass, and for stores that have still to reach their homes. -/
def execShootdownStart (core ctx : Nat) (s : State) : Host.Outcome State Fault Refusal :=
  let s := s.takeTlbinv core ctx
  .next (match s.shootdowns.find? (fun d => d.ctx = ctx && !d.broadcast) with
    | none => s
    | some d =>
      if s.soloUses d || s.storesDue d || s.soloReads (d.mark.toList.map (· / 64)) then s.dropRequests (.engine (.shootdown d.id))
      else
        match s.takeGrants (.shootdown d.id) (List.range 16) with
        | (false, t) => t
        | (true, t) => (t.applyMark d).broadcastShootdown d)

/-! ### Migrations (R242, R243) -/

/-- The bytes of a migration's page. -/
def Migration.size (m : Migration) : Nat := if m.big then 2 ^ 29 else 65536

/-- The dies that home the lines of a migration's page: a capacity page of 512 MiB has homes on every die (R239). -/
def Migration.homes (m : Migration) : List Nat := sortedDies ((List.range (m.size / 65536)).map (fun i => homeDie (m.oldPa + 65536 * i)))

/-- The runs of frames of a size in the fast tier that a context's ranges hold: first frame and number. -/
def Context.fastFrames (c : Context) (size : Nat) : List (Nat × Nat) :=
  (c.ranges.filterMap rangeSpan).filterMap (fun r =>
    let first := (r.1 + size - 1) / size * size
    if r.1 < 2 ^ 40 && first + size ≤ r.2 then some (first, (r.2 - first) / size) else none)

/-- The frame numbered `k` of runs of frames. -/
def frameAt (size : Nat) : List (Nat × Nat) → Nat → Nat
  | [], _ => 0
  | (first, n) :: rest, k => if k < n then first + k * size else frameAt size rest (k - n)

/-- Whether a frame is in use by its context (log 20): a leaf maps some of it, or another migration is to fill it. -/
def State.frameUsed (s : State) (c : Context) (frame size : Nat) : Bool :=
  (s.leaves c).any (fun l =>
    let n := if l.level = 1 then 2 ^ 29 else 65536
    decide (entryAddr l.entry < frame + size) && decide (frame < entryAddr l.entry + n)) ||
  s.migrations.any (fun m => match m.dest with
    | some d => decide (d < frame + size) && decide (frame < d + m.size)
    | none => false)

/-- A frame that is not in use, looked for from number `k` on. -/
def State.freeFrame (s : State) (c : Context) (size total : Nat) : Nat → Nat → Option Nat
  | 0, _ => none
  | fuel + 1, k =>
    let frame := frameAt size (c.fastFrames size) (k % total)
    if s.frameUsed c frame size then State.freeFrame s c size total fuel (k + 1) else some frame

/-- The frame a migration goes to, by a free choice of the Tarat control core (R242; log 20). -/
def State.pickFrame (s : State) (c : Context) (m : Migration) : Option Nat × State :=
  let total := ((c.fastFrames m.size).map (·.2)).foldl (· + ·) 0
  if total = 0 then (none, s)
  else
    let pick := s.choose total
    (s.freeFrame c m.size total (min total ((s.leaves c).length * 8193 + s.migrations.length + 1)) pick.1, pick.2)

/-- A migration of the state changed. -/
def State.updMigration (s : State) (id : Nat) (f : Migration → Migration) : State :=
  { s with migrations := s.migrations.map (fun m => if m.id = id then f m else m) }

/-- A request with the frame it goes to, where one can be had. -/
def State.assignFrame (s : State) (m : Migration) : State :=
  match m.dest, s.ctx? m.ctx with
  | none, some c =>
    (match s.pickFrame c m with
     | (some frame, t) => t.updMigration m.id (fun m => { m with dest := some frame })
     | (none, _) => s)
  | _, _ => s

/-- The requests that have no frame yet given theirs in their arrival order (R242; log 20). -/
def State.assignFrames (s : State) : State := s.migrations.foldl State.assignFrame s

/-- Whether a migration is one of the four that the migration dray of its destination's die has in flight: the earliest that go
there (R242). -/
def State.underWay (s : State) (m : Migration) : Bool :=
  let die := fun (x : Migration) => x.dest.map homeDie
  decide (((s.migrations.filter (fun x => die x = die m)).findIdx (fun x => x.id = m.id)) < 4)

/-- MIGRATION_START (R242): a request that its die's migration dray has in flight registers its page as a source, as a COPY does
(R187, R258). -/
def execMigrationStart (id : Nat) (s : State) : Host.Outcome State Fault Refusal :=
  let s := s.assignFrames
  .next (match s.migrations.find? (fun m => m.id = id && !m.locked && m.dest.isSome) with
    | none => s
    | some m =>
      if m.lost || !s.linkUp m.oldPa || !s.underWay m then s.dropRequests (.engine (.migration id))
      else
        let lock : RangeLock := { owner := .migration id, ctx := m.ctx, source := true, ranges := [(m.oldPa, m.size)] }
        match s.mayRegister (.migration id) [lock] with
        | (false, t) => t
        | (true, t) => ((t.dropRequests (.engine (.migration id))).registerLocks [lock]).updMigration id
            (fun m => { m with locked := true }))

/-- The leaf that a migration moves: still marked, still at the old place. -/
def State.migrationLeaf (s : State) (c : Context) (m : Migration) : Option LeafAt :=
  (s.leaves c).find? (fun l => l.va = m.va && l.level = (if m.big then 1 else 2) && entryAddr l.entry = m.oldPa &&
    field l.entry 8 1 = 1)

/-- The reason why a migration's page cannot be read (R243, R244, R400). -/
def State.pageFault (s : State) (m : Migration) (key : Nat) : Option Nat :=
  if m.lost || !s.linkUp m.oldPa then some reasonLinkLost
  else if (List.range (m.size / 128)).any (fun i => (s.readFault (m.oldPa + 128 * i) key .load).isSome) then
    some reasonUncorrectable
  else none

/-- The threads parked on a migration put back in their blocks' waiting vectors (R242). -/
def State.resumeParked (s : State) (id : Nat) : State :=
  { s with lanes := s.lanes.map (fun l => { l with threads := l.threads.map (fun t => match t.place with
      | .migrating blk g => if g = id then { t with place := .waiting blk false } else t
      | _ => t) }) }

/-- A migration over: its lock, its record and its grants are gone. -/
def State.endMigration (s : State) (id : Nat) : State :=
  let t := (s.releaseLocks (.migration id)).dropRequests (.engine (.migration id))
  { t with migrations := t.migrations.filter (fun m => m.id ≠ id) }

/-- Whether an S store of a context is still on its way to a page (R183). -/
def State.storesTo (s : State) (pa n : Nat) : Bool :=
  s.lanes.any (fun l => l.deferred.any (fun d => match d.kind with
    | .sStore _ p _ _ _ => decide (pa ≤ p) && decide (p < pa + n)
    | _ => false) || l.passes.any (fun p => p.state = .granted && p.runs.any (fun r => !r.excluded && r.deferred.any (fun d => match d.kind with
    | .sStore _ p _ _ _ => decide (pa ≤ p) && decide (p < pa + n)
    | _ => false))))

/-- An entry moved to a new place, its migrate-on-touch mark cleared (R242, R343). Each leaf moves alone, one of a contiguous 2 MiB
group too, and keeps C: MODEL'S CHOICE (log 20), the spec does not say what becomes of a marked leaf of a group, whose first leaf may
then translate the others wherever it stands (R345). -/
def movedEntry (e pa : Nat) : Nat := e - entryAddr e + pa - 2 ^ 8

/-- The grants of one engine operation passed on to another. -/
def State.passGrants (s : State) (x y : EngineOp) : State :=
  { s with arbiters := s.arbiters.map (fun (a : Arbiter) =>
      { a with granted := a.granted.map (fun r => if r = .engine x then .engine y else r) }) }

/-- The guards of a page's bytes moved with them to another place. -/
def State.moveGuards (s : State) (old size dest : Nat) : State :=
  { s with guards := s.guards.map (fun g => if old ≤ g.pa && g.pa < old + size then { g with pa := dest + (g.pa - old) } else g) }

/-- MIGRATION_COMMIT (R242, R348, R362): one engine commit moves the page, rewrites its entry and broadcasts the lines of the old
place; the translations are shot down, under the grants of every die, which the shootdown keeps until it completes; the parked
threads resume. A page whose entry software has changed meanwhile stays where it is (log 20). -/
def execMigrationCommit (id : Nat) (s : State) : Host.Outcome State Fault Refusal :=
  .next (match s.migrations.find? (fun m => m.id = id && m.locked) with
    | none => s
    | some m =>
      match s.ctx? m.ctx, m.dest with
      | some c, some dest =>
        (match s.migrationLeaf c m with
         | none => (s.resumeParked id).endMigration id
         | some leaf =>
           let key := c.keyIndex (field leaf.entry 61 2)
           let d : Shootdown := { id := s.nextShootdown, ctx := m.ctx, all := false, page := m.va / 65536
                                  pages := m.size / 65536, starter := .migration id, broadcast := false }
           let old := wholeLines ((List.range (m.size / 64)).map (fun i => m.oldPa + 64 * i))
           if (s.pageFault m key).isSome || s.storesTo m.oldPa m.size || s.soloUses d
               || s.soloReads (old.map (·.1) ++ [leaf.at_ / 64] ++ (List.range (m.size / 64)).map (fun i => dest / 64 + i)) then
             s.dropRequests (.engine (.migration id))
           else
             match s.takeGrants (.migration id) (List.range 16) with
             | (false, s) => s
             | (true, s) =>
             let s := s.passGrants (.migration id) (.shootdown d.id)
             let t := (s.engineCommit (devBytes dest key (s.bytesAt m.oldPa m.size))).moveGuards m.oldPa m.size dest
             let t := (t.rewriteEntry c leaf.at_ (movedEntry leaf.entry dest)).broadcast none old [] m.homes
             let t := { t with nextShootdown := t.nextShootdown + 1, shootdowns := t.shootdowns ++ [d] }
             ((t.broadcastShootdown d).resumeParked id).endMigration id)
      | _, _ => s)

/-- Whether a migration fails for a reason: a lost link, an error in the page, or, before it is under way, that no frame can be had
(R243). The page is read under the key of its leaf; one that software has taken out of the table meanwhile holds no error. -/
def State.migrationFails (s : State) (m : Migration) (reason : Nat) : Bool :=
  match s.ctx? m.ctx with
  | none => true
  | some c =>
    if reason = reasonNotPresent then m.dest.isNone && (s.pickFrame c m).1.isNone
    else if m.lost || !s.linkUp m.oldPa then reason = reasonLinkLost
    else match s.migrationLeaf c m with
      | some l => s.pageFault m (c.keyIndex (field l.entry 61 2)) = some reason
      | none => false

/-- A MEMORY-class cause by the code of its kind. -/
def memCauseOf (kind reason : Nat) : Nat := 0x080 + kind * 16 + reason

/-- The threads parked on a failed migration trap at their blocks' entries (R243). -/
def State.trapParked (s : State) (m : Migration) (reason : Nat) : State :=
  m.parked.foldl (fun s x =>
    match (s.lane? x.1 m.ctx).bind (fun l => l.thread? x.2.1) with
    | some t =>
      (match t.place with
       | .migrating blk g => if g = m.id then s.takeTrap x.1 m.ctx x.2.1 blk (memCauseOf x.2.2.1 reason) (some x.2.2.2) else s
       | _ => s)
    | none => s) s

/-- MIGRATION_FAIL (R243): the entry and its mark stay; a FAILED record is appended and the parked threads trap. -/
def execMigrationFail (id reason : Nat) (s : State) : Host.Outcome State Fault Refusal :=
  .next (match s.migrations.find? (fun m => m.id = id) with
    | none => s
    | some m =>
      if !s.migrationFails m reason then s
      else
        match s.appendRecord (.migration id) m.ctx { kind := 1, cause := memCause .load reason, bytes := 0, core := 0, tidx := 0, addr := m.va } with
        | (false, t) => t
        | (true, t) => (t.endMigration id).trapParked m reason)

end Sys2Proof.Machine
end

