-- ==== Sys2Proof/Machine/Links.lean ====
section
/-! DEFINITION. Links (spec/08 R244, spec/11 R357, spec/13 R391, R402, R403): loss, retraining and timeouts of the CXL, host
and coupler ports, and the session links of the compute dies. -/

namespace Sys2Proof.Machine

/-! ### Outstanding accesses that fail -/

/-- The first place of a read on its way whose physical address a test picks, as its virtual address. -/
def Outstanding.placeAt (o : Outstanding) (test : Nat → Bool) : Option Nat := (((o.pa, o.va) :: o.also).find? (fun a => test a.1)).map (·.2)

/-- A read on its way whose thread records a cause at an address instead: nulls go to its targets (R393). -/
def failRead (b : Block) (cause va : Nat) (r : Run) (o : Outstanding) : Run :=
  let targets := match b.instr? o.idx with
    | some i => i.targets
    | none => []
  sendTokens b.occ o.idx o.gen o.deps (toAll targets none)
    ({ r with outstanding := r.outstanding.erase o }.record o.idx o.gen cause (some va))

/-- The reads and gathers of a run that a test picks, failed with the cause of their kinds. -/
def Run.failReads (b : Block) (test : Nat → Bool) (reason : Nat) (r : Run) : Run :=
  let r := r.outstanding.foldl (fun r o => match o.placeAt test with
    | some va => failRead b (memCauseOf o.kind reason) va r o
    | none => r) r
  let lost := r.gathers.filter (fun g => !g.returned && test g.pa)
  let r := lost.foldl (fun r g => r.record g.idx g.gen (memCause .load reason) (some g.va)) r
  { r with gathers := r.gathers.map (fun g => if lost.contains g then { g with returned := true } else g) }

/-- Every outstanding access that a test of its physical address picks records a reason. -/
def State.failOutstanding (s : State) (test : Nat → Bool) (reason : Nat) : State :=
  { s with lanes := s.lanes.map (fun l => { l with passes := l.passes.map (fun p =>
      match p.state, l.block? p with
      | .streaming, some b => { p with runs := p.runs.map (Run.failReads b test reason) }
      | _, _ => p) }) }

/-- One outstanding read or gather of a thread, by the instruction that made it, whose physical address a test picks, failed with
a cause of its kind. -/
def State.failOneRead (s : State) (core ctx tidx idx : Nat) (test : Nat → Bool) (cause : Nat → Nat) : State :=
  s.updLane core ctx (fun l => { l with passes := l.passes.map (fun p =>
    match p.state, l.block? p with
    | .streaming, some b => p.updRun tidx (fun r =>
        match r.outstanding.findSome? (fun o => if o.idx = idx then (o.placeAt test).map (fun va => (o, va)) else none) with
        | some (o, va) => failRead b (cause o.kind) va r o
        | none =>
          match r.gathers.find? (fun g => g.idx = idx && !g.returned && test g.pa) with
          | some g =>
            { r.record g.idx g.gen (cause 0) (some g.va) with
              gathers := r.gathers.map (fun x => if x.ticket = g.ticket then { x with returned := true } else x) }
          | none => r)
    | _, _ => p) })

/-! ### CXL ports (R244, R402) -/

/-- Whether an address lies in a CXL port's window. -/
def atCxl (port pa : Nat) : Bool := physKind pa = .capacity port

/-- The leaves of a context that map the expander of a port and are not marked unreachable. -/
def State.unmarked (s : State) (port : Nat) (c : Context) : List LeafAt :=
  (s.leaves c).filter (fun l => atCxl port (entryAddr l.entry) && field l.entry 9 1 = 0 && field l.entry 59 2 = 0)

/-- The shootdown of a leaf's page, with the mark that it is to set. -/
def State.shootLeaf (s : State) (c : Context) (l : LeafAt) (mark : Option Nat) : State :=
  let t := s.requestShootdown c.num false (l.va / 65536) (if l.level = 1 then 2 ^ 13 else 1) .linkLoss
  { t with shootdowns := t.shootdowns.map (fun (d : Shootdown) => if d.id = s.nextShootdown then { d with mark := mark } else d) }

/-- The cached translations of a context to the expander of a port whose leaves the part cannot read. -/
def State.hiddenEntries (s : State) (port : Nat) (c : Context) : List TlbEntry :=
  let ls := s.unmarked port c
  s.tlb.filter (fun t => t.ctx = c.num && atCxl port (entryAddr t.entry) && field t.entry 9 1 = 0 && field t.entry 59 2 = 0 &&
    !ls.any (fun l => decide (l.va / 65536 ≤ t.page) && decide (t.page < l.va / 65536 + (if l.level = 1 then 2 ^ 13 else 1))))

/-- Every leaf of a context that maps the expander of a port is to be marked unreachable, each by a shootdown that sets the mark
(R244, R346). A cached translation whose leaf cannot be read is dropped by a shootdown of its own, so that no access reaches the page
by it (log 80). -/
def State.markUnreachable (port : Nat) (s : State) (c : Context) : State :=
  let t := (s.unmarked port c).foldl (fun s l => s.shootLeaf c l (some l.at_)) s
  (s.hiddenEntries port c).foldl (fun s e => s.requestShootdown c.num false e.page e.pages .linkLoss) t

/-- Whether a shootdown that the loss of a link calls for has still to be broadcast. -/
def State.marksDue (s : State) : Bool := s.shootdowns.any (fun d => d.starter = .linkLoss && !d.broadcast)

/-- The CXL ports after a port is lost: every port that is down keeps for its return the leaves of the lost one's pages that cannot be
read without it (R244). -/
def loseLink (port : Nat) (ps : List CxlPort) : List CxlPort :=
  ps.mapIdx (fun i p =>
    if i = port then { p with up := false, retrains := 0, missed := [(port, port)] }
    else if p.up then p
    else { p with missed := p.missed ++ [(port, i)] })

/-- A CXL port is lost (R244): its accesses and its migrations fail and its pages are marked. -/
def State.loseCxl (s : State) (port : Nat) : State :=
  let up : Bool := match s.cxl[port]? with
    | some p => p.up
    | none => false
  if !up then s
  else
    let t := { s with
      cxl := loseLink port s.cxl
      migrations := s.migrations.map (fun (m : Migration) => if atCxl port m.oldPa then { m with lost := true } else m) }
    let t := t.failOutstanding (atCxl port) reasonLinkLost
    t.contexts.foldl (State.markUnreachable port) t

/-- CXL_LINK_DOWN (R244). -/
def execCxlLinkDown (port : Nat) (s : State) : Host.Outcome State Fault Refusal := .next (s.loseCxl port)

/-- CXL_COMPLETION_TIMEOUT (R244): treated as a lost link. -/
def execCxlCompletionTimeout (port : Nat) (s : State) : Host.Outcome State Fault Refusal := .next (s.loseCxl port)

/-- One more attempt at a coupler port that is down. -/
def OuterPort.retrain (limit : Nat) (ok : Bool) (p : OuterPort) : OuterPort :=
  if p.up || limit ≤ p.retrains then p else { up := ok, retrains := p.retrains + 1 }

/-- One more attempt at a CXL port that is down. -/
def CxlPort.retrain (limit : Nat) (ok : Bool) (p : CxlPort) : CxlPort :=
  if p.up || limit ≤ p.retrains then p else { p with up := ok, retrains := p.retrains + 1 }

/-- The CXL ports after a port has trained again: the marks kept for its return pass on to the ports still down, since the tables of
some of their leaves may lie behind those. -/
def trainLink (limit port : Nat) (ps : List CxlPort) : List CxlPort :=
  let kept := (ps[port]?).elim [] CxlPort.missed
  ps.mapIdx (fun i p =>
    if i = port then { CxlPort.retrain limit true p with missed := [] }
    else if p.up then p
    else { p with missed := (p.missed ++ kept).dedup })

/-- The leaves of a port's pages that the part could not mark when the link was lost, because their tables lay behind port `by_`:
those that are readable from now on, and not while that port is down (R244). -/
def State.lateMarks (down up : State) (port by_ : Nat) (c : Context) : List LeafAt :=
  let without : State := { up with cxl := listSet up.cxl by_ (fun p => { p with up := false }) }
  (up.unmarked port c).filter (fun l => !(down.leaves c ++ without.leaves c).any (fun x => x.at_ = l.at_))

/-- A CXL port that trains again (R402): the pages whose tables lay behind it, its own and those of the ports lost since, are marked
before it accepts accesses. Marks still to be set, a grant or the solo pass keep it waiting. -/
def State.retrainCxl (s : State) (port : Nat) : State :=
  let up : State := { s with cxl := trainLink (s.taratAt (port / 2)).linkRetry port s.cxl }
  let missed := (s.cxl[port]?).elim [] CxlPort.missed
  let late := (up.contexts.flatMap (fun c => missed.flatMap (fun x => (s.lateMarks up x.1 x.2 c).map (fun l => (c, l))))).dedup
  if s.marksDue then s
  else if late.isEmpty then up
  else
    match s.mayCommitLines (.retrain port) (late.map (fun x => x.2.at_ / 64)) with
    | (false, t) => t
    | (true, t) =>
      let t : State := { t with cxl := up.cxl }
      (late.foldl (fun t x => (t.rewriteEntry x.1 x.2.at_ (x.2.entry + 2 ^ 9)).shootLeaf x.1 x.2 none) t).dropRequests
        (.engine (.retrain port))

/-- LINK_RETRAIN (R402, R403): CXL port `port`, or coupler port `port` - 4, at most LINKRETRY times after a loss, by the Tarat control
core of its I/O die (R21). -/
def execLinkRetrain (port : Nat) (ok : Bool) (s : State) : Host.Outcome State Fault Refusal :=
  .next (if port < 4 then
      (let p := (s.cxl[port]?).getD { up := true, reported := 0, retrains := 0 }
       if ok && !p.up && decide (p.retrains < (s.taratAt (port / 2)).linkRetry) then s.retrainCxl port
       else { s with cxl := listSet s.cxl port (CxlPort.retrain (s.taratAt (port / 2)).linkRetry ok) })
    else { s with couplers := listSet s.couplers (port - 4) (OuterPort.retrain (s.taratAt ((port - 4) / 8)).linkRetry ok) })

/-! ### Host and coupler ports (R391, R403) -/

/-- Whether an address lies behind a host port. -/
def atHost (port pa : Nat) : Bool := physKind pa = .host port

/-- Whether an address lies behind a coupler port. -/
def atPeer (q pa : Nat) : Bool := physKind pa = .peer q

/-- Whether an address lies behind some host or coupler port. -/
def atOuter (pa : Nat) : Bool :=
  match physKind pa with
  | .host _ => true
  | .peer _ => true
  | _ => false

/-- HOST_PORT_LINK_DOWN (R403). -/
def execHostPortLinkDown (port : Nat) (s : State) : Host.Outcome State Fault Refusal :=
  .next (({ s with hosts := listSet s.hosts port (fun p => { p with up := false }) } : State).failOutstanding (atHost port)
    reasonLinkLost)

/-- HOST_PORT_LINK_UP (R403): by the host's own link recovery. -/
def execHostPortLinkUp (port : Nat) (s : State) : Host.Outcome State Fault Refusal :=
  .next { s with hosts := listSet s.hosts port (fun p => { p with up := true }) }

/-- COUPLER_LINK_DOWN (R403). -/
def execCouplerLinkDown (port : Nat) (s : State) : Host.Outcome State Fault Refusal :=
  let lost := fun (p : OuterPort) => if p.up then ({ up := false, retrains := 0 } : OuterPort) else p
  .next (({ s with couplers := listSet s.couplers port lost } : State).failOutstanding (atPeer port) reasonLinkLost)

/-- HOST_COMPLETION_ERROR (R391): a host or peer answers a read with an error. -/
def execHostCompletionError (core ctx tidx idx : Nat) (s : State) : Host.Outcome State Fault Refusal :=
  .next (s.failOneRead core ctx tidx idx atOuter (fun k => memCauseOf k reasonAbort))

/-- HOST_COMPLETION_TIMEOUT (R391): a completion of a host or coupler port times out, the link still up. -/
def execHostCompletionTimeout (core ctx tidx idx : Nat) (s : State) : Host.Outcome State Fault Refusal :=
  .next (s.failOneRead core ctx tidx idx (fun pa => atOuter pa && s.linkUp pa) (fun k => memCauseOf k reasonTimeout))

/-! ### Session links (R357) -/

/-- A re-keyed link: the lines that failed since the last re-key are sent again; of the others, those kept have arrived. -/
def SessionLink.rekey (l : SessionLink) : SessionLink :=
  { keyGen := l.keyGen + 1, counterRead := 0, counterWrite := 0, kept := (l.kept.filter (·.2)).map (fun k => (k.1, false)) }

/-- Messages on a link, of one direction: it is re-keyed before the direction's counter passes 2^40. -/
def SessionLink.send (write : Bool) (n : Nat) (l : SessionLink) : SessionLink :=
  let l := if 2 ^ 40 < (if write then l.counterWrite else l.counterRead) + n then l.rekey else l
  if write then { l with counterWrite := min (2 ^ 40) (l.counterWrite + n) }
  else { l with counterRead := min (2 ^ 40) (l.counterRead + n) }

/-- The lines whose next sending may fail: those sent again since the last re-key, by their places. -/
def SessionLink.resent (l : SessionLink) : List Nat := (List.range l.kept.length).filter (fun i => !(l.kept.getD i (0, true)).2)

/-- A write message whose tag failed: the home keeps the line and sends it again after a re-key. `k` picks a line sent again, or a
line not kept so far. -/
def SessionLink.writeFailed (k : Nat) (l : SessionLink) : SessionLink :=
  let l := l.send true 1
  match l.resent[k]? with
  | some i => { l with kept := listSet l.kept i (fun x => (x.1 + 1, true)) }
  | none => { l with kept := l.kept ++ [(1, true)] }

/-- The most failures that one line of a link has had. -/
def SessionLink.failures (l : SessionLink) : Nat := (l.kept.map (·.1)).foldl max 0

/-- LINK_TAG_FAIL (R357): read data that fails its tag traps its consumer with INTEGRITY/LINK_TAG; write data is kept and sent
again. Which line of the die has failed the spec does not give the event: a free choice among those that may. -/
def execLinkTagFail (die : Nat) (write : Bool) (core ctx tidx idx : Nat) (s : State) : Host.Outcome State Fault Refusal :=
  .next (if write then
      (match s.sessions[die]? with
       | some l =>
         let pick := s.choose (l.resent.length + 1)
         { pick.2 with sessions := listSet s.sessions die (SessionLink.writeFailed pick.1) }
       | none => s)
    else
      let t : State := { s with sessions := listSet s.sessions die (SessionLink.send false 1) }
      t.failOneRead core ctx tidx idx (fun pa => decide (pa < 2 ^ 40) && decide (homeDie pa = die))
        (fun k => 0x1C0 + k * 16 + 2))

/-- SESSION_REKEY (R357). -/
def execSessionRekey (die : Nat) (s : State) : Host.Outcome State Fault Refusal :=
  .next { s with sessions := listSet s.sessions die SessionLink.rekey }

end Sys2Proof.Machine
end

