-- ==== Sys2Proof/Machine/Queue.lean ====
section
/-! DEFINITION. The queues and packets of a context (spec/12 R366-R372, R378): doorbells, the taking of packets, completion
signals, and a packet's end. -/

namespace Sys2Proof.Machine

/-! ### Queue registers (R366-R368) -/

/-- A queue with the first failure recorded (R368). -/
def Queue.fail (cause index : Nat) (q : Queue) : Queue :=
  if q.err then q else { q with err := true, cause := cause, index := index % 2 ^ 32 }

/-- The state with a queue of a context in the error state. -/
def State.queueFail (s : State) (ctx q cause index : Nat) : State :=
  s.updCtx ctx (fun c => c.updQueue q (Queue.fail cause index))

/-- DOORBELL_WRITE (R367). -/
def execDoorbellWrite (ctx q v : Nat) (s : State) : Host.Outcome State Fault Refusal :=
  .next (s.updCtx ctx (fun c => c.updQueue q (fun k =>
    if k.qrptr ≤ v && v ≤ k.qrptr + 2 ^ k.log2sz then { k with qwptr := v } else { k with dberr := true })))

/-- QUEUE_CLEAR (R368): processing resumes at QRPTR. -/
def execQueueClear (ctx q : Nat) (s : State) : Host.Outcome State Fault Refusal :=
  .next (s.updCtx ctx (fun c => c.updQueue q (fun k => { k with err := false, dberr := false, cause := 0, index := 0 })))

/-- QUEUE_ENABLE (R366, R368): LOG2SZ is stored as the nearest bound, and ignored while EN is 1. -/
def execQueueEnable (ctx q : Nat) (en : Bool) (log2sz : Nat) (s : State) : Host.Outcome State Fault Refusal :=
  .next (s.updCtx ctx (fun c => c.updQueue q (fun k =>
    { k with en := en, log2sz := if k.en then k.log2sz else clampTo 4 20 (log2sz % 32) })))

/-! ### Packet words (R371) -/

/-- A word of a packet as a number. -/
def Packet.word (p : Packet) (k : Nat) : Nat := (p.words.getD k 0).toNat

/-- Whether a waybill is requested. -/
def Packet.wantsWaybill (p : Packet) : Bool := field (p.word 0) 13 1 = 1

/-- The barrier bit. -/
def Packet.barrierBit (p : Packet) : Bool := field (p.word 0) 8 1 = 1

/-- The completion signal's address. -/
def Packet.sig (p : Packet) : Nat := field (p.word 1) 0 57

/-- The waybill descriptor's address. -/
def Packet.wdesc (p : Packet) : Nat := field (p.word 2) 0 57

/-- Whether a packet is of a measured kind (R371). -/
def Packet.isMeasured (p : Packet) : Bool :=
  decide (p.type = 7) || ((decide (p.type = 1) || decide (p.type = 2) || decide (p.type = 3)) && p.wantsWaybill)

/-- The extents of a LAUNCH or GRAPH (R373). -/
def Packet.extents (p : Packet) : Nat × Nat × Nat := (field (p.word 3) 0 32, field (p.word 3) 32 32, field (p.word 4) 0 32)

/-- The rules of R371, R373 and R375-R377 on a packet's words, but for those that need the kernel record. -/
def Packet.formatOk (p : Packet) : Bool :=
  let w := p.word
  let t := p.type
  let kernel := decide (t = 1) || decide (t = 2)
  let e := p.extents
  decide (field (w 0) 14 50 = 0) && decide (1 ≤ t) && decide (t ≤ 7)
  && decide (w 1 < 2 ^ 57) && decide (w 1 % 8 = 0) && decide (w 2 < 2 ^ 57) && decide (w 2 % 64 = 0)
  && (decide (w 2 ≠ 0) == p.isMeasured)
  && !(p.wantsWaybill && (decide (t = 4) || decide (t = 5) || decide (t = 6)))
  && (!(kernel || decide (t = 3)) || decide (field (w 0) 9 2 = 3))
  && (!kernel || (decide (e.1 ≠ 0) && decide (e.2.1 ≠ 0) && decide (e.2.2 ≠ 0) && decide (e.1 * e.2.1 * e.2.2 ≤ 2 ^ 32)
      && decide (field (w 4) 42 22 = 0) && decide (w 5 < 2 ^ 57) && decide (w 5 % 64 = 0) && decide (w 6 < 2 ^ 20)
      && decide (w 7 = 0)))
  && (decide (t ≠ 3) || (decide (w 3 < 2 ^ 57) && decide (w 3 % 64 = 0) && [4, 5, 6, 7].all (fun k => w k = 0)))
  && (!(decide (t = 4) || decide (t = 5)) || [3, 4, 5, 6, 7].all (fun k => decide (w k < 2 ^ 57) && decide (w k % 8 = 0)))
  && (decide (t ≠ 6) || (decide (w 3 < 2 ^ 57) && decide (w 3 % 8 = 0) && decide (w 5 < 2) && decide (w 6 = 0) && decide (w 7 = 0)))
  && (decide (t ≠ 7) || [3, 4, 5, 6, 7].all (fun k => w k = 0))

/-- A packet as it is taken. -/
def Packet.fresh (q index hseed : Nat) (words : List Word) : Packet :=
  { q := q, index := index, words := words, stage := .taken, cause := none
    handle := field (words.getD 6 0).toNat 0 8, objVa := 0, dataVa := 0
    image := (0, 0), native := none, mapBase := 0, mapCount := 0, slots := 4, psize := 0, stages := [], runs := []
    edges := [], dims := (1, 1, 1), hseed := hseed, measured := none, sigLines := [], pollable := false, wake := false
    poll := 0, flaw := none }

/-! ### Signals (R378) -/

/-- An update of a signal. -/
inductive SigUpdate
  | add (v : Word)
  | store (v : Word)
  deriving DecidableEq, Repr

/-- An update of a signal (R378) for a packet of a queue: on a device page one engine commit, on a host or peer page at its port. -/
def State.updateSignal (s : State) (ctx q va : Nat) (u : SigUpdate) : Reach State × State :=
  match u with
  | .store v =>
    (match s.writeChecked ctx va (leBytes 8 v.toNat) with
     | (.bad c a, t) => (.bad c a, t)
     | (.park m, t) => (.park m, t.dropRequests (.engine (.strip ctx q)))
     | (.ok ps, t) =>
       match t.mayCommit (.strip ctx q) ps with
       | (false, t) => (.park 0, t)
       | (true, t) => (.ok (t.commitAs (.strip ctx q) ps), t))
  | .add v =>
    (match s.placeVa ctx va .rmw false with
     | (.bad c a, t) => (.bad c a, t)
     | (.park m, t) => (.park m, t.dropRequests (.engine (.strip ctx q)))
     | (.ok (pa, key, mt), t) =>
       let bytes := leBytes 8 (leNat (t.bytesAt pa 8) + v.toNat)
       match mt with
       | .outside => (.ok { t.noteSent ctx pa 8 true with mem := Memory.writeBytes t.mem pa bytes }, t)
       | .device =>
         match t.readFault pa key .rmw with
         | some c => (.bad c va, t)
         | none =>
           match t.mayCommitLines (.strip ctx q) [pa / 64] with
           | (false, t) => (.park 0, t)
           | (true, t) => (.ok ((t.engineCommit (devBytes pa key bytes)).dropRequests (.engine (.strip ctx q))), t))

/-- The update that a packet's outcome makes (R378). -/
def completionUpdate (cause : Option Nat) : SigUpdate :=
  match cause with
  | none => .add (BitVec.ofInt 64 (-1))
  | some c => .store (BitVec.ofNat 64 (2 ^ 63 + c))

/-! ### A packet's end (R368, R369, R399) -/

/-- A context without one of its packets. -/
def Context.dropPacket (c : Context) (q i : Nat) : Context :=
  { c with packets := c.packets.filter (fun p => !(p.q = q && p.index = i)) }

/-- A packet's locks, reservation and place among the openings given up (R381, R436). -/
def State.releasePacket (s : State) (ctx q i : Nat) : State :=
  let s := s.releaseLocks (.packet ctx q i)
  { s with
    reserved := s.reserved.filter (fun r => r ≠ (ctx, q, i))
    waitingLocks := s.waitingLocks.filter (fun l => l.owner ≠ .packet ctx q i) }

/-- A packet that has failed puts its queue in the error state, once: a CLR that follows is not undone when the packet completes
(R368). -/
def State.reportFailure (s : State) (ctx : Nat) (p : Packet) : State :=
  match p.cause with
  | none => s
  | some c =>
    if p.reported then s
    else
      (s.queueFail ctx p.q c p.index).updCtx ctx (fun x => x.updPacket p.q p.index (fun p => { p with reported := true }))

/-- A packet completes: its locks are released, then its signal is updated (R386); a failure or a signal that cannot be updated
puts its queue in the error state, and it is open no longer. While the signal waits for a page, a grant or the solo pass, it stays
open. -/
def State.complete (s : State) (ctx : Nat) (p : Packet) (u : SigUpdate) : State :=
  let s := s.releasePacket ctx p.q p.index
  let done := fun (t : State) =>
    (t.updCtx ctx (·.dropPacket p.q p.index)).dropRequests (.engine (.strip ctx p.q))
  if p.sig = 0 || p.sig % 8 ≠ 0 then done (s.reportFailure ctx p)
  else
    match s.updateSignal ctx p.q p.sig u with
    | (.park _, t) => s.onlyMigrations t
    | (.bad c _, t) => done ((t.reportFailure ctx p).queueFail ctx p.q c p.index)
    | (.ok t, _) => done (t.reportFailure ctx p)

/-- A packet that fails when it is begun (R372): its queue enters the error state; its record and its signal follow. -/
def State.failBegin (s : State) (ctx : Nat) (p : Packet) (cause : Nat) : State :=
  (s.updCtx ctx (fun c => c.updPacket p.q p.index (fun p => { p with
    stage := .closed, cause := some cause, reported := true }))).queueFail ctx p.q cause p.index

/-! ### PACKET_TAKE (R367, R369) -/

/-- Whether a packet has been dispatched (R369): a LAUNCH or GRAPH whose gates have opened, or that has failed before and has put its
queue in the error state; a COPY handed to a dray, a barrier or SIGNAL that is done, a MEASURE that has been begun and so has its
chain index. -/
def Packet.dispatched (p : Packet) : Bool :=
  match p.stage with
  | .taken => decide (p.type = 7) && p.measured.isSome
  | .wantRegion => false
  | .loading => false
  | .waiting => false
  | .stopped => p.gated
  | .closed => decide (2 < p.type) || p.gated || p.reported
  | _ => true

/-- Whether a queue's earlier packets let its next one begin (R369). -/
def Context.queueFree (c : Context) (q : Nat) : Bool :=
  c.packets.all (fun p => p.q ≠ q || (p.dispatched && !p.barrierBit))

/-- Whether a virtual address is mapped to a host or peer page. -/
def State.mappedOutside (s : State) (c : Context) (va : Nat) : Bool :=
  match walk s c va .load with
  | .ok l => decide (field l.entry 59 2 = 1) || decide (field l.entry 59 2 = 2)
  | .error _ => false

/-- Where packet `i` of a queue lies (R366). -/
def Queue.packetVa (k : Queue) (i : Nat) : Nat := k.qbase / (64 * 2 ^ k.log2sz) * (64 * 2 ^ k.log2sz) + 64 * (i % 2 ^ k.log2sz)

/-- A queue that has taken its next packet. -/
def Queue.advance (k : Queue) : Queue := { k with qrptr := k.qrptr + 1 }

/-- A packet of a context added, its queue advanced. -/
def State.addPacket (s : State) (ctx q : Nat) (p : Packet) : State :=
  s.updCtx ctx (fun c => { c.updQueue q (·.advance) with packets := c.packets ++ [p] })

/-- A context whose next visit is to the queue after one (R369). -/
def Context.visited (q : Nat) (c : Context) : Context := { c with visit := (q + 1) % 16 }

/-- PACKET_TAKE (R367-R369, R372): the queue whose turn it is is visited, and the next packet of a running queue is read. A LAUNCH or
GRAPH is not taken while another of the context has not completed; a ring on a lost host's pages is not read (R403); a packet of
no known type fails. -/
def execPacketTake (ctx q : Nat) (s : State) : Host.Outcome State Fault Refusal :=
  .next (match s.ctx? ctx with
    | none => s
    | some c =>
      match c.queues[q]? with
      | none => s
      | some k =>
        if c.visit ≠ q then s
        else
        let s := s.updCtx ctx (Context.visited q)
        if !k.en || k.err || k.qwptr ≤ k.qrptr || !c.queueFree q || c.dying.isSome then s
        else
          let i := k.qrptr
          match s.readVa ctx (k.packetVa i) 64 .load false with
          | (.park _, t) => s.onlyMigrations t
          | (.bad cause _, t) =>
            if cause = memCause .load reasonLinkLost && s.mappedOutside c (k.packetVa i) then s
            else (t.updCtx ctx (fun c => c.updQueue q (·.advance))).queueFail ctx q cause i
          | (.ok bytes, t) =>
            let p := Packet.fresh q i c.regs.hseed (leWords 8 bytes)
            let kernel := decide (p.type = 1) || decide (p.type = 2)
            if kernel && c.packets.any (fun x => x.type = 1 || x.type = 2) then s
            else
              let t := t.addPacket ctx q p
              if p.type = 0 || 7 < p.type then t.failBegin ctx p cPacketFormat else t)

end Sys2Proof.Machine
end

