-- ==== Sys2Proof/Machine/Measure.lean ====
section
/-! DEFINITION. Measurement (spec/12 R381-R388, R436): the opening and closing of measured packets, the chain and the
waybills. -/

namespace Sys2Proof.Machine

/-! ### The record and the waybill (R382, R387) -/

/-- `n` zero bytes. -/
def zeros (n : Nat) : List Byte := List.replicate n 0

/-- A hash of 48 bytes, zero where there is none. -/
def hash48 (h : List Byte) : List Byte := (h ++ zeros 48).take 48

/-- The cause that a packet's record carries (R388): that of its failure, or of a copy or entry of its threads that failed
although the packet did not (log 23). -/
def Packet.outcome (p : Packet) : Option Nat :=
  match p.cause with
  | some c => some c
  | none => p.flaw

/-- The measurement record of a packet (R382): result hashes only when it did not fail. -/
def measurementRecord (p : Packet) (m : Measured) : List Byte :=
  let cause := p.outcome
  let failed := cause.isSome
  leBytes 8 m.n ++ leBytes 8 p.index ++ leBytes 1 p.type ++ leBytes 1 p.q ++ leBytes 1 (if failed then 1 else 0) ++ zeros 1 ++
  leBytes 2 (cause.getD 0) ++ zeros 10 ++ hash48 m.codeHash ++ hash48 m.argHash ++
  (List.range 4).flatMap (fun k => if failed then zeros 48 else hash48 (m.resHash.getD k [])) ++
  (List.range 8).flatMap (fun k => leBytes 8 (m.desc.getD (8 + k) 0).toNat)

/-- M_n (R383). -/
def extendChain (chain record : List Byte) : List Byte := sha384 (chain ++ record)

/-- OUT of a descriptor (R385). -/
def Measured.out (m : Measured) : Nat := field (m.desc.getD 0 0).toNat 0 57

/-- Whether a countersignature is asked for. -/
def Measured.countersigned (m : Measured) : Bool := field (m.desc.getD 1 0).toNat 0 1 = 1

/-- FUNCID bits [15:0] of a context's function (R328). -/
def Context.funcId (c : Context) : Nat := c.func / 32 * 256 + c.func % 32

/-- The firmware measurement (R358). -/
def State.fwMeasurement (s : State) : List Byte := sha384 s.firmware.running

/-- The 4096 bytes of a waybill (R387). -/
def waybill (s : State) (c : Context) (m : Measured) (chain record : List Byte) : List Byte :=
  let cs := m.countersigned
  let head := leBytes 4 0x42594157 ++ leBytes 2 1 ++ leBytes 2 (if cs then 1 else 0) ++ leBytes 8 (if cs then 3965 else 3869) ++
    leBytes 2 c.funcId ++ leBytes 1 c.num ++ zeros 13 ++ sha384 Config.certChain ++ s.fwMeasurement ++ hash48 chain ++ record
  let sig := (Config.mldsaSign head ++ zeros 3309).take 3309
  let counter := if cs then (Config.ecdsaSign head ++ zeros 96).take 96 else []
  (head ++ sig ++ counter ++ zeros 4096).take 4096

/-! ### Opening (R381, R385, R436) -/

/-- The rules of R385 on a descriptor's words. -/
def descriptorOk (p : Packet) (ws : List Word) : Bool :=
  let w := fun k => (ws.getD k 0).toNat
  decide (w 0 < 2 ^ 57) && decide (w 0 % 64 = 0) && (!p.wantsWaybill || decide (w 0 ≠ 0)) && decide (w 1 < 2)
  && [2, 3, 4, 5, 6, 7].all (fun k => w k = 0)
  && [0, 1, 2, 3].all (fun k => decide (w (8 + 2 * k) < 2 ^ 57) && decide (w (9 + 2 * k) ≤ 2 ^ 40)
      && decide (w (8 + 2 * k) + w (9 + 2 * k) ≤ 2 ^ 57))

/-- What an opening ends with. -/
inductive Opening
  | wait (s : State)
  | bad (s : State) (cause : Nat)
  | ok (s : State)

/-- What a measured packet hashes and locks: the image section with its expected hash, and its argument or parameter block. -/
structure Hashed where
  image : Option (Nat × Nat × List Byte)
  arg : Option (Nat × Nat)
  deriving DecidableEq, Repr

/-- The seven entries of a measured packet reserved on every die; openings that find none left wait in their order (R436). -/
def State.reserve (s : State) (ctx : Nat) (p : Packet) : Bool × State :=
  let me : RangeLock := { owner := .packet ctx p.q p.index, ctx := ctx, source := true, ranges := [] }
  let first : Bool := match s.waitingLocks with
    | l :: _ => decide (l.owner = me.owner)
    | [] => true
  if first && 7 * (s.reserved.length + 1) ≤ 64 then
    (true, { s with
      reserved := s.reserved ++ [(ctx, p.q, p.index)], waitingLocks := s.waitingLocks.filter (fun l => l.owner ≠ me.owner) })
  else if s.waitingLocks.any (fun l => l.owner = me.owner) then (false, s)
  else (false, { s with waitingLocks := s.waitingLocks ++ [me] })

/-- A packet's measurement changed. -/
def State.updMeasured (s : State) (ctx : Nat) (p : Packet) (f : Measured → Measured) : State :=
  s.updCtx ctx (fun c => c.updPacket p.q p.index (fun p => { p with measured := p.measured.map f }))

/-- The device ranges of runs of virtual memory, as source locks of a packet (R381); each run is translated for the kind of access
with which it is read. -/
def State.sourceLocks (s : State) (ctx : Nat) (p : Packet) : List (AccKind × Nat × Nat) → Reach (List RangeLock) × State
  | [] => (.ok [], s)
  | (k, va, n) :: rest =>
    match s.deviceRanges ctx k (pagePieces va n) with
    | (.park m, t) => (.park m, t)
    | (.bad c a, t) => (.bad c a, t)
    | (.ok rs, t) =>
      match State.sourceLocks t ctx p rest with
      | (.ok ls, u) =>
        (.ok ({ owner := .packet ctx p.q p.index, ctx := ctx, source := true, ranges := rs.map (·.2) } :: ls), u)
      | r => r

/-- Steps 3 to 5 of an opening that has its chain index (R381). Hashing and registration are one point of the commit order: they wait
together for copies whose destinations the ranges meet (R246), and the packet keeps its index and its entries meanwhile. -/
def State.openHashes (s : State) (ctx : Nat) (p : Packet) (h : Hashed) : Opening :=
  let kept := fun (t : State) => (s.onlyMigrations t).dropRequests (.engine (.strip ctx p.q))
  let image : Reach (List Byte) × State := match h.image with
    | some (va, n, _) => s.readVa ctx va n .fetch false
    | none => (.ok [], s)
  match image with
  | (.park _, t) => .wait (kept t)
  | (.bad c _, t) => .bad t c
  | (.ok bytes, t) =>
    let code := if h.image.isSome then sha384 bytes else []
    let t := t.updMeasured ctx p (fun m => { m with codeHash := code })
    let same : Bool := match h.image with
      | some (_, _, expect) => decide (code = expect)
      | none => true
    if !same then .bad t (0x040 + LoadFault.imageHash.detail)
    else
      match (match h.arg with
        | some (va, n) => t.readVa ctx va n .load false
        | none => (.ok [], t)) with
      | (.park _, t) => .wait (kept t)
      | (.bad c _, t) => .bad t c
      | (.ok arg, t) =>
        let t := t.updMeasured ctx p (fun m => { m with argHash := if h.arg.isSome then sha384 arg else [] })
        let spans := (match h.image with
          | some (va, n, _) => [(AccKind.fetch, va, n)]
          | none => []) ++ h.arg.toList.map (fun x => (AccKind.load, x)) ++ [(AccKind.load, p.wdesc, 128)]
        match t.sourceLocks ctx p (spans.filter (fun x => 0 < x.2.2)) with
        | (.park _, t) => .wait (kept t)
        | (.bad c _, t) => .bad t c
        | (.ok ls, t) =>
          match t.mayRegister (.strip ctx p.q) ls with
          | (false, t) => .wait (s.onlyMigrations t)
          | (true, t) => .ok ((t.dropRequests (.engine (.strip ctx p.q))).registerLocks ls)

/-- Steps 1 and 2 of an opening (R381, R385): the descriptor is read and checked, the lock entries are reserved, and the chain index
is taken. An opening that has been through them goes on with its hashes. -/
def State.openMeasured (s : State) (ctx : Nat) (p : Packet) (h : Hashed) : Opening :=
  if p.measured.isSome then s.openHashes ctx p h
  else
  match s.readVa ctx p.wdesc 128 .load false with
  | (.park _, t) => .wait (s.onlyMigrations t)
  | (.bad c _, t) => .bad t c
  | (.ok bytes, t) =>
    let ws := leWords 16 bytes
    if !descriptorOk p ws then .bad t cPacketFormat
    else
      let out := (ws.getD 0 0).toNat
      match (if out = 0 then (.ok [], [], t) else t.writeVa ctx out (zeros 4096) .store false) with
      | (.park _, _, t) => .wait (s.onlyMigrations t)
      | (.bad c _, _, t) => .bad t c
      | (.ok _, _, t) =>
        match t.reserve ctx p with
        | (false, t) => .wait { s.onlyMigrations t with waitingLocks := t.waitingLocks }
        | (true, t) =>
          let n := match t.ctx? ctx with
            | some c => c.nextChain
            | none => 0
          let m : Measured := { n := n, codeHash := [], argHash := [], resHash := [], desc := ws }
          let t := t.updCtx ctx (fun c => { c.updPacket p.q p.index (fun p => { p with measured := some m }) with
            nextChain := n + 1 })
          t.openHashes ctx p h

/-- A packet's opening, when it is measured, and what follows it. -/
def State.withOpening (s : State) (ctx : Nat) (p : Packet) (h : Hashed) (next : State → State) : State :=
  if !p.isMeasured then next s
  else
    match s.openMeasured ctx p h with
    | .wait t => t
    | .bad t cause => t.failBegin ctx p cause
    | .ok t => next t

/-- A context's packet by queue and index. -/
def Context.packet? (c : Context) (q i : Nat) : Option Packet := c.packets.find? (fun p => p.q = q && p.index = i)

/-- The packet of a queue that has been taken and not begun, of a given type. -/
def State.takenPacket (s : State) (ctx q type : Nat) : Option Packet :=
  (s.ctx? ctx).bind (fun c => c.packets.find? (fun p => p.q = q && p.stage = .taken && p.type = type))

/-- A packet moved to a stage. -/
def State.setStage (s : State) (ctx : Nat) (p : Packet) (st : PacketStage) : State :=
  s.updCtx ctx (fun c => c.updPacket p.q p.index (fun p => { p with stage := st }))

/-- MEASURE (R381): the packet is opened; its ranges are hashed when it is closed. -/
def execMeasure (ctx q : Nat) (s : State) : Host.Outcome State Fault Refusal :=
  .next (match s.takenPacket ctx q 7 with
    | none => s
    | some p =>
      if !p.formatOk then s.failBegin ctx p cPacketFormat
      else s.withOpening ctx p { image := none, arg := none } (fun t => t.setStage ctx p .retired))

/-! ### Closing (R386) -/

/-- The bytes of spans on device pages; a host or peer page ends the reading with a cause that the spec does not give. -/
def State.hashSpans (s : State) (ctx : Nat) : List (Nat × Nat) → Reach (List Byte) × State
  | [] => (.ok [], s)
  | (va, n) :: rest =>
    match s.placeVa ctx va .load false with
    | (.bad c a, t) => (.bad c a, t)
    | (.park m, t) => (.park m, t)
    | (.ok (_, _, .outside), t) => (.bad (t.freshWord.1.toNat % 512) va, t.freshWord.2)
    | (.ok (pa, key, .device), t) =>
      match t.readFault pa key .load with
      | some c => (.bad c va, t)
      | none =>
        match State.hashSpans t ctx rest with
        | (.ok bs, u) => (.ok (t.bytesAt pa n ++ bs), u)
        | r => r

/-- The hashes of the used result ranges, one after another. -/
def State.hashRanges (s : State) (ctx : Nat) : List (Nat × Nat) → Reach (List (List Byte)) × State
  | [] => (.ok [], s)
  | (va, n) :: rest =>
    match (if n = 0 then (.ok [], s) else s.hashSpans ctx (lineSpans va n)) with
    | (.bad c a, u) => (.bad c a, u)
    | (.park m, u) => (.park m, u)
    | (.ok bs, u) =>
      match State.hashRanges u ctx rest with
      | (.ok hs, v) => (.ok ((if n = 0 then [] else sha384 bs) :: hs), v)
      | r => r

/-- The result ranges registered as sources, hashed and released (R386) at one point of the commit order: the chunks whose W meets
one are squashed (R187), and a copy whose destination meets one is waited for (R246). -/
def State.hashResults (s : State) (ctx : Nat) (p : Packet) (rs : List (Nat × Nat)) : Reach (List (List Byte)) × State :=
  match s.sourceLocks ctx p ((rs.filter (fun r => 0 < r.2)).map (fun r => (AccKind.load, r))) with
  | (.park m, t) => (.park m, t.dropRequests (.engine (.strip ctx p.q)))
  | (.bad c a, t) => (.bad c a, t)
  | (.ok ls, t) =>
    match t.mayRegister (.strip ctx p.q) ls with
    | (false, t) => (.park 0, t)
    | (true, t) => ((t.dropRequests (.engine (.strip ctx p.q))).squash true (t.lockVictims ls)).hashRanges ctx rs

/-- The result ranges of a descriptor. -/
def Measured.ranges (m : Measured) : List (Nat × Nat) :=
  (List.range 4).map (fun k => ((m.desc.getD (8 + 2 * k) 0).toNat, (m.desc.getD (9 + 2 * k) 0).toNat))

/-- PACKET_CLOSE (R386): a measured packet that has retired locks and hashes its result ranges; one that failed hashes none. -/
def execPacketClose (ctx q i : Nat) (s : State) : Host.Outcome State Fault Refusal :=
  .next (match (s.ctx? ctx).bind (fun c => c.packet? q i) with
    | none => s
    | some p =>
      match p.measured with
      | none => s
      | some m =>
        if p.stage ≠ .retired then s
        else if p.outcome.isSome then s.setStage ctx p .closed
        else
          match s.hashResults ctx p m.ranges with
          | (.park _, t) => s.onlyMigrations t
          | (.bad c _, t) => (t.setStage ctx p .closed).updCtx ctx (fun x => x.updPacket q i (fun p => { p with cause := some c }))
          | (.ok hs, t) => (t.updMeasured ctx p (fun m => { m with resHash := hs })).setStage ctx p .closed)

/-! ### The chain (R383, R387, R388) -/

/-- The register page after an extension. -/
def CtxPage.extended (chain : List Byte) (n : Nat) (g : CtxPage) : CtxPage := { g with mchain := chain, mseq := n }

/-- The packet of a context whose record is the next to be extended, or has been and whose signal is still to be written. -/
def Context.chainNext (c : Context) : Option (Packet × Measured) :=
  c.packets.findSome? (fun p => match p.measured with
    | some m => if p.stage = .closed && m.n ≤ c.page.mseq + 1 then some (p, m) else none
    | none => none)

/-- A packet with the cause of a waybill that could not be written (R388). -/
def State.waybillFault (s : State) (ctx : Nat) (p : Packet) (cause : Nat) : State :=
  s.updCtx ctx (fun c => c.updPacket p.q p.index (fun p => { p with cause := some cause }))

/-- A packet completes as it stands now. -/
def State.completeNow (s : State) (ctx : Nat) (p : Packet) : State :=
  match (s.ctx? ctx).bind (fun c => c.packet? p.q p.index) with
  | some p => s.complete ctx p (completionUpdate p.cause)
  | none => s

/-- CHAIN_EXTEND (R383, R386-R388): the record extends the chain, the waybill is written when one is requested and the context
is not being reset (R417), the packet's locks are released, and its signal is updated. -/
def execChainExtend (ctx : Nat) (s : State) : Host.Outcome State Fault Refusal :=
  .next (match s.ctx? ctx with
    | none => s
    | some c =>
      match c.chainNext with
      | none => s
      | some (p, m) =>
        if m.n ≤ c.page.mseq then s.completeNow ctx p
        else
          let record := measurementRecord p m
          let chain := extendChain c.page.mchain record
          let s' := s.updCtx ctx (·.updPage (CtxPage.extended chain m.n))
          let s' := s'.reportFailure ctx p
          if !p.wantsWaybill || c.dying.isSome then s'.completeNow ctx p
          else
            match s'.writeChecked ctx m.out (waybill s c m chain record) with
            | (.park _, t) => (s.onlyMigrations t).dropRequests (.engine (.strip ctx p.q))
            | (.bad e _, t) => (t.waybillFault ctx p e).completeNow ctx p
            | (.ok ps, t) =>
              match t.mayCommit (.strip ctx p.q) ps with
              | (false, t) => s.onlyMigrations t
              | (true, t) => (t.commitAs (.strip ctx p.q) ps).completeNow ctx p)

end Sys2Proof.Machine
end

