-- ==== Sys2Proof/Machine/Region.lean ====
section
/-! DEFINITION. Regions (spec/11 R338-R341, spec/13 R404, R406-R408, spec/01 R35): their assignment, sharing, release and
handover, and what a packet leaves on its region. -/

namespace Sys2Proof.Machine

/-! ### Rectangles (R338, R404) -/

/-- The cores of a region in row-major order. -/
def Region.cores (r : Region) : List Nat :=
  (List.range r.h).flatMap (fun i => (List.range r.w).map (fun j => (r.row + i) * 32 + r.col + j))

/-- A region of a shape at an origin. -/
def Region.at_ (row col h w ctx : Nat) : Region :=
  { row := row, col := col, h := h, w := w, holder := ctx, sharer := none, heldCycles := 0 }

/-- Whether two rectangles have a core in common. -/
def Region.overlaps (a b : Region) : Bool :=
  decide (a.row < b.row + b.h) && decide (b.row < a.row + a.h) && decide (a.col < b.col + b.w) && decide (b.col < a.col + a.w)

/-- The rectangle of a compute die (R20). -/
def dieRect (d : Nat) : Region := Region.at_ (d / 4 * 8) (d % 4 * 8) 8 8 0

/-- Whether a rectangle lies in the grid and avoids every failed die. -/
def State.sound (s : State) (r : Region) : Bool :=
  decide (r.row + r.h ≤ 32) && decide (r.col + r.w ≤ 32) && s.tarat.dieFail.all (fun d => !r.overlaps (dieRect d))

/-- The first rectangle of a shape, in ascending row and then column, that a test admits (R339, R409). -/
def firstRect (h w ctx : Nat) (ok : Region → Bool) : Option Region :=
  ((List.range 1024).map (fun o => Region.at_ (o / 32) (o % 32) h w ctx)).find? ok

/-- The first free origin of a shape (R339, R404). -/
def State.freeRect (s : State) (h w ctx : Nat) : Option Region :=
  firstRect h w ctx (fun r => s.sound r && s.regions.all (fun x => !r.overlaps x))

/-- The lowest origin of a shape at which failed dies are avoided, free or not (R404, R409). -/
def State.soundRect (s : State) (h w ctx : Nat) : Option Region := firstRect h w ctx s.sound

/-! ### Assignment and release (R35, R339) -/

/-- The system registers that a context's cores are given. -/
def State.ctxRegs (s : State) (ctx : Nat) : SysRegs :=
  match s.ctx? ctx with
  | some c => c.regs
  | none => SysRegs.reset

/-- A region given to a context: its cores and the context's part of each are as R35 leaves them. -/
def State.giveRegion (s : State) (r : Region) : State :=
  let cs := r.cores
  { s with
    regions := s.regions ++ [r]
    cores := s.cores.filter (fun c => !cs.contains c.core) ++ cs.map CoreState.reset
    lanes := s.lanes.filter (fun l => !cs.contains l.core) ++ cs.map (fun c => Lane.reset c r.holder (s.ctxRegs r.holder)) }

/-- Whether a requester is a chunk of a context. -/
def Requester.isChunkOf (ctx : Nat) : Requester → Bool
  | .chunk q => decide (q.ctx = ctx)
  | .engine _ => false

/-- A context's lanes gone, with every reference to their passes; a pre-emption marked for it has nothing more to free. -/
def State.dropLanes (s : State) (ctx : Nat) : State :=
  { s.updCtx ctx (fun c => { c with preempt := false }) with
    lanes := s.lanes.filter (fun l => l.ctx ≠ ctx)
    arbiters := s.arbiters.map (Arbiter.without (Requester.isChunkOf ctx))
    soloQueue := s.soloQueue.filter (fun q => q.ctx ≠ ctx)
    soloHolder := match s.soloHolder with
      | some q => if q.ctx = ctx then none else some q
      | none => none
    migrations := s.migrations.map (fun (m : Migration) => if m.ctx = ctx then { m with parked := [] } else m) }

/-- Cores that leave their region: no broadcast reaches them any more. -/
def State.freeCores (s : State) (cs : List Nat) : State :=
  { s with
    cores := s.cores.filter (fun c => !cs.contains c.core)
    broadcasts := (s.broadcasts.map (fun (b : Broadcast) => { b with cores := b.cores.filter (fun c => !cs.contains c) })).filter
      (fun b => !b.cores.isEmpty) }

/-- The region of a context with another holder or sharer. -/
def State.updRegion (s : State) (ctx : Nat) (f : Region → Region) : State :=
  { s with regions := s.regions.map (fun r => if r.holder = ctx then f r else r) }

/-- The handover of a shared region (R408): the cores are cleared, the partner's chunks are squashed and replayed, and it
becomes the holder. -/
def State.handoverRegion (s : State) (r : Region) (partner : Nat) : State :=
  let s := s.squash true (s.inFlightRefs.filter (fun q => q.ctx = partner))
  let s := r.cores.foldl (fun s c => s.updCore c (fun _ => CoreState.reset c)) s
  (s.dropLanes r.holder).updRegion r.holder (fun x => { x with holder := partner, sharer := none })

/-- The region of a context released (R35, R339), or handed over to its sharer (R408); a sharer leaves its share (R406). -/
def State.releaseRegion (s : State) (ctx : Nat) : State :=
  match s.region? ctx with
  | none => s
  | some r =>
    if r.sharer = some ctx then (s.dropLanes ctx).updRegion r.holder (fun x => { x with sharer := none })
    else
      match r.sharer with
      | some b => s.handoverRegion r b
      | none =>
        let s := s.dropLanes ctx
        { s.freeCores r.cores with regions := s.regions.filter (fun x => x.holder ≠ ctx) }

/-! ### What a packet leaves on its region (R32, R339, R399) -/

/-- A lane of which a packet's threads, passes and configured blocks are gone; barriers, groups, rings and registers stay. -/
def Lane.cleared (l : Lane) : Lane :=
  { l with
    threads := [], passes := [], slots := [{ block := none }, { block := none }], ages := [], deferred := [], links := []
    pendingNext := 0, pendingPos := 0, pendingLeft := 0, quiet := 0, activeCycle := false, stage := 0, frozen := false
    barriers := l.barriers.map (fun (b : Barrier) => { b with members := [], arrived := [], contribs := [] }) }

/-- A bank no longer bound to an edge of a graph. -/
def Bank.unbindEdges (ctx : Nat) (b : Bank) : Bank :=
  if b.owner = ctx then
    { b with binding := b.binding.filter (fun x => match x with
        | .edge _ => false
        | _ => true) }
  else b

/-- A packet's part of its region cleared (R399 step 4); a sharer leaves its share (R406). -/
def State.clearKernel (s : State) (ctx : Nat) : State :=
  let s := s.updCtx ctx (fun c => { c with frozen := false })
  let s : State := { s with
    regionQueue := s.regionQueue.filter (fun r => r.ctx ≠ ctx)
    migrations := s.migrations.map (fun (m : Migration) => if m.ctx = ctx then { m with parked := [] } else m)
    soloQueue := s.soloQueue.filter (fun q => q.ctx ≠ ctx)
    soloHolder := match s.soloHolder with
      | some q => if q.ctx = ctx then none else some q
      | none => none
    arbiters := s.arbiters.map (Arbiter.without (Requester.isChunkOf ctx)) }
  if s.regions.any (fun r => r.sharer = some ctx) then s.releaseRegion ctx
  else
    { s.updLanes ctx (·.cleared) with
      cores := s.cores.map (fun (c : CoreState) => { c with banks := c.banks.map (Bank.unbindEdges ctx) }) }

/-! ### The region queue (R339, R404) -/

/-- A request that joins the tail of the region queue. -/
def State.queueRegion (s : State) (ctx h w : Nat) (resume : Bool) : State :=
  { s with regionQueue := s.regionQueue ++ [{ ctx := ctx, h := h, w := w, waited := 0, resume := resume }] }

/-- The head request met or dropped. -/
def State.popRegion (s : State) : State := { s with regionQueue := s.regionQueue.drop 1 }

/-- The packet that a request of the region queue stands for. -/
def State.requestPacket? (s : State) (r : RegionReq) : Option Packet :=
  ((s.ctx? r.ctx).bind (·.kernelPacket?)).filter (fun p =>
    if r.resume then p.stage = .preempted else p.stage = .wantRegion)

/-- A packet whose request no origin can meet fails (R404); a save held for it is discarded. -/
def State.failRequest (s : State) (r : RegionReq) (p : Packet) : State :=
  let s := (s.popRegion).failPacket r.ctx cDieFailed
  ((s.updCtx r.ctx (fun c => { c with save := none })).unwatch r.ctx true none).setStage r.ctx p .stopped

/-- Whether a saved graph may be re-placed by the turntable (R416): RELINK, and names that are unique and not zero. -/
def State.mayRelink (s : State) (p : Packet) : Bool :=
  let names := p.edges.map (fun e => (EdgeRec.ofList e).name)
  s.tarat.relink && decide (p.type = 2) && !names.contains 0 && distinct names

/-- Whether some rectangle avoids failed dies on which a packet could be placed, now or later (R404, R416): of the shape asked for,
or, for a saved graph that may be re-placed, of any shape with cores enough. -/
def State.placeable (s : State) (r : RegionReq) (p : Packet) : Bool :=
  (s.soundRect r.h r.w r.ctx).isSome ||
  (r.resume && s.mayRelink p && (List.range 1024).any (fun k =>
    decide (p.stages.length ≤ (k / 32 + 1) * (k % 32 + 1)) && (s.soundRect (k / 32 + 1) (k % 32 + 1) r.ctx).isSome))

/-- REGION_ASSIGN (R339, R404): the head request is met at the first free origin; one that no origin can meet fails its packet. -/
def execRegionAssign (s : State) : Host.Outcome State Fault Refusal :=
  .next (match s.regionQueue with
    | [] => s
    | r :: _ =>
      match s.requestPacket? r with
      | none => s.popRegion
      | some p =>
        if !s.placeable r p then s.failRequest r p
        else if r.resume then s
        else
          match s.freeRect r.h r.w r.ctx with
          | some rect => (s.popRegion.giveRegion rect).setStage r.ctx p .loading
          | none => s)

/-! ### Sharing and handover (R406, R408) -/

/-- The acquire of a packet on the cores of its region (R192, R236, R370): copies that S loads have filled are dropped. -/
def State.acquireCores (s : State) (r : Region) : State := r.cores.foldl (fun s n => s.dropStreamCopies n) s

/-- Whether two contexts are of one isolation domain (R337). -/
def Context.sameDomain (a b : Context) : Bool := decide (a.func = b.func) && decide (a.domain = b.domain) && decide (a.domain ≠ 0)

/-- A region that a request may share (R406). -/
def State.shareable (s : State) (r : RegionReq) : Option Region :=
  if !s.tarat.share then none
  else
    s.regions.find? (fun x =>
      decide (x.h = r.h) && decide (x.w = r.w) && x.sharer.isNone && decide (x.holder ≠ r.ctx) &&
      (match s.ctx? x.holder, s.ctx? r.ctx with
       | some a, some b => a.sameDomain b
       | _, _ => false) &&
      x.cores.all (fun n => match s.core? n with
        | some c => decide (4 ≤ (c.banks.filter (fun b => b.mode = .cache)).length)
        | none => false))

/-- A region shared with the context of a request (R406): the sharer's part of each core is as R35 leaves it, after the acquire of
its packet (R370). -/
def State.shareOn (s : State) (r : RegionReq) (x : Region) : State :=
  let t := (s.popRegion.updRegion x.holder (fun y => { y with sharer := some r.ctx })).acquireCores x
  { t with lanes := t.lanes ++ x.cores.map (fun c => Lane.reset c r.ctx (s.ctxRegs r.ctx)) }

/-- The region shape of a LAUNCH or GRAPH packet (R373): height and width. -/
def Packet.shape (p : Packet) : Nat × Nat := (field (p.word 4) 32 5 + 1, field (p.word 4) 37 5 + 1)

/-- REGION_HANDOVER (R339, R408): the holder of a region whose packet waits for another shape releases it, to the sharer while there
is one, and requests its own. -/
def execRegionHandover (ctx : Nat) (s : State) : Host.Outcome State Fault Refusal :=
  .next (match s.region? ctx, (s.ctx? ctx).bind (·.kernelPacket?) with
    | some r, some p =>
      if decide (r.sharer = some ctx) || decide (p.stage ≠ .wantRegion) || p.shape = (r.h, r.w) then s
      else (s.releaseRegion ctx).queueRegion ctx p.shape.1 p.shape.2 false
    | _, _ => s)

end Sys2Proof.Machine
end

