-- ==== Sys2Proof/Machine/Packets.lean ====
section
/-! DEFINITION. The packets (spec/12 R369-R379, spec/13 R399, spec/09 R260, R273, R275): how each is begun, how the gates of a
LAUNCH or GRAPH open, and how it retires. -/

namespace Sys2Proof.Machine

/-! ### LAUNCH and GRAPH (R373, R374) -/

/-- The object and the kernel record that a packet names, or the cause of the check of R373 that fails: of those that need the
record the format rule on ARG comes first, then the record's KIND. -/
def Context.kernelOf (c : Context) (p : Packet) : Except Nat (BoundObject × KernelRec) :=
  match c.objects.find? (fun o => o.handle = p.handle) with
  | none => .error (configCause LoadFault.noImage.detail)
  | some o =>
    match o.kernels[field (p.word 6) 8 12]? with
    | none => .error (configCause LoadFault.kernel.detail)
    | some k =>
      if k.psize = 0 && p.word 5 ≠ 0 then .error cPacketFormat
      else if k.kind + 1 ≠ p.type then .error (configCause LoadFault.kernel.detail)
      else if decide (p.type = 2) && k.stages.any (fun st =>
          decide (p.shape.1 ≤ st.offset / 32) || decide (p.shape.2 ≤ st.offset % 32)) then
        .error (configCause LoadFault.stage.detail)
      else .ok (o, k)

/-- A packet at its LAUNCH or GRAPH step, with the context's seed, which stays that of the first such step while it waits for a page or
in its opening (R38). MODEL'S CHOICE (log 72): the seed is captured at this step, although a packet already taken counts as begun
where its queue enters the error state (R368; log 86). -/
def Packet.begin_ (hseed : Nat) (p : Packet) : Packet := if p.begun then p else { p with begun := true, hseed := hseed }

/-- A packet with the kernel it runs and its image as its acquire finds it. -/
def Packet.withKernel (p : Packet) (o : BoundObject) (k : KernelRec) (old : List (Nat × Nat) × List Host.Cell) : Packet :=
  { p with
    objVa := o.objVa, dataVa := o.dataVa, image := (o.imageOff, o.imageSize), native := o.native, mapBase := o.mapBase
    mapCount := o.mapCount, slots := k.slots, psize := k.psize, stages := k.stages, runs := o.runs, edges := k.edges
    dims := p.extents, old := old }

/-- A packet with the blocks of its runs as its acquire finds them (R380). -/
def State.withRuns (s : State) (ctx : Nat) (p : Packet) : Packet := { p with runs := p.runs.map (State.runNow id s ctx p) }

/-- Whether runs of virtual memory translate: the first fault, or a page that migrates. -/
def State.translates (s : State) (ctx : Nat) (k : AccKind) : List (Nat × Nat) → Reach Unit × State
  | [] => (.ok (), s)
  | (va, _) :: rest =>
    match s.placeVa ctx va k false with
    | (.bad c a, t) => (.bad c a, t)
    | (.park m, t) => (.park m, t)
    | (.ok _, t) => State.translates t ctx k rest

/-- The image of a packet as its acquire finds it (R380): the physical ranges it lies in, and their cells. -/
def State.imageNow (s : State) (ctx : Nat) (o : BoundObject) : Reach (List (Nat × Nat) × List Host.Cell) × State :=
  match s.physRanges ctx .fetch (pagePieces (o.objVa + o.imageOff) o.imageSize) with
  | (.ok rs, t) =>
    let spans := rs.map (·.2.2)
    (.ok (spans, cellsIn spans t.mem), t)
  | (.park m, t) => (.park m, t)
  | (.bad c a, t) => (.bad c a, t)

/-- The region of a packet that has been begun (R339): the one its context holds, or a request for one. A shared region of
another shape is handed over first. -/
def State.seekRegion (s : State) (ctx : Nat) (p : Packet) : State :=
  match s.region? ctx with
  | some r =>
    if p.shape = (r.h, r.w) then (s.acquireCores r).setStage ctx p .loading
    else if r.sharer.isSome then s.setStage ctx p .wantRegion
    else ((s.releaseRegion ctx).queueRegion ctx p.shape.1 p.shape.2 false).setStage ctx p .wantRegion
  | none => (s.queueRegion ctx p.shape.1 p.shape.2 false).setStage ctx p .wantRegion

/-- A LAUNCH or GRAPH packet is begun (R372-R374): its checks in the order of R373, its opening, and its region. -/
def State.beginKernel (s : State) (ctx : Nat) (p : Packet) : State :=
  if !p.formatOk then s.failBegin ctx p cPacketFormat
  else
    match s.ctx? ctx with
    | none => s
    | some c =>
      match c.kernelOf p with
      | .error cause => s.failBegin ctx p cause
      | .ok (o, k) =>
        let s := s.updCtx ctx (fun c => c.updPacket p.q p.index (Packet.begin_ c.regs.hseed))
        match s.imageNow ctx o with
        | (.ok old, t) =>
          let t := t.updCtx ctx (fun c => c.updPacket p.q p.index (fun p => t.withRuns ctx (p.withKernel o k old)))
          let arg : Nat × Nat := (p.word 5, k.psize)
          if p.isMeasured then
            t.withOpening ctx p { image := some (o.objVa + o.imageOff, o.imageSize, o.hashEntry)
                                  arg := some arg } (fun u => u.seekRegion ctx p)
          else
            match t.translates ctx .load (if k.psize = 0 then [] else pagePieces arg.1 arg.2) with
            | (.park _, u) => s.onlyMigrations u
            | (.bad cause _, u) => u.failBegin ctx p cause
            | (.ok _, u) => u.seekRegion ctx p
        | (_, t) => s.onlyMigrations t

/-- LAUNCH (R374). -/
def execLaunch (ctx q : Nat) (s : State) : Host.Outcome State Fault Refusal :=
  .next (match s.takenPacket ctx q 1 with
    | some p => s.beginKernel ctx p
    | none => s)

/-- GRAPH (R374). -/
def execGraph (ctx q : Nat) (s : State) : Host.Outcome State Fault Refusal :=
  .next (match s.takenPacket ctx q 2 with
    | some p => s.beginKernel ctx p
    | none => s)

/-! ### GATE_OPEN (R260, R273-R275, R374) -/

/-- The threads of a LAUNCH that belong to the core at a position among `n` (R260). -/
def launchShare (n total pos : Nat) : Nat :=
  256 * (total / (256 * n)) + min 256 (total % (256 * n) - 256 * pos)

/-- The thread count of a stage (R273). -/
def Packet.stageCount (p : Packet) (st : StageRec) : Nat :=
  if st.nthr = 0 then p.dims.1 * p.dims.2.1 * p.dims.2.2 else st.nthr

/-- The threads with which a packet begins. -/
def Packet.threadCount (p : Packet) : Nat :=
  if p.type = 2 then (p.stages.map p.stageCount).foldl (· + ·) 0 else p.dims.1 * p.dims.2.1 * p.dims.2.2

/-- The position of a number in a list. -/
def positionOf (n : Nat) (ns : List Nat) : Nat := (ns.findIdx? (· = n)).getD ns.length

/-- A lane at gate opening: its stage and its pending threads. The threads of a GRAPH's stage are pending and created at their first
admission like those of a LAUNCH: MODEL'S CHOICE (log 72), R261 and R264 speak of a LAUNCH's threads alone. -/
def Lane.opened (r : Region) (p : Packet) (l : Lane) : Lane :=
  if p.type = 2 then
    let stage := (p.stages.findIdx? (fun st => r.coreAt st.offset = l.core)).getD p.stages.length
    { l with
      stage := stage, pendingNext := 0, pendingPos := 0
      pendingLeft := match p.stages[stage]? with
        | some st => p.stageCount st
        | none => 0 }
  else
    let pos := positionOf l.core r.cores
    { l with
      stage := 0, pendingNext := 256 * pos, pendingPos := pos, pendingLeft := launchShare (r.h * r.w) p.threadCount pos }

/-- A bank set to the mode of an edge, empty, and bound to it (R275). -/
def Bank.forEdge (ctx e : Nat) (x : EdgeRec) : Bank :=
  { Bank.reset with mode := if x.kind = 1 then .window else .fifo, geom := x.geom, owner := ctx, binding := [.edge e] }

/-- An edge of a graph set up on its consumer's core (R274, R275): a bank that leaves CACHE mode takes its way from the L1 (R236). A
context that shares the region may not change its banks (R223), so that its FIFO and WINDOW edges get none and an access to one
finds no bank of its mode: MODEL'S CHOICE (log 22). -/
def State.openEdge (r : Region) (ctx : Nat) (p : Packet) (s : State) (e : Nat × EdgeRec) : State :=
  match p.stages[e.2.dst]? with
  | none => s
  | some st =>
    let core := r.coreAt st.offset
    if e.2.kind = 2 then
      s.updLane core ctx (fun l => { l with links := l.links ++ [{ edge := e.1, cap := e.2.geom % 64 + 1, entries := [] }] })
    else if r.sharer = some ctx then s
    else (s.updCore core (fun c => c.updBank e.2.bank (fun _ => Bank.forEdge ctx e.1 e.2))).trimL1 core

/-- The edges of a graph with their indices. -/
def Packet.edgeRecs (p : Packet) : List (Nat × EdgeRec) :=
  if p.type = 2 then p.edges.mapIdx (fun i e => (i, EdgeRec.ofList e)) else []

/-- The entry block streamed into the first slot of each core that runs one; true when no load waits. A block that fails its
check stays out, and traps its threads when the marshal chooses it (R59). -/
def State.loadEntries (ctx : Nat) (p : Packet) : List Lane → State → Bool × State
  | [], s => (true, s)
  | l :: ls, s =>
    if p.type = 2 && (p.stages[l.stage]?).isNone then State.loadEntries ctx p ls s
    else
      match s.loadBlock ctx p l.stage (p.entry l.stage) with
      | .wait t => (false, t)
      | .bad t _ _ => State.loadEntries ctx p ls t
      | .ok t b => State.loadEntries ctx p ls (t.updLane l.core ctx (fun l => { l with
          slots := [{ block := some b }, { block := none }] }))

/-- The lanes of a context. -/
def State.lanesOf (s : State) (ctx : Nat) : List Lane := s.lanes.filter (fun l => l.ctx = ctx)

/-- The entry blocks of a context's loading packet stand on its region, edges bound and threads pending. -/
def State.openGates (s : State) (ctx : Nat) (r : Region) (p : Packet) : Bool × State :=
  let t := s.updLanes ctx (Lane.opened r p)
  let t := p.edgeRecs.foldl (State.openEdge r ctx p) t
  let u := State.loadEntries ctx p (t.lanesOf ctx) t
  (u.1, (u.2.updCtx ctx (fun c => { c.updPacket p.q p.index (fun p => { p with gated := true }) with
    spawnCounter := p.threadCount })).setStage ctx p .running)

/-- GATE_OPEN (R374 steps 4 to 6). -/
def execGateOpen (ctx : Nat) (s : State) : Host.Outcome State Fault Refusal :=
  .next (match s.region? ctx, (s.ctx? ctx).bind (·.kernelPacket?) with
    | some r, some p =>
      if p.stage ≠ .loading then s
      else
        (match s.openGates ctx r p with
         | (false, t) => s.onlyMigrations t
         | (true, t) => t)
    | _, _ => s)

/-! ### COPY packets (R375) -/

/-- A dray that is free, by a free choice. -/
def State.pickDray (s : State) : Option (Nat × Nat) × State :=
  let free := ((List.range 112).map (fun n => (n / 7, n % 7))).filter (fun d => s.drayFree d.1 d.2)
  if free.isEmpty then (none, s) else (free[(s.choose free.length).1]?, (s.choose free.length).2)

/-- The parameter block of a COPY packet read and checked, and the copy handed to a dray (R375). -/
def State.startCopy (ctx : Nat) (p : Packet) (s : State) : State :=
  match s.readVa ctx (p.word 3) 64 .load false with
  | (.park _, t) => s.onlyMigrations t
  | (.bad cause _, t) => t.failBegin ctx p cause
  | (.ok bytes, t) =>
    let ws := leWords 8 bytes
    if !copyFieldsOk ws || decide ((CopyParam.ofWords ws).mode ≠ 0) then t.failBegin ctx p cCopyParam
    else
      match t.pickDray with
      | (some d, u) => (u.handOver 0 ctx 0 ws (p.word 3) none (some (p.q, p.index)) d.1 d.2).setStage ctx p .copying
      | (none, _) => s

/-- Whether a measured packet's opening has ended: its locks are registered, the last step of R381. -/
def State.isOpened (s : State) (ctx : Nat) (p : Packet) : Bool := s.locks.any (fun l => l.owner = .packet ctx p.q p.index)

/-- COPY_PACKET (R375). The packet is opened once; a COPY whose opening has ended waits only for a dray. -/
def execCopyPacket (ctx q : Nat) (s : State) : Host.Outcome State Fault Refusal :=
  .next (match s.takenPacket ctx q 3 with
    | none => s
    | some p =>
      if !p.formatOk then s.failBegin ctx p cPacketFormat
      else if s.isOpened ctx p then s.startCopy ctx p
      else s.withOpening ctx p { image := none, arg := some (p.word 3, 64) } (State.startCopy ctx p))

/-! ### BARRIER-AND and BARRIER-OR (R379) -/

/-- The addresses of the signals that a barrier names, in word order. -/
def Packet.signals (p : Packet) : List Nat := ([3, 4, 5, 6, 7].map p.word).filter (· ≠ 0)

/-- A reading of signals in turn: their values, the device lines read, and whether one lay on a host or peer page. -/
def State.readSignals (s : State) (ctx : Nat) : List Nat → Reach (List Word × List Nat × Bool) × State
  | [] => (.ok ([], [], false), s)
  | va :: rest =>
    match s.placeVa ctx va .load false with
    | (.bad c a, t) => (.bad c a, t)
    | (.park m, t) => (.park m, t)
    | (.ok (pa, key, mt), t) =>
      match (if mt = .device then t.readFault pa key .load else t.outerFault pa .load) with
      | some c => (.bad c va, t)
      | none =>
        let t := if mt = .device then t else t.noteSent ctx pa 8 false
        match State.readSignals t ctx rest with
        | (.ok (vs, ls, h), u) =>
          let v := BitVec.ofNat 64 (leNat (t.bytesAt pa 8))
          (.ok (v :: vs, if mt = .device then (pa / 64 :: ls, h) else (ls, true)), u)
        | r => r

/-- A barrier after a reading: aborted, satisfied or waiting (R379). While its completion signal waits for a page or for the
solo pass, the reading has not been made. -/
def State.decideBarrier (s : State) (ctx : Nat) (p : Packet) (vs : List Word) (lines : List Nat) (outer : Bool) : State :=
  match vs.find? (fun v => v.msb) with
  | some v => s.complete ctx { p with cause := some cBarrierAbort } (.store v)
  | none =>
    if vs.isEmpty || (if p.type = 4 then vs.all (· = 0) else vs.any (· = 0)) then s.complete ctx p (completionUpdate none)
    else s.updCtx ctx (fun c => c.updPacket p.q p.index (fun x => { x with
      stage := .waiting, sigLines := lines, pollable := outer, wake := false, poll := 0 }))

/-- A reading of a barrier (R372, R379). -/
def State.readBarrier (s : State) (ctx : Nat) (p : Packet) : State :=
  match s.readSignals ctx p.signals with
  | (.park _, t) => s.onlyMigrations t
  | (.bad cause _, t) => t.failBegin ctx p cause
  | (.ok (vs, lines, outer), t) => t.decideBarrier ctx p vs lines outer

/-- A barrier packet is begun. -/
def State.beginBarrier (s : State) (ctx : Nat) (p : Packet) : State :=
  if p.formatOk then s.readBarrier ctx p else s.failBegin ctx p cPacketFormat

/-- BARRIER_AND (R379): the first reading. -/
def execBarrierAnd (ctx q : Nat) (s : State) : Host.Outcome State Fault Refusal :=
  .next (match s.takenPacket ctx q 4 with
    | some p => s.beginBarrier ctx p
    | none => s)

/-- BARRIER_OR (R379): the first reading. -/
def execBarrierOr (ctx q : Nat) (s : State) : Host.Outcome State Fault Refusal :=
  .next (match s.takenPacket ctx q 5 with
    | some p => s.beginBarrier ctx p
    | none => s)

/-- BARRIER_READING (R379): a waiting barrier reads again after a commit has met a line of its signals, or 4096 core cycles of
the front strip after a reading of a host page. -/
def execBarrierReading (ctx q : Nat) (s : State) : Host.Outcome State Fault Refusal :=
  .next (match (s.ctx? ctx).bind (fun c => c.packets.find? (fun p => p.q = q && p.stage = .waiting)) with
    | some p => if p.wake || (p.pollable && 4096 ≤ p.poll) then s.readBarrier ctx p else s
    | none => s)

/-! ### SIGNAL (R376) -/

/-- SIGNAL_PACKET (R376): TARGET is updated, then the completion signal. -/
def execSignalPacket (ctx q : Nat) (s : State) : Host.Outcome State Fault Refusal :=
  .next (match s.takenPacket ctx q 6 with
    | none => s
    | some p =>
      if !p.formatOk then s.failBegin ctx p cPacketFormat
      else
        let v := p.words.getD 4 0
        match s.updateSignal ctx q (p.word 3) (if p.word 5 % 2 = 1 then .add v else .store v) with
        | (.park _, t) => s.onlyMigrations t
        | (.bad cause _, t) => t.failBegin ctx p cause
        | (.ok t, _) => (t.setStage ctx p .retired).completeNow ctx p)

/-! ### PACKET_RETIRE (R32, R143, R254, R399, R411) -/

/-- Whether engine work of a context's threads is still to end (R32, R411). -/
def State.engineWork (s : State) (ctx : Nat) : Bool :=
  (s.lanesOf ctx).any (fun l => !l.deferred.isEmpty || l.passes.any (fun p => p.state = .granted)) ||
  s.cores.any (fun c => c.queue.any (fun e => e.ctx = ctx)) ||
  s.copies.any (fun c => c.ctx = ctx && c.packet.isNone) ||
  s.migrations.any (fun m => m.ctx = ctx) ||
  s.shootdowns.any (fun d => d.ctx = ctx && (match d.starter with
    | .thread _ _ _ => true
    | _ => false))

/-- Whether the work of a running LAUNCH or GRAPH is done (R32). -/
def State.kernelDone (s : State) (ctx : Nat) (p : Packet) : Bool :=
  (s.lanesOf ctx).all (fun l =>
    l.threads.isEmpty && l.pendingLeft = 0 && l.passes.isEmpty && l.regWrites.isEmpty &&
    !(p.type = 2 && s.streamWaits l)) &&
  !s.engineWork ctx

/-- A LAUNCH or GRAPH packet that is over: its region is cleared, and what follows depends on whether it is measured. -/
def State.retireKernel (s : State) (ctx : Nat) (p : Packet) (after : PacketStage) : State :=
  let t := (s.clearKernel ctx).setStage ctx p after
  if p.measured.isSome then t else t.completeNow ctx p

/-- PACKET_RETIRE (R32, R399): a packet whose work is done retires; a failed one ends once its engine work has. -/
def execPacketRetire (ctx q i : Nat) (s : State) : Host.Outcome State Fault Refusal :=
  .next (match (s.ctx? ctx).bind (fun c => c.packet? q i) with
    | none => s
    | some p =>
      match p.stage with
      | .running => if s.kernelDone ctx p then s.retireKernel ctx p .retired else s
      | .stopped => if s.engineWork ctx then s else s.retireKernel ctx p .closed
      | .retired => if p.measured.isSome then s else s.completeNow ctx p
      | .closed => if p.measured.isSome then s else s.completeNow ctx p
      | _ => s)

end Sys2Proof.Machine
end

