-- ==== Sys2Proof/Machine/Access.lean ====
section
/-! DEFINITION. Accesses from outside (spec/06 R191, spec/08 R247, spec/11 R356): posted writes arriving at their homes, the
apertures of a function, and reads by peers. -/

namespace Sys2Proof.Machine

/-! ### Apertures (R356) -/

/-- A function by its host port and number (R328). -/
def funcIndex (port fn : Nat) : Nat := 32 * port + fn

/-- A function of the module. -/
def State.func? (s : State) (port fn : Nat) : Option Function :=
  if port < 2 && fn < 32 then s.functions[funcIndex port fn]? else none

/-- The state with a function changed. -/
def State.updFunc (s : State) (port fn : Nat) (f : Function → Function) : State :=
  { s with functions := listSet s.functions (funcIndex port fn) f }

/-- One refusal more in HOSTFAULT. -/
def State.countRefusal (s : State) (port fn : Nat) : State :=
  s.updFunc port fn (fun f => { f with hostfault := (f.hostfault + 1) % 2 ^ 32 })

/-- The context and the virtual address that an aperture offset names: none when the aperture is closed or names no live context
of its function. -/
def State.throughAperture (s : State) (port fn ap off : Nat) : Option (Nat × Nat) :=
  match (s.func? port fn).bind (fun f => f.aps[ap]?) with
  | none => none
  | some r =>
    if field r 63 1 = 0 then none
    else
      match s.ctx? (field r 57 6) with
      | some c => if c.func = funcIndex port fn then some (c.num, field r 36 21 * 2 ^ 36 + off) else none
      | none => none

/-- Whether a host can reach a function now. -/
def State.hostReaches (s : State) (port fn : Nat) : Bool :=
  (s.func? port fn).isSome && (match s.hosts[port]? with
    | some h => h.up
    | none => false)

/-- The lines of an aperture access: an access stays in its aperture. -/
def apertureOk (ap off len : Nat) : Bool := decide (ap < 4) && decide (0 < len) && decide (off + len ≤ 2 ^ 36)

/-- A read through an aperture (R191, R356): none while a line of it is locked, else committed values or a Completer Abort with the
refusal counted. -/
def State.readAperture (s : State) (port fn ap off len : Nat) : Option Response × State :=
  match s.throughAperture port fn ap off with
  | none => (some .abort, s.countRefusal port fn)
  | some (ctx, va) =>
    match s.readVa ctx va len .load true with
    | (.ok bs, t) => (some (.data bs), t)
    | (.park _, t) => (none, s.onlyMigrations t)
    | (.bad cause _, t) =>
      if cause = memCause .load reasonLocked then (none, t) else (some .abort, t.countRefusal port fn)

/-- Whether a device block can be read under the key index it was last written with, while a context holds that. -/
def State.blockReadable (s : State) (pa : Nat) : Bool :=
  match s.integrity? (pa / 128) with
  | none => false
  | some r =>
    (match s.key? r.key with
     | some e => e.holder.isSome
     | none => false) && (s.readFault pa r.key .load).isNone

/-- A read by a peer (R191, R247): none while a destination line of it is locked, else committed values of device memory. A block
that cannot be read, or an address that holds no device memory, is answered with an abort (log 24). -/
def State.readPeer (s : State) (addr len : Nat) : Option Response :=
  let spans := lineSpans addr len
  if spans.any (fun x => s.lockedFor x.1 false) then none
  else if spans.all (fun x => s.devicePresent x.1 && s.blockReadable x.1) then some (.data (s.bytesAt addr len))
  else some .abort

/-- Whether accesses that a port has received wait at their homes (R191, R247). -/
def State.portWaits (s : State) (port : Nat) : Bool := s.posted.any (fun w => w.port = port)

/-- A read that has to wait at its port: it is performed in the order in which the port received it (R247). -/
def State.holdRead (s : State) (port fn : Nat) (ap : Option Nat) (off len : Nat) : State :=
  { s with
    resp := .held
    posted := s.posted ++ [{ port := port, ctx := none, pa := 0, key := 0, bytes := [], read := some (fn, ap, off, len) }] }

/-- APERTURE_READ (R191, R247, R356): answered at once, or held at its port. -/
def execApertureRead (port fn ap off len : Nat) (s : State) : Host.Outcome State Fault Refusal :=
  .next (if !s.hostReaches port fn || !apertureOk ap off len then s
    else if s.portWaits (16 + port) then s.holdRead (16 + port) fn (some ap) off len
    else
      match s.readAperture port fn ap off len with
      | (some r, t) => { t with resp := r }
      | (none, t) => t.holdRead (16 + port) fn (some ap) off len)

/-- The pieces of an accepted write received at a host port, in their order (R191); a host or peer page is written at once. -/
def State.receive (s : State) (port ctx : Nat) (ps : List Piece) : State :=
  let out := ps.filter (fun p => !p.device)
  let ws := (ps.filter (·.device)).map (fun p =>
    ({ port := 16 + port, ctx := some ctx, pa := p.pa, key := p.key, bytes := p.bytes.map (fun b => (b, 0xFF))
       va := some p.va } : PostedWrite))
  { out.foldl State.sendPiece s with posted := s.posted ++ ws }

/-- A write through an aperture that meets a page still to be migrated (R242): posted line by line without a place, and translated
when each line is made. -/
def State.postLater (s : State) (port ctx va : Nat) (bytes : List Byte) : State :=
  { s with posted := s.posted ++ (lineSpans va bytes.length).map (fun x =>
      { port := 16 + port, ctx := some ctx, pa := 0, key := 0, bytes := ((bytes.drop (x.1 - va)).take x.2).map (fun b => (b, 0xFF))
        va := some x.1 }) }

/-- APERTURE_WRITE (R356): an accepted write is posted line by line; a refused one is dropped and counted. -/
def execApertureWrite (port fn ap off len data : Nat) (s : State) : Host.Outcome State Fault Refusal :=
  .next (if !s.hostReaches port fn || !apertureOk ap off len then s
    else
      match s.throughAperture port fn ap off with
      | none => s.countRefusal port fn
      | some (ctx, va) =>
        match s.writeVa ctx va (leBytes len data) .store false with
        | (.ok ps, _, t) => t.receive port ctx ps
        | (.park _, _, t) => (s.onlyMigrations t).postLater port ctx va (leBytes len data)
        | (.bad _ _, _, t) => t.countRefusal port fn)

/-! ### Reads by peers (R191, R247) -/

/-- PEER_READ (R191, R247): answered at once, or held at its port. -/
def execPeerRead (q addr len : Nat) (s : State) : Host.Outcome State Fault Refusal :=
  let up : Bool := match s.couplers[q]? with
    | some p => p.up
    | none => false
  .next (if !up || len = 0 then s
    else if s.portWaits q then s.holdRead q 0 none addr len
    else
      match s.readPeer addr len with
      | some r => { s.touchPhys addr len with resp := r }
      | none => s.holdRead q 0 none addr len)

/-! ### Accesses arriving at their homes (R191, R247) -/

/-- A posted write merged into its line. -/
def PostedWrite.lineBytes (w : PostedWrite) (s : State) (pa key : Nat) : List DevByte :=
  w.bytes.mapIdx (fun i b => { pa := pa + i, val := mergeByte (s.byteAt (pa + i)) b.1 b.2, key := key })

/-- The place of a posted write as it is made: a write through an aperture is translated by the entries in force now (R349). -/
def State.postedPlace (s : State) (w : PostedWrite) : Reach (Nat × Nat × MemType) × State :=
  match w.ctx, w.va with
  | some ctx, some va => s.placeVa ctx va .store false
  | _, _ => (.ok (w.pa, w.key, .device), s)

/-- The first access of a port gone. -/
def State.dropPosted (s : State) (w : PostedWrite) : State := { s with posted := s.posted.erase w }

/-- A posted write becomes one engine commit at its line's home (R191); a locked line, a grant or the solo pass keeps it waiting. One
that its context's tables no longer admit is refused and counted (R356). -/
def State.performWrite (s : State) (w : PostedWrite) : State :=
  let op : EngineOp := .port w.port
  match s.postedPlace w with
  | (.park _, t) => t.dropRequests (.engine op)
  | (.bad _ _, t) =>
    let t := (t.dropPosted w).dropRequests (.engine op)
    (match w.ctx.bind t.ctx? with
     | some c => t.countRefusal (c.func / 32) (c.func % 32)
     | none => t)
  | (.ok (pa, _, .outside), t) =>
    { (((w.ctx.elim t (fun c => t.noteSent c pa w.bytes.length true)).dropPosted w).dropRequests (.engine op)).touchPhys pa
        w.bytes.length with
      mem := writeMasked t.mem pa w.bytes }
  | (.ok (pa, key, .device), t) =>
    if t.lockedFor pa true then t.dropRequests (.engine op)
    else
      match t.mayCommitLines op [pa / 64] with
      | (false, t) => t
      | (true, t) => (((t.dropPosted w).engineCommit (w.lineBytes t pa key)).touchPhys pa w.bytes.length).dropRequests (.engine op)

/-- A held read performed, or held on (R247). -/
def State.performRead (s : State) (w : PostedWrite) (fn : Nat) (ap : Option Nat) (off len : Nat) : State :=
  match (match ap with
    | some ap => s.readAperture (w.port - 16) fn ap off len
    | none => match s.readPeer off len with
      | some r => (some r, s.touchPhys off len)
      | none => (none, s)) with
  | (some r, t) => { t.dropPosted w with resp := r }
  | (none, t) => t

/-- HOST_WRITE_ARRIVAL (R191, R247): the access that a port received first is performed. -/
def execHostWriteArrival (port : Nat) (s : State) : Host.Outcome State Fault Refusal :=
  .next (match s.posted.find? (fun w => w.port = port) with
    | none => s
    | some w =>
      match w.read with
      | some (fn, ap, off, len) => s.performRead w fn ap off len
      | none => s.performWrite w)

end Sys2Proof.Machine
end

