-- ==== Sys2Proof/Machine/Elementary.lean ====
section
/-! DEFINITION. The elementary W-float functions, rounded once (spec/04 R126): each is evaluated in fixed point with a
stated error bound, at rising precision, until the bound decides the rounding. A fixed-point number of precision p is an
integer in units of 2^-p. -/

namespace Sys2Proof.Machine

/-- The error bound of every fixed-point evaluation below at precision p, in units of the last place. An evaluation sums series of at
most p + 1200 terms, each term off by a few units and by what those before it are off, so that a sum is off by less than 2^10 p^2;
reducing an operand of FSIN or FCOS multiplies the error of pi by a quotient of at most 2^41. -/
def elemBound (p : Nat) : Int := (p * p * 2 ^ 52 : Nat)

/-- The product of two fixed-point numbers, truncated. -/
def fixMul (p : Nat) (a b : Int) : Int := a * b / 2 ^ p

/-- The quotient of two fixed-point numbers, truncated. -/
def fixDiv (p : Nat) (a b : Int) : Int := a * 2 ^ p / b

/-- The alternating (`sgn` -1) or plain (`sgn` 1) sum of power / (2n + 1), the power falling by `q` each term: arctan and
artanh of an integer's reciprocal. -/
def invSeries (sgn q : Int) : Nat → Int → Int → Int → Int
  | 0, _, _, acc => acc
  | fuel + 1, power, n, acc =>
    if power = 0 then acc else invSeries sgn q fuel (sgn * (power / q)) (n + 2) (acc + power / n)

/-- pi by Machin's formula. -/
def fixPi (p : Nat) : Int :=
  16 * invSeries (-1) 25 p (2 ^ p / 5) 1 0 - 4 * invSeries (-1) 57121 p (2 ^ p / 239) 1 0

/-- The natural logarithm of 2, by 2 artanh(1/3). -/
def fixLn2 (p : Nat) : Int := 2 * invSeries 1 9 p (2 ^ p / 3) 1 0

/-- The Taylor sum of exp. -/
def expSeries (p : Nat) (r : Int) : Nat → Int → Int → Int → Int
  | 0, _, _, acc => acc
  | fuel + 1, term, n, acc =>
    if term = 0 || term = -1 then acc + term else expSeries p r fuel (fixMul p term r / n) (n + 1) (acc + term)

/-- exp of a fixed-point number: the value of 2^i x f as the pair (f, i), f near 1. -/
def fixExp (p : Nat) (y : Int) : Int × Int :=
  let ln2 := fixLn2 p
  let i := (2 * y + ln2) / (2 * ln2)
  (expSeries p (y - i * ln2) p (2 ^ p) 1 0, i)

/-- A fixed-point number times 2^i, truncated. -/
def fixShift (v i : Int) : Int := if 0 ≤ i then v * 2 ^ i.toNat else v / 2 ^ (-i).toNat

/-- The Taylor sums of sin and cos: terms with denominators n (n + 1). -/
def trigSeries (p : Nat) (r2 : Int) : Nat → Int → Int → Int → Int
  | 0, _, _, acc => acc
  | fuel + 1, term, n, acc =>
    if term = 0 || term = -1 then acc + term
    else trigSeries p r2 fuel (-(fixMul p term r2 / (n * (n + 1)))) (n + 2) (acc + term)

/-- The odd power sum of artanh. -/
def artanhSeries (p : Nat) (z2 : Int) : Nat → Int → Int → Int → Int
  | 0, _, _, acc => acc
  | fuel + 1, power, n, acc =>
    if power = 0 || power = -1 then acc else artanhSeries p z2 fuel (fixMul p power z2) (n + 2) (acc + power / n)

/-- The sum of (2 x^2)^n / (1 x 3 x ... x (2n + 1)), which times x exp(-x^2) 2/sqrt(pi) is erf. -/
def erfSeries (p : Nat) (x2 : Int) : Nat → Int → Int → Int → Int
  | 0, _, _, acc => acc
  | fuel + 1, term, n, acc =>
    if term = 0 then acc else erfSeries p x2 fuel (fixMul p term (2 * x2) / n) (n + 2) (acc + term)

/-- The fixed-point number of a magnitude m x 2^e, truncated. -/
def fixOf (p : Nat) (m : Nat) (e : Int) : Int := fixShift m (e + p)

/-- The value of a function at precision p: mantissa times a multiplier and a power of two, with the mantissa's error at
most `elemBound`. The function's value is sgn x scale x mantissa x 2^(exp - p). -/
structure ElemValue where
  mant : Int
  scale : Nat
  exp : Int

/-- 2^a for a = (-1)^neg m 2^e (R126). -/
def elemExp2 (p : Nat) (neg : Bool) (m : Nat) (e : Int) : ElemValue :=
  let x := if neg then -(fixOf p m e) else fixOf p m e
  let i := (2 * x + 2 ^ p) / (2 * 2 ^ p)
  let f := x - i * 2 ^ p
  { mant := expSeries p (fixMul p f (fixLn2 p)) p (2 ^ p) 1 0, scale := 1, exp := i }

/-- log2 of m x 2^e (R126). -/
def elemLog2 (p : Nat) (m : Nat) (e : Int) : ElemValue :=
  let k := wExp m e
  let t := fixOf p m (e - k)
  let z := fixDiv p (t - 2 ^ p) (t + 2 ^ p)
  let ln := 2 * artanhSeries p (fixMul p z z) p z 1 0
  { mant := k * 2 ^ p + fixDiv p ln (fixLn2 p), scale := 1, exp := 0 }

/-- sin (`quarter` 0) or cos (`quarter` 1) of m x 2^e, reduced by multiples of pi / 2 (R126). -/
def elemTrig (p : Nat) (quarter : Int) (m : Nat) (e : Int) : ElemValue :=
  let x := fixOf p m e
  let half := fixPi p / 2
  let q := (2 * x + half) / (2 * half)
  let r := x - q * half
  let r2 := fixMul p r r
  let n := (q + quarter) % 4
  let s := if n % 2 = 0 then trigSeries p r2 p r 2 0 else trigSeries p r2 p (2 ^ p) 1 0
  { mant := if n < 2 then s else -s, scale := 1, exp := 0 }

/-- tanh of m x 2^e: 1 - 2 / (exp(2x) + 1) (R126). -/
def elemTanh (p : Nat) (m : Nat) (e : Int) : ElemValue :=
  let (f, i) := fixExp p (2 * fixOf p m e)
  { mant := 2 ^ p - fixDiv p (2 * 2 ^ p) (fixShift f i + 2 ^ p), scale := 1, exp := 0 }

/-- erf of m x 2^e: the mantissa is erf(x) / x, the scale m (R126). -/
def elemErf (p : Nat) (m : Nat) (e : Int) : ElemValue :=
  let x := fixOf p m e
  let x2 := fixMul p x x
  let s := erfSeries p x2 (p + 1200) (2 ^ p) 3 0
  let (f, i) := fixExp p (-x2)
  let c : Int := (2 * 2 ^ (2 * p) : Nat) / (isqrt (p + 8) (fixPi p * 2 ^ p).toNat : Nat)
  { mant := fixMul p c (fixShift (fixMul p s f) i), scale := m, exp := e }

/-- The functions of R126. -/
inductive Elem
  | exp2 | log2 | sin | cos | tanh | erf
  deriving DecidableEq, Repr

/-- A function at precision p, for the sign and magnitude of its operand; sin, tanh and erf are odd and take the
magnitude. -/
def elemEval (f : Elem) (p : Nat) (neg : Bool) (m : Nat) (e : Int) : ElemValue :=
  match f with
  | .exp2 => elemExp2 p neg m e
  | .log2 => elemLog2 p m e
  | .sin => elemTrig p 0 m e
  | .cos => elemTrig p 1 m e
  | .tanh => elemTanh p m e
  | .erf => elemErf p m e

/-- The roundings of the two ends of the interval in which a function's value lies, evaluated at precision p. -/
def elemBracket (f : Elem) (p : Nat) (mode : RMode) (u : Nat) (flip neg : Bool) (m : Nat) (e : Int) : Word × Word :=
  let v := elemEval f p neg m e
  let size : Int := v.mant.natAbs
  let n := flip != decide (v.mant < 0)
  let end_ := fun (d : Int) => roundW mode u (n != decide (d < 0)) (d.natAbs * v.scale) (v.exp - p) true
  (end_ (size - elemBound p), end_ (size + elemBound p))

/-- The rounding of a function's value at the first of the precisions p, 2p, 4p, ... at which the error bound decides it. No value
that is not exact lies on a boundary of a rounding, so that some precision does; `choice` says which end is taken should none of
them. -/
def elemLadder (f : Elem) (mode : RMode) (u : Nat) (flip neg : Bool) (m : Nat) (e : Int) (choice : Bool) : Nat → Nat → Word
  | 0, p => let b := elemBracket f p mode u flip neg m e
    if choice then b.1 else b.2
  | fuel + 1, p =>
    let b := elemBracket f p mode u flip neg m e
    if b.1 = b.2 then b.1 else elemLadder f mode u flip neg m e choice fuel (2 * p)

/-- The opcodes of the functions, by which a choice is named. -/
def Elem.code : Elem → Nat
  | .exp2 => 0x66 | .log2 => 0x67 | .sin => 0x68 | .cos => 0x69 | .tanh => 0x6A | .erf => 0x6B

/-- The rounding of the values next below (`below`) or next above a magnitude m x 2^e. -/
def roundNext (mode : RMode) (u : Nat) (neg below : Bool) (m : Nat) (e : Int) : Word :=
  roundW mode u neg (if below then m * 2 ^ 200 - 1 else m * 2 ^ 200) (e - 200) true

/-- A function of R126 at a finite nonzero operand of its domain whose value is not exact. Near 0, and where tanh and erf
are nearly 1, the value lies so near a W value that its side of it decides the rounding. -/
def elemFinite (f : Elem) (mode : RMode) (u : Nat) (neg : Bool) (m : Nat) (e : Int) (word : Word) : Word :=
  let tiny := decide (wExp m e < -60)
  let flip := match f with
    | .sin | .tanh | .erf => neg
    | _ => false
  let direct : Option Word := match f with
    | .exp2 =>
      -- under HSR the distance from 1 counts in steps of 2^-82
      if tiny && (mode ≠ .hsr || decide (wExp m e < -90)) then some (roundNext mode u false neg 1 0)
      else if 14 ≤ wExp m e then some (roundW mode u false 1 (if neg then -8000 else 8000) true)
      else none
    | .log2 => none
    | .sin => if tiny then some (roundNext mode u neg true m e) else none
    | .cos => if tiny then some (roundNext mode u false true 1 0) else none
    | .tanh =>
      if tiny then some (roundNext mode u neg true m e)
      else if 6 ≤ wExp m e then some (roundNext mode u neg true 1 0) else none
    | .erf => if 4 ≤ wExp m e then some (roundNext mode u neg true 1 0) else none
  match direct with
  | some w => w
  | none =>
    elemLadder f mode u flip neg m e (Config.freeElementary f.code word (match mode with
      | .rne => 0 | .rtz => 1 | .rup => 2 | .rdn => 3 | .rna => 4 | .hsr => 5)) 64 320

/-- Whether m x 2^e is an integer (m nonzero). -/
def isInteger (m : Nat) (e : Int) : Bool :=
  if 0 ≤ e then true else decide (-e < 60) && decide (m % 2 ^ (-e).toNat = 0)

/-- FEXP2 (R126). -/
def resFexp2 (mode : RMode) (u : Nat) (a : Word) : Word :=
  match wRead a with
  | .nan => wNaN
  | .inf n => if n then 0 else wInf false
  | .fin n m e =>
    if m = 0 then wWrite (.fin false 1 0)
    else if isInteger m e then
      (let v : Int := if 14 ≤ wExp m e then 8000 else (m * 2 ^ e.toNat / 2 ^ (-e).toNat : Nat)
       roundW mode u false 1 (if n then -v else v) false)
    else elemFinite .exp2 mode u n m e a

/-- FLOG2 (R126). -/
def resFlog2 (mode : RMode) (u : Nat) (a : Word) : Word :=
  match wRead a with
  | .nan => wNaN
  | .inf n => if n then wNaN else wInf false
  | .fin n m e =>
    if m = 0 then wInf true
    else if n then wNaN
    else if m = 2 ^ (nbits m - 1) then wWrite (wOfInt (wExp m e))
    else elemFinite .log2 mode u false m e a

/-- Whether a magnitude exceeds 2^40, the domain of FSIN and FCOS (R126). -/
def beyondTrig (m : Nat) (e : Int) : Bool :=
  decide (40 < wExp m e) || (decide (wExp m e = 40) && decide (m ≠ 2 ^ (nbits m - 1)))

/-- FSIN (R126). -/
def resFsin (mode : RMode) (u : Nat) (a : Word) : Word :=
  match wRead a with
  | .nan | .inf _ => wNaN
  | .fin n m e =>
    if m = 0 then wZero n else if beyondTrig m e then wNaN else elemFinite .sin mode u n m e a

/-- FCOS (R126). -/
def resFcos (mode : RMode) (u : Nat) (a : Word) : Word :=
  match wRead a with
  | .nan | .inf _ => wNaN
  | .fin n m e =>
    if m = 0 then wWrite (.fin false 1 0)
    else if beyondTrig m e then wNaN else elemFinite .cos mode u n m e a

/-- FTANH (R126). -/
def resFtanh (mode : RMode) (u : Nat) (a : Word) : Word :=
  match wRead a with
  | .nan => wNaN
  | .inf n => wWrite (.fin n 1 0)
  | .fin n m e => if m = 0 then wZero n else elemFinite .tanh mode u n m e a

/-- FERF (R126). -/
def resFerf (mode : RMode) (u : Nat) (a : Word) : Word :=
  match wRead a with
  | .nan => wNaN
  | .inf n => wWrite (.fin n 1 0)
  | .fin n m e => if m = 0 then wZero n else elemFinite .erf mode u n m e a

end Sys2Proof.Machine
end

