-- ==== Sys2Proof/Machine/FloatAlu.lean ====
section
/-! DEFINITION. The W-float instructions (spec/04 R121-R135): operands are read as W (R76), and a result that rounds with
HSR draws its word by R80. -/

namespace Sys2Proof.Machine

/-- FADD (R123). -/
def execFadd (f : Fields) (rm : RMode) (imm : Option Imm) (s : State) : Host.Outcome State Fault Refusal :=
  .next (s.fireValue f (fun x s => .ok (resFadd rm (x.rnd s) (wRead x.a) (x.wb imm))))

/-- FSUB (R123). -/
def execFsub (f : Fields) (rm : RMode) (imm : Option Imm) (s : State) : Host.Outcome State Fault Refusal :=
  .next (s.fireValue f (fun x s => .ok (resFsub rm (x.rnd s) (wRead x.a) (x.wb imm))))

/-- FMUL (R123). -/
def execFmul (f : Fields) (rm : RMode) (imm : Option Imm) (s : State) : Host.Outcome State Fault Refusal :=
  .next (s.fireValue f (fun x s => .ok (resFmul rm (x.rnd s) (wRead x.a) (x.wb imm))))

/-- FMA (R124). -/
def execFma (f : Fields) (rm : RMode) (imm : Option Imm) (s : State) : Host.Outcome State Fault Refusal :=
  .next (s.fireValue f (fun x s => .ok (resFma rm (x.rnd s) (wRead x.a) (x.wb imm) (wRead x.c))))

/-- FNMA (R124). -/
def execFnma (f : Fields) (rm : RMode) (imm : Option Imm) (s : State) : Host.Outcome State Fault Refusal :=
  .next (s.fireValue f (fun x s => .ok (resFnma rm (x.rnd s) (wRead x.a) (x.wb imm) (wRead x.c))))

/-- FDIV (R123). -/
def execFdiv (f : Fields) (rm : RMode) (imm : Option Imm) (s : State) : Host.Outcome State Fault Refusal :=
  .next (s.fireValue f (fun x s => .ok (resFdiv rm (x.rnd s) (wRead x.a) (x.wb imm))))

/-- FSQRT (R123). -/
def execFsqrt (f : Fields) (rm : RMode) (s : State) : Host.Outcome State Fault Refusal :=
  .next (s.fireValue f (fun x s => .ok (resFsqrt rm (x.rnd s) (wRead x.a))))

/-- FRCP (R125). -/
def execFrcp (f : Fields) (rm : RMode) (s : State) : Host.Outcome State Fault Refusal :=
  .next (s.fireValue f (fun x s => .ok (resFrcp rm (x.rnd s) (wRead x.a))))

/-- FRSQ (R125). -/
def execFrsq (f : Fields) (rm : RMode) (s : State) : Host.Outcome State Fault Refusal :=
  .next (s.fireValue f (fun x s => .ok (resFrsq rm (x.rnd s) (wRead x.a))))

/-- FMIN (R127). -/
def execFmin (f : Fields) (_rm : RMode) (alt : Bool) (imm : Option Imm) (s : State) : Host.Outcome State Fault Refusal :=
  .next (s.fireValue f (fun x _ => .ok (resFminmax true alt (wRead x.a) (x.wb imm))))

/-- FMAX (R127). -/
def execFmax (f : Fields) (_rm : RMode) (alt : Bool) (imm : Option Imm) (s : State) : Host.Outcome State Fault Refusal :=
  .next (s.fireValue f (fun x _ => .ok (resFminmax false alt (wRead x.a) (x.wb imm))))

/-- FABS (R129). -/
def execFabs (f : Fields) (_rm : RMode) (s : State) : Host.Outcome State Fault Refusal :=
  .next (s.fireValue f (fun x _ => .ok (resFabs (wRead x.a))))

/-- FNEG (R129). -/
def execFneg (f : Fields) (_rm : RMode) (s : State) : Host.Outcome State Fault Refusal :=
  .next (s.fireValue f (fun x _ => .ok (resFneg (wRead x.a))))

/-- FSGN (R129). -/
def execFsgn (f : Fields) (_rm : RMode) (alt : Bool) (imm : Option Imm) (s : State) : Host.Outcome State Fault Refusal :=
  .next (s.fireValue f (fun x _ => .ok (resFsgn alt (wRead x.a) (x.wb imm))))

/-- FCMP (R130). -/
def execFcmp (f : Fields) (_rm : RMode) (alt : Bool) (imm : Option Imm) (s : State) : Host.Outcome State Fault Refusal :=
  .next (s.fireValue f (fun x _ => .ok (resFcmp alt (wRead x.a) (x.wb imm))))

/-- FCLASS (R131). -/
def execFclass (f : Fields) (_rm : RMode) (s : State) : Host.Outcome State Fault Refusal :=
  .next (s.fireValue f (fun x _ => .ok (resFclass x.a)))

/-- FRINT (R132). -/
def execFrint (f : Fields) (rm : RMode) (s : State) : Host.Outcome State Fault Refusal :=
  .next (s.fireValue f (fun x s => .ok (resFrint rm (x.rnd s) (wRead x.a))))

/-- FTOI (R133). -/
def execFtoi (f : Fields) (rm : RMode) (ty : IntTy) (s : State) : Host.Outcome State Fault Refusal :=
  .next (s.fireValue f (fun x s => .ok (resFtoi rm (x.rnd s) ty (wRead x.a))))

/-- ITOF (R134). -/
def execItof (f : Fields) (rm : RMode) (ty : IntTy) (s : State) : Host.Outcome State Fault Refusal :=
  .next (s.fireValue f (fun x s => .ok (resItof rm (x.rnd s) ty x.a)))

/-- FSCALE (R135). -/
def execFscale (f : Fields) (rm : RMode) (s : State) : Host.Outcome State Fault Refusal :=
  .next (s.fireValue f (fun x s => .ok (resFscale rm (x.rnd s) (wRead x.a) (x.operand .b))))

/-- FLOGB (R135). -/
def execFlogb (f : Fields) (_rm : RMode) (s : State) : Host.Outcome State Fault Refusal :=
  .next (s.fireValue f (fun x _ => .ok (resFlogb (wRead x.a))))

/-- FMANT (R135). -/
def execFmant (f : Fields) (_rm : RMode) (s : State) : Host.Outcome State Fault Refusal :=
  .next (s.fireValue f (fun x _ => .ok (resFmant (wRead x.a))))

/-- FEXP2 (R126). -/
def execFexp2 (f : Fields) (rm : RMode) (s : State) : Host.Outcome State Fault Refusal :=
  .next (s.fireValue f (fun x s => .ok (resFexp2 rm (x.rnd s) x.a)))

/-- FLOG2 (R126). -/
def execFlog2 (f : Fields) (rm : RMode) (s : State) : Host.Outcome State Fault Refusal :=
  .next (s.fireValue f (fun x s => .ok (resFlog2 rm (x.rnd s) x.a)))

/-- FSIN (R126). -/
def execFsin (f : Fields) (rm : RMode) (s : State) : Host.Outcome State Fault Refusal :=
  .next (s.fireValue f (fun x s => .ok (resFsin rm (x.rnd s) x.a)))

/-- FCOS (R126). -/
def execFcos (f : Fields) (rm : RMode) (s : State) : Host.Outcome State Fault Refusal :=
  .next (s.fireValue f (fun x s => .ok (resFcos rm (x.rnd s) x.a)))

/-- FTANH (R126). -/
def execFtanh (f : Fields) (rm : RMode) (s : State) : Host.Outcome State Fault Refusal :=
  .next (s.fireValue f (fun x s => .ok (resFtanh rm (x.rnd s) x.a)))

/-- FERF (R126). -/
def execFerf (f : Fields) (rm : RMode) (s : State) : Host.Outcome State Fault Refusal :=
  .next (s.fireValue f (fun x s => .ok (resFerf rm (x.rnd s) x.a)))

/-- FCLAMP (R128). -/
def execFclamp (f : Fields) (_rm : RMode) (imm : Option Imm) (s : State) : Host.Outcome State Fault Refusal :=
  .next (s.fireValue f (fun x _ => .ok (resFclamp (wRead x.a) (x.wb imm) (wRead x.c))))

end Sys2Proof.Machine
end

