-- ==== Sys2Proof/Machine/IntAlu.lean ====
section
/-! DEFINITION. The integer and address instructions (spec/04 R99-R120): each fires on its operand set and sends its result
to T0 and T1; .CHK traps are recorded with the instruction's index as TINFO (R104). -/

namespace Sys2Proof.Machine

/-- ADD (R106). -/
def execAdd (f : Fields) (ty : IntTy) (chk : Bool) (imm : Option Imm) (s : State) : Host.Outcome State Fault Refusal :=
  .next (s.fireValue f (fun x _ => resAdd ty chk x.a (x.b imm)))

/-- SUB (R106). -/
def execSub (f : Fields) (ty : IntTy) (chk : Bool) (imm : Option Imm) (s : State) : Host.Outcome State Fault Refusal :=
  .next (s.fireValue f (fun x _ => resSub ty chk x.a (x.b imm)))

/-- MUL (R106). -/
def execMul (f : Fields) (ty : IntTy) (chk : Bool) (imm : Option Imm) (s : State) : Host.Outcome State Fault Refusal :=
  .next (s.fireValue f (fun x _ => resMul ty chk x.a (x.b imm)))

/-- MULH (R108). -/
def execMulh (f : Fields) (ty : IntTy) (imm : Option Imm) (s : State) : Host.Outcome State Fault Refusal :=
  .next (s.fireValue f (fun x _ => .ok (resMulh ty x.a (x.b imm))))

/-- MAD (R106). -/
def execMad (f : Fields) (ty : IntTy) (chk : Bool) (imm : Option Imm) (s : State) : Host.Outcome State Fault Refusal :=
  .next (s.fireValue f (fun x _ => resMad ty chk x.a (x.b imm) x.c))

/-- DIV (R109). -/
def execDiv (f : Fields) (ty : IntTy) (chk : Bool) (imm : Option Imm) (s : State) : Host.Outcome State Fault Refusal :=
  .next (s.fireValue f (fun x _ => resDiv ty chk x.a (x.b imm)))

/-- REM (R109). -/
def execRem (f : Fields) (ty : IntTy) (chk : Bool) (imm : Option Imm) (s : State) : Host.Outcome State Fault Refusal :=
  .next (s.fireValue f (fun x _ => resRem ty chk x.a (x.b imm)))

/-- NEG (R106). -/
def execNeg (f : Fields) (ty : IntTy) (chk : Bool) (s : State) : Host.Outcome State Fault Refusal :=
  .next (s.fireValue f (fun x _ => resNeg ty chk x.a))

/-- ABS (R106). -/
def execAbs (f : Fields) (ty : IntTy) (chk : Bool) (s : State) : Host.Outcome State Fault Refusal :=
  .next (s.fireValue f (fun x _ => resAbs ty chk x.a))

/-- MIN (R110). -/
def execMin (f : Fields) (ty : IntTy) (imm : Option Imm) (s : State) : Host.Outcome State Fault Refusal :=
  .next (s.fireValue f (fun x _ => .ok (resMin ty x.a (x.b imm))))

/-- MAX (R110). -/
def execMax (f : Fields) (ty : IntTy) (imm : Option Imm) (s : State) : Host.Outcome State Fault Refusal :=
  .next (s.fireValue f (fun x _ => .ok (resMax ty x.a (x.b imm))))

/-- CLAMP (R110). -/
def execClamp (f : Fields) (ty : IntTy) (imm : Option Imm) (s : State) : Host.Outcome State Fault Refusal :=
  .next (s.fireValue f (fun x _ => .ok (resClamp ty x.a (x.b imm) x.c)))

/-- ABSD (R106). -/
def execAbsd (f : Fields) (ty : IntTy) (chk : Bool) (imm : Option Imm) (s : State) : Host.Outcome State Fault Refusal :=
  .next (s.fireValue f (fun x _ => resAbsd ty chk x.a (x.b imm)))

/-- ADDS (R107). -/
def execAdds (f : Fields) (ty : IntTy) (imm : Option Imm) (s : State) : Host.Outcome State Fault Refusal :=
  .next (s.fireValue f (fun x _ => .ok (resAdds ty x.a (x.b imm))))

/-- SUBS (R107). -/
def execSubs (f : Fields) (ty : IntTy) (imm : Option Imm) (s : State) : Host.Outcome State Fault Refusal :=
  .next (s.fireValue f (fun x _ => .ok (resSubs ty x.a (x.b imm))))

/-- CMP (R111). -/
def execCmp (f : Fields) (ty : IntTy) (cond : Cond) (imm : Option Imm) (s : State) : Host.Outcome State Fault Refusal :=
  .next (s.fireValue f (fun x _ => .ok (resCmp ty cond x.a (x.b imm))))

/-- AND (R112). -/
def execAnd (f : Fields) (ty : IntTy) (imm : Option Imm) (s : State) : Host.Outcome State Fault Refusal :=
  .next (s.fireValue f (fun x _ => .ok (resAnd ty x.a (x.b imm))))

/-- OR (R112). -/
def execOr (f : Fields) (ty : IntTy) (imm : Option Imm) (s : State) : Host.Outcome State Fault Refusal :=
  .next (s.fireValue f (fun x _ => .ok (resOr ty x.a (x.b imm))))

/-- XOR (R112). -/
def execXor (f : Fields) (ty : IntTy) (imm : Option Imm) (s : State) : Host.Outcome State Fault Refusal :=
  .next (s.fireValue f (fun x _ => .ok (resXor ty x.a (x.b imm))))

/-- ANDN (R112). -/
def execAndn (f : Fields) (ty : IntTy) (imm : Option Imm) (s : State) : Host.Outcome State Fault Refusal :=
  .next (s.fireValue f (fun x _ => .ok (resAndn ty x.a (x.b imm))))

/-- NOT (R112). -/
def execNot (f : Fields) (ty : IntTy) (s : State) : Host.Outcome State Fault Refusal :=
  .next (s.fireValue f (fun x _ => .ok (resNot ty x.a)))

/-- SHL (R113). -/
def execShl (f : Fields) (ty : IntTy) (imm : Option Imm) (s : State) : Host.Outcome State Fault Refusal :=
  .next (s.fireValue f (fun x _ => .ok (resShl ty x.a (x.b imm))))

/-- SHR (R113). -/
def execShr (f : Fields) (ty : IntTy) (imm : Option Imm) (s : State) : Host.Outcome State Fault Refusal :=
  .next (s.fireValue f (fun x _ => .ok (resShr ty x.a (x.b imm))))

/-- SAR (R113). -/
def execSar (f : Fields) (ty : IntTy) (imm : Option Imm) (s : State) : Host.Outcome State Fault Refusal :=
  .next (s.fireValue f (fun x _ => .ok (resSar ty x.a (x.b imm))))

/-- ROL (R114). -/
def execRol (f : Fields) (ty : IntTy) (imm : Option Imm) (s : State) : Host.Outcome State Fault Refusal :=
  .next (s.fireValue f (fun x _ => .ok (resRol ty x.a (x.b imm))))

/-- ROR (R114). -/
def execRor (f : Fields) (ty : IntTy) (imm : Option Imm) (s : State) : Host.Outcome State Fault Refusal :=
  .next (s.fireValue f (fun x _ => .ok (resRor ty x.a (x.b imm))))

/-- FSH (R114). -/
def execFsh (f : Fields) (ty : IntTy) (right : Bool) (imm : Option Imm) (s : State) : Host.Outcome State Fault Refusal :=
  .next (s.fireValue f (fun x _ => .ok (resFsh ty right x.a (x.b imm) x.c)))

/-- CLZ (R115). -/
def execClz (f : Fields) (ty : IntTy) (s : State) : Host.Outcome State Fault Refusal :=
  .next (s.fireValue f (fun x _ => .ok (resClz ty x.a)))

/-- CTZ (R115). -/
def execCtz (f : Fields) (ty : IntTy) (s : State) : Host.Outcome State Fault Refusal :=
  .next (s.fireValue f (fun x _ => .ok (resCtz ty x.a)))

/-- POPC (R115). -/
def execPopc (f : Fields) (ty : IntTy) (s : State) : Host.Outcome State Fault Refusal :=
  .next (s.fireValue f (fun x _ => .ok (resPopc ty x.a)))

/-- BREV (R115). -/
def execBrev (f : Fields) (ty : IntTy) (s : State) : Host.Outcome State Fault Refusal :=
  .next (s.fireValue f (fun x _ => .ok (resBrev ty x.a)))

/-- BFX (R116). -/
def execBfx (f : Fields) (ty : IntTy) (imm : Option Imm) (s : State) : Host.Outcome State Fault Refusal :=
  .next (s.fireValue f (fun x _ => .ok (resBfx ty x.a (x.b imm))))

/-- BFI (R116). -/
def execBfi (f : Fields) (ty : IntTy) (imm : Option Imm) (s : State) : Host.Outcome State Fault Refusal :=
  .next (s.fireValue f (fun x _ => .ok (resBfi ty x.a (x.b imm) x.c)))

/-- EXT (R117). -/
def execExt (f : Fields) (ty : IntTy) (width : ExtWidth) (s : State) : Host.Outcome State Fault Refusal :=
  .next (s.fireValue f (fun x _ => .ok (resExt ty width x.a)))

/-- PERM (R118). -/
def execPerm (f : Fields) (ty : IntTy) (imm : Option Imm) (s : State) : Host.Outcome State Fault Refusal :=
  .next (s.fireValue f (fun x _ => .ok (resPerm ty x.a (x.b imm))))

/-- LEA (R119). -/
def execLea (f : Fields) (ty : IntTy) (scale : BitVec 2) (imm : Option Imm) (s : State) : Host.Outcome State Fault Refusal :=
  .next (s.fireValue f (fun x _ => .ok (resLea ty scale x.a (x.b imm))))

/-- CRC (R120). -/
def execCrc (f : Fields) (ty : IntTy) (poly : CrcPoly) (imm : Option Imm) (s : State) : Host.Outcome State Fault Refusal :=
  .next (s.fireValue f (fun x _ => .ok (resCrc ty poly x.a (x.b imm))))

end Sys2Proof.Machine
end

