-- ==== Sys2Proof/Machine/Registers.lean ====
section
/-! DEFINITION. The registers of a function page and of a context page (spec/00 R9, R11, spec/11 R328, R335, R356, R360, spec/12
R363, R364, R366): plain writes, reads, and invalidations. -/

namespace Sys2Proof.Machine

/-! ### Reads that clear (R11, R328, R363) -/

/-- CROVF_READ (R363). -/
def execCrovfRead (ctx : Nat) (s : State) : Host.Outcome State Fault Refusal :=
  .next (match s.ctx? ctx with
    | none => s
    | some c => { s.updCtx ctx (·.updPage (fun p => { p with crOvf := 0 })) with resp := .data (leBytes 8 c.page.crOvf) })

/-- HOSTFAULT_READ (R328). -/
def execHostfaultRead (port fn : Nat) (s : State) : Host.Outcome State Fault Refusal :=
  .next (match s.func? port fn with
    | none => s
    | some f => { s.updFunc port fn (fun f => { f with hostfault := 0 }) with resp := .data (leBytes 8 f.hostfault) })

/-! ### Invalidations (R348, R363) -/

/-- A command to the invalidation register; one written while it is BUSY is ignored. -/
def State.invalidate (s : State) (ctx : Nat) (all : Bool) (pages : Nat) : State :=
  match s.ctx? ctx with
  | none => s
  | some c =>
    if c.page.invBusy then s
    else (s.updCtx ctx (·.updPage (fun p => { p with invBusy := true }))).requestShootdown ctx all (c.page.invVa / 65536) pages
      .register

/-- INVALIDATE_RANGE (R348): the pages from INVVA on, of which INVCMD [40:0] holds the number less 1. -/
def execInvalidateRange (ctx pages : Nat) (s : State) : Host.Outcome State Fault Refusal :=
  .next (if 1 ≤ pages && pages ≤ 2 ^ 41 then s.invalidate ctx false pages else s)

/-- INVALIDATE_ALL (R348). -/
def execInvalidateAll (ctx : Nat) (s : State) : Host.Outcome State Fault Refusal := .next (s.invalidate ctx true 0)

/-! ### System registers through the page (R364) -/

/-- SYSREG_WRITE (R364): the write is sent to the region's cores, as a SYSWR is. -/
def execSysregWrite (ctx num v : Nat) (s : State) : Host.Outcome State Fault Refusal :=
  .next (s.sendRegWrite ctx num (v % 2 ^ 64))

/-! ### Writes of registers without a behaviour of their own (R9, R11) -/

/-- A word of a function's CTXREC window replaced. -/
def Function.setRec (k v : Nat) (f : Function) : Function := { f with ctxrec := listSet f.ctxrec k (fun _ => BitVec.ofNat 64 v) }

/-- CTXSTAT with a status and no context number (R335). -/
def statusWord (st : Nat) : Nat := st * 2 ^ 48

/-- Whether a function's context command is under way. -/
def Function.busy (f : Function) : Bool := field f.ctxstat 63 1 = 1

/-- Whether a command is a context command. -/
def Command.ofContext : Command → Bool
  | .own _ => false
  | _ => true

/-- Whether a context command of a function waits for the Tarat control cores. -/
def State.commandWaits (s : State) (i : Nat) : Bool :=
  s.commands.any (fun c => c.cmd.ofContext && decide (funcIndex c.port c.fn = i))

/-- Whether a command is running: the Tarat control cores take one at a time (R335). An ownership change that is not complete is
one (log 56). -/
def State.commandRuns (s : State) : Bool :=
  s.firmware.waiting.isSome || (s.functions.mapIdx (fun i f => f.busy && !s.commandWaits i)).any id

/-- A context command written to CTXCMD (R335): ignored while the function's own BUSY is set, kept in the order of arrival while
another runs, else run. -/
def State.submit (s : State) (port fn : Nat) (cmd : Command) (run : State → State) : State :=
  match s.func? port fn with
  | none => s
  | some f =>
    if f.busy then s
    else if s.commandRuns || !s.commands.isEmpty then
      { s.updFunc port fn (fun f => { f with ctxstat := 2 ^ 63 }) with
        commands := s.commands ++ [{ port := port, fn := fn, cmd := cmd }] }
    else run s

/-- A context command that has ended with a status (R335). -/
def State.commandStatus (s : State) (port fn st : Nat) : State :=
  s.updFunc port fn (fun f => { f with ctxstat := statusWord st })

/-- Whether a value written to CTXCMD is no CREATE, DESTROY or GRANT of R335. -/
def commandBad (v : Nat) : Bool :=
  let cmd := v % 256
  decide (v / 2 ^ 14 ≠ 0) || decide (cmd = 0) || decide (3 < cmd) || (decide (cmd ≠ 2) && decide (field v 8 6 ≠ 0))

/-- A write to the function page (R328): apertures and the record windows. -/
def Function.regWrite (pf : Bool) (off v : Nat) (f : Function) : Function :=
  if 0x20 ≤ off && off < 0x40 then { f with aps := listSet f.aps ((off - 0x20) / 8) (fun _ => v / 2 ^ 36 * 2 ^ 36) }
  else if 0x100 ≤ off && off < 0x180 then f.setRec ((off - 0x100) / 8) v
  else if pf && 0x4000 ≤ off && off < 0x8000 then { f with fwwin := Memory.writeBytes f.fwwin (off - 0x4000) (leBytes 8 v) }
  else f

/-- CRCTL written (R363). -/
def CtxPage.setCrctl (v : Nat) (p : CtxPage) : CtxPage :=
  { p with crEn := decide (field v 8 1 = 1), crLog2 := clampTo 4 20 (v % 32) }

/-- A write to the context page outside its queues (R363). -/
def CtxPage.regWrite (off v : Nat) (p : CtxPage) : CtxPage :=
  match off with
  | 0x40 => { p with objVa := v % 2 ^ 57 / 64 * 64 }
  | 0x48 => { p with objData := v % 2 ^ 57 / 64 * 64 }
  | 0x100 => { p with crBase := v % 2 ^ 57 / 32 * 32 }
  | 0x108 => p.setCrctl v
  | 0x118 => { p with crHead := v % 2 ^ 32 }
  | 0x140 => { p with diagBase := v % 2 ^ 57 / 64 * 64 }
  | 0x180 => { p with invVa := v % 2 ^ 57 / 65536 * 65536 }
  | _ => p

/-- QBASE written; ignored while EN is 1 (R366). -/
def Queue.setBase (v : Nat) (k : Queue) : Queue := if k.en then k else { k with qbase := v % 2 ^ 57 / 64 * 64 }

/-- A write to the context page (R363, R366). -/
def Context.regWrite (off v : Nat) (c : Context) : Context :=
  if 0x1000 ≤ off && off < 0x1400 then
    (if off % 0x40 = 0 then c.updQueue ((off - 0x1000) / 0x40) (Queue.setBase v) else c)
  else c.updPage (CtxPage.regWrite off v)

/-- A function's ownership status after a command that has ended (R360). -/
def Function.fwDone (st : Nat) (f : Function) : Function := { f with fwstat := st }

/-- The nonce takes a fresh value after a command (R360). -/
def Firmware.freshen (f : Firmware) : Firmware :=
  { f with nonceCount := f.nonceCount + 1, nonce := (Config.freshNonce (f.nonceCount + 1) ++ zeros 48).take 48 }

/-- An ownership command whose CMD names none (R360): DENIED where the port's bit is clear in OWNPORTS, else FIELD. -/
def State.unknownCommand (s : State) (port : Nat) : State :=
  let st := if s.firmware.partition.ownPorts / 2 ^ port % 2 = 1 then 4 else 6
  ({ s with firmware := s.firmware.freshen } : State).updFunc port 0 (Function.fwDone st)

/-- An ownership command written to FWCMD (R360): kept while an ownership change is not complete, else run. One written while the
PF's own FWSTAT shows BUSY is ignored (log 56). -/
def State.submitOwn (s : State) (port cmd : Nat) (run : State → State) : State :=
  match s.func? port 0 with
  | none => s
  | some f =>
    if field f.fwstat 63 1 = 1 then s
    else if s.firmware.waiting.isSome then
      { s.updFunc port 0 (Function.fwDone (2 ^ 63)) with
        commands := s.commands ++ [{ port := port, fn := 0, cmd := .own cmd }] }
    else run s

/-- CMD of an ownership record. -/
def Function.command (f : Function) : Nat := leNat (Memory.readBytes f.fwwin 0 2)

/-- The context whose page lies at an offset of a function's BAR0, where it is one of the function's own (R363). -/
def State.pageOf (s : State) (port fn off : Nat) : Option Context :=
  if 0x10000 ≤ off && off < 0x210000 then
    (s.ctx? ((off - 0x10000) / 0x8000)).filter (fun c => decide (c.func = funcIndex port fn))
  else none

/-- REGISTER_WRITE (R9, R11): an 8-byte write of BAR0 to a register with no event of its own; anything else changes nothing. -/
def execRegisterWrite (port fn off v : Nat) (s : State) : Host.Outcome State Fault Refusal :=
  let v := v % 2 ^ 64
  .next (match s.func? port fn with
    | none => s
    | some f =>
      if off % 8 ≠ 0 then s
      else if off = 0x190 then
        (if fn = 0 && v % 256 = 1 && (f.command = 0 || 8 < f.command) then
           s.submitOwn port f.command (fun s => s.unknownCommand port)
         else s)
      else if off = 0x180 then
        (if commandBad v then s.submit port fn .bad (fun s => s.commandStatus port fn 6) else s)
      else if off < 0x10000 then s.updFunc port fn (Function.regWrite (decide (fn = 0)) off v)
      else if off < 0x210000 then
        (match s.pageOf port fn off with
         | some c => s.updCtx c.num (Context.regWrite (off % 0x8000) v)
         | none => s)
      else s)

/-! ### Reads (R9, R11) -/

/-- IDENT (R329). -/
def Identity.word (i : Identity) : Nat := i.part * 2 ^ 32 + i.step * 2 ^ 24 + i.amaj * 2 ^ 16 + i.amin * 2 ^ 8

/-- The ownership state's code in OWNSTATE (R328). -/
def OwnState.code : OwnState → Nat
  | .unowned => 0
  | .owned => 1
  | .pending => 2

/-- A register of the function page as it reads (R328); write-only, reserved and, in a VF, the PF's registers read as zero. -/
def Function.regRead (s : State) (port fn off : Nat) (f : Function) : Nat :=
  if 0x4000 ≤ off then (if fn = 0 && off < 0x8000 then leNat (Memory.readBytes f.fwwin (off - 0x4000) 8) else 0)
  else if 0x300 ≤ off then (if fn = 0 && off < 0x330 then natAt s.firmware.nonce (off - 0x300) 8 else 0)
  else if 0x200 ≤ off then f.ranges.getD ((off - 0x200) / 8) 0
  else if 0x100 ≤ off && off < 0x180 then (f.ctxrec.getD ((off - 0x100) / 8) 0).toNat
  else if 0x20 ≤ off && off < 0x40 then f.aps.getD ((off - 0x20) / 8) 0
  else
    match off with
    | 0x00 => s.identity.word
    | 0x08 => port * 256 + fn
    | 0x10 => s.firmware.svn * 256 + s.firmware.state.code
    | 0x18 => f.quota
    | 0x40 => f.hostfault
    | 0x188 => f.ctxstat
    | 0x198 => if fn = 0 then f.fwstat else 0
    | _ => 0

/-- A register of a queue as it reads (R366). -/
def Queue.regRead (off : Nat) (k : Queue) : Nat :=
  match off with
  | 0x00 => k.qbase
  | 0x08 => k.en.toNat * 2 ^ 8 + k.log2sz
  | 0x10 => k.qwptr
  | 0x18 => k.qrptr
  | 0x20 => k.err.toNat * 2 ^ 63 + k.dberr.toNat * 2 ^ 62 + k.cause * 2 ^ 32 + k.index
  | _ => 0

/-- The certificate chain as CERTWIN shows it: zero-padded to 16 KiB (R363). -/
def certWindow (off : Nat) : Nat := leNat ((List.range 8).map (fun i => Config.certChain.getD (off + i) 0))

/-- A register of a context page as it reads (R363, R364, R366). TCAUSE, TINFO and TBLOCK are a thread's and read as zero. -/
def Context.regRead (off : Nat) (c : Context) : Nat :=
  let p := c.page
  if 0x4000 ≤ off then certWindow (off - 0x4000)
  else if 0x1000 ≤ off then
    (if off < 0x1400 then
       (match c.queues[(off - 0x1000) / 0x40]? with
        | some k => k.regRead (off % 0x40)
        | none => 0)
     else 0)
  else if 0x800 ≤ off then c.regs.read ((off - 0x800) / 8)
  else if 0x200 ≤ off && off < 0x230 then natAt p.mchain (off - 0x200) 8
  else
    match off with
    | 0x00 => c.num
    | 0x40 => p.objVa
    | 0x48 => p.objData
    | 0x58 => p.objBusy.toNat * 2 ^ 63 + p.objFail.toNat * 2 ^ 62 + p.objCause
    | 0x100 => p.crBase
    | 0x108 => p.crEn.toNat * 2 ^ 8 + p.crLog2
    | 0x110 => p.crTail
    | 0x118 => p.crHead
    | 0x120 => p.crOvf
    | 0x140 => p.diagBase
    | 0x180 => p.invVa
    | 0x190 => p.invBusy.toNat * 2 ^ 63 + p.invDone
    | 0x230 => p.mseq
    | 0x238 => Config.certChain.length % 2 ^ 16
    | _ => 0

/-- A register of BAR0 as it reads: the page of a context that is not the function's own, and what is reserved, read as zero. -/
def State.regRead (s : State) (port fn off : Nat) (f : Function) : Nat :=
  if off < 0x10000 then f.regRead s port fn off
  else
    match s.pageOf port fn off with
    | some c => c.regRead (off % 0x8000)
    | none => 0

/-- The state after a register has been read: HOSTFAULT and CROVF are cleared (R11). -/
def State.readClears (s : State) (port fn off : Nat) : State :=
  if off = 0x40 then s.updFunc port fn (fun f => { f with hostfault := 0 })
  else
    match s.pageOf port fn off with
    | some c => if off % 0x8000 = 0x120 then s.updCtx c.num (·.updPage (fun p => { p with crOvf := 0 })) else s
    | none => s

/-- A host reads 8 bytes of a function's BAR0 (R9, R11, R328, R363). -/
def State.registerRead (s : State) (port fn off : Nat) : State :=
  match s.func? port fn with
  | none => s
  | some f =>
    if off % 8 ≠ 0 then s
    else { s.readClears port fn off with resp := .data (leBytes 8 (s.regRead port fn off f)) }

end Sys2Proof.Machine
end

