-- ==== Sys2Proof/Machine/Reset.lean ====
section
/-! DEFINITION. Context reset (spec/13 R404, R408, R411, R417, spec/11 R336, R351) and the end of a context. -/

namespace Sys2Proof.Machine

/-! ### What a context starts with (R363, R366) -/

/-- A queue's registers after reset (R366). -/
def Queue.reset : Queue :=
  { qbase := 0, en := false, log2sz := 4, qwptr := 0, qrptr := 0, err := false, dberr := false, cause := 0, index := 0 }

/-- A context page as creation leaves it (R363). -/
def CtxPage.reset (m0 : List Byte) : CtxPage :=
  { objVa := 0, objData := 0, objBusy := false, objFail := false, objCause := 0, crBase := 0, crEn := false, crLog2 := 4
    crTail := 0, crHead := 0, crOvf := 0, diagBase := 0, invVa := 0, invBusy := false, invDone := 0, mchain := m0, mseq := 0 }

/-- The page after a context reset (R417): object and completion-ring registers as at creation. -/
def CtxPage.afterReset (p : CtxPage) : CtxPage :=
  { CtxPage.reset p.mchain with diagBase := p.diagBase, invVa := p.invVa, invBusy := p.invBusy, invDone := p.invDone, mseq := p.mseq }

/-! ### Beginning (R417 step 1) -/

/-- A packet that a reset fails; its record may have been extended already, when only its signal is still to be written. -/
def Packet.resetFail (cause mseq : Nat) (p : Packet) : Packet :=
  let failed : Packet := { p with cause := if p.cause.isNone then some cause else p.cause }
  let recorded : Bool := match p.measured with
    | some m => decide (p.stage = .closed) && decide (m.n ≤ mseq)
    | none => false
  if recorded then p
  else
    match p.stage with
    | .copying => failed
    | .wantRegion => { failed with stage := .stopped }
    | .loading => { failed with stage := .stopped }
    | .running => { failed with stage := .stopped }
    | .preempted => { failed with stage := .stopped }
    | .stopped => p
    | _ => { failed with stage := .closed }

/-- A context whose reset begins: the first cause stands, and a save is discarded. -/
def Context.beginReset (cause : Nat) (destroy : Bool) (c : Context) : Context :=
  let was := c.dying.getD (cause, false)
  { c with
    packets := c.packets.map (Packet.resetFail was.1 c.page.mseq)
    save := none, preempt := false, frozen := true, stall := none, dying := some (was.1, was.2 || destroy) }

/-- A context reset begins (R417): its packets fail, its cores freeze and its chunks are squashed. -/
def State.beginReset (s : State) (cause : Nat) (destroy : Bool) (ctx : Nat) : State :=
  ((s.updCtx ctx (Context.beginReset cause destroy)).updLanes ctx (fun l => { l with frozen := true })).squashContext ctx

/-! ### Ending (R417 steps 1 to 5) -/

/-- Whether nothing handed over for a context is still to end (R411). -/
def State.idleEngines (s : State) (ctx : Nat) : Bool :=
  !s.engineWork ctx && !s.copies.any (fun c => c.ctx = ctx) && !s.shootdowns.any (fun d => d.ctx = ctx)

/-- The packet of a context that ends next in its reset: the next of the chain, else one without a chain index. -/
def Context.endsNext (c : Context) : Option Packet :=
  match c.chainNext with
  | some (p, _) => some p
  | none => c.packets.find? (fun p => p.measured.isNone)

/-- One packet of a context in reset ends, its record extended without a waybill. -/
def State.endOne (s : State) (ctx : Nat) : State :=
  match s.ctx? ctx with
  | none => s
  | some c =>
    match c.chainNext with
    | some (p, m) =>
      if m.n ≤ c.page.mseq then s.completeNow ctx p
      else (s.updCtx ctx (·.updPage (CtxPage.extended (extendChain c.page.mchain (measurementRecord p m)) m.n))).completeNow ctx p
    | none =>
      match c.endsNext with
      | some p => s.completeNow ctx p
      | none => s

/-- The packets of a context ended one after another, as far as their signals can be written. -/
def State.endPackets : Nat → State → Nat → State
  | 0, s, _ => s
  | fuel + 1, s, ctx => State.endPackets fuel (s.endOne ctx) ctx

/-- The packets a context has open. -/
def State.openPackets (s : State) (ctx : Nat) : Nat :=
  match s.ctx? ctx with
  | some c => c.packets.length
  | none => 0

/-- The packets of a context in reset whose engine work has ended are closed, and the region of its kernel is cleared. -/
def State.closeKernels (s : State) (ctx : Nat) : State :=
  (s.clearKernel ctx).updCtx ctx (fun c => { c with packets := c.packets.map (fun (p : Packet) => { p with stage := .closed }) })

/-- A context whose packets have ended, after steps 2 to 5. -/
def Context.afterReset (c : Context) : Context :=
  { c with
    regs := SysRegs.reset, page := c.page.afterReset, queues := List.replicate 16 Queue.reset, objects := []
    objWaiting := none, packets := [], spawnCounter := 0, save := none, frozen := false, preempt := false, dying := none
    visit := 0, stall := none }

/-- The range locks, reservations, waiting registrations and requested grants of a context gone (R417 step 2), and the guards of what
the part kept in memory for it. -/
def State.dropLocks (s : State) (ctx : Nat) : State :=
  { s with
    locks := s.locks.filter (fun l => l.ctx ≠ ctx)
    waitingLocks := s.waitingLocks.filter (fun l => l.ctx ≠ ctx)
    reserved := s.reserved.filter (fun r => r.1 ≠ ctx)
    guards := s.guards.filter (fun g => g.ctx ≠ ctx)
    arbiters := s.arbiters.map (Arbiter.without (fun r => match r with
      | .engine (.strip c _) => decide (c = ctx)
      | _ => false)) }

/-! ### Destruction (R336, R348, R351, R356) -/

/-- A function after a context is destroyed: every aperture that names it is closed. -/
def Function.closeApertures (ctx : Nat) (f : Function) : Function :=
  { f with aps := f.aps.map (fun a => if field a 63 1 = 1 && field a 57 6 = ctx then a - 2 ^ 63 else a) }

/-- A context removed: its translations are shot down, its keys destroyed, its number and ranges freed. Writes that it was
still to receive are refused. -/
def State.destroyContext (s : State) (ctx : Nat) : State :=
  let late := s.posted.filter (fun w => w.ctx = some ctx)
  let s := match s.ctx? ctx with
    | some c => late.foldl (fun (t : State) _ => t.countRefusal (c.func / 32) (c.func % 32)) s
    | none => s
  { s with
    tlb := s.tlb.filter (fun t => t.ctx ≠ ctx)
    migrations := s.migrations.filter (fun m => m.ctx ≠ ctx)
    keys := s.keys.map (fun (k : KeyEntry) => if k.holder = some ctx then { k with holder := none } else k)
    functions := s.functions.map (Function.closeApertures ctx)
    posted := s.posted.filter (fun w => w.ctx ≠ some ctx)
    guards := s.guards.filter (fun g => g.ctx ≠ ctx)
    contexts := s.contexts.filter (fun c => c.num ≠ ctx) }

/-- The context command that runs has ended with OK (R335). -/
def State.commandDone (s : State) : State :=
  { s with functions := s.functions.mapIdx (fun i f =>
      if f.busy && !s.commandWaits i then { f with ctxstat := statusWord 0 } else f) }

/-- A context's reset completed, and the context removed when DESTROY asked for it. -/
def State.finishReset (s : State) (ctx : Nat) (destroy : Bool) : State :=
  let t := ((s.dropLocks ctx).releaseRegion ctx).updCtx ctx (·.afterReset)
  if destroy then t.destroyContext ctx else t

/-- A context in reset goes on as far as it can: once its engine work has ended, its packets end, and then the reset. The shootdown
of a DESTROY takes the grants of every die (R348). -/
def State.settle (s : State) (ctx : Nat) : State :=
  match (s.ctx? ctx).bind (·.dying) with
  | none => s
  | some (_, destroy) =>
    if !s.idleEngines ctx then s
    else
      let t := State.endPackets (s.openPackets ctx) (s.closeKernels ctx) ctx
      if t.openPackets ctx ≠ 0 then t
      else if !destroy then t.finishReset ctx false
      else
        match t.takeGrants (.strip ctx 18) (List.range 16) with
        | (false, u) => u
        | (true, u) => u.finishReset ctx true

/-! ### Ownership changes (R360, R361) -/

/-- FWSTAT once the contexts of an ownership change are gone. -/
def State.ownershipDone (s : State) : State :=
  match s.firmware.waiting with
  | some port =>
    if s.contexts.isEmpty then
      ({ s with firmware := { s.firmware with waiting := none } } : State).updFunc port 0 (Function.fwDone 0)
    else s
  | none => s

/-- The Tarat control core goes on with every reset under way, and ends the command that waits for them. -/
def State.settleAll (s : State) : State :=
  let t := (s.contexts.map (·.num)).foldl State.settle s
  let t := if t.contexts.any (fun c => match c.dying with
      | some (_, d) => d
      | none => false) then t else t.commandDone
  t.ownershipDone

/-! ### DIE_FAILED (R404) -/

/-- Whether a range word overlaps a die's stack. -/
def onStack (die r : Nat) : Bool :=
  match rangeSpan r with
  | some (lo, hi) => decide (lo < (die + 1) * 2 ^ 36) && decide (die * 2 ^ 36 < hi)
  | none => false

/-- Whether a die's failure concerns a context. -/
def State.dieConcerns (s : State) (die : Nat) (c : Context) : Bool :=
  c.ranges.any (onStack die) ||
  (match s.region? c.num with
   | some r => r.overlaps (dieRect die)
   | none => false)

/-- A failed die shown in DIEFAIL of a Tarat control core. -/
def IoDie.failDie (die : Nat) (d : IoDie) : IoDie := { d with tarat := { d.tarat with dieFail := die :: d.tarat.dieFail } }

/-- DIE_FAILED (R357, R404): a die of which one line has failed three times is reported; the contexts it concerns are reset. -/
def execDieFailed (die : Nat) (s : State) : Host.Outcome State Fault Refusal :=
  .next (match s.sessions[die]? with
    | none => s
    | some l =>
      if l.failures < 3 || s.tarat.dieFail.contains die then s
      else
        let hit := (s.contexts.filter (s.dieConcerns die)).map (·.num)
        let t : State := { s with io := s.io.map (IoDie.failDie die) }
        (hit.foldl (fun t n => t.beginReset cDieFailed false n) t).settleAll)

end Sys2Proof.Machine
end

