-- ==== Sys2Proof/Machine/Owner.lean ====
section
/-! DEFINITION. Context commands, ownership and firmware (spec/11 R331-R336, R350, R351, R358-R361), and module reset. -/

namespace Sys2Proof.Machine

/-! ### What a function holds (R331, R333) -/

/-- CTX of a QUOTA word (R328). -/
def quotaCtx (w : Nat) : Nat := field w 0 7
/-- KEYS of a QUOTA word. -/
def quotaKeys (w : Nat) : Nat := field w 16 8
/-- PEERS of a QUOTA word. -/
def quotaPeers (w : Nat) : Nat := field w 24 16

/-- The VFs of a port to which resources have been granted, but for one, with their numbers. -/
def State.grantedVfs (s : State) (port but : Nat) : List Function :=
  (List.range 31).filterMap (fun k =>
    if k + 1 = but then none else (s.func? port (k + 1)).filter (·.granted))

/-- A sum of a field of functions. -/
def sumOf (f : Function → Nat) (fs : List Function) : Nat := (fs.map f).foldl (· + ·) 0

/-- The contexts of a function. -/
def State.contextsOf (s : State) (func : Nat) : List Context := s.contexts.filter (fun c => c.func = func)

/-- How much of a quota is left to a function's own contexts: a PF's grants to VFs are unavailable to it. -/
def State.share (s : State) (port fn : Nat) (of : Nat → Nat) (f : Function) : Nat :=
  if fn = 0 then of f.quota - sumOf (fun g => of g.quota) (s.grantedVfs port 0) else of f.quota

/-- The key indices of a port, in ascending order, that no context holds (R331, R351). -/
def State.freeKeys (s : State) (port : Nat) : List Nat :=
  match s.func? port 0 with
  | none => []
  | some f => ((List.range (quotaKeys f.quota)).map (· + f.keyBase)).filter (fun k => !s.contexts.any (fun c => c.keys.contains k))

/-! ### CREATE (R334-R336) -/

/-- Whether two range words that are in use overlap. -/
def rangesOverlap (a b : Nat) : Bool :=
  match rangeSpan a, rangeSpan b with
  | some x, some y => decide (x.1 < y.2) && decide (y.1 < x.2)
  | _, _ => false

/-- Whether some two of a list of ranges overlap. -/
def anyOverlap : List Nat → Bool
  | [] => false
  | r :: rs => rs.any (rangesOverlap r) || anyOverlap rs

/-- A word of a creation record. -/
def recWord (ws : List Word) (k : Nat) : Nat := (ws.getD k 0).toNat

/-- The ranges of a creation record. -/
def recRanges (ws : List Word) : List Nat := [8, 9, 10, 11, 12, 13, 14, 15].map (recWord ws)

/-- PEERS of a function that its own contexts may use: those a PF has granted to VFs are unavailable to it (R333). -/
def State.peersLeft (s : State) (port fn : Nat) (f : Function) (q : Nat) : Bool :=
  decide (field (quotaPeers f.quota) q 1 = 1) &&
  !(decide (fn = 0) && (s.grantedVfs port 0).any (fun g => field (quotaPeers g.quota) q 1 = 1))

/-- The FIELD checks of a creation record, given the coupler ports its function may use. -/
def recordOk (peers : Nat → Bool) (ws : List Word) : Bool :=
  let w := recWord ws
  decide (field (w 0) 32 32 = 0) && decide (field (w 0) 20 4 = 0) && decide (field (w 1) 52 12 = 0) && decide (field (w 1) 0 18 = 0)
  && decide (w 2 < 4) && decide (w 3 < 2 ^ 16) && [4, 5, 6, 7].all (fun k => w k = 0)
  && (recRanges ws).all (fun r => decide (field r 63 1 = 1) || decide (r = 0))
  && (List.range 16).all (fun q => decide (field (w 3) q 1 = 0) || peers q)

/-- The key slots a record asks for. -/
def recKeys (ws : List Word) : Nat := field (recWord ws 2) 0 2 + 1

/-- The root table's address. -/
def recRoot (ws : List Word) : Nat := field (recWord ws 1) 18 34

/-- Whether a context number is free; the lowest one. -/
def State.freeNumber (s : State) : Option Nat := (List.range 64).find? (fun n => (s.ctx? n).isNone)

/-- Whether bytes [lo, hi) lie in one window of device memory: a stack's or a CXL port's (R238, R330; log 25). -/
def oneWindow (lo hi : Nat) : Bool :=
  match physKind lo with
  | .fast k => decide (physKind (hi - 1) = .fast k)
  | .capacity k => decide (physKind (hi - 1) = .capacity k)
  | _ => false

/-- Whether a range lies in one window and in the ranges of a function, outside what it has granted (R330, R333). -/
def State.rangeHeld (s : State) (port fn : Nat) (f : Function) (r : Nat) : Bool :=
  match rangeSpan r with
  | none => true
  | some (lo, hi) =>
    oneWindow lo hi && inRanges f.ranges lo (hi - lo) &&
    !(decide (fn = 0) && (s.grantedVfs port 0).any (fun g => g.ranges.any (rangesOverlap r)))

/-- The status of a CREATE (R336): the first of its list that applies, 0 when none does. Under an image that carries the
PROVISION attribute it is NOT_OWNED whatever the ownership state (R358). -/
def State.createStatus (s : State) (port fn : Nat) (f : Function) : Nat :=
  let ws := f.ctxrec
  let own := s.contextsOf (funcIndex port fn)
  let rs := recRanges ws
  let root := recRoot ws * 2 ^ 18
  if s.firmware.state ≠ .owned || s.firmware.provision then 7
  else if !recordOk (s.peersLeft port fn f) ws then 6
  else if s.share port fn quotaCtx f ≤ own.length || s.freeNumber.isNone then 1
  else if s.share port fn quotaKeys f < (own.map (fun c => c.keys.length)).foldl (· + ·) 0 + recKeys ws
      || (s.freeKeys port).length < recKeys ws then 2
  else if !rs.all (s.rangeHeld port fn f) then 3
  else if anyOverlap rs || s.contexts.any (fun c => c.ranges.any (fun r => rs.any (rangesOverlap r))) then 4
  else if !rs.any (fun r => inRanges [r] root (2 ^ 18)) then 5
  else 0

/-- The next key version of the cycle 1 to 255 (R351). -/
def nextVersion (v : Nat) : Nat := if v = 255 then 1 else v + 1

/-- A key index allotted to a context: a fresh key and the next version (R351). -/
def State.allotKey (ctx : Nat) (s : State) (k : Nat) : State :=
  let e : KeyEntry := match s.key? k with
    | some e => { e with version := nextVersion e.version, allot := e.allot + 1, holder := some ctx }
    | none => { index := k, version := 1, allot := 1, holder := some ctx }
  { s with keys := e :: s.keys.filter (fun x => x.index ≠ k) }

/-- A range marked INIT zero-filled under a key index (R336). -/
def State.fillRange (key : Nat) (s : State) (r : Nat) : State :=
  match rangeSpan r, s.key? key with
  | some (lo, hi), some e =>
    if field r 62 1 = 0 then s
    else
      { s with
        mem := Memory.clear s.mem lo (hi - lo)
        integrity := { first := lo / 128, count := (hi - lo) / 128, key := key, version := e.version, allot := e.allot
                       failing := false, uncorrectable := false } :: s.integrity }
  | _, _ => s

/-- M0 (R336): the hash of the record with word 4 replaced. -/
def firstChain (ws : List Word) (ctx func : Nat) : List Byte :=
  sha384 ((List.range 16).flatMap (fun k =>
    leBytes 8 (if k = 4 then ctx * 2 ^ 16 + (func / 32 * 256 + func % 32) else recWord ws k)))

/-- A context as it is created (R336). -/
def Context.fresh (num func : Nat) (ws : List Word) (keys : List Nat) : Context :=
  { num := num, func := func, domain := field (recWord ws 0) 24 8, pasid := field (recWord ws 0) 0 20, root := recRoot ws
    nkey := field (recWord ws 2) 0 2, peers := field (recWord ws 3) 0 16, ranges := recRanges ws, record := ws, keys := keys
    regs := SysRegs.reset, page := CtxPage.reset (firstChain ws num func), queues := List.replicate 16 Queue.reset
    objects := [], objWaiting := none, packets := [], nextChain := 1, spawnCounter := 0, save := none, frozen := false
    preempt := false, dying := none }

/-- CTXSTAT after a successful CREATE. -/
def Function.created (num : Nat) (f : Function) : Function := { f with ctxstat := num * 2 ^ 40 }

/-- A context created. -/
def State.createContext (s : State) (port fn num : Nat) (f : Function) : State :=
  let ws := f.ctxrec
  let keys := (s.freeKeys port).take (recKeys ws)
  let s := keys.foldl (State.allotKey num) s
  let s := (recRanges ws).foldl (State.fillRange (keys.headD 0)) s
  let c := Context.fresh num (funcIndex port fn) ws keys
  ({ s with contexts := s.contexts ++ [c] } : State).updFunc port fn (Function.created num)

/-- A CREATE taken by the Tarat control cores (R336). -/
def State.runCreate (port fn : Nat) (s : State) : State :=
  match s.func? port fn with
  | none => s
  | some f =>
    match s.createStatus port fn f, s.freeNumber with
    | 0, some num => s.createContext port fn num f
    | st, _ => s.commandStatus port fn st

/-- CREATE (R335, R336). -/
def execCreate (port fn : Nat) (s : State) : Host.Outcome State Fault Refusal :=
  .next (s.submit port fn .create (State.runCreate port fn))

/-! ### DESTROY (R336) -/

/-- Whether a function may destroy a context. -/
def State.mayDestroy (s : State) (port fn ctx : Nat) : Bool :=
  match s.ctx? ctx with
  | some c => decide (c.func = funcIndex port fn) || (decide (fn = 0) && decide (c.func / 32 = port))
  | none => false

/-- A DESTROY taken by the Tarat control cores (R336, R417): the context is reset, and removed once its engine work has ended. -/
def State.runDestroy (port fn ctx : Nat) (s : State) : State :=
  if s.mayDestroy port fn ctx then
    ((s.updFunc port fn (fun f => { f with ctxstat := 2 ^ 63 })).beginReset cContextReset true ctx).settleAll
  else s.commandStatus port fn 8

/-- DESTROY (R335, R336); ARG holds a context number below 64. -/
def execDestroy (port fn ctx : Nat) (s : State) : Host.Outcome State Fault Refusal :=
  .next (if ctx < 64 then s.submit port fn (.destroy ctx) (State.runDestroy port fn ctx) else s)

/-! ### GRANT (R333) -/

/-- The statuses that refuse a GRANT of the PF; which of several is reported is free (log 25). Bits of the record that R333
does not name are ignored: MODEL'S CHOICE (log 25). -/
def State.pfGrantFaults (s : State) (port : Nat) (f : Function) : List Nat :=
  let vf := field (recWord f.ctxrec 0) 0 5
  let quota := recWord f.ctxrec 1
  let rs := recRanges f.ctxrec
  let others := s.grantedVfs port vf
  let outside := !rs.all (fun r => match rangeSpan r with
    | some (lo, hi) => oneWindow lo hi && inRanges f.ranges lo (hi - lo)
    | none => true)
  let illFormed := rs.any (fun r => field r 62 1 = 1 || (decide (field r 63 1 = 0) && decide (r ≠ 0)))
  (if vf = 0 || illFormed then [6] else []) ++ (if outside then [3] else []) ++
  (if others.any (fun g => g.ranges.any (fun x => rs.any (rangesOverlap x))) then [4] else []) ++
  (if quotaCtx f.quota < sumOf (fun g => quotaCtx g.quota) others + quotaCtx quota then [1] else []) ++
  (if quotaKeys f.quota < sumOf (fun g => quotaKeys g.quota) others + quotaKeys quota then [2] else []) ++
  (if !(s.contextsOf (funcIndex port vf)).isEmpty then [8] else [])

/-- The statuses that refuse a GRANT (R333): one that comes from a VF is DENIED, whatever its record holds. -/
def State.grantFaults (s : State) (port fn : Nat) (f : Function) : List Nat :=
  if fn ≠ 0 then [8] else s.pfGrantFaults port f

/-- A VF with the resources granted to it; of PEERS only what the PF holds (log 25). -/
def Function.take (quota peers : Nat) (rs : List Nat) (f : Function) : Function :=
  { f with
    granted := true
    quota := ((List.range 16).filter (fun q => field (quotaPeers quota) q 1 = 1 && field peers q 1 = 1)).foldl (fun n q =>
      n + 2 ^ (24 + q)) (quotaKeys quota * 2 ^ 16 + quotaCtx quota)
    ranges := rs ++ List.replicate 8 0 }

/-- One of several statuses, by a free choice when there is more than one. -/
def State.oneStatus (s : State) : List Nat → Nat × State
  | [] => (0, s)
  | [x] => (x, s)
  | xs => (xs.getD (s.choose xs.length).1 0, (s.choose xs.length).2)

/-- A GRANT taken by the Tarat control cores (R333). -/
def State.runGrant (port fn : Nat) (s : State) : State :=
  match s.func? port fn with
  | none => s
  | some f =>
    let faults := s.grantFaults port fn f
    let pick := s.oneStatus faults
    let t := pick.2.commandStatus port fn pick.1
    if faults.isEmpty then
      t.updFunc port (field (recWord f.ctxrec 0) 0 5) (Function.take (recWord f.ctxrec 1) (quotaPeers f.quota)
        (recRanges f.ctxrec))
    else t

/-- GRANT (R333, R335). -/
def execGrant (port fn : Nat) (s : State) : Host.Outcome State Fault Refusal :=
  .next (s.submit port fn .grant (State.runGrant port fn))

/-! ### Ownership records (R360) -/

/-- An ownership record as it stands in FWWIN. -/
structure OwnRecord where
  reserved : Bool
  len : Nat
  nonce : List Byte
  payload : List Byte
  signed : List Byte
  sig : List Byte

/-- The record of a PF. -/
def Function.ownRecord (f : Function) : OwnRecord :=
  let at_ := fun (a n : Nat) => Memory.readBytes f.fwwin a n
  let len := leNat (at_ 4 4)
  let n := min len (16384 - 64)
  { reserved := decide (leNat (at_ 2 2) = 0) && decide (leNat (at_ 56 8) = 0) && decide (len ≤ 16384 - 64), len := len
    nonce := at_ 8 48, payload := at_ 64 n, signed := at_ 0 (64 + n), sig := at_ (64 + n) (16384 - 64 - n) }

/-- The bytes of an ML-DSA-65 public key: PRESUMED (log 26), from FIPS 204. -/
def mldsaKeyBytes : Nat := 1952

/-- What a command is checked against: its states, its payload and its signer. -/
structure OwnCheck where
  state : Bool
  field : Bool
  svn : Bool
  key : List Byte
  hash : Bool

/-- The statuses that refuse a command: DENIED alone where the port's bit is clear in OWNPORTS (R332), BADSTATE alone where the
command is not listed for the state (R359), else every one that applies (log 26). -/
def State.ownFaults (s : State) (port : Nat) (r : OwnRecord) (k : OwnCheck) : List Nat :=
  if s.firmware.partition.ownPorts / 2 ^ port % 2 = 0 then [6]
  else if !k.state then [2]
  else
    (if r.reserved && k.field then [] else [4]) ++ (if r.nonce = s.firmware.nonce then [] else [3]) ++
    (if Config.recordSigned k.key r.signed r.sig && k.hash then [] else [1]) ++
    (if k.svn then [] else [5])

/-- An ownership command taken (R360): refused with a status, or done; the nonce takes a fresh value either way. -/
def State.ownCommand (port : Nat) (check : Firmware → OwnRecord → OwnCheck) (act : State → OwnRecord → State) (s : State) :
    State :=
  match s.func? port 0 with
  | none => s
  | some f =>
    let r := f.ownRecord
    let faults := s.ownFaults port r (check s.firmware r)
    let pick := s.oneStatus faults
    let t := pick.2.updFunc port 0 (Function.fwDone pick.1)
    let t : State := { t with firmware := t.firmware.freshen }
    if faults.isEmpty then act t r else t

/-- FWCMD written for a command (R360): a record with another CMD is no such event. -/
def State.own (port cmd : Nat) (run : State → State) (s : State) : State :=
  match s.func? port 0 with
  | none => s
  | some f => if f.command = cmd then s.submitOwn port cmd run else s

/-- A command signed by the current owner, allowed in a state. -/
def ownerCheck (st : OwnState) (ok : Firmware → OwnRecord → Bool) (f : Firmware) (r : OwnRecord) : OwnCheck :=
  { state := decide (f.state = st), field := ok f r, svn := true, key := f.ownerKeys.take mldsaKeyBytes, hash := true }

/-! ### Changes of ownership (R359, R361) -/

/-- A function with the resources of a partition (R331, R361); its other registers stay. -/
def Function.repartition (p : Partition) (fn : Nat) (f : Function) : Function :=
  let g := Function.reset p fn
  { f with quota := g.quota, keyBase := g.keyBase, ranges := g.ranges, granted := false }

/-- The default partition restored. -/
def State.restorePartition (s : State) : State :=
  { s with
    firmware := { s.firmware with partition := Partition.default, nextPartition := none }
    functions := s.functions.mapIdx (fun i f => f.repartition Partition.default i) }

/-- An ownership change (R361): every context is reset and destroyed, the default partition restored, the staged image
discarded, and the owner keys replaced; FWSTAT shows BUSY while contexts are still being reset. -/
def State.changeOwner (port : Nat) (st : OwnState) (keys : List Byte) (s : State) : State :=
  let t := (s.contexts.map (·.num)).foldl (fun t n => State.beginReset t cContextReset true n) s
  let t := t.restorePartition
  let t : State := { t with firmware := { t.firmware with
    state := st, ownerKeys := keys, nextHash := [], staged := none, waiting := some port } }
  (t.updFunc port 0 (Function.fwDone (2 ^ 63))).settleAll

/-- TAKE (R359, R361). -/
def State.runTake (port : Nat) : State → State :=
  State.ownCommand port
    (fun f r => { state := decide (f.state = .unowned), field := decide (mldsaKeyBytes ≤ r.len), svn := true
                  key := r.payload.take mldsaKeyBytes, hash := true })
    (fun s r => s.changeOwner port .owned r.payload)

/-- TAKE submitted (R360). -/
def execTake (port : Nat) (s : State) : Host.Outcome State Fault Refusal :=
  .next (s.own port 1 (State.runTake port))

/-- TRANSFER (R359). -/
def State.runTransfer (port : Nat) : State → State :=
  State.ownCommand port
    (ownerCheck .owned (fun _ r => decide (r.len = 48)))
    (fun s r => { s with firmware := { s.firmware with state := .pending, nextHash := r.payload } })

/-- TRANSFER submitted (R360). -/
def execTransfer (port : Nat) (s : State) : Host.Outcome State Fault Refusal :=
  .next (s.own port 2 (State.runTransfer port))

/-- ACCEPT (R359, R361): the next owner's key must have the hash that TRANSFER named. -/
def State.runAccept (port : Nat) : State → State :=
  State.ownCommand port
    (fun f r => { state := decide (f.state = .pending), field := decide (mldsaKeyBytes ≤ r.len), svn := true
                  key := r.payload.take mldsaKeyBytes, hash := decide (sha384 (r.payload.take mldsaKeyBytes) = f.nextHash) })
    (fun s r => s.changeOwner port .owned r.payload)

/-- ACCEPT submitted (R360). -/
def execAccept (port : Nat) (s : State) : Host.Outcome State Fault Refusal :=
  .next (s.own port 3 (State.runAccept port))

/-- CANCEL (R359). -/
def State.runCancel (port : Nat) : State → State :=
  State.ownCommand port
    (ownerCheck .pending (fun _ _ => true))
    (fun s _ => { s with firmware := { s.firmware with state := .owned, nextHash := [] } })

/-- CANCEL submitted (R360). -/
def execCancel (port : Nat) (s : State) : Host.Outcome State Fault Refusal :=
  .next (s.own port 4 (State.runCancel port))

/-- RELEASE (R359, R361). -/
def State.runRelease (port : Nat) : State → State :=
  State.ownCommand port
    (ownerCheck .owned (fun _ _ => true)) (fun s _ => s.changeOwner port .unowned [])

/-- RELEASE submitted (R360). -/
def execRelease (port : Nat) (s : State) : Host.Outcome State Fault Refusal :=
  .next (s.own port 5 (State.runRelease port))

/-- The physical address behind a host port of a host address (R238). -/
def hostPa (port a : Nat) : Nat := 2 ^ 48 * (port + 1) + a

/-- STAGE_FW (R358, R360): the image is fetched through the PF's own port. The payload is an 8-byte host address and an 8-byte
length (log 26). -/
def State.runStageFw (port : Nat) : State → State :=
  State.ownCommand port
    (ownerCheck .owned (fun _ r => decide (r.len = 16) && decide (natAt r.payload 0 8 + natAt r.payload 8 8 ≤ 2 ^ 48)))
    (fun s r => { s with firmware := { s.firmware with
      staged := some (s.bytesAt (hostPa port (natAt r.payload 0 8)) (natAt r.payload 8 8)) } })

/-- STAGE_FW submitted (R360). -/
def execStageFw (port : Nat) (s : State) : Host.Outcome State Fault Refusal :=
  .next (s.own port 6 (State.runStageFw port))

/-- SETSVN (R360): the fused minimum is raised and never lowered. -/
def State.runSetsvn (port : Nat) : State → State :=
  State.ownCommand port
    (fun f r => { ownerCheck .owned (fun _ r => decide (0 < r.len) && decide (leNat r.payload < 256)) f r with
                  svn := decide (f.minSvn ≤ leNat r.payload) })
    (fun s r => { s with firmware := { s.firmware with minSvn := leNat r.payload } })

/-- SETSVN submitted (R360). -/
def execSetsvn (port : Nat) (s : State) : Host.Outcome State Fault Refusal :=
  .next (s.own port 7 (State.runSetsvn port))

/-! ### PARTITION (R332) -/

/-- Whether a range word of a partition is unused, or lies in one window of R238 that holds device memory, INIT clear. -/
def partRangeOk (r : Nat) : Bool :=
  match rangeSpan r with
  | none => decide (r = 0)
  | some (lo, hi) =>
    decide (field r 62 1 = 0) && oneWindow lo hi

/-- A partition from its 288 bytes. -/
def Partition.ofBytes (b : List Byte) : Partition :=
  { ownPorts := natAt b 6 1, keyBase := [natAt b 8 1, natAt b 9 1], quota := [natAt b 16 8, natAt b 152 8]
    ranges := [(List.range 16).map (fun k => natAt b (24 + 8 * k) 8), (List.range 16).map (fun k => natAt b (160 + 8 * k) 8)] }

/-- The reserved bits of a QUOTA word are zero. -/
def quotaOk (w : Nat) : Bool := decide (field w 40 24 = 0) && decide (field w 7 9 = 0)

/-- The checks of R332 on a partition record. -/
def partitionOk (len : Nat) (b : List Byte) : Bool :=
  let p := Partition.ofBytes b
  let q := fun k => p.quota.getD k 0
  let base := fun k => p.keyBase.getD k 0
  let keys := fun k => quotaKeys (q k)
  decide (len = 288) && decide (natAt b 0 4 = 0x54524150) && decide (natAt b 4 2 = 1) && decide (natAt b 7 1 = 0)
  && decide (natAt b 10 6 = 0) && quotaOk (q 0) && quotaOk (q 1)
  && decide (p.ownPorts ≠ 0) && decide (p.ownPorts < 4) && decide (base 0 ≠ 0) && decide (base 1 ≠ 0)
  && decide (base 0 + keys 0 ≤ 256) && decide (base 1 + keys 1 ≤ 256)
  && (decide (base 0 + keys 0 ≤ base 1) || decide (base 1 + keys 1 ≤ base 0) || decide (keys 0 = 0) || decide (keys 1 = 0))
  && decide (quotaCtx (q 0) + quotaCtx (q 1) ≤ 64)
  && (List.range 16).all (fun k => decide (field (quotaPeers (q 0)) k 1 = 0) || decide (field (quotaPeers (q 1)) k 1 = 0))
  && p.ranges.flatten.all partRangeOk && !anyOverlap p.ranges.flatten

/-- PARTITION (R332, R361): checked now, in force from the next module reset. -/
def State.runPartition (port : Nat) : State → State :=
  State.ownCommand port
    (ownerCheck .owned (fun _ r => partitionOk r.len r.payload))
    (fun s r => { s with firmware := { s.firmware with nextPartition := some (Partition.ofBytes r.payload) } })

/-- PARTITION submitted (R360). -/
def execPartition (port : Nat) (s : State) : Host.Outcome State Fault Refusal :=
  .next (s.own port 8 (State.runPartition port))

/-! ### Waiting commands (R335) -/

/-- A waiting command run, as the Tarat control cores take it. -/
def WaitingCommand.run (c : WaitingCommand) : State → State :=
  match c.cmd with
  | .create => State.runCreate c.port c.fn
  | .destroy ctx => State.runDestroy c.port c.fn ctx
  | .grant => State.runGrant c.port c.fn
  | .bad => fun s => s.commandStatus c.port c.fn 6
  | .own 1 => State.runTake c.port
  | .own 2 => State.runTransfer c.port
  | .own 3 => State.runAccept c.port
  | .own 4 => State.runCancel c.port
  | .own 5 => State.runRelease c.port
  | .own 6 => State.runStageFw c.port
  | .own 7 => State.runSetsvn c.port
  | .own 8 => State.runPartition c.port
  | .own _ => fun s => s.unknownCommand c.port

/-- A waiting command taken, if none runs. -/
def State.takeCommand (s : State) (c : WaitingCommand) : State :=
  if s.commandRuns then s else c.run { s with commands := s.commands.tail }

/-- The waiting commands are taken one at a time, in the order of their arrival (R335). -/
def State.nextCommands (s : State) : State := s.commands.foldl State.takeCommand s

/-! ### MODULE_RESET (R12, R358) -/

/-- Whether an image is accepted (R358). -/
def Firmware.accepts (f : Firmware) (image : List Byte) : Bool :=
  Config.makerSigned image && decide (f.minSvn ≤ Config.imageSvn image) &&
  (match f.state with
   | .unowned => Config.imageProvision image
   | _ => Config.ownerSigned f.ownerKeys image)

/-- Firmware after module reset: the staged image runs when it is accepted, else the previous one; a partition that was
submitted comes into force. -/
def Firmware.restart (f : Firmware) : Firmware :=
  let f := { f with partition := f.nextPartition.getD f.partition, nextPartition := none, waiting := none }
  match f.staged with
  | some image =>
    if f.accepts image then
      { f with running := image, provision := Config.imageProvision image, svn := Config.imageSvn image % 256, staged := none }
    else f
  | none => f

/-- MODULE_RESET (R12, R328, R351, R353, R358, R402, R405): every register, link and piece of work is as at reset. The memory of
hosts, peers and the part keeps its bytes; no device block can be read before it is written. -/
def execModuleReset (s : State) : Host.Outcome State Fault Refusal :=
  let f := s.firmware.restart
  .next { State.reset with
    moves := s.moves, freeCtr := s.freeCtr, mem := s.mem, firmware := f
    cxl := s.cxl.map (fun p => { p with up := true, retrains := 0, missed := [] })
    functions := (List.range 64).map (Function.reset f.partition) }

end Sys2Proof.Machine
end

