-- ==== Sys2Proof/Machine/Stall.lean ====
section
/-! DEFINITION. Quiescence (spec/10 R292-R297): the test of a region, and the snapshot. -/

namespace Sys2Proof.Machine

/-! ### The snapshot (R295-R297) -/

/-- The complete windows of a WINDOW bank that have not retired (R229, R230). -/
def Bank.openWindows (k : Bank) : Nat :=
  let g := Geometry.of k.geom
  let fed := k.dropped + k.pixels.length
  let first := k.freeRow / g.str
  let rows := fed / g.rw + 1 - first
  ((List.range (rows * g.ow)).filter (fun i =>
    let n := first * g.ow + i
    decide (g.pixel n (g.kh * g.kw - 1) < fed) && !k.retired.contains n)).length

/-- An edge entry: KIND, CAP, AUX and HELD (R296). -/
def edgeEntry (kind cap aux held : Nat) : Nat :=
  kind * 2 ^ 62 + aux / 4096 % 2 * 2 ^ 37 + held / 4096 % 2 * 2 ^ 36 + cap % 4096 * 2 ^ 24 + aux % 4096 * 2 ^ 12 + held % 4096

/-- Entries of a stream that have been popped and not freed. -/
def poppedCount (es : List FifoEntry) : Nat := (es.filter (fun e => e.pop.isSome)).length

/-- The entry of edge `e` of a context's packet (R296). -/
def State.edgeWord (s : State) (ctx : Nat) (r : Region) (p : Packet) (e : Nat) : Nat :=
  match p.edgeRecs[e]? with
  | none => 0
  | some (_, x) =>
    let core := match p.stages[x.dst]? with
      | some st => r.coreAt st.offset
      | none => 0
    match x.kind with
    | 2 =>
      (match (s.lane? core ctx).bind (fun l => l.links.find? (fun k => k.edge = e)) with
       | some k => edgeEntry 3 (x.geom % 64) (poppedCount k.entries) k.entries.length
       | none => edgeEntry 3 (x.geom % 64) 0 0)
    | 1 =>
      (match (s.bank? core x.bank).filter (fun b => b.owner = ctx) with
       | some b => edgeEntry 2 0 b.openWindows b.pixels.length
       | none => edgeEntry 2 0 0 0)
    | _ =>
      (match (s.bank? core x.bank).filter (fun b => b.owner = ctx) with
       | some b => edgeEntry 1 (x.geom % 4096) (poppedCount b.fifo) b.fifo.length
       | none => edgeEntry 1 (x.geom % 4096) 0 0)

/-- A bank's mode as a code (R297). -/
def BankMode.code : BankMode → Nat
  | .cache => 0
  | .scratch => 1
  | .fifo => 2
  | .window => 3

/-- The modes of a core's banks. -/
def CoreState.modesWord (c : CoreState) : Nat := (c.banks.mapIdx (fun i b => b.mode.code * 4 ^ i)).foldl (· + ·) 0

/-- The launch threads of a core that are still pending (R261): those not yet taken into an admission set, and those of admission
sets that have not been created. -/
def Lane.pending (l : Lane) : Nat :=
  l.pendingLeft + (l.passes.flatMap (fun p => p.admission.filter (fun t => (l.thread? t).isNone))).length

/-- A core entry (R297); a count beyond its field keeps its low bits: MODEL'S CHOICE (log 87). -/
def State.coreWords (s : State) (ctx core : Nat) : List Nat :=
  match s.lane? core ctx, s.core? core with
  | some l, some c =>
    let count := fun (f : Thread → Bool) => (l.threads.filter f).length
    let waits := count (fun t => match t.place with
      | .parked _ _ => true
      | _ => false)
    let held := count (fun t => match t.place with
      | .held _ _ => true
      | _ => false)
    let waiting := count (fun t => t.spill.isNone && (match t.place with
      | .waiting _ _ => true
      | _ => false))
    let resident := count (fun t => t.spill.isNone)
    [waits * 2 ^ 39 + held % 2 ^ 13 * 2 ^ 26 + waiting % 2 ^ 13 * 2 ^ 13 + resident % 2 ^ 13,
     min l.pending (2 ^ 32 - 1) * 2 ^ 32 + count (fun t => t.spill.isSome), c.modesWord, 0, 0, 0, 0, 0]
  | _, _ => List.replicate 8 0

/-- The QLIMIT in force on a region's first core. -/
def State.qlimitOf (s : State) (ctx : Nat) : Nat :=
  match s.lanesOf ctx with
  | l :: _ => l.regs.qlimit
  | [] => 0

/-- The bytes of a snapshot (R295). -/
def State.snapshot (s : State) (ctx : Nat) (r : Region) (p : Packet) : List Byte :=
  ([r.cores.length, r.code, s.qlimitOf ctx, 0, 0, 0, 0, 0] ++ (List.range 64).map (s.edgeWord ctx r p) ++
    r.cores.flatMap (s.coreWords ctx)).flatMap (leBytes 8)

/-- The pieces of a write up to the first block that fails its check (R294). -/
def State.soundPieces (s : State) (ps : List Piece) : List Piece :=
  let ws := deviceBytes ps
  ps.takeWhile (fun p => !p.device || decide (128 ≤ (ws.filter (fun w => w.pa / 128 = p.pa / 128)).length) ||
    (s.readFault p.pa p.key .store).isNone)

/-! ### QUIESCENT_STALL (R292, R294) -/

/-- Whether a region is quiescent for a context: some core is not idle, and every such core's count has reached its limit. -/
def State.quiescent (s : State) (ctx : Nat) : Bool :=
  let busy := (s.lanesOf ctx).filter (fun l => !s.idleCore l)
  !busy.isEmpty && busy.all (fun l => !l.frozen && decide (2 ^ l.regs.qlimit ≤ l.quiet))

/-- A snapshot written as far as it can be, and whether it has been: a page, a grant or the solo pass may have to be waited for. -/
def State.writeSnapshot (s : State) (ctx base : Nat) (bytes : List Byte) : Bool × State :=
  if base = 0 then (true, s)
  else
    match s.writeVa ctx base bytes .store false with
    | (.park _, _, t) => (false, (s.onlyMigrations t).dropRequests (.engine (.strip ctx 17)))
    | (_, ps, t) =>
      let ok := t.soundPieces ps
      match t.mayCommit (.strip ctx 17) ok with
      | (false, u) => (false, s.onlyMigrations u)
      | (true, u) => (true, u.commitAs (.strip ctx 17) ok)

/-- The region of a context that has become quiescent frozen, its chunks squashed, and its snapshot taken (R294 steps 1 to 3). -/
def State.beginStall (s : State) (ctx : Nat) (r : Region) (p : Packet) : State :=
  let t := ((s.updCtx ctx (fun c => { c with frozen := true })).updLanes ctx (fun l => { l with frozen := true })).squashContext ctx
  t.updCtx ctx (fun c => { c with stall := some (t.snapshot ctx r p) })

/-- A stalled packet's snapshot written, and its failure (R294 steps 3 and 4). -/
def State.endStall (s : State) (ctx base : Nat) (bytes : List Byte) : State :=
  match s.writeSnapshot ctx base bytes with
  | (false, t) => t
  | (true, t) => (t.failPacket ctx cQuiescentStall).updCtx ctx (fun c => { c with stall := none })

/-- QUIESCENT_STALL (R294): the region freezes, its chunks are squashed, the snapshot is written, and the packet fails. A page of
the diagnostic area that is in motion is asked for and waited for (R290). -/
def execQuiescentStall (ctx : Nat) (s : State) : Host.Outcome State Fault Refusal :=
  .next (match s.ctx? ctx, s.region? ctx with
    | some c, some r =>
      (match c.kernelPacket? with
       | none => s
       | some p =>
         match c.stall with
         | some bytes => if p.stage = .running then s.endStall ctx c.page.diagBase bytes else s
         | none =>
           if p.stage ≠ .running || !s.quiescent ctx then s
           else
             let t := s.beginStall ctx r p
             match (t.ctx? ctx).bind (·.stall) with
             | some bytes => t.endStall ctx c.page.diagBase bytes
             | none => t)
    | _, _ => s)

end Sys2Proof.Machine
end

