-- ==== Sys2Proof/Machine/Preempt.lean ====
section
/-! DEFINITION. Hard pre-emption and resumption (spec/13 R409-R416). -/

namespace Sys2Proof.Machine

/-! ### QUANTUM_EXPIRY (R409) -/

/-- The contexts on a region. -/
def Region.contexts (r : Region) : List Nat :=
  r.holder :: (match r.sharer with
    | some b => [b]
    | none => [])

/-- QUANTUM_EXPIRY (R409): the head request has waited its quantum; every region that overlaps the lowest sound rectangle of its
shape, and has been held as long, is marked for hard pre-emption. -/
def execQuantumExpiry (s : State) : Host.Outcome State Fault Refusal :=
  .next (match s.regionQueue with
    | [] => s
    | r :: _ =>
      if r.waited < 2 ^ s.tarat.quantum then s
      else
        match s.soundRect r.h r.w r.ctx with
        | none => s
        | some rect =>
          let hit := (s.regions.filter (fun x => x.overlaps rect && decide (2 ^ s.tarat.quantum ≤ x.heldCycles))).flatMap
            (·.contexts)
          { s with contexts := s.contexts.map (fun (c : Context) => if hit.contains c.num then { c with preempt := true } else c) })

/-! ### HARD_PREEMPT_FREEZE (R410, R414) -/

/-- HARD_PREEMPT_FREEZE (R410 steps 1 and 2): the context freezes on its region, and every chunk whose last grant was not issued
is squashed without counting. -/
def execHardPreemptFreeze (ctx : Nat) (s : State) : Host.Outcome State Fault Refusal :=
  .next (match s.ctx? ctx with
    | none => s
    | some c =>
      if !c.preempt || c.frozen then s
      else
        ((s.updCtx ctx (fun c => { c with frozen := true })).updLanes ctx (fun l => { l with frozen := true })).squashContext ctx)

/-! ### HARD_PREEMPT_SAVE (R410-R413) -/

/-- A lane as it is saved: ages, configurations and register writes under way are not. Waiters are saved as woken (R415). -/
def Lane.saved (l : Lane) : Lane :=
  { l with
    ages := [], slots := [{ block := none }, { block := none }], regWrites := [], quiet := 0, activeCycle := false, frozen := false
    rateCycles := 0, rateTokens := 0
    threads := l.threads.map (fun (t : Thread) => match t.place with
      | .parked blk _ => { t with place := .waiting blk false }
      | .migrating blk _ => { t with place := .waiting blk false }
      | _ => t) }

/-- A core's image for a context: its banks and engine are the holder's (R406, R412). -/
def State.imageOf (s : State) (r : Region) (ctx core : Nat) : Option SavedCore :=
  match s.lane? core ctx, s.core? core with
  | some l, some c =>
    some { dx := core % 32 - r.col, dy := core / 32 - r.row, lane := l.saved
           core := if r.holder = ctx then { c with l1 := [], contended := [], queue := [] } else CoreState.reset core }
  | _, _ => none

/-- The address of the save area's part for the core at a position (R412). -/
def SysRegs.saveVa (r : SysRegs) (k : Nat) : Nat := r.sidebase + r.sidelen * 65536 + k * 2 ^ 21

/-- What writing a save comes to. -/
inductive Saving
  | wait (s : State)
  | fault (s : State)
  | ok (s : State) (areas : List (Nat × List Byte))

/-- Sealed images written into the save area under key slot 0: their layout and length are the part's own, so the bytes are
free, at most 2 MiB a core (R412, R413). -/
def State.writeImages (s : State) (ctx key : Nat) (regs : SysRegs) : List Nat → Saving
  | [] => .ok s []
  | k :: ks =>
    let pick := s.choose (2 ^ 21)
    let image := freeBytes pick.2.freeCtr (pick.1 + 1)
    let t : State := { pick.2 with freeCtr := pick.2.freeCtr + pick.1 + 1 }
    match t.writeVa ctx (regs.saveVa k) image .store false with
    | (.park _, _, u) => .wait u
    | (.bad _ _, _, u) => .fault u
    | (.ok ps, _, u) =>
      let ps := ps.map (fun (p : Piece) => { p with key := key })
      if u.soloBlocks ps then .wait u
      else if (u.soundPieces ps).length < ps.length then .fault u
      else
        match State.writeImages (u.commitPieces ps) ctx key regs ks with
        | .ok v as => .ok v ((regs.saveVa k, image) :: as)
        | r => r

/-- Whether a context's pre-emption may save now: frozen, engine work ended, and nobody shares its region (R410, R411). A
packet that is failing or whose work is done ends first (R414). -/
def State.maySave (s : State) (ctx : Nat) (r : Region) (c : Context) : Bool :=
  c.preempt && c.frozen && c.stall.isNone && !s.engineWork ctx && (decide (r.holder ≠ ctx) || r.sharer.isNone) &&
  (match c.kernelPacket? with
   | none => true
   | some p => decide (p.stage ≠ .stopped) && !(decide (p.stage = .running) && s.kernelDone ctx p))

/-- A pre-empted context gives its region up, and its packet asks for one again (R410). -/
def State.yieldRegion (s : State) (ctx h w : Nat) (p : Packet) (st : PacketStage) : State :=
  (((s.releaseRegion ctx).updCtx ctx (fun c => { c with frozen := false })).queueRegion ctx h w
    (decide (st = .preempted))).setStage ctx p st

/-- Where a page of a context's save area lies, in device, host or peer memory; one that is to migrate lies where it is until then, and
its guard moves with it. -/
def State.savePage (s : State) (ctx va : Nat) : Option Nat :=
  match (translate s ctx va .store).1 with
  | .ok pa _ _ => some pa
  | .mot pa _ => some pa
  | .bad _ => none

/-- The memory of a context's save area guarded from now on, each core's 2 MiB whole (R412, R413). -/
def State.watchSave (s : State) (ctx : Nat) (areas : List (Nat × List Byte)) : State :=
  (areas.flatMap (fun a => pagePieces a.1 (2 ^ 21))).foldl (fun t x =>
    match s.savePage ctx x.1 with
    | some pa => t.watch { ctx := ctx, save := true, pa := pa, len := x.2, touched := false }
    | none => t) (s.unwatch ctx true none)

/-- A running packet saved (R412), or failed when its save cannot be written (R413). The images' lines are homed on every die, so
their engine commits are made under the grants of all of them (R162). -/
def State.savePacket (s : State) (ctx : Nat) (r : Region) (c : Context) (p : Packet) : State :=
  let images := r.cores.filterMap (s.imageOf r ctx)
  match s.takeGrants (.strip ctx 17) (List.range 16) with
  | (false, t) => t
  | (true, t) =>
  match t.writeImages ctx (c.keyIndex 0) c.regs (List.range r.cores.length) with
  | .wait u => (t.onlyMigrations u).dropRequests (.engine (.strip ctx 17))
  | .fault t => ((t.dropRequests (.engine (.strip ctx 17))).failPacket ctx cSaveFault).releaseRegion ctx
  | .ok t areas =>
    (((t.dropRequests (.engine (.strip ctx 17))).yieldRegion ctx r.h r.w p .preempted).updCtx ctx (fun c => { c with
      save := some { cores := images, h := r.h, w := r.w, areas := areas } })).watchSave ctx areas

/-- HARD_PREEMPT_SAVE (R410 steps 3 to 5). A region that no packet runs on is released, and keeps nothing (log 27). -/
def execHardPreemptSave (ctx : Nat) (s : State) : Host.Outcome State Fault Refusal :=
  .next (match s.ctx? ctx, s.region? ctx with
    | some c, some r =>
      if !s.maySave ctx r c then s
      else
        (match c.kernelPacket? with
         | none => (s.releaseRegion ctx).updCtx ctx (fun c => { c with frozen := false })
         | some p =>
           match p.stage with
           | .running => s.savePacket ctx r c p
           | _ => s.yieldRegion ctx p.shape.1 p.shape.2 p .wantRegion)
    | _, _ => s)

/-! ### Resumption (R415, R416) -/

/-- Bytes read span by span under a key index, whatever key slot their pages name (R412). -/
def State.readUnder (key : Nat) (s : State) (ctx : Nat) : List (Nat × Nat) → Reach (List Byte) × State
  | [] => (.ok [], s)
  | (va, n) :: rest =>
    match s.placeVa ctx va .load false with
    | (.bad c a, t) => (.bad c a, t)
    | (.park m, t) => (.park m, t)
    | (.ok (pa, _, mt), t) =>
      match (if mt = .device then t.readFault pa key .load else t.outerFault pa .load) with
      | some c => (.bad c va, t)
      | none =>
        match State.readUnder key t ctx rest with
        | (.ok bs, u) => (.ok (Memory.readBytes t.mem pa n ++ bs), u)
        | r => r

/-- Whether every sealed image still checks under key slot 0 (R412): none while a page has to be waited for. -/
def State.checkImages (key : Nat) (s : State) (ctx : Nat) : List (Nat × List Byte) → Option Bool × State
  | [] => (some true, s)
  | (va, bytes) :: rest =>
    match s.readUnder key ctx (lineSpans va bytes.length) with
    | (.park _, t) => (none, t)
    | (.bad _ _, t) => (some false, t)
    | (.ok bs, t) => if bs = bytes then State.checkImages key t ctx rest else (some false, t)

/-- The key index of a context's key slot 0. -/
def State.saveKey (s : State) (ctx : Nat) : Nat := (s.ctx? ctx).elim 0 (·.keyIndex 0)

/-- A squashed pass of a saved lane, to be configured and replayed; one that needs the solo ticket waits for it (R287). -/
def Pass.resumed (p : Pass) : Pass := if p.solo = .no then { p with state := .loading } else { p with solo := .waiting }

/-- The lane of a saved image put in its place on a core. -/
def State.loadLane (regs : SysRegs) (s : State) (x : SavedCore) (core : Nat) : State :=
  s.updLane core x.lane.ctx (fun _ => { x.lane with core := core, regs := regs, passes := x.lane.passes.map (·.resumed) })

/-- A saved image loaded onto a core. -/
def State.loadImage (regs : SysRegs) (place : SavedCore → Option Nat) (s : State) (x : SavedCore) : State :=
  match place x with
  | none => s
  | some core => (s.updCore core (fun _ => { x.core with core := core })).loadLane regs x core

/-- The passes of a context that wait for the solo ticket. -/
def State.soloSeekers (s : State) (ctx : Nat) : List PassRef :=
  (s.lanesOf ctx).flatMap (fun l => (l.passes.filter (fun p => p.solo = .waiting)).map l.ref)

/-- A pre-empted packet restored on a region it has been given: images loaded, entry blocks streamed on every core; true when no
load waits. -/
def State.restore (s : State) (ctx : Nat) (p : Packet) (sv : Save) (load : State → SavedCore → State) : Bool × State :=
  let t := sv.cores.foldl load s
  let t : State := { t with soloQueue := t.soloQueue ++ t.soloSeekers ctx }
  let t := (t.updCtx ctx (fun c => { c with save := none })).unwatch ctx true none
  let u := State.loadEntries ctx p (t.lanesOf ctx) t
  (u.1, u.2.setStage ctx p .running)

/-- A restore whose images do not check: the packet fails with INTEGRITY/SAVE_IMAGE on the region it was given (R415). -/
def State.failRestore (s : State) (ctx : Nat) (p : Packet) : State :=
  (((s.failPacket ctx (intCause .load 3)).updCtx ctx (fun c => { c with save := none })).unwatch ctx true none).setStage ctx p .stopped

/-- A pre-empted packet resumed on the region that `give` gives it, each image loaded by `load`. The check fails when software has
accessed the save area meanwhile (R413). -/
def State.resumeOn (s : State) (ctx : Nat) (p : Packet) (sv : Save) (give : State → State) (load : State → SavedCore → State) : State :=
  match (if s.saveTouched ctx then (some false, s) else s.checkImages (s.saveKey ctx) ctx sv.areas) with
  | (none, t) => s.onlyMigrations t
  | (some false, t) => (give t).failRestore ctx p
  | (some true, t) =>
    match (give t).restore ctx p sv load with
    | (true, u) => u
    | (false, u) => s.onlyMigrations u

/-- The head request of the region queue, when it is a context's and stands for a pre-empted packet. -/
def State.resumable (s : State) (ctx : Nat) : Option (RegionReq × Packet × Save) :=
  match s.regionQueue with
  | r :: _ =>
    if r.ctx ≠ ctx || !r.resume then none
    else
      match s.requestPacket? r, (s.ctx? ctx).bind (·.save) with
      | some p, some sv => some (r, p, sv)
      | _, _ => none
  | [] => none

/-- RESUME_RESTORE (R415): the request of a pre-empted packet is met, each image at its relative position. -/
def execResumeRestore (ctx : Nat) (s : State) : Host.Outcome State Fault Refusal :=
  .next (match s.resumable ctx with
    | none => s
    | some (r, p, sv) =>
      match s.freeRect r.h r.w ctx with
      | none => s
      | some rect => s.resumeOn ctx p sv (fun t => t.popRegion.giveRegion rect)
          (State.loadImage (s.ctxRegs ctx) (fun x => some (rect.coreAt (32 * x.dy + x.dx)))))

/-- The stages' offsets in ascending order. -/
def Packet.offsets (p : Packet) : List Nat := sortNat (p.stages.map (·.offset))

/-- A packet whose stages stand on the cores of a region of width `w` in row-major order (R416). -/
def Packet.replaced (w : Nat) (p : Packet) : Packet :=
  let at_ := fun (o : Nat) => positionOf o p.offsets
  { p with stages := p.stages.map (fun (st : StageRec) => { st with offset := 32 * (at_ st.offset / w) + at_ st.offset % w }) }

/-- The shapes with at least `n` cores for which a free origin exists. -/
def State.relinkShapes (s : State) (n ctx : Nat) : List (Nat × Nat) :=
  ((List.range 1024).map (fun k => (k / 32 + 1, k % 32 + 1))).filter (fun x =>
    decide (n ≤ x.1 * x.2) && (s.freeRect x.1 x.2 ctx).isSome)

/-- GRAPH_RELINK (R416): a saved graph re-placed on a free region with cores enough; which shape it takes is free (log 28). -/
def execGraphRelink (ctx : Nat) (s : State) : Host.Outcome State Fault Refusal :=
  .next (match s.resumable ctx with
    | none => s
    | some (_, p, sv) =>
      let shapes := s.relinkShapes p.stages.length ctx
      if !s.mayRelink p || shapes.isEmpty then s
      else
        let pick := s.choose shapes.length
        let x := shapes.getD pick.1 (1, 1)
        match pick.2.freeRect x.1 x.2 ctx with
        | none => s
        | some rect =>
          let q := p.replaced rect.w
          let place := fun (c : SavedCore) =>
            let o := 32 * c.dy + c.dx
            if p.offsets.contains o then rect.cores[positionOf o p.offsets]? else none
          pick.2.resumeOn ctx q sv
            (fun t => (t.popRegion.giveRegion rect).updCtx ctx (fun c => c.updPacket p.q p.index (Packet.replaced rect.w)))
            (State.loadImage (s.ctxRegs ctx) place))

/-! ### REGION_SHARE (R406) -/

/-- Whether a saved image holds nothing of a core but its context's part, so that it can stand on a core that another holds. -/
def SavedCore.laneOnly (x : SavedCore) : Bool :=
  let c := CoreState.reset x.core.core
  decide (x.core.banks = c.banks) && decide (x.core.tiles = c.tiles) && decide (x.core.brows = c.brows) &&
  decide (x.core.bdepth = c.bdepth)

/-- REGION_SHARE (R406, R415): the head request shares a region instead of waiting. A save that holds banks, tiles or B-registers
waits, since a sharer may not change those of the holder: MODEL'S CHOICE (log 22). -/
def execRegionShare (s : State) : Host.Outcome State Fault Refusal :=
  .next (match s.regionQueue with
    | [] => s
    | r :: _ =>
      match s.requestPacket? r, s.shareable r with
      | some p, some x =>
        if (s.freeRect r.h r.w r.ctx).isSome then s
        else if !r.resume then (s.shareOn r x).setStage r.ctx p .loading
        else
          match (s.ctx? r.ctx).bind (·.save) with
          | none => s
          | some sv =>
            if sv.cores.all (·.laneOnly) then
              s.resumeOn r.ctx p sv (fun t => t.shareOn r x) (fun t c =>
                t.loadLane (s.ctxRegs r.ctx) c (x.coreAt (32 * c.dy + c.dx)))
            else s
      | _, _ => s)

end Sys2Proof.Machine
end

