-- ==== Sys2Proof/Machine/Dispatch.lean ====
section
/-! DEFINITION. The dispatch: one arm per constructor of Instr, each one direct call of its meaning. -/

namespace Sys2Proof.Machine

/-- The effect of one instruction or event. -/
def exec (i : Instr) (s : State) : Host.Outcome State Fault Refusal :=
  match i with
  | .mov f => Sys2Proof.Machine.execMov f s
  | .movi f imm => Sys2Proof.Machine.execMovi f imm s
  | .movx f imm => Sys2Proof.Machine.execMovx f imm s
  | .fan f t2 t3 => Sys2Proof.Machine.execFan f t2 t3 s
  | .null f => Sys2Proof.Machine.execNull f s
  | .read f lk => Sys2Proof.Machine.execRead f lk s
  | .write f lk => Sys2Proof.Machine.execWrite f lk s
  | .sel f imm => Sys2Proof.Machine.execSel f imm s
  | .steer f => Sys2Proof.Machine.execSteer f s
  | .merge f => Sys2Proof.Machine.execMerge f s
  | .carry f => Sys2Proof.Machine.execCarry f s
  | .invar f => Sys2Proof.Machine.execInvar f s
  | .exit f xn => Sys2Proof.Machine.execExit f xn s
  | .call f lk xr xn => Sys2Proof.Machine.execCall f lk xr xn s
  | .ret f => Sys2Proof.Machine.execRet f s
  | .drop f => Sys2Proof.Machine.execDrop f s
  | .test f mode mask => Sys2Proof.Machine.execTest f mode mask s
  | .spawn f xn => Sys2Proof.Machine.execSpawn f xn s
  | .endThread f => Sys2Proof.Machine.execEndThread f s
  | .gnew f => Sys2Proof.Machine.execGnew f s
  | .gfree f => Sys2Proof.Machine.execGfree f s
  | .join f => Sys2Proof.Machine.execJoin f s
  | .leave f => Sys2Proof.Machine.execLeave f s
  | .bar f => Sys2Proof.Machine.execBar f s
  | .barinit f => Sys2Proof.Machine.execBarinit f s
  | .elect f ls => Sys2Proof.Machine.execElect f ls s
  | .vote f opk ls => Sys2Proof.Machine.execVote f opk ls s
  | .setf f mask => Sys2Proof.Machine.execSetf f mask s
  | .clrf f mask => Sys2Proof.Machine.execClrf f mask s
  | .grow f imm => Sys2Proof.Machine.execGrow f imm s
  | .shrink f imm => Sys2Proof.Machine.execShrink f imm s
  | .sread f which => Sys2Proof.Machine.execSread f which s
  | .yield f => Sys2Proof.Machine.execYield f s
  | .add f ty chk imm => Sys2Proof.Machine.execAdd f ty chk imm s
  | .sub f ty chk imm => Sys2Proof.Machine.execSub f ty chk imm s
  | .mul f ty chk imm => Sys2Proof.Machine.execMul f ty chk imm s
  | .mulh f ty imm => Sys2Proof.Machine.execMulh f ty imm s
  | .mad f ty chk imm => Sys2Proof.Machine.execMad f ty chk imm s
  | .div f ty chk imm => Sys2Proof.Machine.execDiv f ty chk imm s
  | .rem f ty chk imm => Sys2Proof.Machine.execRem f ty chk imm s
  | .neg f ty chk => Sys2Proof.Machine.execNeg f ty chk s
  | .abs f ty chk => Sys2Proof.Machine.execAbs f ty chk s
  | .min f ty imm => Sys2Proof.Machine.execMin f ty imm s
  | .max f ty imm => Sys2Proof.Machine.execMax f ty imm s
  | .clamp f ty imm => Sys2Proof.Machine.execClamp f ty imm s
  | .absd f ty chk imm => Sys2Proof.Machine.execAbsd f ty chk imm s
  | .adds f ty imm => Sys2Proof.Machine.execAdds f ty imm s
  | .subs f ty imm => Sys2Proof.Machine.execSubs f ty imm s
  | .cmp f ty cond imm => Sys2Proof.Machine.execCmp f ty cond imm s
  | .and f ty imm => Sys2Proof.Machine.execAnd f ty imm s
  | .or f ty imm => Sys2Proof.Machine.execOr f ty imm s
  | .xor f ty imm => Sys2Proof.Machine.execXor f ty imm s
  | .andn f ty imm => Sys2Proof.Machine.execAndn f ty imm s
  | .not f ty => Sys2Proof.Machine.execNot f ty s
  | .shl f ty imm => Sys2Proof.Machine.execShl f ty imm s
  | .shr f ty imm => Sys2Proof.Machine.execShr f ty imm s
  | .sar f ty imm => Sys2Proof.Machine.execSar f ty imm s
  | .rol f ty imm => Sys2Proof.Machine.execRol f ty imm s
  | .ror f ty imm => Sys2Proof.Machine.execRor f ty imm s
  | .fsh f ty right imm => Sys2Proof.Machine.execFsh f ty right imm s
  | .clz f ty => Sys2Proof.Machine.execClz f ty s
  | .ctz f ty => Sys2Proof.Machine.execCtz f ty s
  | .popc f ty => Sys2Proof.Machine.execPopc f ty s
  | .brev f ty => Sys2Proof.Machine.execBrev f ty s
  | .bfx f ty imm => Sys2Proof.Machine.execBfx f ty imm s
  | .bfi f ty imm => Sys2Proof.Machine.execBfi f ty imm s
  | .ext f ty width => Sys2Proof.Machine.execExt f ty width s
  | .perm f ty imm => Sys2Proof.Machine.execPerm f ty imm s
  | .lea f ty scale imm => Sys2Proof.Machine.execLea f ty scale imm s
  | .crc f ty poly imm => Sys2Proof.Machine.execCrc f ty poly imm s
  | .fadd f rm imm => Sys2Proof.Machine.execFadd f rm imm s
  | .fsub f rm imm => Sys2Proof.Machine.execFsub f rm imm s
  | .fmul f rm imm => Sys2Proof.Machine.execFmul f rm imm s
  | .fma f rm imm => Sys2Proof.Machine.execFma f rm imm s
  | .fnma f rm imm => Sys2Proof.Machine.execFnma f rm imm s
  | .fdiv f rm imm => Sys2Proof.Machine.execFdiv f rm imm s
  | .fsqrt f rm => Sys2Proof.Machine.execFsqrt f rm s
  | .frcp f rm => Sys2Proof.Machine.execFrcp f rm s
  | .frsq f rm => Sys2Proof.Machine.execFrsq f rm s
  | .fmin f rm alt imm => Sys2Proof.Machine.execFmin f rm alt imm s
  | .fmax f rm alt imm => Sys2Proof.Machine.execFmax f rm alt imm s
  | .fabs f rm => Sys2Proof.Machine.execFabs f rm s
  | .fneg f rm => Sys2Proof.Machine.execFneg f rm s
  | .fsgn f rm alt imm => Sys2Proof.Machine.execFsgn f rm alt imm s
  | .fcmp f rm alt imm => Sys2Proof.Machine.execFcmp f rm alt imm s
  | .fclass f rm => Sys2Proof.Machine.execFclass f rm s
  | .frint f rm => Sys2Proof.Machine.execFrint f rm s
  | .ftoi f rm ty => Sys2Proof.Machine.execFtoi f rm ty s
  | .itof f rm ty => Sys2Proof.Machine.execItof f rm ty s
  | .fscale f rm => Sys2Proof.Machine.execFscale f rm s
  | .flogb f rm => Sys2Proof.Machine.execFlogb f rm s
  | .fmant f rm => Sys2Proof.Machine.execFmant f rm s
  | .fexp2 f rm => Sys2Proof.Machine.execFexp2 f rm s
  | .flog2 f rm => Sys2Proof.Machine.execFlog2 f rm s
  | .fsin f rm => Sys2Proof.Machine.execFsin f rm s
  | .fcos f rm => Sys2Proof.Machine.execFcos f rm s
  | .ftanh f rm => Sys2Proof.Machine.execFtanh f rm s
  | .ferf f rm => Sys2Proof.Machine.execFerf f rm s
  | .fclamp f rm imm => Sys2Proof.Machine.execFclamp f rm imm s
  | .ld f m => Sys2Proof.Machine.execLd f m s
  | .st f m rm => Sys2Proof.Machine.execSt f m rm s
  | .ldt f map oe => Sys2Proof.Machine.execLdt f map oe s
  | .stt f map oe rm => Sys2Proof.Machine.execStt f map oe rm s
  | .pref f m => Sys2Proof.Machine.execPref f m s
  | .evict f m => Sys2Proof.Machine.execEvict f m s
  | .aadd f m => Sys2Proof.Machine.execAadd f m s
  | .amin f m => Sys2Proof.Machine.execAmin f m s
  | .amax f m => Sys2Proof.Machine.execAmax f m s
  | .aand f m => Sys2Proof.Machine.execAand f m s
  | .aor f m => Sys2Proof.Machine.execAor f m s
  | .axor f m => Sys2Proof.Machine.execAxor f m s
  | .axchg f m => Sys2Proof.Machine.execAxchg f m s
  | .acas f m => Sys2Proof.Machine.execAcas f m s
  | .aincw f m => Sys2Proof.Machine.execAincw f m s
  | .adecw f m => Sys2Proof.Machine.execAdecw f m s
  | .afadd f m rm => Sys2Proof.Machine.execAfadd f m rm s
  | .afmin f m rm => Sys2Proof.Machine.execAfmin f m rm s
  | .afmax f m rm => Sys2Proof.Machine.execAfmax f m rm s
  | .red f m rm nu opk => Sys2Proof.Machine.execRed f m rm nu opk s
  | .ojoin f => Sys2Proof.Machine.execOjoin f s
  | .rel f scope => Sys2Proof.Machine.execRel f scope s
  | .acq f scope => Sys2Proof.Machine.execAcq f scope s
  | .fence f scope => Sys2Proof.Machine.execFence f scope s
  | .waita f cls fmt oe cond => Sys2Proof.Machine.execWaita f cls fmt oe cond s
  | .bankmode f oe => Sys2Proof.Machine.execBankmode f oe s
  | .push f port oe => Sys2Proof.Machine.execPush f port oe s
  | .pop f port oe => Sys2Proof.Machine.execPop f port oe s
  | .peek f port oe => Sys2Proof.Machine.execPeek f port oe s
  | .wfeed f port oe => Sys2Proof.Machine.execWfeed f port oe s
  | .wemit f port oe => Sys2Proof.Machine.execWemit f port oe s
  | .gath f m => Sys2Proof.Machine.execGath f m s
  | .grecv f => Sys2Proof.Machine.execGrecv f s
  | .mbld f cls scope fmt cp oe flag => Sys2Proof.Machine.execMbld f cls scope fmt cp oe flag s
  | .mma f oe flag => Sys2Proof.Machine.execMma f oe flag s
  | .mzero f oe flag tile => Sys2Proof.Machine.execMzero f oe flag tile s
  | .mstore f cls scope fmt cp oe flag tile rm => Sys2Proof.Machine.execMstore f cls scope fmt cp oe flag tile rm s
  | .mread f oe tile => Sys2Proof.Machine.execMread f oe tile s
  | .reduce f opk ty rm ls => Sys2Proof.Machine.execReduce f opk ty rm ls s
  | .scan f opk ty rm ls exclusive => Sys2Proof.Machine.execScan f opk ty rm ls exclusive s
  | .bcast f ls => Sys2Proof.Machine.execBcast f ls s
  | .copy f cls oe flag => Sys2Proof.Machine.execCopy f cls oe flag s
  | .credit f oe => Sys2Proof.Machine.execCredit f oe s
  | .cstat f oe => Sys2Proof.Machine.execCstat f oe s
  | .trap f code => Sys2Proof.Machine.execTrap f code s
  | .brk f tag => Sys2Proof.Machine.execBrk f tag s
  | .sysrd f oe num => Sys2Proof.Machine.execSysrd f oe num s
  | .syswr f oe num => Sys2Proof.Machine.execSyswr f oe num s
  | .tlbinv f all oe flag => Sys2Proof.Machine.execTlbinv f all oe flag s
  | .cfginv f all oe flag => Sys2Proof.Machine.execCfginv f all oe flag s
  | .resume f link => Sys2Proof.Machine.execResume f link s
  | .halt f ic cause => Sys2Proof.Machine.execHalt f ic cause s
  | .marshalBlockChoice core ctx => Sys2Proof.Machine.execMarshalBlockChoice core ctx s
  | .ageThresholdReached core ctx blk => Sys2Proof.Machine.execAgeThresholdReached core ctx blk s
  | .configurationLoadDone core ctx => Sys2Proof.Machine.execConfigurationLoadDone core ctx s
  | .threadAdmission core ctx => Sys2Proof.Machine.execThreadAdmission core ctx s
  | .loadDataReturn core ctx tidx idx => Sys2Proof.Machine.execLoadDataReturn core ctx tidx idx s
  | .gatherReturn core ctx tidx ticket => Sys2Proof.Machine.execGatherReturn core ctx tidx ticket s
  | .passEnd core ctx => Sys2Proof.Machine.execPassEnd core ctx s
  | .arbiterGrant die => Sys2Proof.Machine.execArbiterGrant die s
  | .chunkCommit core ctx => Sys2Proof.Machine.execChunkCommit core ctx s
  | .wcBroadcastArrival core falseMatch => Sys2Proof.Machine.execWcBroadcastArrival core falseMatch s
  | .passReplay core ctx => Sys2Proof.Machine.execPassReplay core ctx s
  | .soloTicketGrant => Sys2Proof.Machine.execSoloTicketGrant s
  | .sStorePublish core ctx => Sys2Proof.Machine.execSStorePublish core ctx s
  | .hostPeerStoreSend core ctx => Sys2Proof.Machine.execHostPeerStoreSend core ctx s
  | .spawnPlace core ctx => Sys2Proof.Machine.execSpawnPlace core ctx s
  | .creditApply core ctx => Sys2Proof.Machine.execCreditApply core ctx s
  | .syswrTakeEffect core ctx => Sys2Proof.Machine.execSyswrTakeEffect core ctx s
  | .shootdownStart core ctx => Sys2Proof.Machine.execShootdownStart core ctx s
  | .shootdownComplete id => Sys2Proof.Machine.execShootdownComplete id s
  | .cfginvMark core ctx => Sys2Proof.Machine.execCfginvMark core ctx s
  | .copyHandover core ctx die dray => Sys2Proof.Machine.execCopyHandover core ctx die dray s
  | .rangeLockRegister id => Sys2Proof.Machine.execRangeLockRegister id s
  | .drayEngineCommit id => Sys2Proof.Machine.execDrayEngineCommit id s
  | .ringTileWrite id => Sys2Proof.Machine.execRingTileWrite id s
  | .drayFifoEntry id => Sys2Proof.Machine.execDrayFifoEntry id s
  | .completionWordWrite id => Sys2Proof.Machine.execCompletionWordWrite id s
  | .completionRecordAppend id => Sys2Proof.Machine.execCompletionRecordAppend id s
  | .copyFail id => Sys2Proof.Machine.execCopyFail id s
  | .leaveGrant site => Sys2Proof.Machine.execLeaveGrant site s
  | .leaveWaitExpiry site => Sys2Proof.Machine.execLeaveWaitExpiry site s
  | .mbldEntryRun core => Sys2Proof.Machine.execMbldEntryRun core s
  | .mmaEntryStart core => Sys2Proof.Machine.execMmaEntryStart core s
  | .mzeroEntryRun core => Sys2Proof.Machine.execMzeroEntryRun core s
  | .mstoreEntryRun core => Sys2Proof.Machine.execMstoreEntryRun core s
  | .matrixEntryFinish core => Sys2Proof.Machine.execMatrixEntryFinish core s
  | .migrationStart id => Sys2Proof.Machine.execMigrationStart id s
  | .migrationCommit id => Sys2Proof.Machine.execMigrationCommit id s
  | .migrationFail id reason => Sys2Proof.Machine.execMigrationFail id reason s
  | .cxlLinkDown port => Sys2Proof.Machine.execCxlLinkDown port s
  | .cxlCompletionTimeout port => Sys2Proof.Machine.execCxlCompletionTimeout port s
  | .linkRetrain port ok => Sys2Proof.Machine.execLinkRetrain port ok s
  | .hostPortLinkDown port => Sys2Proof.Machine.execHostPortLinkDown port s
  | .couplerLinkDown port => Sys2Proof.Machine.execCouplerLinkDown port s
  | .hostCompletionError core ctx tidx idx => Sys2Proof.Machine.execHostCompletionError core ctx tidx idx s
  | .hostCompletionTimeout core ctx tidx idx => Sys2Proof.Machine.execHostCompletionTimeout core ctx tidx idx s
  | .hostWriteArrival port => Sys2Proof.Machine.execHostWriteArrival port s
  | .apertureRead port fn ap off len => Sys2Proof.Machine.execApertureRead port fn ap off len s
  | .apertureWrite port fn ap off len data => Sys2Proof.Machine.execApertureWrite port fn ap off len data s
  | .linkTagFail die write core ctx tidx idx => Sys2Proof.Machine.execLinkTagFail die write core ctx tidx idx s
  | .sessionRekey die => Sys2Proof.Machine.execSessionRekey die s
  | .dieFailed die => Sys2Proof.Machine.execDieFailed die s
  | .rateWindowExpiry core ctx => Sys2Proof.Machine.execRateWindowExpiry core ctx s
  | .quiescentStall ctx => Sys2Proof.Machine.execQuiescentStall ctx s
  | .yieldRelease core ctx tidx => Sys2Proof.Machine.execYieldRelease core ctx tidx s
  | .doorbellWrite ctx q v => Sys2Proof.Machine.execDoorbellWrite ctx q v s
  | .packetTake ctx q => Sys2Proof.Machine.execPacketTake ctx q s
  | .launch ctx q => Sys2Proof.Machine.execLaunch ctx q s
  | .graph ctx q => Sys2Proof.Machine.execGraph ctx q s
  | .copyPacket ctx q => Sys2Proof.Machine.execCopyPacket ctx q s
  | .barrierAnd ctx q => Sys2Proof.Machine.execBarrierAnd ctx q s
  | .barrierOr ctx q => Sys2Proof.Machine.execBarrierOr ctx q s
  | .barrierReading ctx q => Sys2Proof.Machine.execBarrierReading ctx q s
  | .signalPacket ctx q => Sys2Proof.Machine.execSignalPacket ctx q s
  | .measure ctx q => Sys2Proof.Machine.execMeasure ctx q s
  | .regionAssign => Sys2Proof.Machine.execRegionAssign s
  | .regionShare => Sys2Proof.Machine.execRegionShare s
  | .gateOpen ctx => Sys2Proof.Machine.execGateOpen ctx s
  | .packetRetire ctx q n => Sys2Proof.Machine.execPacketRetire ctx q n s
  | .packetClose ctx q n => Sys2Proof.Machine.execPacketClose ctx q n s
  | .chainExtend ctx => Sys2Proof.Machine.execChainExtend ctx s
  | .queueClear ctx q => Sys2Proof.Machine.execQueueClear ctx q s
  | .queueEnable ctx q en log2sz => Sys2Proof.Machine.execQueueEnable ctx q en log2sz s
  | .objectLoad ctx handle => Sys2Proof.Machine.execObjectLoad ctx handle s
  | .objectUnload ctx handle => Sys2Proof.Machine.execObjectUnload ctx handle s
  | .invalidateRange ctx pages => Sys2Proof.Machine.execInvalidateRange ctx pages s
  | .invalidateAll ctx => Sys2Proof.Machine.execInvalidateAll ctx s
  | .sysregWrite ctx num v => Sys2Proof.Machine.execSysregWrite ctx num v s
  | .crovfRead ctx => Sys2Proof.Machine.execCrovfRead ctx s
  | .hostfaultRead port fn => Sys2Proof.Machine.execHostfaultRead port fn s
  | .create port fn => Sys2Proof.Machine.execCreate port fn s
  | .destroy port fn ctx => Sys2Proof.Machine.execDestroy port fn ctx s
  | .grant port fn => Sys2Proof.Machine.execGrant port fn s
  | .take port => Sys2Proof.Machine.execTake port s
  | .transfer port => Sys2Proof.Machine.execTransfer port s
  | .accept port => Sys2Proof.Machine.execAccept port s
  | .cancel port => Sys2Proof.Machine.execCancel port s
  | .release port => Sys2Proof.Machine.execRelease port s
  | .stageFw port => Sys2Proof.Machine.execStageFw port s
  | .setsvn port => Sys2Proof.Machine.execSetsvn port s
  | .partition port => Sys2Proof.Machine.execPartition port s
  | .moduleReset => Sys2Proof.Machine.execModuleReset s
  | .registerWrite port fn off v => Sys2Proof.Machine.execRegisterWrite port fn off v s
  | .quantumExpiry => Sys2Proof.Machine.execQuantumExpiry s
  | .hardPreemptFreeze ctx => Sys2Proof.Machine.execHardPreemptFreeze ctx s
  | .hardPreemptSave ctx => Sys2Proof.Machine.execHardPreemptSave ctx s
  | .resumeRestore ctx => Sys2Proof.Machine.execResumeRestore ctx s
  | .graphRelink ctx => Sys2Proof.Machine.execGraphRelink ctx s
  | .regionHandover ctx => Sys2Proof.Machine.execRegionHandover ctx s
  | .hostPortLinkUp port => Sys2Proof.Machine.execHostPortLinkUp port s
  | .peerRead q addr len => Sys2Proof.Machine.execPeerRead q addr len s

end Sys2Proof.Machine
end

