-- ==== Sys2Proof/Machine/Outside.lean ====
section
/-! DEFINITION. What happens outside the instructions: core cycles pass on one clock (spec/00 R5), a host or peer changes
its own memory or a peer posts a write to a port, an error appears in a memory (spec/11 R354), messages pass a session link
(spec/11 R357), an expander loses its contents (spec/13 R402), and the firmware writes a register of a Tarat control core
(spec/13 R405). -/

namespace Sys2Proof.Machine

/-- A host or peer stores into its own memory. Device memory is not its own: there nothing changes. -/
def State.outsideStore (s : State) (pa : Nat) (bytes : List Byte) : State :=
  let own := match physKind pa, physKind (pa + bytes.length - 1) with
    | .host p, .host q => decide (p = q)
    | .peer p, .peer q => decide (p = q)
    | _, _ => false
  if own then { s.touchPhys pa bytes.length with mem := Memory.writeBytes s.mem pa bytes } else s

/-- A peer's posted write of device memory reaches coupler port `port`: it is held at its home, one line at a time (R191, R247).
It carries the key index under which its block was last written, since the spec gives it no translation (log 12). A host's
writes come through its apertures (R356). -/
def State.postWrite (s : State) (port pa : Nat) (bytes : List Byte) : State :=
  let key := match s.integrity? (pa / 128) with
    | some r => r.key
    | none => 0
  let up : Bool := match s.couplers[port]? with
    | some p => p.up
    | none => false
  if up && s.devicePresent pa && pa % 64 + bytes.length ≤ 64 && !bytes.isEmpty then
    { s with posted := s.posted ++ [{ port := port, ctx := none, pa := pa, key := key, bytes := bytes.map (fun b => (b, 0xFF)) }] }
  else s

/-- An error appears in a 128-byte block that the check bits do not correct (R354). -/
def State.bitError (s : State) (block : Nat) : State :=
  match s.integrity? block with
  | none => s
  | some r => { s with integrity := { r with first := block, count := 1, uncorrectable := true } :: s.integrity }

/-- An error that the check bits correct, in a stack (0-15) or behind a CXL port (from 16): it is counted and changes no value
(R354). -/
def State.correctedError (s : State) (i : Nat) : State := { s with corrected := listSet s.corrected i (· + 1) }

/-- A message of up to four lines passes the session link of a compute die in one direction (R357). -/
def State.passMessage (s : State) (die : Nat) (write : Bool) (n : Nat) : State :=
  { s with sessions := listSet s.sessions die (SessionLink.send write n) }

/-- The expander behind a lost CXL port keeps its contents no longer (R402): every block of the port's window is failing until it
is written whole. That such a block reports MAC and not VERSION is the model's choice (log 78). -/
def State.loseContents (s : State) (port : Nat) : State :=
  match s.cxl[port]? with
  | some p =>
    if p.up then s
    else
      let r : Integrity := { first := (2 ^ 44 + port * 2 ^ 42) / 128, count := 2 ^ 42 / 128, key := 0, version := 0, allot := 0
                             failing := true, uncorrectable := false }
      { s with integrity := r :: s.integrity }
  | none => s

/-- The clock of the Tarat control core of an I/O die. On that of die 0 the head request's wait and the holding of regions go on
(R409; log 76); on either, every context reset under way does (R417), and the
commands that wait for it are taken (R335). -/
def State.elapseTarat (s : State) (die n : Nat) : State :=
  let t := s.updIo die (fun d => { d with taratCycles := d.taratCycles + n })
  let t : State := if die = 0 then { t with
      regionQueue := t.regionQueue.mapIdx (fun i r => if i = 0 then { r with waited := r.waited + n } else r)
      regions := t.regions.map (fun (r : Region) => { r with heldCycles := r.heldCycles + n }) }
    else t
  t.settleAll.nextCommands

/-- A waiting barrier's poll timer after `n` cycles. -/
def Packet.pollOn (n : Nat) (p : Packet) : Packet := if p.stage = .waiting then { p with poll := p.poll + n } else p

/-- The clock of the front strip of an I/O die: the poll timers of the barriers that wait in the queues of its host port's functions
(R379). -/
def State.elapseStrip (s : State) (die n : Nat) : State :=
  let t := s.updIo die (fun d => { d with stripCycles := d.stripCycles + n })
  { t with contexts := t.contexts.map (fun (c : Context) =>
      if c.func / 32 = die then { c with packets := c.packets.map (Packet.pollOn n) } else c) }

/-- Core cycles pass on a clock (R5): a core's, below 1024; from there the Tarat control core's and the front strip's of each I/O
die in turn. -/
def State.elapse (s : State) (clock n : Nat) : State :=
  if clock < 1024 then s.elapseCore clock n
  else if 1028 ≤ clock then s
  else if clock % 2 = 0 then s.elapseTarat ((clock - 1024) / 2) n
  else s.elapseStrip ((clock - 1024) / 2) n

/-- The registers of a Tarat control core after its firmware has written one (R405); DIEFAIL is read-only. -/
def TaratRegs.write (num v : Nat) (r : TaratRegs) : TaratRegs :=
  match num with
  | 0 => { r with quantum := clampTo 16 31 (v % 32) }
  | 1 => { r with share := decide (v % 2 = 1) }
  | 2 => { r with relink := decide (v % 2 = 1) }
  | 3 => { r with linkRetry := v % 16 }
  | _ => r

/-- The state after a firing was tried: a core on which something fired was active (R292). -/
def State.noteFiring (s t : State) (x : Firing) : State :=
  if (s.spot? x).map (·.run.idxs) = (t.spot? x).map (·.run.idxs) then t else t.active x.core x.ctx

end Sys2Proof.Machine
end

