-- ==== Sys2Proof/Machine/Step.lean ====
section
/-! DEFINITION. One step: the next move of the schedule is taken; an instruction is fetched from the configured block of
its thread's pass (spec/02 R42, R59), decoded and executed. -/

namespace Sys2Proof.Machine

/-- A move during which a read meets an error (R357, R391). -/
def withMishap (m : Mishap) (f : State → Host.Outcome State Fault Refusal) (s : State) : Host.Outcome State Fault Refusal :=
  match f { s with mishap := some m } with
  | .next t => .next { t with mishap := none }
  | .fault r => .fault r
  | .refused r => .refused r

/-- The firing of an instruction for a thread of a pass. With no thread or no instruction to fire nothing changes. -/
def runFire (x : Firing) (s : State) : Host.Outcome State Fault Refusal :=
  match s.fetch x with
  | none => .next s
  | some w =>
    match decodeWord w.1 w.2 with
    | .error _ => .fault .undecodable
    | .ok i =>
      match exec i { s with cur := x } with
      | .next t => .next (s.noteFiring t x)
      | .fault r => .fault r
      | .refused r => .refused r

/-- One move. -/
def runMove (m : Move) (s : State) : Host.Outcome State Fault Refusal :=
  match m with
  | .fire core ctx pass tidx idx => runFire { core := core, ctx := ctx, pass := pass, tidx := tidx, idx := idx } s
  | .upsetFire m core ctx pass tidx idx =>
    withMishap m (runFire { core := core, ctx := ctx, pass := pass, tidx := tidx, idx := idx }) s
  | .event i => exec i s
  | .upset m i => withMishap m (exec i) s
  | .elapse clock n => .next (s.elapse clock n)
  | .outsideStore pa bytes => .next (s.outsideStore pa bytes)
  | .post port pa bytes => .next (s.postWrite port pa bytes)
  | .bitError block => .next (s.bitError block)
  | .corrected i => .next (s.correctedError i)
  | .messages die write n => .next (s.passMessage die write n)
  | .expanderLoss port => .next (s.loseContents port)
  | .taratWrite die num v => .next (s.updIo die (fun d => { d with tarat := d.tarat.write num v }))
  | .registerRead port fn off => .next (s.registerRead port fn off)

/-- One step of the machine: the head of the schedule is taken off and made; with no move left nothing changes. -/
def step (s : State) : Host.Outcome State Fault Refusal :=
  match s.moves with
  | [] => .next s
  | m :: ms => runMove m { s with moves := ms }

/-- The state with an instruction placed where the next step fetches it. -/
def State.withFetchWord (s : State) (nbits w : Nat) : State := placeWord s nbits w

end Sys2Proof.Machine
end

