-- ==== Sys2Proof/Machine/AsmText.lean ====
section
/-! DEFINITION. The text of the assembler psire-as (spec/02 R69, R433): names, numbers, reals, and the lines of a `.data`
scope. A text is a list of characters. -/

namespace Sys2Proof.Machine

/-- Why a source is refused (R69-R73, R427, R432, R433); `check` is a load check of R60 that the object would fail. -/
inductive AsmFault
  | number | name | statement | mnemonic | suffix | operand | target | index | feed | directive | scope | parameter | rank
  | stage | stream | data | check (detail : Nat)
  deriving DecidableEq, Repr

/-- Characters of a source. -/
abbrev Text := List Char

/-! ### Cutting a text up (R69) -/

/-- White space within a line. -/
def isBlank (c : Char) : Bool := c = ' ' || c = '\t' || c = '\r'

/-- A text without the white space at its ends. -/
def trim (t : Text) : Text := ((t.dropWhile isBlank).reverse.dropWhile isBlank).reverse

/-- A text cut at every occurrence of a character. -/
def cutAt (sep : Char) : Text → List Text
  | [] => [[]]
  | c :: cs =>
    if c = sep then [] :: cutAt sep cs
    else
      match cutAt sep cs with
      | p :: ps => (c :: p) :: ps
      | [] => [[c]]

/-- A text cut at the commas that stand outside parentheses, to a depth already reached. -/
def cutCommas : Nat → Text → List Text
  | _, [] => [[]]
  | d, c :: cs =>
    if c = ',' && d = 0 then [] :: cutCommas 0 cs
    else
      match cutCommas (if c = '(' then d + 1 else if c = ')' then d - 1 else d) cs with
      | p :: ps => (c :: p) :: ps
      | [] => [[c]]

/-- The items of a list that commas separate; nothing at all is no item. -/
def items (t : Text) : List Text := if (trim t).isEmpty then [] else (cutCommas 0 t).map trim

/-- The first word of a text and what follows it. -/
def firstWord (t : Text) : Text × Text :=
  let u := t.dropWhile isBlank
  (u.takeWhile (fun c => !isBlank c), trim (u.dropWhile (fun c => !isBlank c)))

/-- The text before the first occurrence of a character, and the text after it. -/
def splitAt1 (sep : Char) : Text → Text × Option Text
  | [] => ([], none)
  | c :: cs => if c = sep then ([], some cs) else (c :: (splitAt1 sep cs).1, (splitAt1 sep cs).2)

/-- A text up to an arrow, and the text after the arrow. -/
def splitArrow : Text → Text × Option Text
  | [] => ([], none)
  | '-' :: '>' :: cs => ([], some cs)
  | c :: cs => (c :: (splitArrow cs).1, (splitArrow cs).2)

/-- A line without its comment. -/
def uncomment (t : Text) : Text := trim (t.takeWhile (fun c => c ≠ ';'))

/-- A text in capitals: mnemonics, suffixes, directives and registers know no case. -/
def caps (t : Text) : Text := t.map Char.toUpper

/-- Whether a text is a name of at most `most` characters. -/
def isName (most : Nat) (t : Text) : Bool :=
  match t with
  | [] => false
  | c :: cs => (c.isAlpha || c = '_') && cs.all (fun c => c.isAlphanum || c = '_') && decide (t.length ≤ most)

/-! ### Numbers -/

/-- The value of a digit, in any base to 16. -/
def digitOf (c : Char) : Option Nat :=
  if '0' ≤ c ∧ c ≤ '9' then some (c.toNat - 48)
  else if 'a' ≤ c ∧ c ≤ 'f' then some (c.toNat - 87)
  else if 'A' ≤ c ∧ c ≤ 'F' then some (c.toNat - 55)
  else none

/-- Digits read on from a value; an underscore separates two digits. `open_` says that a digit has to follow. -/
def digitsFrom (base : Nat) : Nat → Bool → Text → Option Nat
  | v, open_, [] => if open_ then none else some v
  | v, open_, c :: cs =>
    if c = '_' then (if open_ then none else digitsFrom base v true cs)
    else
      match digitOf c with
      | some d => if d < base then digitsFrom base (v * base + d) false cs else none
      | none => none

/-- A number without a sign, and whether it is written as a bit pattern. -/
def natOf (t : Text) : Option (Nat × Bool) :=
  match t with
  | '0' :: 'x' :: cs => (digitsFrom 16 0 true cs).map (·, true)
  | '0' :: 'b' :: cs => (digitsFrom 2 0 true cs).map (·, true)
  | cs => (digitsFrom 10 0 true cs).map (·, false)

/-- The sign of a text, and the text after it; the minus is written with a hyphen or as the sign itself. -/
def signOf (t : Text) : Bool × Text :=
  match t with
  | '-' :: cs => (true, cs)
  | '−' :: cs => (true, cs)
  | cs => (false, cs)

/-- A number (R69). -/
def intOf (t : Text) : Option Int :=
  (natOf (signOf (trim t)).2).map (fun v => if (signOf (trim t)).1 then -(v.1 : Int) else (v.1 : Int))

/-- A number, or the fault of a source that writes none there. -/
def needInt (t : Text) : Except AsmFault Int :=
  match intOf t with
  | some v => .ok v
  | none => .error .number

/-- A number from 0 up to a bound. -/
def needNat (lo hi : Nat) (e : AsmFault) (t : Text) : Except AsmFault Nat := do
  let v ← needInt t
  if lo ≤ v ∧ v ≤ hi then return v.toNat else .error e

/-! ### Values of a `.data` line (R433) -/

/-- A decimal number: its digits as one number, how many stand after the point, and whether a point is written. -/
def decimalOf (t : Text) : Option (Nat × Nat × Bool) :=
  match splitAt1 '.' t with
  | (whole, none) => (digitsFrom 10 0 true whole).map (fun v => (v, 0, false))
  | (whole, some part) =>
    let some_ := fun (x : Text) => if x.isEmpty then some 0 else digitsFrom 10 0 true x
    if whole.isEmpty && part.isEmpty then none
    else
      match some_ whole, some_ part with
      | some a, some b =>
        let n := (part.filter (fun c => c ≠ '_')).length
        some (a * 10 ^ n + b, n, true)
      | _, _ => none

/-- The exact magnitude of m x 10^e as a dyadic, with one bit below the last for a part that is left: every format rounds it as
it rounds the exact value. Exponents far outside every format are brought nearer. -/
def dyadicOf (m : Nat) (e : Int) : Nat × Int :=
  let e := min (max e (-(20000 + (nbits m : Int)))) 20000
  if 0 ≤ e then (m * 10 ^ e.toNat, 0)
  else
    let den := 10 ^ (-e).toNat
    let k := nbits den + 300
    let q := m * 2 ^ k / den
    if m * 2 ^ k % den = 0 then (q, -(k : Int)) else (2 * q + 1, -(k : Int) - 1)

/-- A real (R433): a decimal number with a point or an exponent, or inf, -inf or nan; a decimal integer where `whole` allows. -/
def realOf (whole : Bool) (t : Text) : Option WVal :=
  let (neg, body) := match t with
    | '+' :: cs => (false, cs)
    | cs => signOf cs
  if body = "inf".toList then (if t = body || neg then some (.inf neg) else none)
  else if body = "nan".toList then (if t = body then some .nan else none)
  else
    let (mant, ex) := splitAt1 'e' (body.map (fun c => if c = 'E' then 'e' else c))
    let exp : Option Int := match ex with
      | none => some 0
      | some x => (match x with
        | '+' :: cs => (digitsFrom 10 0 true cs).map (fun v => (v : Int))
        | cs => (digitsFrom 10 0 true (signOf cs).2).map (fun v => if (signOf cs).1 then -(v : Int) else (v : Int)))
    match decimalOf mant, exp with
    | some (m, n, point), some x =>
      if !whole && !point && ex.isNone then none
      else
        let d := dyadicOf m (x - n)
        some (.fin neg d.1 d.2)
    | _, _ => none

/-- A value rounded once to a format under RNE, without saturation (R433). -/
def encodeReal (fmt : Fmt) (v : WVal) : Nat :=
  match ieeeLayout fmt with
  | some l => ieeeEncode l .rne 0 false v
  | none =>
    match fmt with
    | .t8 => tapEncode 8 v
    | .t6 => tapEncode 6 v
    | .s12 => scaleEncode true .rne 0 v
    | .e8m0 => scaleEncode false .rne 0 v
    | _ =>
      match v with
      | .fin neg m e => (roundExact .rne 0 false neg m e).toNat
      | v => (wWrite v).toNat

/-- The width within which a bit pattern of a format has to stand. -/
def patternBits (fmt : Fmt) : Nat := if fmt = .s12 then 12 else fmtBits fmt

/-- An integer in [-2^(n-1), 2^n - 1], as its low n bits. -/
def intElem (n : Nat) (v : Int) : Option Nat :=
  if -(2 ^ (n - 1) : Int) ≤ v ∧ v < 2 ^ n then some (v % 2 ^ n).toNat else none

/-- The bits of one value of a format (R433). -/
def elemOf (fmt : Fmt) (t : Text) : Option Nat :=
  let n := fmtBits fmt
  if fmt.isInt then
    match intOf t, fmt with
    | some v, _ => intElem n v
    | none, .raw64 => (realOf false t).map (encodeReal .raw64)
    | none, _ => none
  else
    match natOf t with
    | some (v, true) => if v < 2 ^ patternBits fmt then some v else none
    | _ => (realOf true t).map (encodeReal fmt)

/-- The storage format of a name (R82). -/
def fmtNames : List (String × Fmt) :=
  [("RAW64", .raw64), ("I8", .i8), ("I16", .i16), ("I32", .i32), ("N8", .n8), ("N16", .n16), ("N32", .n32), ("FP32", .fp32),
   ("FP16", .fp16), ("BF16", .bf16), ("E4M3", .e4m3), ("E5M2", .e5m2), ("E2M1", .e2m1), ("T8", .t8), ("T6", .t6),
   ("S12", .s12), ("E8M0", .e8m0)]

/-- What a table gives for a name, whatever its case. -/
def lookup {α : Type} (table : List (String × α)) (t : Text) : Option α := (table.find? (fun x => x.1.toList = caps t)).map (·.2)

/-- The bytes of the elements of a line, packed by R83 and completed to whole bytes or groups (R433). -/
def packElems (fmt : Fmt) (vs : List Nat) : List Byte :=
  match fmt with
  | .e2m1 =>
    (List.range ((vs.length + 1) / 2)).map (fun i => BitVec.ofNat 8 (vs.getD (2 * i) 0 + 16 * vs.getD (2 * i + 1) 0))
  | .t6 =>
    (List.range ((vs.length + 3) / 4)).flatMap (fun i =>
      leBytes 3 (vs.getD (4 * i) 0 + 64 * vs.getD (4 * i + 1) 0 + 4096 * vs.getD (4 * i + 2) 0 + 262144 * vs.getD (4 * i + 3) 0))
  | f => vs.flatMap (leBytes (fmtBits f / 8))

/-- All of a list, when every member is there. -/
def everyOf {α : Type} : List (Option α) → Option (List α)
  | [] => some []
  | none :: _ => none
  | some x :: rest => (everyOf rest).map (x :: ·)

/-- A line of a `.data` scope: a format and its values (R73, R433). -/
def dataLine (t : Text) : Except AsmFault (List Byte) :=
  let (f, rest) := firstWord t
  match lookup fmtNames f with
  | none => .error .data
  | some fmt =>
    match everyOf ((items rest).map (elemOf fmt)) with
    | some vs => .ok (packElems fmt vs)
    | none => .error .data

end Sys2Proof.Machine
end

