-- ==== Sys2Proof/Machine/AsmForms.lean ====
section
/-! DEFINITION. The assembly forms of the instructions (spec/02 R70, R72, spec/04 R101, R105, R122, spec/05 R146-R154,
spec/07 R195-R232, spec/08 R249-R257, spec/10 R303, spec/13 R418), and one statement made into the fields of its words. -/

namespace Sys2Proof.Machine

/-! ### Suffixes (R72, R101) -/

/-- Where the code of a suffix stands: FN, OPS or the extension word from a bit upwards, or U. -/
inductive SfxPlace
  | fn (lo : Nat)
  | ops (lo : Nat)
  | ext (lo : Nat)
  | hot
  deriving DecidableEq, Repr

/-- One position in the order of suffixes: whether it must be filled, where its code goes, and the suffixes it takes. -/
structure Suffix where
  req : Bool
  at_ : SfxPlace
  vals : List (String × Nat)
  deriving DecidableEq, Repr

/-- The codes of suffixes given in order; none when one is out of order, not taken or missing. -/
def suffixCodes : List Suffix → List Text → Option (List (SfxPlace × Nat))
  | [], [] => some []
  | [], _ :: _ => none
  | g :: gs, [] => if g.req then none else suffixCodes gs []
  | g :: gs, t :: ts =>
    match lookup g.vals t with
    | some v => (suffixCodes gs ts).map ((g.at_, v) :: ·)
    | none => if g.req then none else suffixCodes gs (t :: ts)

/-- A code put at its place. -/
def Raw.put (r : Raw) (x : SfxPlace × Nat) : Raw :=
  match x.1 with
  | .fn lo => { r with fn := r.fn + x.2 * 2 ^ lo }
  | .ops lo => { r with ops := r.ops + x.2 * 2 ^ lo }
  | .ext lo => { r with ext := r.ext + x.2 * 2 ^ lo }
  | .hot => { r with u := x.2 }

/-- Names numbered from 0. -/
def numbered (ns : List String) : List (String × Nat) := ns.mapIdx (fun i n => (n, i))

def typeNames : List (String × Nat) := numbered ["I32", "N32", "I64", "N64"]
def modeNames : List (String × Nat) := numbered ["RNE", "RTZ", "RUP", "RDN", "RNA", "HSR"]
def classNames : List (String × Nat) := numbered ["G", "S", "P"]
def scopeNames : List (String × Nat) := numbered ["CORE", "DIE", "PKG", "SYS"]
def cacheNames : List (String × Nat) := [("K", 1), ("N", 2), ("U", 3)]
def formatCodes : List (String × Nat) := fmtNames.map (fun x => (x.1, x.2.code))

/-- Urgency, which any instruction takes and which stands last. -/
def sHot : Suffix := { req := false, at_ := .hot, vals := [("HOT", 1)] }
def sType : Suffix := { req := true, at_ := .fn 0, vals := typeNames }
def sMode : Suffix := { req := false, at_ := .fn 0, vals := modeNames }
def sClass : Suffix := { req := true, at_ := .ops 26, vals := classNames }
def sScope : Suffix := { req := false, at_ := .ops 24, vals := scopeNames }
def sFormat : Suffix := { req := false, at_ := .ops 19, vals := formatCodes }
def sCache : Suffix := { req := false, at_ := .ops 17, vals := cacheNames }
/-- A suffix of one name. -/
def sOne (at_ : SfxPlace) (name : String) : Suffix := { req := false, at_ := at_, vals := [(name, 1)] }
/-- A suffix that must be given. -/
def sReq (at_ : SfxPlace) (vals : List (String × Nat)) : Suffix := { req := true, at_ := at_, vals := vals }

/-! ### Forms -/

/-- What a named operand is, and where its code goes in OPS (R70). -/
inductive Named
  | live (lo : Nat)
  | exit (lo : Nat)
  | flags
  | flag
  | tile
  | port
  | selector
  | sysreg
  | number (bits : Nat)
  | cause
  | map
  deriving DecidableEq, Repr

/-- What may stand as the immediate of an instruction. -/
inductive Immediate
  | none
  | alu
  | word
  deriving DecidableEq, Repr

/-- The form of an instruction: its opcode; the orders of suffixes it takes; its named operands; the slots it has; its
immediate; whether slot c is an order slot under OE, and whether slot a takes a displacement; its X bit; and its targets. -/
structure Form where
  op : Nat
  sfx : List (List Suffix)
  named : List Named
  slots : List Slot
  imm : Immediate
  oe : Bool
  disp : Bool
  x : Bool
  targets : Nat
  deriving DecidableEq, Repr

/-- A form without suffixes of its own, named operands or an immediate. -/
def Form.plain (op : Nat) (slots : List Slot) : Form :=
  { op := op, sfx := [[sHot]], named := [], slots := slots, imm := .none, oe := false, disp := false, x := false, targets := 2 }

/-- A form with named operands. -/
def Form.with (f : Form) (named : List Named) : Form := { f with named := named }
/-- A form with an order of suffixes, before .HOT. -/
def Form.order (f : Form) (sfx : List Suffix) : Form := { f with sfx := [sfx ++ [sHot]] }
/-- A form with an immediate in slot b. -/
def Form.alu (f : Form) : Form := { f with imm := .alu }
/-- A form with an order slot c. -/
def Form.mem (f : Form) : Form := { f with oe := true }

/-- An integer instruction (R105): operand slots in order, its modifier, whether it takes an immediate. -/
def intForm (op : Nat) (slots : List Slot) (modifier : List Suffix) (imm : Bool) : Form :=
  { (Form.plain op slots).order (sType :: modifier) with imm := if imm then .alu else .none }

/-- A W-float instruction (R122). -/
def floatForm (op : Nat) (slots : List Slot) (modifier : List Suffix) (imm : Bool) : Form :=
  { (Form.plain op slots).order (sMode :: modifier) with imm := if imm then .alu else .none }

/-- An instruction of the memory layout with the suffixes its form gives; slot a takes a displacement (R197, R201, R207). -/
def memForm (op : Nat) (slots : List Slot) (sfx : List Suffix) : Form :=
  { (Form.plain op slots).order sfx with oe := true, disp := true }

def sChk : List Suffix := [sOne (.fn 2) "CHK"]
def sCond : List Suffix := [sReq (.fn 2) (numbered ["EQ", "NE", "LT", "GE"])]
def sDir : List Suffix := [sReq (.fn 2) (numbered ["L", "R"])]
def sWidth : List Suffix := [sReq (.fn 2) (numbered ["B8", "B16", "B32"])]
def sPoly : List Suffix := [sReq (.fn 2) (numbered ["C32", "C32C", "C32B", "C32CB"])]
def sScale : List Suffix := [{ req := false, at_ := .fn 2, vals := numbered ["S0", "S1", "S2", "S3"] }]
def sFull : List Suffix := [sClass, sScope, sFormat, sCache]
def sAtomic : List Suffix := [sClass, sFormat, sCache]

/-- The suffix orders of REDUCE and SCAN (R154): op and type, FADD and mode, or FMIN and FMAX alone. -/
def foldOrders (last : List Suffix) : List (List Suffix) :=
  [[sReq (.ops 23) (numbered ["ADD", "MIN", "MAX", "AND", "OR", "XOR"]), sReq (.ops 21) typeNames] ++ last ++ [sHot],
   [sReq (.ops 23) [("FADD", 6)], { req := false, at_ := .ops 18, vals := modeNames }] ++ last ++ [sHot],
   [sReq (.ops 23) [("FMIN", 7), ("FMAX", 8)]] ++ last ++ [sHot]]

/-- Moving, control and thread instructions (R303). -/
def controlForms : List (String × Form) :=
  [("MOV", .plain 0x01 [.a]), ("MOVI", (Form.plain 0x02 [.a]).alu),
   ("MOVX", { Form.plain 0x03 [.a] with imm := .word, x := true }),
   ("FAN", { Form.plain 0x04 [.a] with x := true, targets := 4 }), ("NULL", .plain 0x05 [.a]),
   ("READ", (Form.plain 0x06 []).with [.live 0]), ("WRITE", (Form.plain 0x07 [.a]).with [.live 0]),
   ("SEL", (Form.plain 0x08 [.a, .b, .c]).alu), ("STEER", .plain 0x09 [.a, .b]), ("MERGE", .plain 0x0A [.a, .b, .c]),
   ("CARRY", .plain 0x0B [.a, .b]), ("INVAR", .plain 0x0C [.a, .b]), ("EXIT", (Form.plain 0x0D [.a]).with [.exit 0]),
   ("CALL", (Form.plain 0x0E [.a]).with [.exit 0, .exit 3, .live 6]), ("RET", .plain 0x0F [.a]), ("DROP", .plain 0x10 [.a]),
   ("TEST", ((Form.plain 0x11 [.a]).order [sReq (.ops 12) (numbered ["ANY", "ALL", "NONE"])]).with [.flags]),
   ("SPAWN", (Form.plain 0x14 [.a, .b, .c]).with [.exit 0]), ("END", .plain 0x15 [.a]), ("GNEW", .plain 0x16 [.a]),
   ("GFREE", .plain 0x17 [.a]), ("JOIN", .plain 0x18 [.a]), ("LEAVE", .plain 0x19 [.a]), ("BAR", .plain 0x1A []),
   ("BARINIT", .plain 0x1B [.a]), ("ELECT", (Form.plain 0x1C [.a]).with [.live 12]),
   ("VOTE", ((Form.plain 0x1D [.a]).order [sReq (.ops 23) (numbered ["ANY", "ALL", "CNT"])]).with [.live 12]),
   ("SETF", (Form.plain 0x1E [.a]).with [.flags]), ("CLRF", (Form.plain 0x1F [.a]).with [.flags]),
   ("GROW", (Form.plain 0x20 [.a, .b]).alu), ("SHRINK", (Form.plain 0x21 [.a, .b]).alu),
   ("SREAD", (Form.plain 0x22 [.a]).with [.selector]), ("YIELD", .plain 0x23 [.a])]

/-- Integer and address instructions (R105). -/
def intForms : List (String × Form) :=
  let ab : List Slot := [.a, .b]
  let abc : List Slot := [.a, .b, .c]
  [("ADD", intForm 0x28 ab sChk true), ("SUB", intForm 0x29 ab sChk true), ("MUL", intForm 0x2A ab sChk true),
   ("MULH", intForm 0x2B ab [] true), ("MAD", intForm 0x2C abc sChk true), ("DIV", intForm 0x2D ab sChk true),
   ("REM", intForm 0x2E ab sChk true), ("NEG", intForm 0x2F [.a] sChk false), ("ABS", intForm 0x30 [.a] sChk false),
   ("MIN", intForm 0x31 ab [] true), ("MAX", intForm 0x32 ab [] true), ("CLAMP", intForm 0x33 abc [] true),
   ("ABSD", intForm 0x34 ab sChk true), ("ADDS", intForm 0x35 ab [] true), ("SUBS", intForm 0x36 ab [] true),
   ("CMP", intForm 0x37 ab sCond true), ("AND", intForm 0x38 ab [] true), ("OR", intForm 0x39 ab [] true),
   ("XOR", intForm 0x3A ab [] true), ("ANDN", intForm 0x3B ab [] true), ("NOT", intForm 0x3C [.a] [] false),
   ("SHL", intForm 0x3D ab [] true), ("SHR", intForm 0x3E ab [] true), ("SAR", intForm 0x3F ab [] true),
   ("ROL", intForm 0x40 ab [] true), ("ROR", intForm 0x41 ab [] true), ("FSH", intForm 0x42 abc sDir true),
   ("CLZ", intForm 0x43 [.a] [] false), ("CTZ", intForm 0x44 [.a] [] false), ("POPC", intForm 0x45 [.a] [] false),
   ("BREV", intForm 0x46 [.a] [] false), ("BFX", intForm 0x47 ab [] true), ("BFI", intForm 0x48 abc [] true),
   ("EXT", intForm 0x49 [.a] sWidth false), ("PERM", intForm 0x4A ab [] true), ("LEA", intForm 0x4B ab sScale true),
   ("CRC", intForm 0x4C ab sPoly true)]

/-- W-float instructions (R122, R133, R134). -/
def floatForms : List (String × Form) :=
  let ab : List Slot := [.a, .b]
  let abc : List Slot := [.a, .b, .c]
  let prop := [sOne (.fn 3) "PROP"]
  let type := [sReq (.ops 0) typeNames]
  [("FADD", floatForm 0x50 ab [] true), ("FSUB", floatForm 0x51 ab [] true), ("FMUL", floatForm 0x52 ab [] true),
   ("FMA", floatForm 0x53 abc [] true), ("FNMA", floatForm 0x54 abc [] true), ("FDIV", floatForm 0x55 ab [] true),
   ("FSQRT", floatForm 0x56 [.a] [] false), ("FRCP", floatForm 0x57 [.a] [] false), ("FRSQ", floatForm 0x58 [.a] [] false),
   ("FMIN", floatForm 0x59 ab prop true), ("FMAX", floatForm 0x5A ab prop true), ("FABS", floatForm 0x5B [.a] [] false),
   ("FNEG", floatForm 0x5C [.a] [] false), ("FSGN", floatForm 0x5D ab [sOne (.fn 3) "XOR"] true),
   ("FCMP", floatForm 0x5E ab [sOne (.fn 3) "TOT"] true), ("FCLASS", floatForm 0x5F [.a] [] false),
   ("FRINT", floatForm 0x60 [.a] [] false), ("FTOI", floatForm 0x61 [.a] type false), ("ITOF", floatForm 0x62 [.a] type false),
   ("FSCALE", floatForm 0x63 ab [] false), ("FLOGB", floatForm 0x64 [.a] [] false), ("FMANT", floatForm 0x65 [.a] [] false),
   ("FEXP2", floatForm 0x66 [.a] [] false), ("FLOG2", floatForm 0x67 [.a] [] false), ("FSIN", floatForm 0x68 [.a] [] false),
   ("FCOS", floatForm 0x69 [.a] [] false), ("FTANH", floatForm 0x6A [.a] [] false), ("FERF", floatForm 0x6B [.a] [] false),
   ("FCLAMP", floatForm 0x6C abc [] true)]

/-- Memory, atomic, order and stream instructions (R195, R201, R205, R207, R209, R214, R215, R219, R222, R225-R232). -/
def memoryForms : List (String × Form) :=
  let ac : List Slot := [.a, .c]
  let abc : List Slot := [.a, .b, .c]
  let red := sReq (.ext 0) (numbered ["ADD", "MIN", "MAX", "AND", "OR", "XOR", "FADD", "FMIN", "FMAX"])
  let cond := sReq (.ops 13) (numbered ["EQ", "NE", "LT", "GE", "ANY", "NONE"])
  [("LD", memForm 0x78 ac sFull), ("ST", memForm 0x79 abc (sFull ++ [sMode])), ("LDT", (Form.plain 0x7A ac).mem.with [.map]),
   ("STT", ((Form.plain 0x7B abc).order [sMode]).mem.with [.map]), ("PREF", memForm 0x7C ac [sClass, sScope, sCache]),
   ("EVICT", memForm 0x7D ac [sClass, sScope]), ("AADD", memForm 0x90 abc sAtomic), ("AMIN", memForm 0x91 abc sAtomic),
   ("AMAX", memForm 0x92 abc sAtomic), ("AAND", memForm 0x93 abc sAtomic), ("AOR", memForm 0x94 abc sAtomic),
   ("AXOR", memForm 0x95 abc sAtomic), ("AXCHG", memForm 0x96 abc sAtomic),
   ("ACAS", { memForm 0x97 abc sAtomic with oe := false }), ("AINCW", memForm 0x98 abc sAtomic),
   ("ADECW", memForm 0x99 abc sAtomic), ("AFADD", memForm 0x9A abc (sAtomic ++ [sMode])),
   ("AFMIN", memForm 0x9B abc (sAtomic ++ [sMode])), ("AFMAX", memForm 0x9C abc (sAtomic ++ [sMode])),
   ("RED", { memForm 0x9D abc [sClass, red, sFormat, sCache, sMode, sOne (.ext 4) "NU"] with x := true }),
   ("OJOIN", .plain 0x9E abc), ("REL", (Form.plain 0x9F abc).order [sScope]), ("ACQ", (Form.plain 0xA0 abc).order [sScope]),
   ("FENCE", (Form.plain 0xA1 abc).order [sScope]), ("WAITA", ((Form.plain 0xA2 abc).order [sClass, sFormat, cond]).mem),
   ("BANKMODE", (Form.plain 0xB0 abc).mem), ("PUSH", (Form.plain 0xB1 ac).mem.with [.port]),
   ("POP", (Form.plain 0xB2 [.c]).mem.with [.port]), ("PEEK", (Form.plain 0xB3 [.b, .c]).mem.with [.port]),
   ("WFEED", (Form.plain 0xB4 ac).mem.with [.port]), ("WEMIT", (Form.plain 0xB5 abc).mem.with [.port]),
   ("GATH", memForm 0xB6 ac sFull), ("GRECV", .plain 0xB7 [.a])]

/-- Matrix, collective, copy and system instructions (R146-R154, R249, R256, R257, R418). -/
def engineForms : List (String × Form) :=
  let ac : List Slot := [.a, .c]
  let abc : List Slot := [.a, .b, .c]
  let all := [sOne (.ops 27) "ALL"]
  [("MBLD", ((Form.plain 0xC0 abc).order sFull).mem.with [.flag]), ("MMA", (Form.plain 0xC1 ac).mem.with [.flag]),
   ("MZERO", (Form.plain 0xC2 [.c]).mem.with [.flag, .tile]),
   ("MSTORE", ((Form.plain 0xC3 abc).order (sFull ++ [sMode])).mem.with [.flag, .tile]),
   ("MREAD", (Form.plain 0xC4 ac).mem.with [.tile]),
   ("REDUCE", { Form.plain 0xC5 [.a] with sfx := foldOrders [], named := [.live 12] }),
   ("SCAN", { Form.plain 0xC6 [.a] with sfx := foldOrders [sOne (.ops 11) "EX"], named := [.live 12] }),
   ("BCAST", (Form.plain 0xC7 [.a]).with [.live 12]), ("COPY", ((Form.plain 0xD0 ac).order [sClass]).mem.with [.flag]),
   ("CREDIT", (Form.plain 0xD1 ac).mem), ("CSTAT", (Form.plain 0xD2 ac).mem),
   ("TRAP", (Form.plain 0xE0 [.a]).with [.number 6]), ("BRK", (Form.plain 0xE1 [.a]).with [.number 16]),
   ("SYSRD", (Form.plain 0xE2 [.c]).mem.with [.sysreg]), ("SYSWR", (Form.plain 0xE3 [.b, .c]).mem.with [.sysreg]),
   ("TLBINV", ((Form.plain 0xE4 abc).order all).mem.with [.flag]), ("CFGINV", ((Form.plain 0xE5 abc).order all).mem.with [.flag]),
   ("RESUME", (Form.plain 0xE6 [.a]).order [sOne (.ops 0) "LINK"]), ("HALT", (Form.plain 0xE7 [.a]).with [.cause])]

/-- Every instruction's form. -/
def asmForms : List (String × Form) := controlForms ++ intForms ++ floatForms ++ memoryForms ++ engineForms

/-! ### Statements (R70) -/

/-- A statement in the making: its index, its word, what feeds its slots, its targets, and the edge and the map it names. -/
structure AsmStmt where
  idx : Nat
  raw : Raw
  feeds : List (Slot × List Nat)
  targets : List (Nat × Slot)
  edge : Option Text
  map : Option Text
  deriving DecidableEq, Repr

/-- The number of a register written as a prefix and a decimal number. -/
def regOf (pre : String) (t : Text) : Option Nat :=
  if pre.toList.isPrefixOf (caps t) then digitsFrom 10 0 true (t.drop pre.toList.length) else none

/-- A value added at a place of OPS. -/
def AsmStmt.ops (s : AsmStmt) (v : Nat) : AsmStmt := { s with raw := { s.raw with ops := s.raw.ops + v } }

/-- The selectors of SREAD (R36). -/
def selectorNames : List (String × Nat) :=
  numbered ["TIDX", "RSLOT", "CORE", "REGION", "CTX", "GROUP", "PSEQ", "DIMX", "DIMY", "DIMZ", "LVSN", "FLAGS"]

/-- The system registers (R37). -/
def sysregNames : List (String × Nat) :=
  [("HANDLER", 0), ("TCAUSE", 1), ("TINFO", 2), ("TBLOCK", 3), ("FILL", 0x10), ("AGE", 0x11), ("PLIMIT", 0x12), ("QLIMIT", 0x13),
   ("RLTOKENS", 0x14), ("RLWINDOW", 0x15), ("HSEED", 0x16), ("SIDEBASE", 0x17), ("SIDELEN", 0x18)]

/-- A register below a bound, at a place of OPS. -/
def AsmStmt.reg (s : AsmStmt) (pre : String) (bound lo : Nat) (t : Text) : Except AsmFault AsmStmt :=
  match regOf pre t with
  | some k => if k < bound then .ok (s.ops (k * 2 ^ lo)) else .error .operand
  | none => .error .operand

/-- A name of a table, at the low end of OPS. -/
def AsmStmt.named (s : AsmStmt) (table : List (String × Nat)) (t : Text) : Except AsmFault AsmStmt :=
  match lookup table t with
  | some v => .ok (s.ops v)
  | none => .error .operand

/-- A port (R225, R432): a bank, or the name of an edge or stage. -/
def AsmStmt.port (s : AsmStmt) (t : Text) : Except AsmFault AsmStmt :=
  match regOf "B" t with
  | some k => if k < 64 then .ok (s.ops (k * 2 ^ 21)) else .error .operand
  | none => if isName 16 t then .ok { s.ops (2 ^ 27) with edge := some t } else .error .operand

/-- A tensor map (R205): its number, or its name. -/
def AsmStmt.mapOperand (s : AsmStmt) (t : Text) : Except AsmFault AsmStmt :=
  match intOf t with
  | some v => if 0 ≤ v ∧ v < 4096 then .ok (s.ops v.toNat) else .error .operand
  | none => if isName 31 t then .ok { s with map := some t } else .error .operand

/-- One or more flags at the head of the operands, as a mask, and the operands after them (R318, R319). -/
def flagsMask (ts : List Text) : Option (Nat × List Text) :=
  let fs := (ts.takeWhile (fun t => (regOf "F" t).isSome)).filterMap (regOf "F")
  if fs.isEmpty || fs.any (fun k => 12 ≤ k) then none
  else some ((((List.range 12).filter (fun k => fs.contains k)).map (fun k => 2 ^ k)).foldl (· + ·) 0, ts.drop fs.length)

/-- The named operands, which come first, and the operands after them (R70, R146, R303, R418). -/
def AsmStmt.takeNamed : List Named → List Text → AsmStmt → Except AsmFault (AsmStmt × List Text)
  | [], ts, s => .ok (s, ts)
  | n :: ns, ts, s =>
    match n, ts with
    | .flags, _ =>
      (match flagsMask ts with
       | some (mask, rest) => AsmStmt.takeNamed ns rest (s.ops mask)
       | none => .error .operand)
    | .flag, [] => AsmStmt.takeNamed ns [] s
    | .flag, t :: rest =>
      (match regOf "F" t with
       | some k => if k < 16 then AsmStmt.takeNamed ns rest (s.ops (2 ^ 15 + k * 2 ^ 11)) else .error .operand
       | none => AsmStmt.takeNamed ns ts s)
    | .cause, [] => AsmStmt.takeNamed ns [] s
    | .cause, t :: rest =>
      (match intOf t with
       | some v => if 0 ≤ v ∧ v < 512 then AsmStmt.takeNamed ns rest (s.ops (2 ^ 9 + v.toNat)) else .error .operand
       | none => AsmStmt.takeNamed ns ts s)
    | _, [] => .error .operand
    | .live lo, t :: rest => do AsmStmt.takeNamed ns rest (← s.reg "L" 64 lo t)
    | .exit lo, t :: rest => do AsmStmt.takeNamed ns rest (← s.reg "X" 8 lo t)
    | .tile, t :: rest => do AsmStmt.takeNamed ns rest (← s.reg "ACC" 4 9 t)
    | .port, t :: rest => do AsmStmt.takeNamed ns rest (← s.port t)
    | .selector, t :: rest => do AsmStmt.takeNamed ns rest (← s.named selectorNames t)
    | .sysreg, t :: rest => do AsmStmt.takeNamed ns rest (← s.named sysregNames t)
    | .number bits, t :: rest => do AsmStmt.takeNamed ns rest (s.ops (← needNat 0 (2 ^ bits - 1) .operand t))
    | .map, t :: rest => do AsmStmt.takeNamed ns rest (← s.mapOperand t)

/-- The instructions that feed a slot: `nJ`, or several separated by bars. -/
def feedersOf (t : Text) : Option (List Nat) :=
  everyOf ((cutAt '|' t).map (fun x => match x with
    | 'n' :: ds => (digitsFrom 10 0 true ds).filter (fun k => k < 128)
    | _ => none))

/-- An address operand and the displacement written after it (R197). -/
def addressOf (t : Text) : Text × Option Int :=
  match splitAt1 '+' t with
  | (x, some d) => (x, (natOf d).map (fun v => (v.1 : Int)))
  | (_, none) =>
    match splitAt1 '-' t with
    | (x, some d) => (x, (natOf d).map (fun v => -(v.1 : Int)))
    | (x, none) => (x, some 0)

/-- One slot operand at its position (R70). -/
def AsmStmt.operand (f : Form) (s : AsmStmt) (sl : Slot) (t : Text) : Except AsmFault AsmStmt :=
  match t with
  | ['-'] => .ok s
  | '#' :: v =>
    if sl ≠ .b then .error .operand
    else
      match f.imm with
      | .none => .error .operand
      | .alu => do
        let v ← needInt v
        if -(2 ^ 26) ≤ v ∧ v < 2 ^ 26 then return s.ops (2 ^ 27 + (v % 2 ^ 27).toNat) else .error .operand
      | .word => do
        let v ← needInt v
        if -(2 ^ 63) ≤ v ∧ v < 2 ^ 64 then return { s with raw := { s.raw with ext := (v % 2 ^ 64).toNat } } else .error .operand
  | _ =>
    let (x, d) := if f.disp && sl = .a then addressOf t else (t, some 0)
    match feedersOf x, d with
    | some js, some d =>
      if !f.slots.contains sl || d < -32768 || 32767 < d then .error .operand
      else
        let s := { s with feeds := s.feeds ++ [(sl, js)] }
        .ok (s.ops ((d % 65536).toNat + if f.oe && sl = .c then 2 ^ 16 else 0))
    | _, _ => .error .operand

/-- The slot operands: the first is slot a, the second slot b, the third slot c. -/
def AsmStmt.operands (f : Form) : List Slot → List Text → AsmStmt → Except AsmFault AsmStmt
  | _, [], s => .ok s
  | [], _ :: _, _ => .error .operand
  | sl :: sls, t :: ts, s => do AsmStmt.operands f sls ts (← s.operand f sl t)

/-- A target `nJ.s` (R70). -/
def targetOf (t : Text) : Option (Nat × Slot) :=
  match cutAt '.' t with
  | ['n' :: ds, sl] =>
    (match digitsFrom 10 0 true ds, lookup [("A", Slot.a), ("B", .b), ("C", .c), ("P", .p)] sl with
     | some k, some sl => if k < 128 then some (k, sl) else none
     | _, _ => none)
  | _ => none

/-- The bits of a target (R47). -/
def targetBits (t : Nat × Slot) : Nat := 512 + 4 * t.1 + t.2.code

/-- The targets of a statement in T0, T1, and the T2 and T3 of an extension word. -/
def AsmStmt.aim (s : AsmStmt) (ts : List (Nat × Slot)) : AsmStmt :=
  let bits := fun (k : Nat) => match ts[k]? with
    | some t => targetBits t
    | none => 0
  { s with
    targets := ts
    raw := { s.raw with t0 := bits 0, t1 := bits 1, ext := s.raw.ext + bits 2 * 2 ^ 54 + bits 3 * 2 ^ 44 } }

/-- The mnemonic with its suffixes, and PM. -/
def headOf (t : Text) : Option (Text × List Text × Nat) :=
  let (m, q) := splitAt1 '?' t
  let pm : Option Nat := match q with
    | none => some 0
    | some x => if caps x = ['T'] then some 1 else if caps x = ['F'] then some 2 else none
  match pm, cutAt '.' m with
  | some pm, name :: sfx => some (name, sfx, pm)
  | _, _ => none

/-- A text without any white space. -/
def squeeze (t : Text) : Text := t.filter (fun c => !isBlank c)

/-- The operands of a text, and the predicate operand, which is written last with or without a comma before it (R70). -/
def operandsOf (t : Text) : List Text × Option Text :=
  let (left, p) := splitAt1 '?' t
  let left := trim left
  let left := if p.isSome && left.getLast? = some ',' then left.dropLast else left
  (if (trim left).isEmpty then [] else (cutAt ',' left).map squeeze, p.map squeeze)

/-- An instruction statement (R70). The n of a label or an operand nK is taken in lower case alone: MODEL'S CHOICE (log 71), the spec
does not say whether N3 is n3. -/
def stmtOf (line : Text) : Except AsmFault AsmStmt := do
  let (label, rest) := splitAt1 ':' line
  let idx ← match squeeze label, rest with
    | 'n' :: ds, some _ => (match digitsFrom 10 0 true ds with
      | some k => if k < 128 then .ok k else .error AsmFault.index
      | none => .error .statement)
    | _, _ => .error .statement
  let (head, more) := firstWord (rest.getD [])
  let (left, right) := splitArrow more
  match headOf head with
  | none => .error .statement
  | some (name, sfx, pm) =>
    match lookup asmForms name with
    | none => .error .mnemonic
    | some f =>
      match f.sfx.findSome? (fun order => suffixCodes order sfx) with
      | none => .error .suffix
      | some codes =>
        let raw : Raw :=
          { op := f.op, fn := 0, pm := pm, u := 0, x := if f.x then 1 else 0, t0 := 0, t1 := 0, ops := 0, ext := 0 }
        let s : AsmStmt := { idx := idx, raw := codes.foldl Raw.put raw, feeds := [], targets := [], edge := none, map := none }
        let (ops, pred) := operandsOf left
        let (s, slots) ← s.takeNamed f.named ops
        let s ← s.operands f [.a, .b, .c] slots
        let s ← match pred, decide (pm = 0) with
          | none, true => .ok s
          | some p, false => (match feedersOf p with
            | some [k] => .ok { s with feeds := s.feeds ++ [(Slot.p, [k])] }
            | _ => .error AsmFault.operand)
          | _, _ => .error .operand
        if f.imm = .word && !slots.any (fun t => t.head? = some '#') then .error .operand
        else
          match everyOf ((items (right.getD [])).map (fun t => targetOf (squeeze t))) with
          | some ts => if ts.length ≤ f.targets then return s.aim ts else .error .target
          | none => .error .target

/-- What a statement encodes: its word, and its extension word (R47, R52). -/
def AsmStmt.words (s : AsmStmt) : Nat × Nat := (s.raw.word, s.raw.ext)

end Sys2Proof.Machine
end

