-- ==== Sys2Proof/Machine/Asm.lean ====
section
/-! DEFINITION. The assembler psire-as (spec/02 R69-R73, R61-R64, spec/18 R432, spec/14 R427): from a source to a code object. -/

namespace Sys2Proof.Machine

/-! ### What a source holds (R73) -/

/-- The parameters of a directive, as they are written. -/
abbrev AsmParams := List (Text × Text)

/-- A block: its parameters and its statements in source order. -/
structure AsmBlock where
  name : Text
  params : AsmParams
  stmts : List AsmStmt
  deriving DecidableEq, Repr

/-- A stage of a graph and its blocks; a kernel of KIND 0 has one, with the kernel's own parameters. -/
structure AsmStage where
  name : Text
  params : AsmParams
  blocks : List AsmBlock
  deriving DecidableEq, Repr

/-- A kernel or a graph; `fields` are the sizes and alignments of its `.param` fields. -/
structure AsmKernel where
  graph : Bool
  name : Text
  params : AsmParams
  fields : List (Text × Nat × Nat)
  stages : List AsmStage
  edges : List (Text × AsmParams)
  deriving DecidableEq, Repr

/-- A scope that `.end` closes. -/
inductive AsmScope
  | kernel | graph | stage | block | tmap | data
  deriving DecidableEq, Repr

/-- A source as far as it has been read, with the scopes that are open, the innermost first. -/
structure AsmSource where
  kernels : List AsmKernel
  maps : List (Text × AsmParams)
  data : List (List Byte)
  open_ : List AsmScope
  deriving DecidableEq, Repr

/-- A list with its last member changed. -/
def onLast {α : Type} (f : α → α) : List α → List α
  | [] => []
  | [x] => [f x]
  | x :: y :: xs => x :: onLast f (y :: xs)

/-- The source with its last kernel changed. -/
def AsmSource.kernel (s : AsmSource) (f : AsmKernel → AsmKernel) : AsmSource := { s with kernels := onLast f s.kernels }

/-- The source with its last stage changed. -/
def AsmSource.stage (s : AsmSource) (f : AsmStage → AsmStage) : AsmSource :=
  s.kernel (fun k => { k with stages := onLast f k.stages })

/-- The source with one more open scope. -/
def AsmSource.push (s : AsmSource) (x : AsmScope) : AsmSource := { s with open_ := x :: s.open_ }

/-! ### Directives (R73) -/

/-- Parameters `key=value`, each of them one the directive takes and given once. -/
def paramsOf (takes : List String) (ts : List Text) : Except AsmFault AsmParams :=
  match everyOf (ts.map (fun t => match splitAt1 '=' t with
    | (k, some v) => some (caps (trim k), trim v)
    | _ => none)) with
  | none => .error .directive
  | some ps =>
    if ps.any (fun p => !takes.any (fun k => k.toList = p.1)) || !(ps.map (·.1)).Nodup then .error .directive else .ok ps

/-- A parameter's value. -/
def AsmParams.get (ps : AsmParams) (k : String) : Option Text := (ps.find? (fun p => p.1 = k.toList)).map (·.2)

/-- A parameter's value, which must be given. -/
def AsmParams.need (ps : AsmParams) (k : String) : Except AsmFault Text :=
  match ps.get k with
  | some v => .ok v
  | none => .error .directive

/-- A number given as a parameter, within bounds, or its default. -/
def AsmParams.nat (ps : AsmParams) (k : String) (lo hi default : Nat) : Except AsmFault Nat :=
  match ps.get k with
  | some v => needNat lo hi .directive v
  | none => .ok default

/-- The items of a parameter written in parentheses; none of it when it is left out. -/
def AsmParams.list (ps : AsmParams) (k : String) : Except AsmFault (List Text) :=
  match ps.get k with
  | none => .ok []
  | some ('(' :: cs) => if cs.getLast? = some ')' then .ok (items cs.dropLast) else .error .directive
  | some _ => .error .directive

/-- The directives, with the length of the name they take and their parameters. -/
def directiveTable : List (String × Nat × List String) :=
  [(".KERNEL", 16, ["SLOTS", "ENTRY"]), (".GRAPH", 16, ["SLOTS"]), (".STAGE", 16, ["AT", "ENTRY", "THREADS"]),
   (".STREAM", 16, ["FROM", "TO", "BANK", "DEPTH", "UNIT", "GEOM"]),
   (".BLOCK", 31, ["RANK", "WAIT", "SETS", "STORES", "OCCUPANCY", "EXITS"]), (".PARAM", 31, ["SIZE", "ALIGN"]),
   (".DATA", 31, ["ALIGN"]),
   (".TMAP", 31, ["BASE", "CP", "SCOPE", "CLASS", "NDIM", "RDIM", "SAT", "SFMT", "FMT", "EXT0", "EXT1", "EXT2", "STRIDE1",
     "STRIDE2", "SBASE", "SSTRIDE1", "SSTRIDE2"])]

/-- A new kernel or graph. -/
def AsmSource.newKernel (s : AsmSource) (graph : Bool) (name : Text) (ps : AsmParams) : Except AsmFault AsmSource :=
  if !s.open_.isEmpty then .error .scope
  else .ok (({ s with kernels := s.kernels ++ [{ graph := graph, name := name, params := ps, fields := []
                                                 stages := if graph then [] else [{ name := name, params := ps, blocks := [] }]
                                                 edges := [] }] } : AsmSource).push (if graph then .graph else .kernel))

/-- Whether a `.data` or `.tmap` may stand here: anywhere but within a block or another of them. -/
def AsmSource.mayHold (s : AsmSource) : Bool :=
  match s.open_ with
  | .block :: _ | .data :: _ | .tmap :: _ => false
  | _ => true

/-- A `.param` (R427): in a kernel or graph, before its first block. -/
def AsmSource.newParam (s : AsmSource) (name : Text) (ps : AsmParams) : Except AsmFault AsmSource := do
  let size ← needNat 0 (2 ^ 32 - 1) .parameter (← ps.need "SIZE")
  let align ← needNat 1 (2 ^ 32 - 1) .parameter (← ps.need "ALIGN")
  match s.open_, s.kernels.getLast? with
  | .kernel :: _, some k | .graph :: _, some k =>
    if k.stages.any (fun t => !t.blocks.isEmpty) || k.fields.any (fun f => f.1 = name) then .error .parameter
    else return s.kernel (fun k => { k with fields := k.fields ++ [(name, size, align)] })
  | _, _ => .error .scope

/-- A directive line (R73). -/
def AsmSource.directive (s : AsmSource) (t : Text) : Except AsmFault AsmSource :=
  let (word, rest) := firstWord t
  if caps word = ".END".toList then
    match s.open_, rest with
    | _ :: more, [] => .ok { s with open_ := more }
    | _, _ => .error .scope
  else
    match directiveTable.find? (fun d => d.1.toList = caps word), items rest with
    | some (d, len, takes), name :: more => do
      if !isName len name then .error AsmFault.name
      let ps ← paramsOf takes more
      match d, s.open_ with
      | ".KERNEL", _ => s.newKernel false name ps
      | ".GRAPH", _ => s.newKernel true name ps
      | ".STAGE", .graph :: _ =>
        return (s.kernel (fun k => { k with stages := k.stages ++ [{ name := name, params := ps, blocks := [] }] })).push .stage
      | ".STREAM", .graph :: _ => return s.kernel (fun k => { k with edges := k.edges ++ [(name, ps)] })
      | ".BLOCK", .kernel :: _ | ".BLOCK", .stage :: _ =>
        return (s.stage (fun g => { g with blocks := g.blocks ++ [{ name := name, params := ps, stmts := [] }] })).push .block
      | ".PARAM", _ => s.newParam name ps
      | ".DATA", _ => do
        let align ← ps.nat "ALIGN" 1 64 1
        if !s.mayHold then .error .scope
        else if !([1, 2, 4, 8, 16, 32, 64].contains align) then .error .directive
        else return ({ s with data := s.data ++ [[]] } : AsmSource).push .data
      | ".TMAP", _ =>
        if s.mayHold then return ({ s with maps := s.maps ++ [(name, ps)] } : AsmSource).push .tmap else .error .scope
      | _, _ => .error .scope
    | _, _ => .error .directive

/-- One line of a source (R69). -/
def AsmSource.line (s : AsmSource) (raw : Text) : Except AsmFault AsmSource :=
  match uncomment raw with
  | [] => .ok s
  | '.' :: cs => s.directive ('.' :: cs)
  | t =>
    match s.open_ with
    | .block :: _ => do
      let x ← stmtOf t
      return s.stage (fun g => { g with blocks := onLast (fun b => { b with stmts := b.stmts ++ [x] }) g.blocks })
    | .data :: _ => do
      let bs ← dataLine t
      return { s with data := onLast (· ++ bs) s.data }
    | _ => .error .scope

/-- A source read to its end, where every scope must have been closed. -/
def readSource (text : Text) : Except AsmFault AsmSource := do
  let s ← (cutAt '\n' text).foldlM AsmSource.line { kernels := [], maps := [], data := [], open_ := [] }
  if s.open_.isEmpty then return s else .error .scope

/-! ### Tensor maps (R202) -/

/-- Where a field of a tensor map stands: word, lowest bit, width; and the names its values have. -/
def mapFields : List (String × Nat × Nat × Nat × List (String × Nat)) :=
  [("BASE", 0, 0, 57, []), ("CP", 1, 18, 2, cacheNames), ("SCOPE", 1, 16, 2, scopeNames),
   ("CLASS", 1, 15, 1, [("G", 0), ("S", 1)]), ("NDIM", 1, 13, 2, []), ("RDIM", 1, 11, 2, []), ("SAT", 1, 10, 1, []),
   ("SFMT", 1, 5, 5, formatCodes), ("FMT", 1, 0, 5, formatCodes), ("EXT0", 2, 0, 28, []), ("EXT1", 2, 28, 20, []),
   ("EXT2", 2, 48, 16, []), ("STRIDE1", 3, 0, 32, []), ("STRIDE2", 3, 32, 32, []), ("SBASE", 4, 0, 57, []),
   ("SSTRIDE1", 5, 0, 32, []), ("SSTRIDE2", 5, 32, 32, [])]

/-- The words of a tensor map: each field as it is written, a number or a name, and zero where it is not. -/
def mapWords (ps : AsmParams) : Except AsmFault (List Word) :=
  (List.range 8).mapM (fun k => do
    let parts ← (mapFields.filter (fun f => f.2.1 = k)).mapM (fun f => do
      match ps.get f.1 with
      | none => return 0
      | some v =>
        match lookup f.2.2.2.2 v with
        | some n => return n * 2 ^ f.2.2.1
        | none => return (← needNat 0 (2 ^ f.2.2.2.1 - 1) .directive v) * 2 ^ f.2.2.1)
    return BitVec.ofNat 64 (parts.foldl (· + ·) 0))

/-! ### The argument block (R427) -/

/-- The offsets of fields of given sizes and alignments, from an offset on, and the end of the last. -/
def placeFields : Nat → List (Nat × Nat) → List Nat × Nat
  | e, [] => ([], e)
  | e, (size, align) :: fs =>
    let off := (e + align - 1) / align * align
    (off :: (placeFields (off + size) fs).1, (placeFields (off + size) fs).2)

/-- PSIZE. -/
def AsmKernel.psize (k : AsmKernel) : Nat := ((placeFields 0 (k.fields.map (·.2))).2 + 7) / 8 * 8

/-! ### Ranks (R73) -/

/-- A depth-first walk: the blocks seen, and those left behind, the last one first. A block's exits are walked from the
highest-numbered down. -/
def walkBlocks (exits : Text → List Text) : Nat → List Text × List Text → Text → List Text × List Text
  | 0, a, _ => a
  | fuel + 1, a, b =>
    if a.1.contains b then a
    else
      let r := (exits b).reverse.foldl (walkBlocks exits fuel) (b :: a.1, a.2)
      (r.1, b :: r.2)

/-- The blocks in the order in which ranks are given: reverse post-order from the entry, then the blocks not reached. -/
def AsmStage.rankOrder (g : AsmStage) (exits : Text → List Text) (entry : Text) : List Text :=
  let names := g.blocks.map (·.name)
  let walked := (walkBlocks exits (names.length + 1) ([], []) entry).2
  walked ++ names.filter (fun n => !walked.contains n)

/-- The rank of every block: those written, and for the others the lowest that none names. -/
def AsmStage.ranks (g : AsmStage) (exits : Text → List Text) (entry : Text) : Except AsmFault (List (Text × Nat)) := do
  let written ← (g.blocks.filter (fun b => (b.params.get "RANK").isSome)).mapM (fun b => do
    return (b.name, ← b.params.nat "RANK" 0 65535 0))
  let taken := written.map (·.2)
  let free := (List.range (g.blocks.length + taken.length)).filter (fun r => !taken.contains r)
  let others := (g.rankOrder exits entry).filter (fun n => !written.any (fun w => w.1 = n))
  if !taken.Nodup then .error .rank else return written ++ others.zip free

/-! ### One block (R44-R46, R71) -/

/-- A block with the offset at which it stands in its section. -/
abbrev Placed := AsmBlock × Nat

/-- The bytes of a block, before the padding to the next one. -/
def AsmBlock.size (b : AsmBlock) : Nat := 32 + (b.stmts.map (fun s => 8 + 8 * s.raw.x)).foldl (· + ·) 0

/-- A flag F0-F11. -/
def flagOf (t : Text) : Except AsmFault Nat :=
  match regOf "F" t with
  | some k => if k < 12 then .ok k else .error .directive
  | none => .error .directive

/-- The statements in index order: each index from 0 once (R70). -/
def AsmBlock.ordered (b : AsmBlock) : Except AsmFault (List AsmStmt) :=
  let n := b.stmts.length
  if n = 0 || 128 < n then .error .index
  else
    match everyOf ((List.range n).map (fun k => b.stmts.find? (fun s => s.idx = k))) with
    | some ss => .ok ss
    | none => .error .index

/-- The operands name what targets their slots, and every slot that is targeted is written (R71). -/
def feedsAgree (ss : List AsmStmt) : Bool :=
  ss.all (fun s =>
    s.feeds.all (fun f => f.2.all (fun j => match ss[j]? with
      | some p => p.targets.contains (s.idx, f.1)
      | none => false)) &&
    s.targets.all (fun t => match ss[t.1]? with
      | some c => c.feeds.any (fun f => f.1 = t.2)
      | none => false))

/-- The edges that an instruction of stage `own` may mean by a stage's name: those to it where the instruction sends, those from it
where it receives (R225). -/
def edgesWith (edges : List (Text × AsmParams)) (own : Text) (sends : Bool) (name : Text) : List Nat :=
  let ends := fun (e : Text × AsmParams) => if sends then (e.2.get "FROM", e.2.get "TO") else (e.2.get "TO", e.2.get "FROM")
  (List.range edges.length).filter (fun k => (edges[k]?).any (fun e => ends e = (some own, some name)))

/-- The index of the edge that a port operand names (R432): by its own name, or by that of the stage at its other end. A stage that
several edges join, or none, is an assembly error: MODEL'S CHOICE (log 71). -/
def edgeIndex (edges : List (Text × AsmParams)) (own : Text) (sends : Bool) (name : Text) : Option Nat :=
  match edges.findIdx? (fun e => e.1 = name) with
  | some k => some k
  | none =>
    match edgesWith edges own sends name with
    | [k] => some k
    | _ => none

/-- Whether a statement sends through its port: PUSH and WFEED (R226, R229). -/
def AsmStmt.sends (s : AsmStmt) : Bool := s.raw.op = 0xB1 || s.raw.op = 0xB4

/-- A statement of stage `own` with its edge and its map resolved (R205, R432). -/
def AsmStmt.resolve (s : AsmStmt) (edges : List (Text × AsmParams)) (own : Text) (maps : List Text) : Except AsmFault AsmStmt :=
  let at_ := fun (x : Option Text) (index : Text → Option Nat) => match x with
    | none => some 0
    | some n => index n
  match at_ s.edge (edgeIndex edges own s.sends), at_ s.map (fun n => maps.findIdx? (· = n)) with
  | some e, some m => .ok ((s.ops (e * 2 ^ 21)).ops m)
  | _, _ => .error .operand

/-- Whether a block needs the D attribute (R44). -/
def Block.defers (b : Block) : Bool :=
  b.instrs.any (fun x => x.2.deferredKind || (match x.2 with
    | .stt _ m _ _ => (match b.map? m.toNat with | some t => t.stream | none => false)
    | _ => false))

/-- The exit fields of a block (R46): the distances to its targets in units of 64 bytes. -/
def exitFields (own : Nat) (targets : List Nat) : Except AsmFault (List Nat) :=
  targets.mapM (fun t =>
    let d : Int := ((t : Int) - own) / 64
    if -(2 ^ 19) ≤ d ∧ d < 2 ^ 19 then .ok (d % 2 ^ 20).toNat else .error .target)

/-- The header words of a block (R44, R45). -/
def headerWords (b : Block) (exits wait sets : List Nat) (rank stores occ : Nat) : List Nat :=
  let count := fun (op : Nat) => ((b.opcodes.filter (fun o => o = op)).length) % 128
  let set := fun (k : Nat) => match sets[k]? with
    | some f => 16 + f
    | none => 0
  let e := fun (k : Nat) => exits.getD k 0
  [2 ^ 60 + (b.words.length - 1) * 2 ^ 53 + exits.length * 2 ^ 49 + rank * 2 ^ 33 + count 6 * 2 ^ 26 + count 7 * 2 ^ 19
     + stores * 2 ^ 9 + (occ - 1) * 2 ^ 6 + boolCode (b.instrs.any (fun x => x.2.streams)) * 2 ^ 5 + boolCode b.defers * 2 ^ 4,
   ((List.range 12).filter (fun k => wait.contains k)).foldl (fun n k => n + 2 ^ k) 0 * 2 ^ 52 + set 0 * 2 ^ 47 + set 1 * 2 ^ 42
     + e 0 * 2 ^ 20 + e 1,
   e 2 * 2 ^ 40 + e 3 * 2 ^ 20 + e 4, e 5 * 2 ^ 40 + e 6 * 2 ^ 20 + e 7]

/-- A block's image (R42): its header with ICOUNT, XCOUNT, NREAD, NWRITE, S and D derived (R71), and its words. -/
def AsmBlock.image (b : AsmBlock) (off rank : Nat) (place : Text → Option Nat)
    (edges : List (Text × AsmParams)) (own : Text) (maps : List (Text × List Word)) : Except AsmFault (List Byte) := do
  let ss ← b.ordered
  if !feedsAgree ss then .error AsmFault.feed
  let ss ← ss.mapM (fun s => s.resolve edges own (maps.map (·.1)))
  let names ← b.params.list "EXITS"
  let wait ← (← b.params.list "WAIT").mapM flagOf
  let sets ← (← b.params.list "SETS").mapM flagOf
  let occ ← b.params.nat "OCCUPANCY" 1 8 1
  match everyOf (names.map place) with
  | none => .error .directive
  | some targets =>
    if 8 < targets.length || 2 < sets.length then .error .directive
    else
      let exits ← exitFields off targets
      let block : Block := { blk := off / 64, header := [], words := ss.map (·.words)
                             maps := maps.mapIdx (fun i m => (i, m.2)), va := 0, stale := false }
      let stores ← b.params.nat "STORES" 0 1023 block.loopFree
      let words := headerWords block exits wait sets rank stores occ ++
        ss.flatMap (fun s => if s.raw.x = 1 then [s.raw.word, s.raw.ext] else [s.raw.word])
      return words.flatMap (leBytes 8)

/-! ### The NATIVE section (R63, R73, R273, R274, R432) -/

/-- A list of bytes completed with zeros to a multiple of 64. -/
def padded (bs : List Byte) : List Byte := bs ++ zeros (up64 bs.length - bs.length)

/-- A NAME field. -/
def nameField (t : Text) : List Byte := t.map (fun c => BitVec.ofNat 8 c.toNat) ++ zeros (16 - t.length)

/-- A stage's blocks in the order in which they are emitted: its entry block first; the entry of a stage of a graph is the first
as written. -/
def AsmStage.emitted (graph : Bool) (g : AsmStage) : Except AsmFault (List AsmBlock) := do
  let entry ← g.params.need "ENTRY"
  match g.blocks.find? (fun b => b.name = entry) with
  | none => .error .stage
  | some b =>
    if graph && (g.blocks.head?.map (·.name)) ≠ some entry then .error .stage
    else if !(g.blocks.map (·.name)).Nodup then .error .name
    else return b :: g.blocks.filter (fun x => x.name ≠ entry)

/-- Blocks placed one after another, each on the first 64-byte boundary, and the end of the last. -/
def placeBlocks : Nat → List AsmBlock → List Placed × Nat
  | off, [] => ([], off)
  | off, b :: bs => ((b, off) :: (placeBlocks (up64 (off + b.size)) bs).1, (placeBlocks (up64 (off + b.size)) bs).2)

/-- The stages of a kernel placed. -/
def placeStages (graph : Bool) : Nat → List AsmStage → Except AsmFault (List (AsmStage × List Placed) × Nat)
  | off, [] => .ok ([], off)
  | off, g :: gs => do
    let bs := placeBlocks off (← g.emitted graph)
    let more ← placeStages graph bs.2 gs
    return ((g, bs.1) :: more.1, more.2)

/-- The kernels of a source placed. -/
def placeKernels : Nat → List AsmKernel → Except AsmFault (List (AsmKernel × List (AsmStage × List Placed)))
  | _, [] => .ok []
  | off, k :: ks => do
    let gs ← placeStages k.graph off k.stages
    return (k, gs.1) :: (← placeKernels gs.2 ks)

/-- The image of a stage's blocks, each completed to the next 64-byte boundary. -/
def stageImage (edges : List (Text × AsmParams)) (maps : List (Text × List Word)) (g : AsmStage) (bs : List Placed) :
    Except AsmFault (List Byte) := do
  let entry ← g.params.need "ENTRY"
  let table ← g.blocks.mapM (fun b => do return (b.name, ← b.params.list "EXITS"))
  let exits := fun (n : Text) => ((table.find? (fun x => x.1 = n)).map (·.2)).getD []
  let place := fun (n : Text) => (bs.find? (fun x => x.1.name = n)).map (·.2)
  if table.any (fun x => x.2.any (fun n => (place n).isNone)) then .error AsmFault.directive
  let ranks ← g.ranks exits entry
  let images ← bs.mapM (fun x => do
    return padded (← x.1.image x.2 (((ranks.find? (fun r => r.1 = x.1.name)).map (·.2)).getD 0) place edges g.name maps))
  return images.flatten

/-- The offset of a stage's entry block. -/
def entryOf (bs : List Placed) : Nat :=
  match bs with
  | x :: _ => x.2
  | [] => 0

/-- A stage record (R273). -/
def stageRecord (g : AsmStage) (bs : List Placed) : Except AsmFault (List Byte) := do
  let at_ ← (← g.params.list "AT").mapM (needNat 0 31 .stage)
  let nthr ← g.params.nat "THREADS" 0 (2 ^ 32 - 1) 0
  match at_ with
  | [dx, dy] =>
    return [1, BitVec.ofNat 8 dx, BitVec.ofNat 8 dy, 0] ++ leBytes 4 nthr ++ leBytes 6 (entryOf bs) ++
      leBytes 2 bs.length ++ nameField g.name
  | _ => .error .stage

/-- The geometry of an edge (R222, R274, R432): `depth=` for FIFO and LINK, `geom=` for WINDOW. -/
def edgeGeometry (kind : Nat) (ps : AsmParams) : Except AsmFault Nat := do
  match kind, ps.get "DEPTH", ps.get "GEOM" with
  | 1, none, some _ =>
    match ← (← ps.list "GEOM").mapM needInt with
    | [rw, kh, kw, str, dil] =>
      if 1 ≤ rw ∧ rw ≤ 4096 ∧ 1 ≤ kh ∧ kh ≤ 16 ∧ 1 ≤ kw ∧ kw ≤ 16 ∧ 1 ≤ str ∧ str ≤ 8 ∧ 1 ≤ dil ∧ dil ≤ 8 then
        return (rw - 1 + (kh - 1) * 2 ^ 12 + (kw - 1) * 2 ^ 16 + (str - 1) * 2 ^ 20 + (dil - 1) * 2 ^ 23).toNat
      else .error .stream
    | _ => .error .stream
  | 0, some d, none => return (← needNat 1 4096 .stream d) - 1
  | 2, some d, none => return (← needNat 1 64 .stream d) - 1
  | _, _, _ => .error .stream

/-- A stream record (R274, R432). -/
def streamRecord (stages : List Text) (name : Text) (ps : AsmParams) : Except AsmFault (List Byte) := do
  let kind ← match lookup (numbered ["FIFO", "WINDOW", "LINK"]) (← ps.need "BANK") with
    | some k => .ok k
    | none => .error AsmFault.stream
  let geom ← edgeGeometry kind ps
  let bank ← match kind, ps.get "UNIT" with
    | 2, none => .ok 0
    | 2, some _ => .error .stream
    | _, some u => needNat 0 31 .stream u
    | _, none => .error .stream
  match stages.findIdx? (· = (ps.get "FROM").getD []), stages.findIdx? (· = (ps.get "TO").getD []) with
  | some src, some dst =>
    let r := [2, BitVec.ofNat 8 kind, BitVec.ofNat 8 src, BitVec.ofNat 8 dst] ++ leBytes 4 geom ++ [BitVec.ofNat 8 bank] ++ zeros 7 ++
      nameField name
    if src < 256 && dst < 256 && edgeOk r stages.length then return r else .error .stream
  | _, _ => .error .stream

/-- The records of a kernel or graph (R63, R273, R274). -/
def kernelRecords (k : AsmKernel) (gs : List (AsmStage × List Placed)) : Except AsmFault (List Byte) := do
  let slots ← needNat 0 255 .directive (← k.params.need "SLOTS")
  let names := k.stages.map (·.name)
  if !names.Nodup || !(k.edges.map (·.1)).Nodup then .error AsmFault.name
  if 65535 < gs.length || 64 < k.edges.length || gs.any (fun g => 65535 < g.2.length) || 2 ^ 32 ≤ k.psize then
    .error AsmFault.directive
  let nblock := if k.graph then gs.length else (gs.map (fun g => g.2.length)).foldl (· + ·) 0
  let entry := match gs with
    | g :: _ => entryOf g.2
    | [] => 0
  let record := leBytes 8 entry ++ [BitVec.ofNat 8 slots, if k.graph then 1 else 0] ++ leBytes 2 nblock ++ leBytes 4 k.psize ++
    nameField k.name
  if k.graph then
    let stages ← gs.mapM (fun g => stageRecord g.1 g.2)
    let edges ← k.edges.mapM (fun e => streamRecord names e.1 e.2)
    return record ++ stages.flatten ++ edges.flatten ++ zeros 32
  else return record

/-- How many bytes the records of a kernel take. -/
def AsmKernel.recordBytes (k : AsmKernel) : Nat := if k.graph then 32 * (k.stages.length + k.edges.length + 2) else 32

/-- The NATIVE section of a source. -/
def nativeSection (s : AsmSource) (maps : List (Text × List Word)) : Except AsmFault (List Byte) := do
  let first := up64 (64 + (s.kernels.map (·.recordBytes)).foldl (· + ·) 0)
  let ks ← placeKernels first s.kernels
  let records ← ks.mapM (fun k => kernelRecords k.1 k.2)
  let images ← ks.mapM (fun k => k.2.mapM (fun g => stageImage (if k.1.graph then k.1.edges else []) maps g.1 g.2))
  return padded (leBytes 4 s.kernels.length ++ zeros 60 ++ records.flatten) ++ (images.map List.flatten).flatten

/-! ### The code object (R61, R62, R64, R73) -/

/-- A section entry (R62); NATIVE has MAJOR 1, MINOR 0 and an empty STEPSET. -/
def sectionEntry (kind off size : Nat) : List Byte :=
  leBytes 2 kind ++ [if kind = 1 then 1 else 0] ++ zeros 5 ++ leBytes 8 off ++ leBytes 8 size ++ zeros 8

/-- The entries of sections placed one after another. -/
def sectionEntries : Nat → List (Nat × List Byte) → List (List Byte)
  | _, [] => []
  | off, (kind, bs) :: rest => sectionEntry kind off bs.length :: sectionEntries (off + up64 bs.length) rest

/-- An object of sections, each on a 64-byte boundary. -/
def objectOf (sections : List (Nat × List Byte)) : List Byte :=
  let first := up64 (64 + 32 * sections.length)
  let body := sections.flatMap (fun x => padded x.2)
  leBytes 4 0x4F435256 ++ leBytes 2 1 ++ leBytes 2 sections.length ++ leBytes 8 (first + body.length) ++ zeros 48 ++
    (let es := (sectionEntries first sections).flatten
     es ++ zeros (first - 64 - es.length)) ++ body

/-- The DATA section (R433): each entry on a 64-byte boundary of it. -/
def dataSection : List (List Byte) → List Byte
  | [] => []
  | [x] => x
  | x :: y :: xs => padded x ++ dataSection (y :: xs)

/-- psire-as: the code object of a source, which passes every check of R60 (R71). -/
def assemble (text : Text) : Except AsmFault (List Byte) := do
  let s ← readSource text
  if !(s.maps.map (·.1)).Nodup || !(s.kernels.map (·.name)).Nodup then .error AsmFault.name
  let maps ← s.maps.mapM (fun m => do return (m.1, ← mapWords m.2))
  let native ← nativeSection s maps
  match leastDetail (parseNative native (maps.map (·.2))).faults with
  | some d => .error (.check d)
  | none =>
    let data := dataSection s.data
    let tmaps := maps.flatMap (fun m => m.2.flatMap (fun w => leBytes 8 w.toNat))
    return objectOf ([(1, native), (4, sha384 native)] ++ (if data.isEmpty then [] else [(5, data)]) ++
      (if tmaps.isEmpty then [] else [(6, tmaps)]))

end Sys2Proof.Machine
end

