-- ==== Sys2Proof/Safety.lean ====
section
/-! DEFINITION. What a safe run is, and the terms in which the claims speak of a firing: when an instruction is ready for the
thread of the current firing, and the state that sending, trapping or recording leaves. -/

namespace Sys2Proof.Machine

/-! ### A safe run -/

/-- The memory is in its canonical form: addresses strictly rising, no zero listed (log 5). -/
def State.MemoryCanonical (s : State) : Prop := Memory.wf s.mem = true

/-- Every physical byte reads in two states alike. -/
def SameMemory (s t : State) : Prop := ∀ a, t.byteAt a = s.byteAt a

/-- A state that a step leaves by a next state: neither a fault nor a refusal. -/
def Runs (s : State) : Prop := ∃ t, step s = .next t

/-! ### Firing -/

/-- The thread of the current firing has an operand set at its instruction: it stands in a streaming pass of a context that is
not frozen, each fed slot holds a token, none of the tokens taken is null, and the predicate matches (R53-R55). `r` is the
run with those tokens taken. -/
def Ready (s : State) (f : Fields) (p : Spot) (toks : List Token) (r : Run) : Prop :=
  s.spot? s.cur = some p ∧ operandSet p.block p.run s.cur.idx = some (toks, r) ∧ anyNull toks = false ∧ predOk f toks = true

/-- What the instruction of the current firing sees. -/
def siteOf (s : State) (p : Spot) (toks : List Token) : Site :=
  { at_ := s.cur, spot := p, toks := toks, gen := (p.run.idx s.cur.idx).fired }

/-- The state in which an instruction acts: its operand set is consumed, and it counts as fired. -/
def State.took (s : State) (r : Run) : State := s.updRun s.cur (fun _ => r.consumed s.cur.idx true)

/-- The run after tokens were sent for the current firing, under the occupancy limit of the block (R53). -/
def runSending (s : State) (p : Spot) (toks : List Token) (deps : List Nat) (out : List (Target × Option Word)) (r : Run) :
    Run :=
  sendTokens p.block.occ s.cur.idx (p.run.idx s.cur.idx).fired ((siteOf s p toks).deps ++ deps).dedup out r

/-- The state after the instruction fired, sent tokens, and did nothing else. -/
def State.sent (s : State) (p : Spot) (toks : List Token) (r : Run) (out : List (Target × Option Word)) : State :=
  s.updRun s.cur (fun _ => runSending s p toks [] out (r.consumed s.cur.idx true))

/-- The state after the instruction fired, changed its run, and sent tokens. -/
def State.recorded (s : State) (p : Spot) (toks : List Token) (r : Run) (g : Run → Run) (out : List (Target × Option Word)) :
    State :=
  s.updRun s.cur (fun _ => runSending s p toks [] out (g (r.consumed s.cur.idx true)))

/-- The state after the instruction detected a cause: the thread has trapped, and nulls go to the targets (R393). -/
def State.trapped (s : State) (p : Spot) (toks : List Token) (r : Run) (ts : List Target) (cause : Nat) (info : Option Nat) :
    State :=
  s.updRun s.cur (fun _ => sendTokens p.block.occ s.cur.idx (p.run.idx s.cur.idx).fired (siteOf s p toks).deps (toAll ts none)
    ((r.consumed s.cur.idx true).record s.cur.idx (p.run.idx s.cur.idx).fired cause info))

/-- A state `t` in which the instruction has acted, with the cause it detected and the nulls it sends then. -/
def State.trapping (t s : State) (p : Spot) (toks : List Token) (ts : List Target) (cause : Nat) (info : Option Nat) : State :=
  t.updRun s.cur (fun r => sendTokens p.block.occ s.cur.idx (p.run.idx s.cur.idx).fired (siteOf s p toks).deps (toAll ts none)
    (r.record s.cur.idx (p.run.idx s.cur.idx).fired cause info))

/-- A state `t` in which the instruction has acted, with the tokens it sends then. -/
def State.sending (t s : State) (p : Spot) (toks : List Token) (deps : List Nat) (out : List (Target × Option Word)) : State :=
  t.updRun s.cur (runSending s p toks deps out)

/-- The state after the instruction recorded a deferred effect (R180) and sent tokens ordered after it. -/
def State.deferring (s : State) (p : Spot) (toks : List Token) (r : Run) (kind : DeferredKind)
    (out : List (Target × Option Word)) : State :=
  ((s.took r).defer s.cur (siteOf s p toks).deps (fun _ => kind)).sending s p toks [p.pass.nextId] out

/-- It is the first firing of the instruction for the thread. -/
def FirstFiring (s : State) (p : Spot) : Prop := (p.run.idx s.cur.idx).fired = 0

/-- The integer and floating atomics and RED: their fields, memory operands and rounding mode (R195). -/
def atomicParts : Instr → Option (Fields × MemOps × RMode)
  | .aadd f m | .amin f m | .amax f m | .aand f m | .aor f m | .axor f m | .axchg f m | .acas f m | .aincw f m
  | .adecw f m => some (f, m, .rne)
  | .afadd f m rm | .afmin f m rm | .afmax f m rm | .red f m rm _ _ => some (f, m, rm)
  | _ => none

/-- A pass that reads committed memory alone: it has recorded no access, no earlier pass of its lane is in flight, and it does
not hold the solo ticket. -/
def ReadsCommitted (p : Spot) : Prop := p.pass.accesses = [] ∧ p.lane.earlier p.pass.id = [] ∧ p.pass.solo ≠ .holding

end Sys2Proof.Machine
end

