-- ==== Sys2Proof/Certificates/Slice0/Obligations.lean ====
section
/-! DEFINITION. The statements for the provers. Each docstring names the rule of the spec that the statement formalises, or says
that it is the model's own. In every statement about a firing, `Ready s f p toks r` says that the thread of the current firing
has its operand set, free of nulls, under a predicate that matches. -/

open Sys2Proof Sys2Proof.Machine

/-! ### Results of the scalar instructions -/

/-- R106: ADD, SUB, MUL, MAD, NEG, ABS and ABSD fire and send the low bits of the exact integer to T0 and T1; under .CHK, one
outside the range of the type makes the thread trap with ARITH/INT_OVERFLOW, TINFO holding the instruction's index, and sends nulls.
Nothing else changes. -/
def Obligations.IntegerArithmetic : Prop :=
  ∀ (f : Fields) (ty : IntTy) (chk : Bool) (imm : Option Imm) (s : State) (p : Spot) (toks : List Token) (r : Run),
    Ready s f p toks r →
    let x := siteOf s p toks
    let a := val ty x.a
    let b := val ty (x.b imm)
    let c := val ty x.c
    let gives := fun (v : Int) =>
      if chk = true ∧ ¬(tyLo ty ≤ v ∧ v ≤ tyHi ty) then s.trapped p toks r (Fields.both f) 0x000 (some s.cur.idx)
      else s.sent p toks r (toAll (Fields.both f) (some (put ty v)))
    exec (.add f ty chk imm) s = .next (gives (a + b)) ∧
    exec (.sub f ty chk imm) s = .next (gives (a - b)) ∧
    exec (.mul f ty chk imm) s = .next (gives (a * b)) ∧
    exec (.mad f ty chk imm) s = .next (gives (a * b + c)) ∧
    exec (.neg f ty chk) s = .next (gives (-a)) ∧
    exec (.abs f ty chk) s = .next (gives |a|) ∧
    exec (.absd f ty chk imm) s = .next (gives |a - b|)

/-- R109: DIV and REM. A zero divisor and the quotient of lo by -1 have the values the rule gives, or trap under .CHK; every
other quotient is truncated towards zero. -/
def Obligations.DivisionAndRemainder : Prop :=
  ∀ (f : Fields) (ty : IntTy) (chk : Bool) (imm : Option Imm) (s : State) (p : Spot) (toks : List Token) (r : Run),
    Ready s f p toks r →
    let x := siteOf s p toks
    let n := val ty x.a
    let d := val ty (x.b imm)
    let sends := fun (v : Int) => s.sent p toks r (toAll (Fields.both f) (some (put ty v)))
    let traps := fun (cause : Nat) => s.trapped p toks r (Fields.both f) cause (some s.cur.idx)
    (d ≠ 0 → ¬(tySigned ty = true ∧ n = tyLo ty ∧ d = -1) →
      exec (.div f ty chk imm) s = .next (sends (n.tdiv d)) ∧
      exec (.rem f ty chk imm) s = .next (sends (n - d * n.tdiv d))) ∧
    (d = 0 → chk = false →
      exec (.div f ty chk imm) s = .next (sends (if tySigned ty = true then -1 else 2 ^ tyWidth ty - 1)) ∧
      exec (.rem f ty chk imm) s = .next (sends n)) ∧
    (d = 0 → chk = true →
      exec (.div f ty chk imm) s = .next (traps 0x001) ∧ exec (.rem f ty chk imm) s = .next (traps 0x001)) ∧
    (tySigned ty = true → n = tyLo ty → d = -1 → chk = false →
      exec (.div f ty chk imm) s = .next (sends (tyLo ty)) ∧ exec (.rem f ty chk imm) s = .next (sends 0)) ∧
    (tySigned ty = true → n = tyLo ty → d = -1 → chk = true →
      exec (.div f ty chk imm) s = .next (traps 0x000) ∧ exec (.rem f ty chk imm) s = .next (traps 0x000))

/-- R107, R108, R110, R111, R119: the saturating sums, the upper half of a product, the selections of the order, the comparison
and LEA. -/
def Obligations.SaturationOrderAndAddress : Prop :=
  ∀ (f : Fields) (ty : IntTy) (imm : Option Imm) (scale : BitVec 2) (s : State) (p : Spot) (toks : List Token) (r : Run),
    Ready s f p toks r →
    let x := siteOf s p toks
    let a := val ty x.a
    let b := val ty (x.b imm)
    let c := val ty x.c
    let sends := fun (v : Int) => s.sent p toks r (toAll (Fields.both f) (some (put ty v)))
    let truth := fun (h : Bool) => s.sent p toks r (toAll (Fields.both f) (some (if h then 1 else 0)))
    exec (.adds f ty imm) s = .next (sends (min (max (a + b) (tyLo ty)) (tyHi ty))) ∧
    exec (.subs f ty imm) s = .next (sends (min (max (a - b) (tyLo ty)) (tyHi ty))) ∧
    exec (.mulh f ty imm) s = .next (sends ((a * b) / 2 ^ tyWidth ty)) ∧
    exec (.min f ty imm) s = .next (sends (min a b)) ∧
    exec (.max f ty imm) s = .next (sends (max a b)) ∧
    exec (.clamp f ty imm) s = .next (sends (min (max a b) c)) ∧
    exec (.cmp f ty .eq imm) s = .next (truth (a = b)) ∧
    exec (.cmp f ty .ne imm) s = .next (truth (a ≠ b)) ∧
    exec (.cmp f ty .lt imm) s = .next (truth (a < b)) ∧
    exec (.cmp f ty .ge imm) s = .next (truth (b ≤ a)) ∧
    exec (.lea f ty scale imm) s = .next (sends (a + b * 2 ^ scale.toNat))

/-- R112, R113, R114: the logical operations, the shifts with their amounts at or above the width, the rotates and the funnel
shift. -/
def Obligations.LogicShiftsAndRotates : Prop :=
  ∀ (f : Fields) (ty : IntTy) (imm : Option Imm) (s : State) (p : Spot) (toks : List Token) (r : Run),
    Ready s f p toks r →
    let x := siteOf s p toks
    let a := x.a
    let b := x.b imm
    let w := tyWidth ty
    let n := low ty b
    let sends := fun (v : Int) => s.sent p toks r (toAll (Fields.both f) (some (put ty v)))
    exec (.and f ty imm) s = .next (sends (a &&& b).toNat) ∧
    exec (.or f ty imm) s = .next (sends (a ||| b).toNat) ∧
    exec (.xor f ty imm) s = .next (sends (a ^^^ b).toNat) ∧
    exec (.andn f ty imm) s = .next (sends (a &&& ~~~b).toNat) ∧
    exec (.not f ty) s = .next (sends (~~~a).toNat) ∧
    exec (.shl f ty imm) s = .next (sends (if w ≤ n then 0 else low ty a * 2 ^ n)) ∧
    exec (.shr f ty imm) s = .next (sends (if w ≤ n then 0 else low ty a / 2 ^ n)) ∧
    exec (.sar f ty imm) s = .next (sends (if w ≤ n then (if lowSigned ty a < 0 then -1 else 0) else lowSigned ty a / 2 ^ n)) ∧
    exec (.rol f ty imm) s = .next (sends (((low ty a * 2 ^ (n % w)) % 2 ^ w + low ty a / 2 ^ (w - n % w) : Nat))) ∧
    exec (.ror f ty imm) s = .next (sends (((low ty a / 2 ^ (n % w)) + (low ty a * 2 ^ (w - n % w)) % 2 ^ w : Nat))) ∧
    (let cat := low ty a * 2 ^ w + low ty b
     let k := low ty x.c % w
     exec (.fsh f ty false imm) s = .next (sends ((cat * 2 ^ k / 2 ^ w % 2 ^ w : Nat))) ∧
     exec (.fsh f ty true imm) s = .next (sends ((cat / 2 ^ k % 2 ^ w : Nat))))

/-- R115, R116, R117, R118, R120: the bit counts, the fields, the extensions, the byte selection and the checksum, each as the
model's function of the operands. The checksum is the register of 32 bits that takes the bits of b one by one, the lowest first: at
each it moves one place down, and, where its lowest bit and the message bit differ, the polynomial is added. -/
def Obligations.BitFieldsAndChecksums : Prop :=
  (∀ (ty : IntTy) (poly : CrcPoly) (a b : Word), ∃ crc : Nat → BitVec 32,
    let taps : BitVec 32 := match poly with
      | .c32 | .c32b => 0xEDB88320
      | .c32c | .c32cb => 0x82F63B78
    let bits := match poly with
      | .c32 | .c32c => tyWidth ty
      | .c32b | .c32cb => 8
    crc 0 = a.setWidth 32 ∧
    (∀ k j, k < bits → j < 32 → (crc (k + 1)).getLsbD j =
      ((crc k).getLsbD (j + 1) ^^ (((crc k).getLsbD 0 ^^ b.getLsbD k) && taps.getLsbD j))) ∧
    resCrc ty poly a b = put ty (crc bits).toNat) ∧
  ∀ (f : Fields) (ty : IntTy) (imm : Option Imm) (width : ExtWidth) (poly : CrcPoly) (s : State) (p : Spot)
    (toks : List Token) (r : Run),
    Ready s f p toks r →
    let x := siteOf s p toks
    let a := x.a
    let b := x.b imm
    let sends := fun (v : Word) => s.sent p toks r (toAll (Fields.both f) (some v))
    exec (.clz f ty) s = .next (sends (resClz ty a)) ∧
    exec (.ctz f ty) s = .next (sends (resCtz ty a)) ∧
    exec (.popc f ty) s = .next (sends (resPopc ty a)) ∧
    exec (.brev f ty) s = .next (sends (resBrev ty a)) ∧
    exec (.bfx f ty imm) s = .next (sends (resBfx ty a b)) ∧
    exec (.bfi f ty imm) s = .next (sends (resBfi ty a b x.c)) ∧
    exec (.ext f ty width) s = .next (sends (resExt ty width a)) ∧
    exec (.perm f ty imm) s = .next (sends (resPerm ty a b)) ∧
    exec (.crc f ty poly imm) s = .next (sends (resCrc ty poly a b))

/-- R115: what CLZ, CTZ, POPC and BREV count, bit by bit of a[w-1:0]. -/
def Obligations.BitCountsCountBits : Prop :=
  ∀ (ty : IntTy) (a : Word),
    let w := tyWidth ty
    (∃ n, resClz ty a = put ty (n : Nat) ∧ n ≤ w ∧ (∀ k, k < n → a.getLsbD (w - 1 - k) = false) ∧
      (n < w → a.getLsbD (w - 1 - n) = true)) ∧
    (∃ n, resCtz ty a = put ty (n : Nat) ∧ n ≤ w ∧ (∀ k, k < n → a.getLsbD k = false) ∧ (n < w → a.getLsbD n = true)) ∧
    resPopc ty a = put ty (((List.range w).filter (fun k => a.getLsbD k)).length : Nat) ∧
    (∀ j, j < w → (resBrev ty a).getLsbD j = a.getLsbD (w - 1 - j))

/-- R103, R116, R117, R118: BFX and EXT by the bits they take and those they extend by, BFI by the bits it replaces, PERM by the
bytes it selects; at and above the width of the type every result repeats its sign bit, or is zero. -/
def Obligations.FieldsTakeTheirBits : Prop :=
  ∀ (ty : IntTy) (width : ExtWidth) (a b c : Word),
    let w := tyWidth ty
    let pos := fun (x : Word) => x.toNat % 256
    let len := fun (x : Word) => min (x.toNat / 256 % 256) w
    (∀ j, j < w → j < len b → (resBfx ty a b).getLsbD j = (decide (pos b + j < w) && a.getLsbD (pos b + j))) ∧
    (∀ j, j < w → len b ≤ j → (resBfx ty a b).getLsbD j =
      (tySigned ty && decide (0 < len b) && decide (pos b + len b ≤ w) && a.getLsbD (pos b + len b - 1))) ∧
    (∀ v, v ∈ [resBfx ty a b, resBfi ty a b c, resExt ty width a, resPerm ty a b] → ∀ j, w ≤ j → j < 64 →
      v.getLsbD j = (tySigned ty && v.getLsbD (w - 1))) ∧
    (∀ j, j < w → (resBfi ty a b c).getLsbD j =
      if pos c ≤ j ∧ j < pos c + len c then b.getLsbD (j - pos c) else a.getLsbD j) ∧
    (∀ j, j < w → j < extBits width → (resExt ty width a).getLsbD j = a.getLsbD j) ∧
    (∀ j, j < w → extBits width ≤ j → (resExt ty width a).getLsbD j = (tySigned ty && a.getLsbD (extBits width - 1))) ∧
    (∀ i k, i < w / 8 → k < 8 → (resPerm ty a b).getLsbD (8 * i + k) =
      (!b.getLsbD (4 * i + 3) && a.getLsbD (8 * (b.toNat / 16 ^ i % 8) + k)))

/-- R121-R125, R127-R135: the W-float instructions send the model's exact-then-round result of their canonicalised operands to T0
and T1. An HSR rounding draws its word by R80. Of finite operands the sum that `wAdd` rounds once is the exact one, the product of
`wProduct` is the exact one, and FTOI gives the exact value rounded to an integer by its mode and then saturated to the type. (That
+0 plus +0 is +0 under RDN is the model's choice, log 79.) -/
def Obligations.FloatResults : Prop :=
  (let real := fun (n : Bool) (m : Nat) (e : Int) => (if n then -1 else 1 : ℚ) * m * 2 ^ e
   ∀ (rm : RMode) (u : Nat) (an bn : Bool) (am bm : Nat) (ae be : Int),
    (∃ n m e, wAdd rm u (.fin an am ae) (.fin bn bm be) = (if m = 0 then wZero n else roundW rm u n m e false) ∧
      real n m e = real an am ae + real bn bm be ∧
      (m = 0 → n = if am = 0 ∧ bm = 0 ∧ an = bn then an else decide (rm = .rdn))) ∧
    (∃ n m e, wProduct (.fin an am ae) (.fin bn bm be) = .fin n m e ∧ real n m e = real an am ae * real bn bm be) ∧
    (∀ (ty : IntTy) (x : Word), wRead x = .fin an am ae → ∃ v : Int,
      let z := real an am ae
      resFtoi rm u ty (wRead x) = put ty (min (max v (tyLo ty)) (tyHi ty)) ∧
      (rm = .rtz → |(v : ℚ)| ≤ |z| ∧ |z| < |(v : ℚ)| + 1 ∧ 0 ≤ v * z) ∧
      (rm = .rup → z ≤ v ∧ v < z + 1) ∧ (rm = .rdn → v ≤ z ∧ z < v + 1) ∧
      (rm = .rne ∨ rm = .rna → 2 * |v - z| ≤ 1) ∧ (rm = .hsr → |v - z| < 1))) ∧
  ∀ (f : Fields) (rm : RMode) (alt : Bool) (ty : IntTy) (imm : Option Imm) (s : State) (p : Spot) (toks : List Token) (r : Run),
    Ready s f p toks r →
    let x := siteOf s p toks
    let a := wRead x.a
    let b := x.wb imm
    let c := wRead x.c
    let u := hsrWord (s.hseed s.cur.ctx) (hsrKeyFloat s.cur.tidx (p.run.idx s.cur.idx).fired p.block.blk s.cur.idx)
    let sends := fun (v : Word) => s.sent p toks r (toAll (Fields.both f) (some v))
    exec (.fadd f rm imm) s = .next (sends (wAdd rm u a b)) ∧
    exec (.fsub f rm imm) s = .next (sends (wAdd rm u a b.negate)) ∧
    exec (.fmul f rm imm) s = .next (sends (wRound rm u (wProduct a b))) ∧
    exec (.fma f rm imm) s = .next (sends (wAdd rm u (wProduct a b) c)) ∧
    exec (.fnma f rm imm) s = .next (sends (wAdd rm u (wProduct a b).negate c)) ∧
    exec (.fdiv f rm imm) s = .next (sends (wDiv rm u a b)) ∧
    exec (.fsqrt f rm) s = .next (sends (wSqrt rm u a)) ∧
    exec (.frcp f rm) s = .next (sends (wDiv rm u (.fin false 1 0) a)) ∧
    exec (.frsq f rm) s = .next (sends (wRsqrt rm u a)) ∧
    exec (.fmin f rm alt imm) s = .next (sends (resFminmax true alt a b)) ∧
    exec (.fmax f rm alt imm) s = .next (sends (resFminmax false alt a b)) ∧
    exec (.fclamp f rm imm) s = .next (sends (resFclamp a b c)) ∧
    exec (.fabs f rm) s = .next (sends (wWrite (a.withSign false))) ∧
    exec (.fneg f rm) s = .next (sends (wWrite a.negate)) ∧
    exec (.fsgn f rm alt imm) s = .next (sends (wWrite (a.withSign (if alt then a.neg != b.neg else b.neg)))) ∧
    exec (.fcmp f rm alt imm) s = .next (sends (resFcmp alt a b)) ∧
    exec (.fclass f rm) s = .next (sends (resFclass x.a)) ∧
    exec (.frint f rm) s = .next (sends (resFrint rm u a)) ∧
    exec (.ftoi f rm ty) s = .next (sends (resFtoi rm u ty a)) ∧
    exec (.itof f rm ty) s = .next (sends (roundExact rm u false (decide (val ty x.a < 0)) (val ty x.a).natAbs 0)) ∧
    exec (.fscale f rm) s = .next (sends (resFscale rm u a (x.operand .b))) ∧
    exec (.flogb f rm) s = .next (sends (resFlogb a)) ∧
    exec (.fmant f rm) s = .next (sends (resFmant a))

/-- R126: the elementary functions at the special operands of the table: a NaN gives the canonical NaN, the infinities, the zeros
and the operands outside the domain give what the table says. FEXP2 of an integer n whose power W holds is exactly 2^n, and FLOG2
of a power of two is exactly its exponent, under every mode. -/
def Obligations.ElementaryFunctions : Prop :=
  ∀ (f : Fields) (rm : RMode) (s : State) (p : Spot) (toks : List Token) (r : Run),
    Ready s f p toks r →
    let x := siteOf s p toks
    let u := hsrWord (s.hseed s.cur.ctx) (hsrKeyFloat s.cur.tidx (p.run.idx s.cur.idx).fired p.block.blk s.cur.idx)
    let sends := fun (v : Word) => s.sent p toks r (toAll (Fields.both f) (some v))
    (exec (.fexp2 f rm) s = .next (sends (resFexp2 rm u x.a)) ∧ exec (.flog2 f rm) s = .next (sends (resFlog2 rm u x.a)) ∧
     exec (.fsin f rm) s = .next (sends (resFsin rm u x.a)) ∧ exec (.fcos f rm) s = .next (sends (resFcos rm u x.a)) ∧
     exec (.ftanh f rm) s = .next (sends (resFtanh rm u x.a)) ∧ exec (.ferf f rm) s = .next (sends (resFerf rm u x.a))) ∧
    (wRead x.a = .nan →
      exec (.fexp2 f rm) s = .next (sends wNaN) ∧ exec (.flog2 f rm) s = .next (sends wNaN) ∧
      exec (.fsin f rm) s = .next (sends wNaN) ∧ exec (.fcos f rm) s = .next (sends wNaN) ∧
      exec (.ftanh f rm) s = .next (sends wNaN) ∧ exec (.ferf f rm) s = .next (sends wNaN)) ∧
    (∀ neg, wRead x.a = .inf neg →
      exec (.fexp2 f rm) s = .next (sends (if neg then wZero false else wInf false)) ∧
      exec (.flog2 f rm) s = .next (sends (if neg then wNaN else wInf false)) ∧
      exec (.fsin f rm) s = .next (sends wNaN) ∧ exec (.fcos f rm) s = .next (sends wNaN) ∧
      exec (.ftanh f rm) s = .next (sends (wWrite (.fin neg 1 0))) ∧
      exec (.ferf f rm) s = .next (sends (wWrite (.fin neg 1 0)))) ∧
    (∀ neg e, wRead x.a = .fin neg 0 e →
      exec (.fexp2 f rm) s = .next (sends (wWrite (.fin false 1 0))) ∧ exec (.flog2 f rm) s = .next (sends (wInf true)) ∧
      exec (.fsin f rm) s = .next (sends (wZero neg)) ∧ exec (.fcos f rm) s = .next (sends (wWrite (.fin false 1 0))) ∧
      exec (.ftanh f rm) s = .next (sends (wZero neg)) ∧ exec (.ferf f rm) s = .next (sends (wZero neg))) ∧
    (∀ m e, wRead x.a = .fin true m e → m ≠ 0 → exec (.flog2 f rm) s = .next (sends wNaN)) ∧
    (∀ neg m e, wRead x.a = .fin neg m e → 2 ^ 40 * 2 ^ (-e).toNat < m * 2 ^ e.toNat →
      exec (.fsin f rm) s = .next (sends wNaN) ∧ exec (.fcos f rm) s = .next (sends wNaN)) ∧
    (∀ neg m e (n : Nat), wRead x.a = .fin neg m e → m ≠ 0 → m * 2 ^ e.toNat = n * 2 ^ (-e).toNat →
      n ≤ (if neg then 4094 else 4095) →
      exec (.fexp2 f rm) s = .next (sends (wWrite (.fin false 1 (if neg then -(n : Int) else n))))) ∧
    (∀ e (k : Nat), wRead x.a = .fin false (2 ^ k) e → exec (.flog2 f rm) s = .next (sends (wWrite (wOfInt (k + e)))))

/-- R77, R79: rounding a magnitude m x 2^e to a multiple of 2^g. Towards zero it is the greatest multiple not above it; up and down
it is the neighbour on that side by sign; the two nearest modes leave at most half a step. A magnitude between the least normal and
the greatest finite one is rounded to a W value of its sign with 50 bits of significand, within the step that its mode allows. -/
def Obligations.RoundingGoesToTheNeighbour : Prop :=
  (∀ (mode : RMode) (u m : Nat) (neg : Bool) (e : Int),
    let x : ℚ := m * 2 ^ e
    (2 : ℚ) ^ (-4094 : Int) ≤ x → x ≤ (2 ^ 50 - 1) * 2 ^ (4046 : Int) →
    ∃ (q : Nat) (g : Int), wRead (roundW mode u neg m e false) = .fin neg q g ∧ 2 ^ 49 ≤ q ∧ q < 2 ^ 50 ∧
      let y : ℚ := q * 2 ^ g
      let step : ℚ := 2 ^ g
      (mode = .rtz ∨ (mode = .rup ∧ neg = true) ∨ (mode = .rdn ∧ neg = false) → y ≤ x ∧ x < y + step) ∧
      ((mode = .rup ∧ neg = false) ∨ (mode = .rdn ∧ neg = true) → x ≤ y ∧ y < x + step) ∧
      (mode = .rne ∨ mode = .rna → 2 * |x - y| ≤ step) ∧ (mode = .hsr → |x - y| < step)) ∧
  ∀ (u m : Nat) (neg : Bool) (e g : Int), e < g →
    let k := (g - e).toNat
    let at_ := fun (mode : RMode) => roundGrid mode u neg m e g false * 2 ^ k
    (at_ .rtz ≤ m ∧ m < at_ .rtz + 2 ^ k) ∧
    (at_ .rup = if neg then at_ .rtz else (m + 2 ^ k - 1) / 2 ^ k * 2 ^ k) ∧
    (at_ .rdn = if neg then (m + 2 ^ k - 1) / 2 ^ k * 2 ^ k else at_ .rtz) ∧
    (2 * m ≤ 2 * at_ .rne + 2 ^ k ∧ 2 * at_ .rne ≤ 2 * m + 2 ^ k) ∧
    (2 * m < 2 * at_ .rna + 2 ^ k ∧ 2 * at_ .rna ≤ 2 * m + 2 ^ k) ∧
    (at_ .hsr = at_ .rtz ∨ at_ .hsr = at_ .rtz + 2 ^ k)

/-! ### Dataflow, control and threads -/

/-- R304-R307, R319, R323, R326, R215: MOV, MOVI, MOVX, FAN, NULL, SEL, DROP, BAR, TEST, SREAD and OJOIN send what their rows
say, and READ sends the live value of a granted slot, or traps with CONFIG/LIVE_SLOT. -/
def Obligations.ValuesAreMoved : Prop :=
  ∀ (f : Fields) (imm : Imm) (oimm : Option Imm) (w : Word) (t2 t3 : Option Target) (mask : BitVec 12)
    (which : BitVec 4) (lk : BitVec 6) (s : State) (p : Spot) (toks : List Token) (r : Run),
    Ready s f p toks r →
    let x := siteOf s p toks
    let both := Fields.both f
    let sends := fun (v : Word) => s.sent p toks r (toAll both (some v))
    let flags := p.thread.flags
    exec (.mov f) s = .next (sends x.a) ∧
    exec (.movi f imm) s = .next (sends (imm.signExtend 64)) ∧
    exec (.movx f w) s = .next (sends w) ∧
    exec (.fan f t2 t3) s = .next (s.sent p toks r (toAll (both ++ t2.toList ++ t3.toList) (some x.a))) ∧
    exec (.null f) s = .next (s.sent p toks r (toAll both none)) ∧
    exec (.sel f oimm) s = .next (sends (if x.c ≠ 0 then x.a else x.b oimm)) ∧
    exec (.drop f) s = .next (s.sent p toks r []) ∧
    exec (.bar f) s = .next (s.sent p toks r []) ∧
    exec (.ojoin f) s = .next (sends x.a) ∧
    exec (.test f .any mask) s = .next (sends (if flags &&& mask ≠ 0 then 1 else 0)) ∧
    exec (.test f .all mask) s = .next (sends (if flags &&& mask = mask then 1 else 0)) ∧
    exec (.test f .none mask) s = .next (sends (if flags &&& mask = 0 then 1 else 0)) ∧
    exec (.sread f which) s = .next (sends (BitVec.ofNat 64 (sreadValue x (s.took r) which.toNat))) ∧
    (lk.toNat < p.thread.lvsn → exec (.read f lk) s = .next (sends (p.thread.lives.getD lk.toNat 0))) ∧
    (p.thread.lvsn ≤ lk.toNat → exec (.read f lk) s = .next (s.trapped p toks r both 0x058 none))

/-- R308, R314, R424, R425, R56, R57: the first exit-class firing of a thread records how it leaves; a second one, of whatever
exit-class instruction, traps with CONFIG/MULTI_EXIT, and RESUME outside a handler with CONFIG/NOT_IN_HANDLER. The first WRITE of a
thread records its value for Lk; a second one traps with CONFIG/MULTI_WRITE. Once the thread has drained its block, a WRITE's or a
CALL's slot at or above the count that the thread holds after the block is CONFIG/LIVE_SLOT (that it is looked at only then is the
model's, log 15), and a thread that no exit-class instruction let go is CONFIG/NO_EXIT; another run stays as it is. -/
def Obligations.ExitsAndWritesAreRecordedOnce : Prop :=
  ∀ (f : Fields) (xn xr : BitVec 3) (lk : BitVec 6) (link ic : Bool) (cause : BitVec 9) (s : State) (p : Spot)
    (toks : List Token) (r : Run),
    Ready s f p toks r →
    let a := (siteOf s p toks).a
    let k := s.cur.idx
    let leaves := fun (e : ExitRec) => s.recorded p toks r (fun r => { r with exit := some (k, e) }) []
    let traps := fun (c : Nat) => s.trapped p toks r [] c none
    (p.run.exit = none →
      exec (.exit f xn) s = .next (leaves (.exit xn.toNat)) ∧
      exec (.call f lk xr xn) s = .next (leaves (.call xn.toNat lk.toNat xr.toNat)) ∧
      exec (.ret f) s = .next (leaves (.ret k a)) ∧
      exec (.endThread f) s = .next (leaves .ended) ∧
      exec (.halt f ic cause) s = .next (leaves (.halt (if ic then cause.toNat else a.toNat % 512))) ∧
      (p.thread.handler ≠ none →
        exec (.resume f link) s = .next (leaves (if link then .resumeLink k a else .resume))) ∧
      (p.thread.handler = none → exec (.resume f link) s = .next (traps 0x05B))) ∧
    (p.run.exit ≠ none → ∀ i, i ∈ [Instr.exit f xn, .call f lk xr xn, .ret f, .endThread f, .halt f ic cause, .resume f link] →
      exec i s = .next (traps 0x055)) ∧
    (FirstFiring s p → exec (.write f lk) s = .next (s.recorded p toks r
      (fun r => { r with writes := r.writes ++ [(lk.toNat, a)] }) [])) ∧
    (¬FirstFiring s p → exec (.write f lk) s = .next (traps 0x056)) ∧
    (∀ (b : Block) (q : Run) (n : Nat),
      let late := q.settle b n
      let held := q.countAfter n
      let inside := (∀ w ∈ q.writes, w.1 < held) ∧ ∀ i x l y, q.exit = some (i, .call x l y) → l < held
      (¬inside → ∃ c ∈ late.causes, c.cause = 0x058) ∧
      (inside → q.leaves = false → q.exit = none → ∃ c ∈ late.causes, c.cause = 0x05C) ∧
      (inside → q.leaves = true ∨ q.exit ≠ none → late = q))

/-- R302, R316, R318, R321, R325: SETF, CLRF, YIELD, the group operations, GROW and SHRINK record their effect for the commit and
send done tokens; those of them that may fire only once trap on a second firing, and GROW and SHRINK trap on a count out of
range. -/
def Obligations.CommitEffectsAreRecorded : Prop :=
  ∀ (f : Fields) (mask : BitVec 12) (imm : Option Imm) (s : State) (p : Spot) (toks : List Token) (r : Run),
    Ready s f p toks r →
    let x := siteOf s p toks
    let k := s.cur.idx
    let n := (x.b imm).toNat
    let records := fun (g : Run → Run) => s.recorded p toks r g (doneBoth f)
    let group := fun (op : GroupOp) => records (fun r => { r with groupOps := r.groupOps ++ [(k, op)] })
    let traps := fun (c : Nat) => s.trapped p toks r (Fields.both f) c none
    exec (.setf f mask) s = .next (records (fun r => { r with flagOps := r.flagOps ++ [(k, true, mask)] })) ∧
    exec (.clrf f mask) s = .next (records (fun r => { r with flagOps := r.flagOps ++ [(k, false, mask)] })) ∧
    (FirstFiring s p →
      exec (.yield f) s = .next (records (fun r => { r with yielded := true })) ∧
      exec (.gnew f) s = .next (group .gnew) ∧
      exec (.gfree f) s = .next (group (.gfree x.a)) ∧
      exec (.join f) s = .next (group (.join x.a)) ∧
      exec (.leave f) s = .next (group .leave) ∧
      exec (.barinit f) s = .next (group (.barinit x.a)) ∧
      exec (.grow f imm) s = .next (if 4 ≤ n ∧ n ≤ 64 then records (fun r => { r with lvOp := some (.grow n) }) else traps 0x058) ∧
      exec (.shrink f imm) s = .next (if s.declared s.cur.ctx ≤ n ∧ n ≤ 64 then records (fun r => { r with lvOp := some (.shrink n) })
        else traps 0x058)) ∧
    (¬FirstFiring s p → ∀ i, i ∈ [Instr.yield f, .gnew f, .gfree f, .join f, .leave f, .barinit f, .grow f imm, .shrink f imm] →
      exec i s = .next (traps 0x055))

/-- R155, R154, R324: REDUCE, SCAN, BCAST, ELECT and VOTE contribute the value of slot a once for a thread, to a slot below its
granted count. -/
def Obligations.CollectivesContribute : Prop :=
  ∀ (f : Fields) (opk : FoldOp) (vop : VoteOp) (ty : IntTy) (rm : RMode) (ls : BitVec 6) (exclusive : Bool) (s : State) (p : Spot)
    (toks : List Token) (r : Run),
    Ready s f p toks r →
    let contributes := s.recorded p toks r (fun r => { r with contribs := r.contribs ++ [(s.cur.idx, (siteOf s p toks).a)] }) []
    ∀ i, i ∈ [Instr.reduce f opk ty rm ls, .scan f opk ty rm ls exclusive, .bcast f ls, .elect f ls, .vote f vop ls] →
      (FirstFiring s p → ls.toNat < p.thread.lvsn → exec i s = .next contributes) ∧
      (FirstFiring s p → p.thread.lvsn ≤ ls.toNat → exec i s = .next (s.trapped p toks r [] 0x058 none)) ∧
      (¬FirstFiring s p → exec i s = .next (s.trapped p toks r [] 0x055 none))

/-- R156, R324: what the folds of a generation write, for the contributions in ascending thread index: BCAST the first value,
ELECT 1 to the first contributor alone, VOTE the count or its test, an integer REDUCE of ADD the wrapped sum to every
contributor, an exclusive SCAN of ADD the sum of those before it. -/
def Obligations.CollectiveFolds : Prop :=
  ∀ (f : Fields) (ty : IntTy) (rm : RMode) (ls : BitVec 6) (rnd : Nat → Nat) (cs : List (Nat × Word)) (k : Nat) (c : Nat × Word),
    cs[k]? = some c →
    let n := (cs.filter (fun d => d.2 ≠ 0)).length
    let sum := fun (l : List (Nat × Word)) => (l.map (fun d => val ty d.2)).sum
    (collectResults (.bcast f ls) rnd cs)[k]? = some (c.1, ls.toNat, (cs.head?.map (·.2)).getD 0) ∧
    (collectResults (.elect f ls) rnd cs)[k]? = some (c.1, ls.toNat, if k = 0 then 1 else 0) ∧
    (collectResults (.vote f .any ls) rnd cs)[k]? = some (c.1, ls.toNat, if 0 < n then 1 else 0) ∧
    (collectResults (.vote f .all ls) rnd cs)[k]? = some (c.1, ls.toNat, if n = cs.length then 1 else 0) ∧
    (collectResults (.vote f .cnt ls) rnd cs)[k]? = some (c.1, ls.toNat, BitVec.ofNat 64 n) ∧
    (collectResults (.reduce f .add ty rm ls) rnd cs)[k]? = some (c.1, ls.toNat, put ty (sum cs)) ∧
    (collectResults (.scan f .add ty rm ls false) rnd cs)[k]? = some (c.1, ls.toNat, put ty (sum (cs.take (k + 1)))) ∧
    (collectResults (.scan f .add ty rm ls true) rnd cs)[k]? = some (c.1, ls.toNat, put ty (sum (cs.take k)))

/-- R309: STEER sends a to T0 when b is not 0 and to T1 when it is, and to the other nothing; a null in a goes to the side that b
selects, a null in b to both sides; a predicate that does not match sends nothing. Its operands are consumed. The model's choices: a
null in the predicate goes to both sides, and a null goes before a predicate that does not match (log 13); an unfed slot reads as 0
(log 75). -/
def Obligations.SteerTakesOneSide : Prop :=
  ∀ (f : Fields) (s : State) (p : Spot) (toks : List Token) (r : Run),
    s.spot? s.cur = some p → operandSet p.block p.run s.cur.idx = some (toks, r) →
    let pick := fun (sl : Slot) => ((toks.find? (fun t => t.slot = sl)).map (·.val)).getD (some 0)
    let sends := fun (out : List (Target × Option Word)) (fires : Bool) =>
      s.updRun s.cur (fun _ => runSending s p toks [] out (r.consumed s.cur.idx fires))
    ((pick .p = none ∨ pick .b = none) → exec (.steer f) s = .next (sends (toAll (Fields.both f) none) false)) ∧
    (∀ c b, pick .p = some c → pick .b = some b →
      let side := if b ≠ 0 then f.t0.toList else f.t1.toList
      (pick .a = none → exec (.steer f) s = .next (sends (toAll side none) false)) ∧
      (∀ a, pick .a = some a → predOk f toks = true → exec (.steer f) s = .next (sends (toAll side (some a)) true)) ∧
      (∀ a, pick .a = some a → predOk f toks = false → exec (.steer f) s = .next (sends [] false)))

/-- R310-R313: MERGE takes the token that slot c selects; CARRY takes slot a once and then slot b, until a null in b ends its loop;
INVAR takes slot a into its hold, sends the held value on each token of slot b, and lets go of it on a null. -/
def Obligations.LoopsAndMerges : Prop :=
  ∀ (f : Fields) (s : State) (p : Spot),
    s.spot? s.cur = some p →
    let k := s.cur.idx
    let both := Fields.both f
    let st := p.run.idx k
    let leaves := fun (r : Run) (deps : List Nat) (v : Option Word) =>
      s.updRun s.cur (fun _ => sendTokens p.block.occ k st.fired deps (toAll both v) r)
    (∀ c v t ts us, takeToken k .c p.run.tokens = some (c, ts) → c.val = some v →
      takeToken k (if v ≠ 0 then .a else .b) ts = some (t, us) →
      exec (.merge f) s = .next (leaves (({ p.run with tokens := us }).consumed k true) ((c.deps ++ t.deps).dedup) t.val)) ∧
    (∀ c ts, takeToken k .c p.run.tokens = some (c, ts) → c.val = none →
      exec (.merge f) s = .next (leaves (({ p.run with tokens := ts }).consumed k false) c.deps none)) ∧
    (∀ t ts, st.fired - leastConsumed p.block p.run ≤ p.block.occ → st.looping = false →
      takeToken k .a p.run.tokens = some (t, ts) →
      exec (.carry f) s = .next (leaves ((({ p.run with tokens := ts }).consumed k true).updIdx k
        (fun i => { i with looping := t.val.isSome })) t.deps t.val)) ∧
    (∀ t ts v, st.fired - leastConsumed p.block p.run ≤ p.block.occ → st.looping = true →
      takeToken k .b p.run.tokens = some (t, ts) → t.val = some v →
      exec (.carry f) s = .next (leaves ((({ p.run with tokens := ts }).consumed k true).updIdx k
        (fun i => { i with looping := true })) t.deps (some v))) ∧
    (∀ t ts, st.fired - leastConsumed p.block p.run ≤ p.block.occ → st.looping = true →
      takeToken k .b p.run.tokens = some (t, ts) → t.val = none →
      exec (.carry f) s = .next (s.updRun s.cur (fun _ => (({ p.run with tokens := ts }).consumed k true).updIdx k
        (fun i => { i with looping := false })))) ∧
    (∀ v t ts, st.hold = some (some v) → takeToken k .b p.run.tokens = some (t, ts) → t.val ≠ none →
      exec (.invar f) s = .next (leaves (({ p.run with tokens := ts }).consumed k true) ((st.deps ++ t.deps).dedup) (some v))) ∧
    (∀ v t u ts us, st.hold = none → takeToken k .a p.run.tokens = some (t, ts) → t.val = some v →
      takeToken k .b ts = some (u, us) → u.val ≠ none →
      exec (.invar f) s = .next (leaves (({ ({ p.run with tokens := ts }).updIdx k
        (fun i => { i with hold := some (some v), deps := t.deps }) with tokens := us }).consumed k true)
          ((t.deps ++ u.deps).dedup) (some v))) ∧
    (∀ h t ts, st.hold = some h → takeToken k .b p.run.tokens = some (t, ts) → (h = none ∨ t.val = none) →
      exec (.invar f) s = .next (leaves ((({ p.run with tokens := ts }).consumed k false).updIdx k
        (fun i => { i with hold := none, deps := [] })) ((st.deps ++ t.deps).dedup) none))

/-- R180, R317, R256, R421, R422, R423, R216, R218: SPAWN, CREDIT, SYSWR, TLBINV, CFGINV, REL and FENCE record a deferred effect
with their operands and send done tokens ordered after it; CREDIT, TLBINV and CFGINV trap on parameters out of range and on a
full flag. -/
def Obligations.EffectsAreDeferred : Prop :=
  ∀ (f : Fields) (oe : Bool) (xn : BitVec 3) (num : BitVec 8) (flag : Option (BitVec 4)) (scope : Scope) (s : State) (p : Spot)
    (toks : List Token) (r : Run),
    Ready s f p toks r →
    let x := siteOf s p toks
    let a := x.a.toNat
    let b := (x.b none).toNat
    let defers := fun (k : DeferredKind) => s.deferring p toks r k (doneBoth f)
    let traps := fun (c : Nat) => s.trapped p toks r (Fields.both f) c none
    exec (.spawn f xn) s = .next (defers (.spawn (p.block.exitBlock xn.toNat) (x.tok .a) (x.tok .b) (x.tok .c) 0)) ∧
    exec (.credit f oe) s = .next (if a < 2 ^ 12 then defers (.credit (a % 16) (a / 16 + 1)) else traps 0x106) ∧
    exec (.syswr f oe num) s = .next (defers (.syswr num.toNat (x.b none))) ∧
    exec (.rel f scope) s = .next (defers (.release scope)) ∧
    (scope = .core → exec (.fence f scope) s = .next (defers (.fence scope))) ∧
    (x.flagRoom flag = true →
      exec (.tlbinv f true oe flag) s = .next (defers (.tlbinv true a (b + 1) (flag.map (·.toNat)))) ∧
      exec (.cfginv f true oe flag) s = .next (defers (.cfginv true a (b + 1) (flag.map (·.toNat)))) ∧
      exec (.tlbinv f false oe flag) s = .next (if a % 65536 = 0 ∧ a < 2 ^ 57 ∧ b < 2 ^ 41
        then defers (.tlbinv false a (b + 1) (flag.map (·.toNat))) else traps 0x109) ∧
      exec (.cfginv f false oe flag) s = .next (if a < 2 ^ 57 ∧ b < 2 ^ 32
        then defers (.cfginv false a (b + 1) (flag.map (·.toNat))) else traps 0x109)) ∧
    (x.flagRoom flag = false →
      exec (.tlbinv f true oe flag) s = .next (traps 0x101) ∧ exec (.cfginv f true oe flag) s = .next (traps 0x101))

/-- R419, R420, R257: TRAP traps with APP and its code, TINFO the value of a; BRK with SYSTEM/BREAKPOINT, TINFO its tag; SYSRD
sends the register as its thread reads it; CSTAT sends the ring's counts and state. -/
def Obligations.TrapsAndRegisterReads : Prop :=
  ∀ (f : Fields) (oe : Bool) (code : BitVec 6) (tag : BitVec 16) (num : BitVec 8) (s : State) (p : Spot) (toks : List Token)
    (r : Run),
    Ready s f p toks r →
    let x := siteOf s p toks
    let a := x.a.toNat
    let ring := p.lane.rings.getD (a % 16) { state := .idle, free := 0, slots := 0, tiles := 0 }
    let sends := fun (v : Nat) => s.sent p toks r (valueDone f (BitVec.ofNat 64 v))
    exec (.trap f code) s = .next (s.trapped p toks r [] (0x140 + code.toNat) (some (a % 2 ^ 57))) ∧
    exec (.brk f tag) s = .next (s.trapped p toks r [] 0x183 (some tag.toNat)) ∧
    exec (.sysrd f oe num) s = .next (sends (sysValue p.lane p.thread num.toNat)) ∧
    (a < 16 → exec (.cstat f oe) s = .next (sends (ring.tiles % 2 ^ 32))) ∧
    (16 ≤ a → a < 32 → exec (.cstat f oe) s = .next (sends ring.free)) ∧
    (32 ≤ a → a < 48 → exec (.cstat f oe) s = .next (sends ring.state.code)) ∧
    (48 ≤ a → a < 64 → exec (.cstat f oe) s = .next (sends
      ((s.copies.filter (fun c => c.ctx = s.cur.ctx && c.core = s.cur.core && c.packet.isNone)).length % 2 ^ 16))) ∧
    (64 ≤ a → exec (.cstat f oe) s = .next (s.trapped p toks r (Fields.both f) 0x106 none))

/-! ### Memory instructions -/

/-- R196-R198, R201, R169, R171, R172, R233, R287: LD of class P reads its bytes, and its value is on its way; a misaligned address
or one outside the context's SCRATCH banks makes the thread trap, TINFO holding the address. Of each byte, there as in device
memory, the load takes what the thread's own latest write ordered before it left, else the byte before the pass, which is the
committed one as an earlier uncommitted pass of the core leaves it; or what a write of the thread that is not ordered with the load
left. A solo pass waits for a commit that is still to reach its core. While a BANKMODE of an earlier pass of the core that names the
bank waits for its commit, the load waits: that is the model's choice (log 33). -/
def Obligations.ScratchpadLoad : Prop :=
  (∀ (f : Fields) (m : MemOps) (s : State) (p : Spot) (toks : List Token) (r : Run),
    Ready s f p toks r → m.cls = .p →
    let x := siteOf s p toks
    let u := s.took r
    let ea := effAddr x.a m.disp
    let n := fmtBytes m.fmt
    let reads := fun (v : State) (bytes : List Byte) => exec (.ld f m) s = .next (((v.access x .scratch ea n 0 ea .load).awaitReturn x
      (fmtDecode m.fmt (leNat bytes)) (x.deps ++ [p.pass.nextId]).dedup .load ea ea).sending s p toks [] [])
    (x.bankWaits (ea / 32768) = true → exec (.ld f m) s = .next s) ∧
    (x.bankWaits (ea / 32768) = false →
     (ea % n = 0 → ea < 2 ^ 20 → s.scratchBank s.cur.core s.cur.ctx (ea / 32768) = true →
      (ReadsCommitted p → reads u (s.scratchBytes s.cur.core ea n)) ∧
      (u.soloWaits x (lineKey s.cur.core .scratch ea) = true → exec (.ld f m) s = .next s) ∧
      (u.soloWaits x (lineKey s.cur.core .scratch ea) = false →
        let found := loadBytes u p.lane p.pass s.cur.tidx x.deps .scratch ea n
        reads found.2 found.1)) ∧
     (ea % n ≠ 0 → exec (.ld f m) s = .next (s.trapped p toks r (Fields.both f) 0x083 (some ea))) ∧
     (ea % n = 0 → ¬(ea < 2 ^ 20 ∧ s.scratchBank s.cur.core s.cur.ctx (ea / 32768) = true) →
      exec (.ld f m) s = .next (s.trapped p toks r (Fields.both f) 0x084 (some ea))))) ∧
  ∀ (s : State) (l : Lane) (q : Pass) (t : Nat) (deps : List Nat) (sp : Space) (a : Nat),
    (∀ n k, k < n → ∃ b, (loadBytes s l q t deps sp a n).1[k]? = some b ∧
      b ∈ q.loadChoices t deps (s.prePassByte l q.id sp (a + k)) sp (a + k)) ∧
    (let own := q.writesOf t sp a
     let ordered := own.filter (fun w => deps.contains w.id)
     let base := s.prePassByte l q.id sp a
     let mayRead := fun (x : Byte) => ∀ b, b ∈ q.loadChoices t deps base sp a ↔
       b = x ∨ ∃ w ∈ own, w.id ∉ deps ∧ b = mergeByte x w.val w.mask
     (ordered = [] → mayRead base) ∧
     (∀ w ∈ ordered, (∀ v ∈ ordered, v.mask = 0xFF) → (∀ v ∈ ordered, w.id ∉ v.before) →
       (∀ v ∈ ordered, v ≠ w → (∀ z ∈ ordered, v.id ∉ z.before) → v.idx < w.idx ∨ (v.idx = w.idx ∧ v.id < w.id)) →
       mayRead w.val)) ∧
    (l.earlier q.id = [] → s.prePassByte l q.id sp a = s.committedByte l.core sp a) ∧
    (∀ e, l.earlier q.id = [e] → (∀ y ∈ e.accesses, y.atomicAt sp a = none) →
      let stores := e.accesses.filterMap (·.storeAt sp a)
      (stores = [] → s.prePassByte l q.id sp a = s.committedByte l.core sp a) ∧
      (∀ w ∈ stores, w.mask = 0xFF → w.id ∉ w.before → (∀ v ∈ stores, v ≠ w → v.tidx < w.tidx) →
        s.prePassByte l q.id sp a = w.val))

/-- R201, R169, R171, R182, R183, R188, R190, R197-R199, R236, R242: LD of classes G and S at its translation. Of device memory it
reads the homes, with the core's own stores that are on their way and the writes of the core's earlier uncommitted passes in their
places, and the line's copy in the CACHE banks is brought up to the home or taken as the policy has it; where its core holds an
older copy, it reads that one or the homes, as the part chooses. A load of class G whose thread, or whose core's earlier uncommitted
passes, wrote every byte of it reads those writes and no memory; of the others each byte is what ScratchpadLoad says. Of a host or
peer page it reads the port. What it reads at an address of the siding, while its context has threads, is an unspecified value of
R34 (R283), which is free. A load of class G enters the chunk. The value is on its way. A misaligned address, one at 2^57 and above,
a locked line, a failing block and what the translation finds make the thread trap, TINFO holding the address; a page of the
capacity tier that is to migrate parks the thread. The model's choices: that the core's own stores on their way and the earlier
passes' writes are always seen, that a copy is brought up to its home, and the choice between an older copy and the home (log 61);
the nulls that a parked access sends (log 17). -/
def Obligations.DeviceLoad : Prop :=
  ∀ (f : Fields) (m : MemOps) (s : State) (p : Spot) (toks : List Token) (r : Run),
    Ready s f p toks r → m.cls ≠ .p → m.fmt.plain = true →
    let x := siteOf s p toks
    let core := s.cur.core
    let ea := effAddr x.a m.disp
    let n := fmtBytes m.fmt
    let traps := fun (t : State) (cause : Nat) => exec (.ld f m) s = .next (t.trapping s p toks (Fields.both f) cause (some ea))
    let sees := fun (look : List Host.Cell) (pa : Nat) => (List.range n).map (fun k =>
      ({ s with mem := look } : State).prePassByte p.lane p.pass.id .device (pa + k))
    let siding := (s.took r).inSiding s.cur.ctx ea
    let free := fun (v : State) (bs : List Byte) => v.unspecified siding s.cur.ctx bs
    let sends := fun (v : State × List Byte) (ids : List Nat) (pa : Nat) => exec (.ld f m) s = .next ((v.1.awaitReturn x
      (fmtDecode m.fmt (leNat v.2)) (x.deps ++ ids).dedup .load pa ea).sending s p toks [] [])
    let comes := fun (v : State) (bs : List Byte) (ids : List Nat) (pa : Nat) => sends ((free v bs).2, (free v bs).1) ids pa
    (siding = true ↔ (∃ l ∈ s.lanes, l.ctx = s.cur.ctx ∧ l.regs.sidebase ≤ ea ∧ ea < l.regs.sidebase + l.regs.sidelen * 65536) ∧
      ∃ l ∈ s.lanes, l.ctx = s.cur.ctx ∧ l.threads ≠ []) ∧
    (siding = false → ∀ v bs, free v bs = (bs, v)) ∧
    (siding = true → ∀ (v : State) (bs : List Byte), bs.length ≤ 8 → ∃ w : Word, (w = 0 ∨ w ∈ v.livePool s.cur.ctx) ∧
      free v bs = ((leBytes 8 w.toNat).take bs.length, { v with freeCtr := v.freeCtr + (bs.length + 7) / 8 })) ∧
    (2 ^ 57 ≤ ea → traps (s.took r) (if ea % n = 0 then 0x084 else 0x083)) ∧
    (ea < 2 ^ 57 → ∀ t,
      (∀ pa key ty, translate (s.took r) s.cur.ctx ea .load = (.ok pa key ty, t) →
        (ea % n ≠ 0 → traps t 0x083) ∧
        (ea % n = 0 → ty = .outside → comes (t.noteSent s.cur.ctx pa n false) (Memory.readBytes (t.seenMem core t.mem) pa n) [] pa) ∧
        (ea % n = 0 → ty = .device → t.lockedFor pa false = true → traps t 0x085) ∧
        (ea % n = 0 → ty = .device → t.lockedFor pa false = false → m.cls = .s ∨ ReadsCommitted p →
          (∀ cause, t.readFault pa key .load = some cause → traps t cause) ∧
          (t.readFault pa key .load = none →
            let loads := fun (v : State) (look : List Host.Cell) =>
              (m.cls = .g → comes (v.access x .device pa n key ea .load) (sees look pa) [p.pass.nextId] pa) ∧
              (m.cls = .s → comes v (sees look pa) [] pa)
            let home := fun (v : State) => loads (v.refreshCopy core (pa / 64) (decide (m.cls = .s)) m.cp) (t.seenMem core t.mem)
            ((∀ c, t.copyOf core (pa / 64) = some c → c.bytes = t.bytesAt (pa / 64 * 64) 64) → home t) ∧
            (∀ c, t.copyOf core (pa / 64) = some c → c.bytes ≠ t.bytesAt (pa / 64 * 64) 64 → ∃ v : State, v = { t with freeCtr := v.freeCtr } ∧
              (home v ∨ loads v (t.seenMem core (Memory.writeBytes t.mem (pa / 64 * 64) c.bytes)))))) ∧
        (ea % n = 0 → ty = .device → t.lockedFor pa false = false → m.cls = .g →
          let held := p.pass.holds p.lane s.cur.tidx x.deps .device pa n
          let reads := fun (v : State) (look : List Host.Cell) =>
            let found := loadBytes { v with mem := look } p.lane p.pass s.cur.tidx x.deps .device pa n
            comes (({ found.2 with mem := v.mem } : State).access x .device pa n key ea .load) found.1 [p.pass.nextId] pa
          (∀ cause, held = false → t.readFault pa key .load = some cause → traps t cause) ∧
          (held = true ∨ t.readFault pa key .load = none →
            (t.soloWaits x (lineKey core .device pa) = true → exec (.ld f m) s = .next s) ∧
            (t.soloWaits x (lineKey core .device pa) = false →
              (held = true → reads t t.mem) ∧
              (held = false → (∀ c, t.copyOf core (pa / 64) = some c → c.bytes = t.bytesAt (pa / 64 * 64) 64) →
                reads (t.refreshCopy core (pa / 64) false m.cp) (t.seenMem core t.mem)))))) ∧
      (∀ cause, translate (s.took r) s.cur.ctx ea .load = (.bad cause, t) →
        traps t (if ea % n ≠ 0 ∧ causeRank 0x083 < causeRank cause then 0x083 else cause)) ∧
      (∀ pa big, translate (s.took r) s.cur.ctx ea .load = (.mot pa big, t) →
        (ea % n ≠ 0 → traps t 0x083) ∧
        (ea % n = 0 → let q := t.requestMigration s.cur.ctx ea pa big
          exec (.ld f m) s = .next ((q.2.updRun s.cur (fun r => { r with
            migPark := some (q.1, AccKind.load.code, ea) })).sending s p toks [] (toAll (Fields.both f) none)))))

/-- R201, R57, R160, R180, R190, R197-R199, R188, R242: ST encodes its value. Of classes P and G it enters the bytes in the chunk,
counted against STORES, or traps with CONFIG/STORE_OVERRUN; of class S, and to a host or peer page, it defers them. It sends done
tokens, ordered after the store. A misaligned address, one outside the context's SCRATCH banks or at 2^57 and above, a locked line
and what the translation finds make the thread trap, TINFO holding the address; a page of the capacity tier that is to migrate parks
the thread; a bank whose mode is about to change keeps the store waiting. Memory is not written yet. A device line of which the core
holds no copy is taken into its CACHE banks as the policy has it. The model's choices: the wait for a bank's mode (log 33), the
nulls that a parked access sends (log 17), and that a store takes its line into the CACHE banks (log 74). -/
def Obligations.StoresAreHeld : Prop :=
  ∀ (f : Fields) (m : MemOps) (rm : RMode) (s : State) (p : Spot) (toks : List Token) (r : Run),
    Ready s f p toks r → m.fmt.plain = true →
    let x := siteOf s p toks
    let ea := effAddr x.a m.disp
    let n := fmtBytes m.fmt
    let bytes := fullBytes n (fmtEncode m.fmt rm (s.storeRnd s.cur.ctx ea 0) false (x.b none))
    let traps := fun (t : State) (cause : Nat) => t.trapping s p toks (Fields.both f) cause (some ea)
    let holds := fun (t : State) (sp : Space) (addr key : Nat) =>
      (∀ u, t.countLines x [lineKey s.cur.core sp addr] = some u →
        let v := if sp = .device then u.fillCopy s.cur.core (addr / 64) false m.cp else u
        exec (.st f m rm) s = .next ((v.access x sp addr bytes.length key ea (.store bytes false)).sending s p toks
          [p.pass.nextId] (doneBoth f))) ∧
      (t.countLines x [lineKey s.cur.core sp addr] = none → exec (.st f m rm) s = .next (traps t 0x057))
    (m.cls = .p → x.bankWaits (ea / 32768) = true → exec (.st f m rm) s = .next s) ∧
    (m.cls = .p → x.bankWaits (ea / 32768) = false →
      (ea % n ≠ 0 → exec (.st f m rm) s = .next (traps (s.took r) 0x093)) ∧
      (ea % n = 0 → ea < 2 ^ 20 → s.scratchBank s.cur.core s.cur.ctx (ea / 32768) = true → holds (s.took r) .scratch ea 0) ∧
      (ea % n = 0 → ¬(ea < 2 ^ 20 ∧ s.scratchBank s.cur.core s.cur.ctx (ea / 32768) = true) →
        exec (.st f m rm) s = .next (traps (s.took r) 0x094))) ∧
    (m.cls ≠ .p → 2 ^ 57 ≤ ea → exec (.st f m rm) s = .next (traps (s.took r) (if ea % n = 0 then 0x094 else 0x093))) ∧
    (m.cls ≠ .p → ea < 2 ^ 57 → ∀ t,
      (∀ pa key ty, translate (s.took r) s.cur.ctx ea .store = (.ok pa key ty, t) →
        (ea % n ≠ 0 → exec (.st f m rm) s = .next (traps t 0x093)) ∧
        (ea % n = 0 → ty = .outside → exec (.st f m rm) s = .next ((t.defer s.cur x.deps
          (fun _ => .hostStore ea pa bytes)).sending s p toks [p.pass.nextId] (doneBoth f))) ∧
        (ea % n = 0 → ty = .device → t.lockedFor pa true = true → exec (.st f m rm) s = .next (traps t 0x095)) ∧
        (ea % n = 0 → ty = .device → t.lockedFor pa true = false → m.cls = .g → holds t .device pa key) ∧
        (ea % n = 0 → ty = .device → t.lockedFor pa true = false → m.cls = .s → exec (.st f m rm) s = .next (((t.fillCopy s.cur.core (pa / 64) false m.cp).defer
          s.cur x.deps (fun _ => .sStore ea pa key bytes m.scope)).sending s p toks [p.pass.nextId] (doneBoth f)))) ∧
      (∀ cause, translate (s.took r) s.cur.ctx ea .store = (.bad cause, t) →
        exec (.st f m rm) s = .next (traps t (if ea % n ≠ 0 ∧ causeRank 0x093 < causeRank cause then 0x093 else cause))) ∧
      (∀ pa big, translate (s.took r) s.cur.ctx ea .store = (.mot pa big, t) →
        (ea % n ≠ 0 → exec (.st f m rm) s = .next (traps t 0x093)) ∧
        (ea % n = 0 → let q := t.requestMigration s.cur.ctx ea pa big
          exec (.st f m rm) s = .next ((q.2.updRun s.cur (fun r => { r with
            migPark := some (q.1, AccKind.store.code, ea) })).sending s p toks [] (toAll (Fields.both f) none)))))

/-- R92, R203, R205, R206: LDT and STT reach the element of their map at the coordinates of slot a; a coordinate beyond its extent
makes the thread trap with the out-of-bounds cause, TINFO holding slot a. A packed element is some bits of one byte or of two; the
value of a map with a scale is the element times the scale of its block of 32; a map of class S reads and stores as S loads and
stores do. An STT of a map with a scale checks the page of its element and leaves the element for the end of the pass. What one read
of the bytes finds is what DeviceLoad says; shown in full for a byte-aligned format without a scale, class G, and a line of which
the core holds no copy. That the LDT always sees the core's own S stores that are on their way is the model's choice (log 61), that
the STT takes its line into the CACHE banks (log 74), and that the line of a scale does not count against STORES (log 89). -/
def Obligations.TensorMapAccesses : Prop :=
  ∀ (f : Fields) (map : BitVec 12) (oe : Bool) (rm : RMode) (s : State) (p : Spot) (toks : List Token) (r : Run) (m : TMap),
    Ready s f p toks r → p.block.map? map.toNat = some m →
    let x := siteOf s p toks
    let c := coords x.a
    let n := fmtBytes m.fmt
    let va := m.base + c.getD 0 0 * n + c.getD 1 0 * m.stride1 + c.getD 2 0 * m.stride2
    let bytes := fullBytes n (fmtEncode m.fmt rm (s.storeRnd s.cur.ctx va 0) m.sat (x.b none))
    (m.outside c = true →
      exec (.ldt f map oe) s = .next (s.trapped p toks r (Fields.both f) 0x084 (some x.a.toNat)) ∧
      exec (.stt f map oe rm) s = .next (s.trapped p toks r (Fields.both f) 0x094 (some x.a.toNat))) ∧
    (m.outside c = false → m.sfmt = 0 → m.fmt ≠ .e2m1 → m.fmt ≠ .t6 → m.stream = false → va % n = 0 → va < 2 ^ 57 →
      (∀ pa key t, translate (s.took r) s.cur.ctx va .load = (.ok pa key .device, t) → t.lockedFor pa false = false →
        t.readFault pa key .load = none → t.copyOf s.cur.core (pa / 64) = none → ReadsCommitted p →
        let found := ((t.refreshCopy s.cur.core (pa / 64) false m.policy).access x .device pa n key va .load).unspecified
          ((s.took r).inSiding s.cur.ctx va) s.cur.ctx (Memory.readBytes (t.seenMem s.cur.core t.mem) pa n)
        exec (.ldt f map oe) s = .next ((found.2.awaitReturn x (fmtDecode m.fmt (leNat found.1))
          (x.deps ++ [p.pass.nextId]).dedup .load pa va).sending s p toks [] [])) ∧
      (∀ pa key t u, translate (s.took r) s.cur.ctx va .store = (.ok pa key .device, t) → t.lockedFor pa true = false →
        t.countLines x [lineKey s.cur.core .device pa] = some u →
        exec (.stt f map oe rm) s = .next (((u.fillCopy s.cur.core (pa / 64) false m.policy).access x .device pa bytes.length key va
          (.store bytes false)).sending s p toks [p.pass.nextId] (doneBoth f)))) ∧
    (let pl := m.place c
     let at_ := m.base + pl.1
     let bit := pl.2.1
     let w := pl.2.2
     let whole : Prop := bit = 0 ∧ w % 8 = 0
     let rows := c.getD 1 0 * m.stride1 + c.getD 2 0 * m.stride2
     let after := fun (k : Nat) => ({ x with spot := { x.spot with pass := { x.spot.pass with nextId := x.spot.pass.nextId + k } } } : Site)
     let reads := fun (y : Site) (v : State) (va n : Nat) => v.readAt y m.cls m.policy va n n .load
     let ends := fun (v : State) (value : Word) (ids : List Nat) (pa : Nat) (also : List (Nat × Nat)) => exec (.ldt f map oe) s =
       .next ((v.awaitReturn x value (x.deps ++ ids).dedup .load pa at_ also).sending s p toks [] [])
     let takes := fun (v : State) (e : Nat) (ids : List Nat) (pa : Nat) (also : List (Nat × Nat)) =>
       (m.sfmt = 0 → ends v (fmtDecode m.fmt e) ids pa also) ∧
       (m.sfmt ≠ 0 → ∀ t b q js, reads (after ids.length) v (m.scaleVa c) m.sw = .got t b q js →
         ends t (wWrite (scaledVal (fmtVal m.fmt e) (if m.sfmt = 15 then s12Decode (leNat b) else e8m0Decode (leNat b)))) (ids ++ js) pa
           (also ++ [(q, m.scaleVa c)]))
     let bits := fmtEncode m.fmt rm (s.storeRnd s.cur.ctx at_ bit) m.sat (x.b none)
     let packed : Byte × Byte := (BitVec.ofNat 8 (bits * 2 ^ bit), BitVec.ofNat 8 ((2 ^ w - 1) * 2 ^ bit))
     (m.fmt = .e2m1 → pl = (rows + c.getD 0 0 / 2, c.getD 0 0 % 2 * 4, 4)) ∧
     (m.fmt = .t6 → pl = (rows + 3 * (c.getD 0 0 / 4) + c.getD 0 0 % 4 * 6 / 8, c.getD 0 0 % 4 * 6 % 8, 6)) ∧
     (m.outside c = false →
      (∀ t b pa ids, whole → reads x (s.took r) at_ (w / 8) = .got t b pa ids → takes t (leNat b) ids pa []) ∧
      (∀ t b pa ids, ¬whole → bit + w ≤ 8 → reads x (s.took r) at_ 1 = .got t b pa ids → takes t (leNat b / 2 ^ bit % 2 ^ w) ids pa []) ∧
      (∀ t b pa ids u d q js, ¬whole → 8 < bit + w → reads x (s.took r) at_ 1 = .got t b pa ids →
        reads (after ids.length) t (at_ + 1) 1 = .got u d q js →
        takes u ((leNat b + 256 * leNat d) / 2 ^ bit % 2 ^ w) (ids ++ js) pa [(q, at_ + 1)]) ∧
      (∀ t b pa ids u cause, ¬whole → 8 < bit + w → reads x (s.took r) at_ 1 = .got t b pa ids →
        reads (after ids.length) t (at_ + 1) 1 = .bad u cause →
        exec (.ldt f map oe) s = .next (u.trapping s p toks (Fields.both f) cause (some (at_ + 1)))) ∧
      (∀ t cause, whole → reads x (s.took r) at_ (w / 8) = .bad t cause →
        exec (.ldt f map oe) s = .next (t.trapping s p toks (Fields.both f) cause (some at_))) ∧
      (∀ t ids u out js, m.sfmt = 0 → ¬whole → 8 < bit + w →
        (s.took r).writeAt x m.cls m.scopeOf m.policy at_ 1 [packed] true (Fields.both f) [] = .ok t [] ids →
        t.writeAt { x with spot := { x.spot with
            pass := { x.spot.pass with nextId := x.spot.pass.nextId + ids.length }
            run := ((t.spot? s.cur).map (·.run)).getD x.spot.run } } m.cls m.scopeOf m.policy (at_ + 1) 1
          [(BitVec.ofNat 8 (bits * 2 ^ bit / 256), BitVec.ofNat 8 ((2 ^ w - 1) * 2 ^ bit / 256))] true (Fields.both f) (doneBoth f) =
          .ok u out js →
        exec (.stt f map oe rm) s = .next (u.sending s p toks (ids ++ js) out)) ∧
      (at_ < 2 ^ 57 → ∀ pa key t, translate (s.took r) s.cur.ctx at_ .store = (.ok pa key .device, t) → t.lockedFor pa true = false →
        (m.sfmt = 0 → m.stream = true → whole → at_ % n = 0 →
          exec (.stt f map oe rm) s = .next (((t.fillCopy s.cur.core (pa / 64) false m.policy).defer s.cur x.deps
            (fun _ => .sStore at_ pa key (fullBytes n bits) m.scopeOf)).sending s p toks [p.pass.nextId] (doneBoth f))) ∧
        (m.sfmt = 0 → m.stream = true → ¬whole → bit + w ≤ 8 →
          exec (.stt f map oe rm) s = .next (((t.fillCopy s.cur.core (pa / 64) false m.policy).defer s.cur x.deps
            (fun _ => .sStore at_ pa key [packed] m.scopeOf)).sending s p toks [p.pass.nextId] (doneBoth f))) ∧
        (∀ u, m.sfmt = 0 → m.stream = false → ¬whole → bit + w ≤ 8 → t.countLines x [lineKey s.cur.core .device pa] = some u →
          exec (.stt f map oe rm) s = .next (((u.fillCopy s.cur.core (pa / 64) false m.policy).access x .device pa 1 key at_
            (.store [packed] true)).sending s p toks [p.pass.nextId] (doneBoth f))) ∧
        (∀ u, m.sfmt ≠ 0 → t.countLines x (if m.stream then [] else [lineKey s.cur.core .device pa]) = some u →
          exec (.stt f map oe rm) s = .next ((u.updPass s.cur.core s.cur.ctx s.cur.pass (fun q => { q with
            nextId := q.nextId + 1
            scaled := q.scaled ++ [{ id := q.nextId, tidx := s.cur.tidx, idx := s.cur.idx, map := map.toNat, coord := c, rm := rm
                                     val := x.b none, before := x.deps }] })).sending s p toks [p.pass.nextId] (doneBoth f))))))

/-- R185, R207, R216, R217, R218, R236, R237: PREF takes a committed copy of its line where its policy allocates and there is none,
EVICT lets the copy go, ACQ and a FENCE of a scope above the core drop the copies that S loads filled, so that later loads read the
homes; a FENCE of scope CORE drops nothing; none of them traps, and each sends its tokens. The model's choices: ACQ drops copies, at
every scope, and both bring the other copies up to their homes (log 61), and ACQ waits while a store that stands before a REL or
FENCE whose scope holds its core is on its way (log 94). -/
def Obligations.CopiesAreTakenAndDropped : Prop :=
  ∀ (f : Fields) (m : MemOps) (scope : Scope) (s : State) (p : Spot) (toks : List Token) (r : Run),
    Ready s f p toks r →
    let x := siteOf s p toks
    let core := s.cur.core
    (∀ line t, (s.took r).lineOf x (effAddr x.a m.disp) = (some line, t) →
      (m.cp = .normal ∨ m.cp = .keep → t.copyOf core line = none →
        exec (.pref f m) s = .next ((t.allocateL1 core { line := line, bytes := t.bytesAt (line * 64) 64, byS := false
                                                         keep := decide (m.cp = .keep) }).sending s p toks [] (doneBoth f))) ∧
      (¬(m.cp = .normal ∨ m.cp = .keep) ∨ t.copyOf core line ≠ none →
        exec (.pref f m) s = .next (t.sending s p toks [] (doneBoth f))) ∧
      exec (.evict f m) s = .next ((t.updCore core (fun c => { c with l1 := c.l1.filter (fun y => y.line ≠ line) })).sending
        s p toks [] (doneBoth f))) ∧
    (∀ t, (s.took r).lineOf x (effAddr x.a m.disp) = (none, t) →
      exec (.pref f m) s = .next (t.sending s p toks [] (doneBoth f)) ∧
      exec (.evict f m) s = .next (t.sending s p toks [] (doneBoth f))) ∧
    (let u := s.took r
     let dropped := u.updCore core (fun c => { c with l1 := (c.l1.filter (fun y => !y.byS)).map (fun y =>
       { y with bytes := u.bytesAt (y.line * 64) 64 }) })
     let due := u.releaseDue core (p.pass.solo = .holding)
     (due = false → exec (.acq f scope) s = .next (dropped.sending s p toks [] (valueDone f x.a))) ∧
     (due = true → exec (.acq f scope) s = .next s) ∧
     (∀ l m d, l ∈ u.lanes → l.core ≠ core → p.pass.solo ≠ .holding → m ∈ l.unpublished → d ∈ l.unpublished →
       m.1.kind = .release .pkg ∨ m.1.kind = .fence .pkg → d.1.kind.isStore = true → m.2 = false → d.2 = false →
       d.1.seq ≤ m.1.seq → due = true) ∧
     (scope ≠ .core →
      exec (.fence f scope) s = .next ((dropped.defer s.cur x.deps (fun _ => .fence scope)).sending s p toks [p.pass.nextId]
        (doneBoth f)))) ∧
    exec (.fence f .core) s = .next (s.deferring p toks r (.fence .core) (doneBoth f))

/-- R219, R197, R201: WAITA of class P on committed scratchpad bytes and of class G on committed device memory, of which the core
holds no copy of the line. A condition that holds sends the value on its way as a load does; one that does not parks the thread at
its line and sends nulls. Of the siding of a context that has threads the value is free (R283). The model's choices: of several
unsatisfied ones of a block the one that fired first names the line (log 72), the core's own S stores that are on their way are seen
(log 61), and the wait for a bank's mode (log 33). -/
def Obligations.WaitaWaitsForItsCondition : Prop :=
  ∀ (f : Fields) (fmt : Fmt) (oe : Bool) (cond : WaitCond) (s : State) (p : Spot) (toks : List Token) (r : Run),
    Ready s f p toks r → fmt.atomicInt = true → ReadsCommitted p →
    let x := siteOf s p toks
    let ea := x.a.toNat
    let n := fmtBytes fmt
    let waits := fun (cls : MemClass) (sp : Space) (read : State) (pa : Nat) (bytes : List Byte) =>
      let v := fmtDecode fmt (leNat bytes)
      (waitHolds fmt cond v (x.b none) = true →
        exec (.waita f cls fmt oe cond) s = .next ((read.awaitReturn x v (x.deps ++ [p.pass.nextId]).dedup .load pa ea).sending
          s p toks [] [])) ∧
      (waitHolds fmt cond v (x.b none) = false →
        exec (.waita f cls fmt oe cond) s = .next ((read.updRun s.cur (fun r => { r with
          waita := match r.waita with
            | some w => some w
            | none => some { idx := s.cur.idx, key := lineKey s.cur.core sp pa } })).sending s p toks []
              (toAll (Fields.both f) none)))
    (x.bankWaits (ea / 32768) = true → exec (.waita f .p fmt oe cond) s = .next s) ∧
    (x.bankWaits (ea / 32768) = false → ea % n = 0 → ea < 2 ^ 20 → s.scratchBank s.cur.core s.cur.ctx (ea / 32768) = true →
      waits .p .scratch ((s.took r).access x .scratch ea n 0 ea .load) ea (s.scratchBytes s.cur.core ea n)) ∧
    (∀ pa key t, translate (s.took r) s.cur.ctx ea .load = (.ok pa key .device, t) → ea < 2 ^ 57 → ea % n = 0 →
      t.lockedFor pa false = false → t.readFault pa key .load = none → t.copyOf s.cur.core (pa / 64) = none →
      let found := ((t.refreshCopy s.cur.core (pa / 64) false .normal).access x .device pa n key ea .load).unspecified
        ((s.took r).inSiding s.cur.ctx ea) s.cur.ctx (Memory.readBytes (t.seenMem s.cur.core t.mem) pa n)
      waits .g .device found.2 pa found.1)

/-- R208, R173, R174, R188, R190, R197-R199, R214, R242, R394: an atomic or RED at an address of the scratchpad or of device memory,
counted against STORES. One whose T0 is valid, RED apart, is performed at the atomic unit: what it leaves there enters the chunk,
and the old value, which is free in the siding of a context that has threads (R283), is on its way. One whose T0 is not, and every
RED, is recorded for the commit and sends done tokens. On a host or peer page AADD without T0 and RED.ADD of an integer format are
deferred, and every other atomic makes the thread trap with reason permission. A misaligned address, one outside the context's
SCRATCH banks or at 2^57 and above, a locked line, a line too many and what the translation finds make it trap, TINFO holding the
address, and a page of the capacity tier that is to migrate parks it. The returning form is shown in a pass that reads committed
memory alone and for a device line of which the core holds no copy. The model's choices: the old value of a device atomic has the
core's own S stores that are on their way in it (log 61), the wait for a bank's mode (log 33), and the nulls that a parked access
sends (log 17). -/
def Obligations.AtomicsActOrAreRecorded : Prop :=
  (∀ (i : Instr) (f : Fields) (m : MemOps) (rm : RMode), atomicParts i = some (f, m, rm) →
    (hostAtomic i m.fmt (f.t0.isSome && !isRed i) = true ↔
      m.fmt.isInt = true ∧ ((i = .aadd f m ∧ f.t0 = none) ∨ ∃ nu, i = .red f m rm nu .add))) ∧
  ∀ (i : Instr) (f : Fields) (m : MemOps) (rm : RMode) (s : State) (p : Spot) (toks : List Token) (r : Run),
    atomicParts i = some (f, m, rm) → Ready s f p toks r →
    let x := siteOf s p toks
    let ea := effAddr x.a m.disp
    let n := fmtBytes m.fmt
    let outer := hostAtomic i m.fmt (f.t0.isSome && !isRed i)
    let traps := fun (t : State) (cause : Nat) => exec i s = .next (t.trapping s p toks (Fields.both f) cause (some ea))
    (m.cls = .p → x.bankWaits (ea / 32768) = true → exec i s = .next s) ∧
    (m.cls = .p → x.bankWaits (ea / 32768) = false →
      (ea % n ≠ 0 → traps (s.took r) 0x0A3) ∧
      (ea % n = 0 → ¬(ea < 2 ^ 20 ∧ s.scratchBank s.cur.core s.cur.ctx (ea / 32768) = true) → traps (s.took r) 0x0A4)) ∧
    (m.cls ≠ .p → 2 ^ 57 ≤ ea → traps (s.took r) (if ea % n = 0 then 0x0A4 else 0x0A3)) ∧
    (m.cls ≠ .p → ea < 2 ^ 57 → ∀ t,
      (∀ pa key ty, translate (s.took r) s.cur.ctx ea .rmw = (.ok pa key ty, t) →
        let again := translate t s.cur.ctx ea .rmw
        (ea % n ≠ 0 → outer = true → traps t 0x0A3) ∧
        (ea % n ≠ 0 → outer = false → (∃ pa' key', again.1 = .ok pa' key' .outside) → traps again.2 0x0A1) ∧
        (ea % n ≠ 0 → outer = false → (∃ pa' key', again.1 = .ok pa' key' .device) → traps again.2 0x0A3) ∧
        (ea % n = 0 → ty = .outside → outer = true → exec i s = .next ((t.defer s.cur x.deps
          (fun _ => .hostAdd ea pa n (x.b none))).sending s p toks [p.pass.nextId] (doneBoth f))) ∧
        (ea % n = 0 → ty = .outside → outer = false → traps t 0x0A1) ∧
        (ea % n = 0 → ty = .device → t.lockedFor pa true = true → traps t 0x0A5)) ∧
      (∀ cause, translate (s.took r) s.cur.ctx ea .rmw = (.bad cause, t) → cause ≠ 0x0A3 →
        (ea % n = 0 ∨ causeRank cause ≤ causeRank 0x0A3 → traps t cause) ∧
        (ea % n ≠ 0 → causeRank 0x0A3 < causeRank cause → outer = true → traps t 0x0A3)) ∧
      (∀ pa big, translate (s.took r) s.cur.ctx ea .rmw = (.mot pa big, t) → ea % n = 0 →
        let q := t.requestMigration s.cur.ctx ea pa big
        exec i s = .next ((q.2.updRun s.cur (fun r => { r with
          migPark := some (q.1, AccKind.rmw.code, ea) })).sending s p toks [] (toAll (Fields.both f) none)))) ∧
    (ea % n = 0 → (m.cls = .p → x.bankWaits (ea / 32768) = false) →
    ∀ (sp : Space) (addr key : Nat) (t : State),
      ((s.took r).address s.cur.core s.cur.ctx m.cls ea n .rmw =
        ((match sp with | .device => Addr.device addr key | .scratch => Addr.scratch addr), t)) →
      (sp = .scratch → key = 0) →
      let counted := t.countLines x [lineKey s.cur.core sp addr]
      ((f.t0 = none ∨ isRed i = true) →
        (∀ u, counted = some u →
          exec i s = .next ((u.access x sp addr n key ea (.update { kind := i, fmt := m.fmt, rm := rm, b := x.b none, c := x.c, va := ea })).sending
            s p toks [p.pass.nextId] (doneBoth f))) ∧
        (counted = none → traps t 0x057)) ∧
      (f.t0 ≠ none → isRed i = false → ReadsCommitted p → 0 < n →
        (∀ cause, sp = .device → t.readFault addr key .rmw = some cause → traps t cause) ∧
        ((sp = .device → t.readFault addr key .rmw = none) →
          (counted = none → traps t 0x057) ∧
          (∀ u, counted = some u → (sp = .device → t.copyOf s.cur.core (addr / 64) = none) →
            let sees := if sp = .device then { t with mem := t.seenMem s.cur.core t.mem } else t
            let v := if sp = .device then u.refreshCopy s.cur.core (addr / 64) false m.cp else u
            let found := v.unspecified (decide (sp = .device) && t.inSiding s.cur.ctx ea) s.cur.ctx
              ((List.range n).map (fun k => sees.committedByte s.cur.core sp (addr + k)))
            let old := leNat found.1
            let new := atomicNew (atomicFn i) m.fmt rm (s.storeRnd s.cur.ctx ea 0) old (x.b none) x.c
            exec i s = .next (((found.2.access x sp addr n key ea (.returning (fullBytes n new))).awaitReturn x
              (atomicOld (atomicFn i) m.fmt old) (x.deps ++ [p.pass.nextId]).dedup .rmw addr ea).sending s p toks [] [])))))

/-- R210, R211, R214: the bits each atomic leaves for the bits it finds. AFADD encodes the exact sum of finite values once, AFMIN
and AFMAX the lesser and the greater, or the other value of a NaN; RED leaves what the atomic of its operation leaves, MIN and MAX
of RAW64 being unsigned under NU. (That +0 plus +0 is +0 under RDN is the model's choice, log 79.) -/
def Obligations.AtomicNewValues : Prop :=
  ∀ (f : Fields) (m : MemOps) (rm : RMode) (u old : Nat) (b c : Word) (fmt : Fmt),
    let new := fun (i : Instr) => atomicNew (atomicFn i) fmt rm u old b c
    (fmt.atomicInt = true →
      let ty : IntTy := if fmt = .i32 then .i32 else if fmt = .n32 then .n32 else .i64
      let un : IntTy := if fmt = .i32 then .i32 else if fmt = .n32 then .n32 else .n64
      let w := fmtDecode fmt old
      new (.aadd f m) = low ty (w + b) ∧
      new (.amin f m) = low ty (if val ty w ≤ val ty b then w else b) ∧
      new (.amax f m) = low ty (if val ty b ≤ val ty w then w else b) ∧
      new (.aand f m) = low ty (w &&& b) ∧
      new (.aor f m) = low ty (w ||| b) ∧
      new (.axor f m) = low ty (w ^^^ b) ∧
      new (.axchg f m) = low ty b ∧
      new (.acas f m) = (if low ty w = low ty c then low ty b else old) ∧
      new (.aincw f m) = (if low ty b ≤ low ty w then 0 else low ty w + 1) ∧
      new (.adecw f m) = (if low ty w = 0 ∨ low ty b < low ty w then low ty b else low ty w - 1) ∧
      (∀ nu, new (.red f m rm nu .add) = new (.aadd f m) ∧ new (.red f m rm nu .and) = new (.aand f m) ∧
        new (.red f m rm nu .or) = new (.aor f m) ∧ new (.red f m rm nu .xor) = new (.axor f m)) ∧
      new (.red f m rm false .min) = new (.amin f m) ∧ new (.red f m rm false .max) = new (.amax f m) ∧
      new (.red f m rm true .min) = low un (if val un w ≤ val un b then w else b) ∧
      new (.red f m rm true .max) = low un (if val un b ≤ val un w then w else b)) ∧
    (fmt ∈ [.fp32, .fp16, .bf16, .raw64] →
      let x := fmtVal fmt old
      let y := wRead b
      let canon := fun (v : WVal) => wRead (wWrite v)
      let enc := fun (v : WVal) => match ieeeLayout fmt with
        | some l => ieeeEncode l rm u false v
        | none => (wRound rm u v).toNat
      let real := fun (n : Bool) (m : Nat) (e : Int) => (if n then -1 else 1 : ℚ) * m * 2 ^ e
      (∀ xn xm xe yn ym ye, x = .fin xn xm xe → y = .fin yn ym ye → ∃ n k e, new (.afadd f m rm) = enc (.fin n k e) ∧
        real n k e = real xn xm xe + real yn ym ye ∧
        (k = 0 → n = if xm = 0 ∧ ym = 0 ∧ xn = yn then xn else decide (rm = .rdn))) ∧
      (x = .nan ∨ y = .nan ∨ (∃ n, x = .inf n ∧ y = .inf (!n)) → new (.afadd f m rm) = enc .nan) ∧
      (∀ n, (x = .inf n ∧ y ≠ .nan ∧ y ≠ .inf (!n)) ∨ (y = .inf n ∧ x ≠ .nan ∧ x ≠ .inf (!n)) →
        new (.afadd f m rm) = enc (.inf n)) ∧
      (∀ (least : Bool) (i : Instr), (least, i) ∈ [(true, Instr.afmin f m rm), (false, .afmax f m rm)] →
        (x = .nan ∨ (x = .inf (!least) ∧ y ≠ .nan) → new i = enc (canon y)) ∧
        (y = .nan ∨ (y = .inf (!least) ∧ x ≠ .nan) → new i = enc (canon x)) ∧
        (x = .inf least ∨ y = .inf least → x ≠ .nan → y ≠ .nan → new i = enc (.inf least)) ∧
        (∀ xn xm xe yn ym ye, x = .fin xn xm xe → y = .fin yn ym ye → ∃ n k e, new i = enc (.fin n k e) ∧
          real n k e = (if least then min (real xn xm xe) (real yn ym ye) else max (real xn xm xe) (real yn ym ye)) ∧
          (xm = 0 → ym = 0 → n = if least then xn || yn else xn && yn))) ∧
      (∀ nu, new (.red f m rm nu .fadd) = new (.afadd f m rm) ∧ new (.red f m rm nu .fmin) = new (.afmin f m rm) ∧
        new (.red f m rm nu .fmax) = new (.afmax f m rm)))

/-! ### Streams and gathers -/

/-- R225, R226, R227, R255, R290, R340, R57, R233: PUSH appends its value at the tail of its FIFO and waits while it is full; POP
takes the oldest entry not yet popped and PEEK the entry at its position, and both wait while there is none. PUSH and POP wait until
every lower thread of the pass has had its turn, and a solo pass waits for an uncommitted producer. A PUSH over an edge enters only
while its consumer's core accepts tokens in its rate window, and one whose consumer lies outside the region is discarded at the
border and makes the thread trap. A port in no FIFO mode and a position at or above the capacity make the thread trap with the
out-of-bounds cause, a bank that a copy has bound with range-locked, and a second firing with CONFIG/MULTI_EXIT. A bank whose mode
is about to change keeps all three waiting: that is the model's choice (log 33). -/
def Obligations.FifoStreams : Prop :=
  ∀ (f : Fields) (port : PortRef) (oe : Bool) (s : State) (p : Spot) (toks : List Token) (r : Run),
    Ready s f p toks r →
    let x := siteOf s p toks
    let u := s.took r
    let ctx := s.cur.ctx
    let traps := fun (cause : Nat) (info : Option Nat) => s.trapped p toks r (Fields.both f) cause info
    let mayTake := fun (e : FifoEntry) => p.pass.solo ≠ .holding ∨ e.prod = none ∨ e.prod = some x.ref
    (¬FirstFiring s p → ∀ i, i ∈ [Instr.push f port oe, .pop f port oe, .peek f port oe] → exec i s = .next (traps 0x055 none)) ∧
    (FirstFiring s p → ∀ c, u.borderRefuses ctx port = some c → exec (.push f port oe) s = .next (traps 0x090 (some c))) ∧
    (FirstFiring s p → x.portWaits port = true → u.borderRefuses ctx port = none ∧
      ∀ i, i ∈ [Instr.push f port oe, .pop f port oe, .peek f port oe] → exec i s = .next s) ∧
    (FirstFiring s p → x.portWaits port = false →
      (u.portLoc s.cur.core ctx port .fifo = none →
        (u.borderRefuses ctx port = none → exec (.push f port oe) s = .next (traps 0x094 none)) ∧
        exec (.pop f port oe) s = .next (traps 0x084 none) ∧
        exec (.peek f port oe) s = .next (traps 0x084 none)) ∧
      (∀ loc es cap, u.portLoc s.cur.core ctx port .fifo = some loc → u.fifo? ctx loc = some (es, cap) →
        let pushed := fun (v : State) => exec (.push f port oe) s = .next ((v.setFifo ctx loc
          (es ++ [{ val := x.a, prod := some x.ref, tidx := s.cur.tidx, pop := none }])).sending s p toks [] (doneBoth f))
        (u.borderRefuses ctx port = none →
          (u.copyBound loc = true → exec (.push f port oe) s = .next (traps 0x095 none)) ∧
          (u.copyBound loc = false → p.pass.lowerDone p.run.pseq s.cur.idx = false ∨ cap ≤ es.length →
            exec (.push f port oe) s = .next s) ∧
          (u.copyBound loc = false → p.pass.lowerDone p.run.pseq s.cur.idx = true → es.length < cap →
            (loc.core = s.cur.core → pushed u) ∧
            (loc.core ≠ s.cur.core → ∀ l, u.lane? loc.core ctx = some l →
              (l.regs.rltokens = 0 → pushed u) ∧
              (l.regs.rltokens ≠ 0 → l.rateTokens < l.regs.rltokens →
                pushed (u.updLane loc.core ctx (fun l => { l with rateTokens := l.rateTokens + 1 }))) ∧
              (l.regs.rltokens ≠ 0 → l.regs.rltokens ≤ l.rateTokens → exec (.push f port oe) s = .next s)))) ∧
        (p.pass.lowerDone p.run.pseq s.cur.idx = false → exec (.pop f port oe) s = .next s) ∧
        (p.pass.lowerDone p.run.pseq s.cur.idx = true →
          (∀ e fs, popEntry x.ref s.cur.tidx es = some (e, fs) →
            (mayTake e → exec (.pop f port oe) s =
              .next (((u.setFifo ctx loc fs).recordProducer x e.prod e.tidx).sending s p toks [] (valueDone f e.val))) ∧
            (¬mayTake e → exec (.pop f port oe) s = .next s)) ∧
          (popEntry x.ref s.cur.tidx es = none → exec (.pop f port oe) s = .next s)) ∧
        (let at_ := (x.b none).toNat
         let seen := (es.filter (fun e => e.pop.isNone || e.pop = some x.ref))[at_]?
         (cap ≤ at_ → exec (.peek f port oe) s = .next (traps 0x084 none)) ∧
         (at_ < cap → seen = none → exec (.peek f port oe) s = .next s) ∧
         (∀ e, at_ < cap → seen = some e →
           (mayTake e → exec (.peek f port oe) s = .next ((u.recordProducer x e.prod e.tidx).sending s p toks [] (valueDone f e.val))) ∧
           (¬mayTake e → exec (.peek f port oe) s = .next s)))))

/-- R229, R230, R233, R287, R290, R340: WFEED appends a pixel to its WINDOW, on its own core or over an edge; WEMIT sends the pixel
of an element of a window. WFEED waits until every lower thread of the pass has had its turn, while its row is beyond the rows that
the bank holds, and, over an edge, while its consumer's core accepts no token in its rate window; WEMIT waits until its window is
complete, and a solo pass for an uncommitted producer. The last element of a window also records the window, which retires at the
commit: when every window of the lowest row of windows has retired its rows are freed, and no row before. A window element beyond
the geometry, or of a row already freed, and a port in no WINDOW mode make the thread trap with the out-of-bounds cause, a consumer
outside the region with reason isolation, and a second firing with CONFIG/MULTI_EXIT. A bank whose mode is about to change keeps
both waiting: that is the model's choice (log 33). -/
def Obligations.WindowStreams : Prop :=
  (∀ (k : Bank) (ns : List Nat),
    let g := Geometry.of k.geom
    let gone := fun (row : Nat) => ∀ i, i < g.ow → row * g.ow + i ∈ k.retired ++ ns
    let first := k.freeRow / g.str
    let next := (k.retire ns).freeRow / g.str
    first ≤ next ∧ (gone first → first < next) ∧ ∀ row, first ≤ row → row < next → gone row) ∧
  ∀ (f : Fields) (port : PortRef) (oe : Bool) (s : State) (p : Spot) (toks : List Token) (r : Run),
    Ready s f p toks r →
    let x := siteOf s p toks
    let u := s.took r
    let ctx := s.cur.ctx
    let traps := fun (cause : Nat) (info : Option Nat) => s.trapped p toks r (Fields.both f) cause info
    (¬FirstFiring s p → exec (.wfeed f port oe) s = .next (traps 0x055 none) ∧ exec (.wemit f port oe) s = .next (traps 0x055 none)) ∧
    (FirstFiring s p → ∀ c, u.borderRefuses ctx port = some c → exec (.wfeed f port oe) s = .next (traps 0x090 (some c))) ∧
    (FirstFiring s p → x.portWaits port = true → exec (.wfeed f port oe) s = .next s ∧ exec (.wemit f port oe) s = .next s) ∧
    (FirstFiring s p → x.portWaits port = false →
      (u.portLoc s.cur.core ctx port .window = none →
        (u.borderRefuses ctx port = none → exec (.wfeed f port oe) s = .next (traps 0x094 none)) ∧
        exec (.wemit f port oe) s = .next (traps 0x084 none)) ∧
      (∀ c b k, u.portLoc s.cur.core ctx port .window = some (.bank c b) → u.bank? c b = some k →
        let g := Geometry.of k.geom
        let fits : Prop := (k.dropped + k.pixels.length) / g.rw < k.freeRow + (g.kh - 1) * g.dil + 1 + g.str
        let fed := fun (v : State) => exec (.wfeed f port oe) s = .next ((v.updCore c (fun y => y.updBank b (fun k => { k with
          pixels := k.pixels ++ [{ val := x.a, prod := some x.ref, tidx := s.cur.tidx }] }))).sending s p toks [] (doneBoth f))
        (u.borderRefuses ctx port = none →
          (p.pass.lowerDone p.run.pseq s.cur.idx = false ∨ ¬fits → exec (.wfeed f port oe) s = .next s) ∧
          (p.pass.lowerDone p.run.pseq s.cur.idx = true → fits →
            (c = s.cur.core → fed u) ∧
            (c ≠ s.cur.core → ∀ l, u.lane? c ctx = some l →
              (l.regs.rltokens = 0 → fed u) ∧
              (l.regs.rltokens ≠ 0 → l.rateTokens < l.regs.rltokens →
                fed (u.updLane c ctx (fun l => { l with rateTokens := l.rateTokens + 1 }))) ∧
              (l.regs.rltokens ≠ 0 → l.regs.rltokens ≤ l.rateTokens → exec (.wfeed f port oe) s = .next s)))) ∧
        (let n := x.a.toNat
         let e := (x.b none).toNat
         let last := g.kh * g.kw - 1
         (last < e ∨ g.firstRow n < k.freeRow → exec (.wemit f port oe) s = .next (traps 0x084 none)) ∧
         (e ≤ last → k.freeRow ≤ g.firstRow n → k.dropped + k.pixels.length ≤ g.pixel n last → exec (.wemit f port oe) s = .next s) ∧
         (∀ px, e ≤ last → k.freeRow ≤ g.firstRow n → g.pixel n last < k.dropped + k.pixels.length →
           k.pixels[g.pixel n e - k.dropped]? = some px →
           let mayTake : Prop := p.pass.solo ≠ .holding ∨ px.prod = none ∨ px.prod = some x.ref
           let emits := fun (v : State) =>
             exec (.wemit f port oe) s = .next ((v.recordProducer x px.prod px.tidx).sending s p toks [] (valueDone f px.val))
           (¬mayTake → exec (.wemit f port oe) s = .next s) ∧
           (mayTake → e < last → emits u) ∧
           (mayTake → e = last → emits (u.updRun s.cur (fun r => { r with windows := r.windows ++ [(port, n)] })))))))

/-- R222, R231, R232: BANKMODE records its request for the end of the pass; GRECV of a ticket that no gather of the thread holds
traps with ENGINE/GATHER_TICKET, one that has returned sends its value, one that has not waits; GATH reads its element as an S load
does, keeps the value at the merger and sends its ticket, and waits while 32 gathers of its edge unit wait. The ticket is the
model's free value (log 35): some word of `Config.freeWord`. -/
def Obligations.GathersAndBankModes : Prop :=
  ∀ (f : Fields) (oe : Bool) (m : MemOps) (s : State) (p : Spot) (toks : List Token) (r : Run),
    Ready s f p toks r →
    let x := siteOf s p toks
    let find := p.run.gathers.find? (fun g => g.ticket = x.a.toNat && !g.received)
    let ea := effAddr x.a m.disp
    let n := fmtBytes m.fmt
    let u := s.took r
    exec (.bankmode f oe) s = .next (s.recorded p toks r (fun r => { r with banks := r.banks ++ [(s.cur.idx, x.a, x.b none)] })
      (doneBoth f)) ∧
    (find = none → exec (.grecv f) s = .next (s.trapped p toks r (Fields.both f) 0x105 none)) ∧
    (∀ g, find = some g → g.returned = false → exec (.grecv f) s = .next s) ∧
    (∀ g, find = some g → g.returned = true →
      exec (.grecv f) s = .next (((s.took r).updRun s.cur (fun r => { r with
        gathers := r.gathers.map (fun y => if y = g then { y with received := true } else y) })).sending s p toks g.deps
          (valueDone f g.val))) ∧
    (32 ≤ u.mergerLoad s.cur.core (s.cur.idx % 16) → exec (.gath f m) s = .next s) ∧
    (u.mergerLoad s.cur.core (s.cur.idx % 16) < 32 →
      ∀ t bytes pa ids, u.readAt x .s m.cp ea n n .load = .got t bytes pa ids →
        ∃ (ticket : Word) (ctr : Nat), ticket = Config.freeWord ctr ∧ t.freeCtr ≤ ctr ∧
          exec (.gath f m) s = .next (((({ t with freeCtr := ctr + 1 } : State).touchPhys pa 8).updRun s.cur (fun r => { r with
            gathers := r.gathers ++ [{ ticket := ticket.toNat, idx := s.cur.idx, gen := x.gen, val := fmtDecode m.fmt (leNat bytes)
                                       pa := pa, va := ea, returned := false, received := false, deps := x.deps }] })).sending
              s p toks [] (toAll (Fields.both f) (some ticket))))

/-! ### The matrix engine and copies -/

/-- R139, R141, R147, R150, R151: MBLD, MZERO and MSTORE of the owner of the engine queue their entry and send done tokens; a
context that shares its region traps with ENGINE/MATRIX_NOT_OWNED, a full flag with ENGINE/FLAG_OVERFLOW. That MATRIX_NOT_OWNED
comes before the checks of the parameters, and these before the flag, is the model's choice (log 34). -/
def Obligations.MatrixEntriesAreQueued : Prop :=
  ∀ (f : Fields) (cls : MemClass) (scope : Scope) (fmt : Fmt) (cp : CachePol) (oe : Bool) (flag : Option (BitVec 4))
    (tile : BitVec 2) (rm : RMode) (s : State) (p : Spot) (toks : List Token) (r : Run),
    Ready s f p toks r →
    let x := siteOf s p toks
    let a := x.a.toNat
    let b := (x.b none).toNat
    let queues := fun (k : MatrixKind) => s.recorded p toks r (fun r => { r with matrix := r.matrix ++
      [{ tidx := s.cur.tidx, idx := s.cur.idx, gen := x.gen, kind := k, flag := flag.map (·.toNat) }] }) (doneBoth f)
    let traps := fun (c : Nat) (info : Option Nat) => s.trapped p toks r (Fields.both f) c info
    (s.ownsEngine s.cur.ctx = false → ∀ i, i ∈ [Instr.mbld f cls scope fmt cp oe flag, .mzero f oe flag tile,
        .mstore f cls scope fmt cp oe flag tile rm, .mma f oe flag, .mread f oe tile] → exec i s = .next (traps 0x100 none)) ∧
    (s.ownsEngine s.cur.ctx = true →
      (x.flagRoom flag = true → exec (.mzero f oe flag tile) s = .next (queues (.mzero tile.toNat))) ∧
      (x.flagRoom flag = false → exec (.mzero f oe flag tile) s = .next (traps 0x101 none)) ∧
      (a % 16 ≠ 0 →
        exec (.mbld f cls scope fmt cp oe flag) s = .next (traps 0x083 (some a)) ∧
        exec (.mstore f cls scope fmt cp oe flag tile rm) s = .next (traps 0x093 (some a))) ∧
      (a % 16 = 0 → x.flagRoom flag = true → b % 2 ^ 32 % 16 = 0 → rowBytes fmt 128 ≤ b % 2 ^ 32 →
        (b / 2 ^ 32 < depthLimit fmt → b / 2 ^ 32 < 16 →
          exec (.mbld f cls scope fmt cp oe flag) s = .next (queues (.mbld cls fmt cp a (b % 2 ^ 32) (b / 2 ^ 32)))) ∧
        (b / 2 ^ 32 = 0 →
          exec (.mstore f cls scope fmt cp oe flag tile rm) s =
            .next (queues (.mstore cls scope fmt cp rm tile.toNat a (b % 2 ^ 32))))) ∧
      (a % 16 = 0 → b % 16 ≠ 0 →
        exec (.mbld f cls scope fmt cp oe flag) s = .next (traps 0x102 none) ∧
        exec (.mstore f cls scope fmt cp oe flag tile rm) s = .next (traps 0x102 none)))

/-- R148, R149, R152, R197, R249, R250, R141: MMA reads its 64-byte parameter block from the scratchpad and queues an entry with a
copy of it; COPY reads its block from the scratchpad or from device memory and defers its copy; a block that fails its checks, a
misaligned one and a full flag make the thread trap. MREAD sends an element of a tile that no queued entry writes, and waits while
one does. A bank whose mode is about to change keeps MMA and COPY waiting (the model's choice, log 33), the parameters are looked at
before the flag (the model's choice, log 34), and a class G block shows the core's own S stores that are on their way (the model's
choice, log 61; shown for a line of which the core holds no copy). -/
def Obligations.ParameterBlocksAreRead : Prop :=
  ∀ (f : Fields) (oe : Bool) (flag : Option (BitVec 4)) (tile : BitVec 2) (s : State) (p : Spot) (toks : List Token) (r : Run),
    Ready s f p toks r →
    let x := siteOf s p toks
    let ea := x.a.toNat
    let ws := leWords 8 (s.scratchBytes s.cur.core ea 64)
    let read := (s.took r).access x .scratch ea 64 0 ea .load
    let copies := fun (cls : MemClass) (t : State) (ws : List Word) (banksOk : Bool) =>
      (copyFieldsOk ws = true → banksOk = true → x.flagRoom flag = true →
        exec (.copy f cls oe flag) s = .next ((t.defer s.cur x.deps (fun _ => .copy ws ea (flag.map (·.toNat)))).sending
          s p toks [p.pass.nextId + 1] (doneBoth f))) ∧
      (copyFieldsOk ws = true → banksOk = true → x.flagRoom flag = false →
        exec (.copy f cls oe flag) s = .next (t.trapping s p toks (Fields.both f) 0x101 none)) ∧
      (copyFieldsOk ws = false ∨ banksOk = false →
        exec (.copy f cls oe flag) s = .next (t.trapping s p toks (Fields.both f) 0x106 (some ea)))
    (x.bankWaits (ea / 32768) = true →
      (s.ownsEngine s.cur.ctx = true → exec (.mma f oe flag) s = .next s) ∧ exec (.copy f .p oe flag) s = .next s) ∧
    (ea % 64 ≠ 0 → x.bankWaits (ea / 32768) = false →
      (s.ownsEngine s.cur.ctx = true → exec (.mma f oe flag) s = .next (s.trapped p toks r (Fields.both f) 0x083 (some ea))) ∧
      exec (.copy f .p oe flag) s = .next (s.trapped p toks r (Fields.both f) 0x083 (some ea))) ∧
    (ea % 64 = 0 → ea < 2 ^ 20 → s.scratchBank s.cur.core s.cur.ctx (ea / 32768) = true → ReadsCommitted p →
      (∀ b, x.bankWaits b = false) →
      (s.ownsEngine s.cur.ctx = true → mmaFieldsOk ws = true → s.mmaSpanFault s.cur.core s.cur.ctx (MmaParam.ofWords ws) = none →
        (x.flagRoom flag = true → exec (.mma f oe flag) s = .next ((read.updRun s.cur (fun r => { r with matrix := r.matrix ++
          [{ tidx := s.cur.tidx, idx := s.cur.idx, gen := x.gen, kind := .mma ws, flag := flag.map (·.toNat) }] })).sending
            s p toks [] (doneBoth f))) ∧
        (x.flagRoom flag = false → exec (.mma f oe flag) s = .next (read.trapping s p toks (Fields.both f) 0x101 none))) ∧
      (s.ownsEngine s.cur.ctx = true →
        mmaFieldsOk ws = false ∨ s.mmaSpanFault s.cur.core s.cur.ctx (MmaParam.ofWords ws) ≠ none →
        exec (.mma f oe flag) s = .next (read.trapping s p toks (Fields.both f) 0x102 none)) ∧
      copies .p read ws (s.copyBanksOk s.cur.core s.cur.ctx (CopyParam.ofWords ws))) ∧
    (∀ pa key t, translate (s.took r) s.cur.ctx ea .load = (.ok pa key .device, t) → ea < 2 ^ 57 → ea % 64 = 0 →
      t.lockedFor pa false = false → t.readFault pa key .load = none → t.copyOf s.cur.core (pa / 64) = none → ReadsCommitted p →
      (∀ b, x.bankWaits b = false) →
      let found := ((t.refreshCopy s.cur.core (pa / 64) false .normal).access x .device pa 64 key ea .load).unspecified
        ((s.took r).inSiding s.cur.ctx ea) s.cur.ctx (Memory.readBytes (t.seenMem s.cur.core t.mem) pa 64)
      let block := leWords 8 found.1
      copies .g found.2 block
        (t.copyBanksOk s.cur.core s.cur.ctx (CopyParam.ofWords block))) ∧
    (s.ownsEngine s.cur.ctx = true →
      (2 ^ 13 ≤ ea → exec (.mread f oe tile) s = .next (s.trapped p toks r (Fields.both f) 0x102 none)) ∧
      (∀ c, ea < 2 ^ 13 → s.core? s.cur.core = some c →
        ((∀ e ∈ c.queue, e.record.kind.writes tile.toNat = false) →
          exec (.mread f oe tile) s = .next (s.sent p toks r (valueDone f (tileElem (c.tiles.getD tile.toNat []) ea)))) ∧
        ((∃ e ∈ c.queue, e.record.kind.writes tile.toNat = true) → exec (.mread f oe tile) s = .next s)))

/-! ### The marshal, the end of a pass, and its commit -/

/-- R266: the block the marshal chooses has threads that wait for it; while some block is overdue, no overdue block is older than
the chosen one, and of equally old ones it has the lowest rank; else, of the eligible blocks, it has the lowest rank; else, with no
pass streaming, of the nonempty blocks. It makes no choice only where no rule yields a block. -/
def Obligations.BlockChoiceFollowsAgeAndRank : Prop :=
  ∀ (l : Lane) (k : Packet),
    let waits := fun (b : Nat) => b ∈ l.nonempty k
    let overdue := fun (b : Nat) => waits b ∧ 2 * l.regs.age ≤ l.ageOf b
    let eligible := fun (b : Nat) => waits b ∧ (l.regs.fill ≤ l.waitingCount k b ∨ l.regs.age ≤ l.ageOf b)
    let drain := ∀ p ∈ l.passes, p.state ≠ .streaming
    (∀ blk, l.chosen? k = some blk →
      waits blk ∧ 0 < l.waitingCount k blk ∧
      (∀ b, overdue b → overdue blk ∧ (l.ageOf b < l.ageOf blk ∨ (l.ageOf b = l.ageOf blk ∧ (k.info blk).rank ≤ (k.info b).rank))) ∧
      ((∀ b, ¬overdue b) → ∀ b, eligible b → eligible blk ∧ (k.info blk).rank ≤ (k.info b).rank) ∧
      ((∀ b, ¬overdue b) → (∀ b, ¬eligible b) → drain ∧ ∀ b, waits b → (k.info blk).rank ≤ (k.info b).rank)) ∧
    (l.chosen? k = none ↔ (∀ b, ¬overdue b) ∧ (∀ b, ¬eligible b) ∧ (¬drain ∨ ∀ b, ¬waits b))

/-- R265-R268, R59, R270, R285, R286, R290, R316, R37, R40: where each event of the marshal takes effect, and the state it leaves:
the choice of a block, its configuration, the admission of a thread, a replay, the solo ticket, the end of a yield, of a rate window
and of an age, and a system-register write. The model's choices: the event of an age's threshold lets the missing cycles pass (log
43), the solo ticket goes past a pass whose core still has an earlier one to commit (log 93), and a pass that is squashed and not
yet replayed does not hold a register write back (log 72). -/
def Obligations.MarshalEventsTakeEffect : Prop :=
  ∀ (core ctx tidx blk : Nat) (s : State) (l : Lane) (k : Packet),
    s.lane? core ctx = some l → (s.ctx? ctx).bind (·.kernelPacket?) = some k →
    (l.mayChoose k = true → l.chosen? k = some blk →
      exec (.marshalBlockChoice core ctx) s =
        .next ((s.updLane core ctx (fun l => l.choose k (s.dealCores ctx k) blk)).active core ctx)) ∧
    (∀ p t b, l.loading? = some p → l.frozen = false → s.loadBlock ctx k l.stage p.blk = .ok t b →
      exec (.configurationLoadDone core ctx) s = .next ((t.updLane core ctx (fun l =>
        { l.updPass p.id (fun p => { p with state := .streaming }) with
          slots := listSet l.slots p.slot (fun _ => { block := some b }) })).active core ctx)) ∧
    (∀ p b t, l.admits? = some p → l.block? p = some b → p.admission[p.admitted]? = some tidx → l.thread? tidx = some t →
      t.spill = none →
      exec (.threadAdmission core ctx) s =
        .next (s.admitThread core ctx p b tidx t.entryTrap)) ∧
    (∀ p b t, l.admits? = some p → l.block? p = some b → p.admission[p.admitted]? = some tidx → l.thread? tidx = none →
      s.createThread core ctx tidx k.slots [some k.arg] (.inPass p.id) = .ok t →
      exec (.threadAdmission core ctx) s = .next (t.admitThread core ctx p b tidx none)) ∧
    (∀ p b, l.replays? = some p → l.block? p = some b →
      exec (.passReplay core ctx) s =
        .next (s.updPass core ctx p.id (fun q => { q with state := if b.blk = p.blk then .streaming else .loading }))) ∧
    (∀ p, l.replays? = some p → l.block? p = none →
      exec (.passReplay core ctx) s = .next (s.updPass core ctx p.id (fun p => { p with state := .loading }))) ∧
    (∀ q, s.soloHolder = none → s.soloSeekersNow.find? s.firstOnCore = some q →
      (∃ m, s.lane? q.core q.ctx = some m ∧ (m.pass? q.pass).isSome = true ∧ m.uncommitted q.pass = []) ∧
      exec .soloTicketGrant s = .next (({ s with soloHolder := some q, soloQueue := s.soloSeekersNow.erase q } : State).updPass
        q.core q.ctx q.pass (fun p => { p with solo := .holding }))) ∧
    (∀ t left blks b old, l.thread? tidx = some t → t.yieldLeft = some (left, blks) → t.place = .waiting b old →
      (left = 0 ∨ blks = [] ∨ ∀ x ∈ l.nonempty k, x = b) →
      exec (.yieldRelease core ctx tidx) s =
        .next (s.updLane core ctx (fun l => l.updThread tidx (fun t => { t with yieldLeft := none })))) ∧
    (l.frozen = false → l.rateCycles < l.regs.rlwindow →
      exec (.rateWindowExpiry core ctx) s = .next (s.elapseCore core (l.regs.rlwindow - l.rateCycles)) ∧
      ∃ u, (s.elapseCore core (l.regs.rlwindow - l.rateCycles)).lane? core ctx = some u ∧ u.rateTokens = 0 ∧ u.rateCycles = 0) ∧
    (l.frozen = false → ∀ n, l.rateCycles + n < l.regs.rlwindow → ∃ u, (s.elapseCore core n).lane? core ctx = some u ∧
      u.rateTokens = l.rateTokens ∧ u.rateCycles = l.rateCycles + n) ∧
    (l.frozen = false → l.waitingCount k blk ≠ 0 → l.ageOf blk < l.regs.age →
      exec (.ageThresholdReached core ctx blk) s = .next (s.elapseCore core (l.regs.age - l.ageOf blk))) ∧
    (l.frozen = false → l.waitingCount k blk ≠ 0 → l.regs.age ≤ l.ageOf blk → l.ageOf blk < 2 * l.regs.age →
      exec (.ageThresholdReached core ctx blk) s = .next (s.elapseCore core (2 * l.regs.age - l.ageOf blk))) ∧
    (l.deferred = [] → (∀ p ∈ l.passes, p.state ≠ .streaming) → ∃ t, exec (.syswrTakeEffect core ctx) s = .next t ∧
      t.lane? core ctx = some l.takeWrites) ∧
    (∀ d num v, s.headDeferred core ctx = some d → d.kind = .syswr num v →
      exec (.syswrTakeEffect core ctx) s = .next (((s.updLane core ctx (·.popDeferred)).sendRegWrite ctx num v.toNat).updLane
        core ctx (fun l => if l.passes.any (fun p => p.state = .streaming && p.admitting) then l else l.takeWrites)))

/-- R365: an object load binds the object it has read to its handle, or leaves the handle unbound and reports the cause; an
unload unbinds it. A handle that a running LAUNCH or GRAPH names keeps the command waiting. -/
def Obligations.ObjectsAreBoundToHandles : Prop :=
  ∀ (ctx handle : Nat) (s : State) (c : Context),
    s.ctx? ctx = some c → handle < 256 →
    let others := c.objects.filter (fun o => o.handle ≠ handle)
    (c.objFree true handle = true → c.names handle = false →
      (∀ t o, s.loadObject ctx handle c.page = .ok t o →
        exec (.objectLoad ctx handle) s = .next (t.updCtx ctx (·.objDone 0 (others ++ [o])))) ∧
      (∀ t cause, s.loadObject ctx handle c.page = .bad t cause →
        exec (.objectLoad ctx handle) s = .next (t.updCtx ctx (·.objDone cause others)))) ∧
    (c.objFree true handle = true → c.names handle = true →
      exec (.objectLoad ctx handle) s = .next (s.updCtx ctx (·.objWait true handle))) ∧
    (c.objFree false handle = true → c.names handle = false → ∃ t, exec (.objectUnload ctx handle) s = .next t ∧
      t.ctx? ctx = some (c.objDone 0 others)) ∧
    (c.objFree false handle = true → c.names handle = true →
      exec (.objectUnload ctx handle) s = .next (s.updCtx ctx (·.objWait false handle)))

/-- R308, R314, R318, R325: what the commit of its chunk does to a thread: its software bits as its SETFs and CLRFs leave them, its
count lowered by a SHRINK, the word of each WRITE in its slot, the link of a CALL in its slot, and every other slot that it keeps as
it was; its next block is the one its exit names. A GROW whose need is met gives the thread the count it asks for, with its live
values and more; one that asks for no more than the thread has changes nothing; one whose need cannot be met reports
PROGRESS/LVS_EXHAUSTED. -/
def Obligations.CommitUpdatesTheThread : Prop :=
  ∀ (k : Packet) (b : Block) (r : Run) (t : Thread),
    (t.commit b r).swFlags = applyFlagOps r.flagOps t.swFlags ∧
    (t.commit b r).tidx = t.tidx ∧ (t.commit b r).handler = t.handler ∧
    (r.lvOp = none → (t.commit b r).lvsn = t.lvsn) ∧
    (∀ n, r.lvOp = some (.shrink n) → (t.commit b r).lvsn = min n t.lvsn ∧ (t.commit b r).lives.length ≤ min n t.lvsn) ∧
    (∀ n, r.lvOp = some (.grow n) → (t.commit b r).lvsn = t.lvsn) ∧
    (∀ n v, (n, v) ∈ r.slotWrites b → ((r.slotWrites b).map (·.1)).Nodup → n < t.lives.length → n < (t.commit b r).lvsn →
      (t.commit b r).lives[n]? = some v) ∧
    (∀ m, m ∉ (r.slotWrites b).map (·.1) → m < (t.commit b r).lvsn → (t.commit b r).lives[m]? = t.lives[m]?) ∧
    (∀ (core ctx n : Nat) (s : State) (l : Lane), r.lvOp = some (.grow n) → r.excluded = false → s.lane? core ctx = some l →
      l.thread? r.tidx = some t →
      (n ≤ t.lvsn → State.growAll core ctx [r] s = (.ok s, [])) ∧
      (∀ u l' t', t.lvsn < n → s.roomFor core ctx r.tidx (n - t.lvsn) false = .ok u → u.lane? core ctx = some l' →
        l'.thread? r.tidx = some t' → ∃ v l'' t'', State.growAll core ctx [r] s = (.ok v, []) ∧ v.lane? core ctx = some l'' ∧
          l''.thread? r.tidx = some t'' ∧ t''.lvsn = n ∧ t''.lives.take t'.lives.length = t'.lives ∧
          t''.lives.length = t'.lives.length + (n - t.lvsn)) ∧
      (∀ u a, t.lvsn < n → s.roomFor core ctx r.tidx (n - t.lvsn) false = .full u a →
        State.growAll core ctx [r] s = (.ok u, [(r.tidx, 0x0C1, a)]))) ∧
    (∀ idx xn, r.exit = some (idx, .exit xn) → r.slotWrites b = r.writes ∧ nextBlock k b t r = b.exitBlock xn) ∧
    (∀ idx xn lk xr, r.exit = some (idx, .call xn lk xr) →
      r.slotWrites b = r.writes ++ [(lk, BitVec.ofNat 64 (b.exitBlock xr))] ∧ nextBlock k b t r = b.exitBlock xn) ∧
    (∀ idx j w, r.exit = some (idx, .ret j w) → nextBlock k b t r = w.toNat)

/-- R269, R162-R164, R166, R220, R286: where the end of a pass, a grant, a commit and the arrival of a broadcast take effect, and
the state they leave. An arbiter serves its queue from the head: a chunk gets its grant, or gives its grants up where it meets the
solo pass, and an engine commit gets its grant when the arbiter has none out. A pass in which a thread that leaves its block
performed a returning atomic before one that stays, or fed a stream entry to one that stays, is run again without it, a core that
touches a tracked line later gets no entry for it, and a broadcast that meets a chunk falsely does so by an opaque hash: the model's
choices (logs 92, 72 and 95). -/
def Obligations.PassesEndAndCommit : Prop :=
  ∀ (core ctx die : Nat) (fm : Bool) (s : State) (l : Lane) (k : Packet),
    s.lane? core ctx = some l → (s.ctx? ctx).bind (·.kernelPacket?) = some k →
    (∀ p b, l.over? = some p → l.pass? p.id = some p → l.block? p = some b → p.scaled = [] →
      let late := p.runs.map (fun r => r.settle b ((l.thread? r.tidx).elim 0 (·.lvsn)))
      let t := s.updPass core ctx p.id (fun p => { p with runs := late })
      let judged := t.judgeAll l k (t.viewFor l { p with runs := late }) (byThread late)
      let u := (t.updPass core ctx p.id (fun p => { p with runs := judged })).updPass core ctx p.id (·.submit)
      let out := (judged.filter (·.leaves)).map (·.tidx)
      let q : PassRef := { core := core, ctx := ctx, pass := p.id }
      (Pass.tainted { p with runs := judged } = false → exec (.passEnd core ctx) s =
        .next (((u.withdraw q out).linearizeIdle core ctx).active core ctx)) ∧
      (Pass.tainted { p with runs := judged } = true → exec (.passEnd core ctx) s =
        .next ((State.runAgain (t.updPass core ctx p.id (fun p => { p with runs := judged })) q { p with runs := judged }).active
          core ctx))) ∧
    (die < 16 →
      let t := s.queueRequests die
      (∀ q rest p, (t.arbiters[die]?).map (·.queue) = some (.chunk q :: rest) → t.passAt? q = some p →
        (t.meetsSolo q p = false → t.unheard die q = false → t.lastGrantWaits q p = false →
          exec (.arbiterGrant die) s = .next (t.issueGrant die q)) ∧
        (t.meetsSolo q p = false → t.unheard die q = true ∨ t.lastGrantWaits q p = true → exec (.arbiterGrant die) s = .next t) ∧
        (t.meetsSolo q p = true → (p.got = [] ∨ p.need.length ≤ 1) → exec (.arbiterGrant die) s = .next (t.giveUp q))) ∧
      (∀ o rest, t.arbiters[die]? = some { queue := .engine o :: rest, granted := [] } →
        exec (.arbiterGrant die) s = .next (t.updArbiter die (fun _ => { queue := rest, granted := [.engine o] })))) ∧
    (∀ p rest b t g, l.passes = p :: rest → p.state = .granted → l.block? p = some b → (p.grows = true → s.refetchDue core = false) →
      State.growAll core ctx (byThread p.runs) s = (.ok t, g) →
      exec (.chunkCommit core ctx) s = .next (t.commitPass core ctx k b p g)) ∧
    (∀ b, s.nextBroadcast core = some b →
      let lines := (b.wlines ++ b.clines).map (·.1)
      let hit := (s.exposed core).filter (fun x => !(s.metLines x.1 x.2 b).isEmpty)
      let met := (hit.flatMap (fun x => (s.metLines x.1 x.2 b).map (·.1))).dedup
      let fallen := ((s.exposed core).filter (fun x => hit.contains x || (fm && x.2.signatureMeets core lines))).map (fun x => x.1.ref x.2)
      exec (.wcBroadcastArrival core fm) s =
        .next (((((met.foldl (State.trackLine core b.source.isSome) s).updCore core (fun c =>
          { c with l1 := c.l1.filter (fun x => !lines.contains x.line) })).squash true fallen).wakeWaiters core fm lines).received
            core b))

/-! ### Deferred effects, copies and the matrix engine -/

/-- R183, R184, R190, R244, R251, R256, R262, R263, R281, R423, R57, R231: the first deferred effect of a core takes effect at its
event: an S store at its home, or dropped where the link to it is lost, a store or an addition at a port, a copy at a free dray, a
credit at its ring, a new thread in free slots, the mark of a configuration invalidation, which also puts what stands in its range
into the packet's later block loads; a read on its way returns its value. The model's choices: that an S store is dropped where the
link to it is lost (log 44), and that the mark puts what then stands, a patch committed between the CFGINV's chunk and its mark
among it, into every later block load, and into what a RET is judged by (log 77). -/
def Obligations.DeferredEffectsTakeEffect : Prop :=
  ∀ (core ctx tidx idx : Nat) (s : State) (l : Lane),
    s.lane? core ctx = some l →
    (∀ d, s.headDeferred core ctx = some d →
    let popped := s.updLane core ctx (fun l => { l with deferred := l.deferred.drop 1 })
    (∀ va pa key bytes scope, d.kind = .sStore va pa key bytes scope → s.copyLocked pa = false → s.linkUp pa = true →
      exec (.sStorePublish core ctx) s =
        .next (((popped.commitBytes (popped.maskedBytes pa key bytes)).updateCopy core (pa / 64)).touchPhys pa bytes.length)) ∧
    (∀ va pa bytes, d.kind = .hostStore va pa bytes → s.linkUp pa = true →
      exec (.hostPeerStoreSend core ctx) s =
        .next { (popped.noteSent ctx pa bytes.length true).touchPhys pa bytes.length with mem := writeMasked s.mem pa bytes }) ∧
    (∀ va pa n b, d.kind = .hostAdd va pa n b → s.linkUp pa = true →
      exec (.hostPeerStoreSend core ctx) s = .next { (popped.noteSent ctx pa n true).touchPhys pa n with
        mem := Memory.writeBytes s.mem pa (leBytes n (leNat (s.bytesAt pa n) + b.toNat)) }) ∧
    (∀ va pa key bytes scope, d.kind = .sStore va pa key bytes scope → s.copyLocked pa = false → s.linkUp pa = false →
      exec (.sStorePublish core ctx) s = .next popped) ∧
    (∀ words info flag die dray, d.kind = .copy words info flag → s.drayFree die dray = true →
      exec (.copyHandover core ctx die dray) s = .next (popped.handOver core ctx d.tidx words info flag none die dray)) ∧
    (∀ rid n r, d.kind = .credit rid n → l.rings[rid]? = some r → r.state = .active → ∃ t u,
      exec (.creditApply core ctx) s = .next t ∧ t.lane? core ctx = some u ∧ u.deferred = l.deferred.drop 1 ∧
      u.rings[rid]? = some { r with free := min r.slots (r.free + n) } ∧ ∀ j, j ≠ rid → u.rings[j]? = l.rings[j]?) ∧
    (∀ rid n r, d.kind = .credit rid n → l.rings[rid]? = some r → r.state ≠ .active → ∃ t u,
      exec (.creditApply core ctx) s = .next t ∧ t.lane? core ctx = some u ∧ u.deferred = l.deferred.drop 1 ∧
      ∀ j : Nat, u.rings[j]? = l.rings[j]?) ∧
    (∀ blk l0 l1 l2 n t, d.kind = .spawn blk l0 l1 l2 n → s.needsBefore core = false → s.slotsUsed core + s.declared ctx ≤ 65536 →
      (s.residents core).length < 4096 → s.createThread core ctx n (s.declared ctx) [l0, l1, l2] (.waiting blk false) = .ok t →
      exec (.spawnPlace core ctx) s =
        .next ((t.updLane core ctx (fun l => { l with deferred := l.deferred.drop 1 })).active core ctx)) ∧
    (∀ all va n flag k t, d.kind = .cfginv all va n flag → (s.ctx? ctx).bind (·.kernelPacket?) = some k →
      s.refreshImage ctx k all va n = (.ok (), t) →
      exec (.cfginvMark core ctx) s = .next (((t.updLane core ctx (fun l => { l with deferred := l.deferred.drop 1 })).updLanes ctx (fun l =>
        { l with slots := l.slots.map (CfgSlot.mark (k.marksAll all va n) k.mapBase va n) })).updLane core ctx (·.clearFlag d.tidx flag)))) ∧
    (∀ p sp o i f, l.passes = [p] → s.spot? { core := core, ctx := ctx, pass := p.id, tidx := tidx, idx := idx } = some sp →
      sp.run.outstanding.find? (fun o => o.idx = idx) = some o → sp.block.instr? idx = some i → i.fields? = some f →
      exec (.loadDataReturn core ctx tidx idx) s =
        .next (s.updRun { core := core, ctx := ctx, pass := p.id, tidx := tidx, idx := idx } (fun r =>
          sendTokens sp.block.occ idx o.gen o.deps (valueDone f o.val)
            { r with outstanding := r.outstanding.erase o }))) ∧
    (∀ n, exec (.gatherReturn core ctx tidx n) s = .next (s.updLane core ctx (fun l => { l with
      passes := l.passes.map (fun p => if p.state = .streaming && !l.frozen then p.updRun tidx (fun r => { r with
        gathers := r.gathers.mapIdx (fun i g => if i = n then { g with returned := true } else g) }) else p) })))

/-- R144, R187, R189, R220, R246, R251-R253, R291: a copy that has leave, has registered its locks, moved its bytes, written its
word and its record, step by step; each event takes effect for a copy of its stage and leaves the next stage. Locks and commits take
their grants as a chunk does; a lock in the way keeps a copy waiting with no grant, and a source and a destination that share a byte
fail it, with the first destination address that shares one. A ring tile wakes the threads that wait at its lines; a fault inside a
tile is met when the ring has credit, and the bytes before it are published in the slot and counted. -/
def Obligations.CopyEventsTakeEffect : Prop :=
  ∀ (id : Nat) (s : State) (c : Copy),
    s.copy? id = some c →
    let p := c.param
    (c.stage = .waitingLeave → ∃ t, exec (.leaveGrant (1024 + id)) s = .next t ∧
      t.copy? id = some { c with leave := true, stage := .waitingLock }) ∧
    (c.stage = .waitingLeave → 4096 ≤ c.leaveWait → ∃ t, exec (.leaveWaitExpiry (1024 + id)) s = .next t ∧
      t.copy? id = some { c with leave := true, stage := .waitingLock }) ∧
    (∀ src t dst u, c.stage = .waitingLock → c.cause = 0 → (c.packet.isSome = true ∨ s.earlierCopy c = false) →
      s.physRanges c.ctx .load (rowPieces p.src p.srcstride p.nrows p.rowbytes) = (.ok src, t) → p.mode = 0 →
      t.physRanges c.ctx .store (rowPieces p.dst p.dststride p.nrows p.rowbytes) = (.ok dst, u) →
      let locked := (deviceOnly src).map (·.2)
      let ls : List RangeLock := [{ owner := .copy id, ctx := c.ctx, source := true, ranges := locked },
        { owner := .copy id, ctx := c.ctx, source := false, ranges := (deviceOnly dst).map (·.2) }]
      let free := (∀ x ∈ ls, ∀ y ∈ u.locks, x.conflicts y = false) ∧ u.lockRoom ls = true ∧ u.lockWaitsSolo ls = false
      ((∀ d ∈ dst, rangesMeet [d.2.2] (src.map (·.2.2)) = false) →
        (∀ v, free → u.takeGrants (.copy id) (ls.flatMap (·.dies)) = (true, v) → exec (.rangeLockRegister id) s =
          .next (((v.dropRequests (.engine (.copy id))).registerLocks ls).updCopy id (fun c =>
            { c with stage := .moving, snap := cellsIn locked v.mem }))) ∧
        (¬free → exec (.rangeLockRegister id) s = .next (u.dropRequests (.engine (.copy id))))) ∧
      (∀ pre d post k, dst = pre ++ d :: post → (∀ e ∈ pre, rangesMeet [e.2.2] (src.map (·.2.2)) = false) → k < d.2.2.2 →
        rangesMeet [(d.2.2.1 + k, 1)] (src.map (·.2.2)) = true →
        (∀ j, j < k → rangesMeet [(d.2.2.1 + j, 1)] (src.map (·.2.2)) = false) →
        exec (.rangeLockRegister id) s = .next (u.updCopy id (fun c => { c with cause := 0x106, faultAddr := d.2.1 + k })))) ∧
    (∀ m t v, c.stage = .moving → p.mode = 0 → State.moveRows (s.copySight c) s c.ctx p (List.range p.nrows) = (m, t) →
      m.waits = false → m.fault = none → t.mayCommit (.copy id) m.pieces = (true, v) →
      exec (.drayEngineCommit id) s = .next (((v.commitAs (.copy id) m.pieces).releaseLocks (.copy id)).updCopy id (fun c =>
        { c with published := m.bytes, stage := c.afterData }))) ∧
    (∀ ring bytes t u v, s.ringOf c = some ring → c.stage = .moving → p.mode = 1 → c.cause = 0 → 0 < ring.free →
      s.tileBytes c c.tile = (.ok bytes, t) →
      let lines := scratchLines c.core (p.dst + c.tile % p.nslot * p.slotBytes) bytes.length
      t.soloReads (lines.map (·.1)) = false →
      t.writeWord (.copy id) c.ctx p.cwaddr (p.cwval + BitVec.ofNat 64 (c.tile + 1)) = (.ok u, v) → c.tile + 1 ≠ p.tiles →
      exec (.ringTileWrite id) s = .next (((u.slotWrite c (v.scratchVictims c.core lines) bytes).updCopy id (fun c =>
        { c with tile := c.tile + 1, published := c.published + bytes.length })).updLane c.core c.ctx (fun l =>
          l.updRing p.rid (fun r => { r with free := r.free - 1, tiles := r.tiles + 1 })))) ∧
    (∀ es cap t bytes u, c.stage = .moving → p.mode = 2 → c.cause = 0 → s.fifo? c.ctx (.bank c.core p.dst) = some (es, cap) →
      es.length < cap → s.acceptToken c.core c.ctx = some t →
      t.entryBytes c = (.ok bytes, u) →
      c.published + 8 ≠ p.total →
      exec (.drayFifoEntry id) s = .next ((u.setFifo c.ctx (.bank c.core p.dst)
        (es ++ [{ val := BitVec.ofNat 64 (leNat bytes), prod := none, tidx := c.tidx, pop := none }])).updCopy id
          (fun c => { c with published := c.published + 8 }))) ∧
    (∀ u t, c.stage = .word → c.cause = 0 → s.writeWord (.copy id) c.ctx p.cwaddr p.cwval = (.ok u, t) →
      exec (.completionWordWrite id) s = .next (u.updCopy id (fun c => { c with stage := .record }))) ∧
    (∀ stop v, s.copyFault c = some stop → c.stage ≠ .record → stop.tile = none → s.mayCommit (.copy id) stop.pieces = (true, v) →
      p.cwaddr = 0 → p.mode ≠ 1 →
      exec (.copyFail id) s = .next ((((v.commitAs (.copy id) stop.pieces).releaseLocks (.copy id)).unbindCopy c).updCopy id (fun x =>
        { x with stage := .record, cause := stop.cause, faultAddr := stop.addr, published := stop.bytes }))) ∧
    (∀ ring cause a part t v, c.cause = 0 → c.stage = .moving → p.mode = 1 → s.mustStop c = false → s.ringOf c = some ring →
      s.tileRead c c.tile = (.bad cause a, part, t) →
      (ring.free = 0 → exec (.copyFail id) s = .next s) ∧
      (0 < ring.free → cause ≠ 0x107 → p.cwaddr = 0 → s.mayCommit (.copy id) [] = (true, v) →
        let lines := scratchLines c.core (p.dst + c.tile % p.nslot * p.slotBytes) part.length
        s.soloReads (lines.map (·.1)) = false →
        exec (.copyFail id) s = .next ((((((((v.slotWrite c (v.scratchVictims c.core lines) part).updLane c.core c.ctx (fun l =>
          l.updRing p.rid (fun r => { r with free := r.free - 1 }))).commitAs (.copy id) []).releaseLocks (.copy id)).unbindCopy c).updLane
            c.core c.ctx (fun l => l.updRing p.rid (fun r => { r with state := .failed })))).updCopy id (fun x =>
              { x with stage := .record, cause := cause, faultAddr := a, published := c.published + part.length })))) ∧
    (∀ t, c.stage = .record → c.cause = 0 → c.packet = none →
      s.appendRecord (.copy id) c.ctx { kind := 0, cause := 0, bytes := c.published, core := c.core, tidx := c.tidx, addr := 0 } = (true, t) →
      exec (.completionRecordAppend id) s = .next (({ t with copies := t.copies.filter (fun d => d.id ≠ id) } : State).updLane c.core
        c.ctx (·.clearFlag c.tidx c.flag)))

/-- R142, R147, R148, R150, R151, R141, R144: the head entry of a core's matrix queue runs and then leaves the queue: an MBLD fills
the B operand, or leaves its depth 0; an MMA that has leave accumulates into its tile, or fails with MATRIX_SHAPE, also where a bank
of it has left SCRATCH mode, which is the model's choice (log 34); an MZERO clears a tile; an MSTORE writes the rows of one, to the
scratchpad at once, to device, host and peer memory by S stores of the core in the order of the rows, and one that a row fails has
written, freely, some of the pieces before it, and leaves in every other element that it can reach an unspecified value of R34
(R142; those that it cannot reach keep their bytes, which is the model's choice, log 8); the flag of a finished entry counts down,
and its failure is recorded. -/
def Obligations.MatrixEntriesRun : Prop :=
  ∀ (core : Nat) (s : State) (c : CoreState),
    s.core? core = some c →
    (∀ e, c.head? = some e →
      (∀ cls fmt cp addr stride kb rows t, e.record.kind = .mbld cls fmt cp addr stride kb →
        s.readRows core e.ctx cls cp addr stride (rowBytes fmt 128) (List.range (32 * (kb + 1))) = (.ok rows, t) →
        exec (.mbldEntryRun core) s =
          .next (t.updCore core (fun c => ({ c with bfmt := fmt.code, bdepth := kb + 1, brows := rows }).ran none))) ∧
      (∀ cls fmt cp addr stride kb cause a t, e.record.kind = .mbld cls fmt cp addr stride kb →
        s.readRows core e.ctx cls cp addr stride (rowBytes fmt 128) (List.range (32 * (kb + 1))) = (.bad cause a, t) →
        exec (.mbldEntryRun core) s =
          .next (t.updCore core (fun c => ({ c with bfmt := fmt.code, bdepth := 0, brows := [] }).ran (some (cause, a))))) ∧
      (∀ ws, e.record.kind = .mma ws → e.leave = true →
        let p := MmaParam.ofWords ws
        ((c.bdepth < p.kb + 1 ∨ (c.bfmt = 9 ∧ p.bsfmt ≠ 0)) →
          exec (.mmaEntryStart core) s = .next (s.updCore core (·.ran (some (0x103, 0))))) ∧
        (p.kb + 1 ≤ c.bdepth → (c.bfmt ≠ 9 ∨ p.bsfmt = 0) → s.mmaSpanFault core e.ctx p = none →
          exec (.mmaEntryStart core) s = .next (s.updCore core (fun x => (x.setTile p.acc
            (s.mmaTile core p ((Fmt.ofCode? c.bfmt).getD .raw64) c.brows (c.tiles.getD p.acc []))).ran none)))) ∧
      (∀ tile, e.record.kind = .mzero tile →
        exec (.mzeroEntryRun core) s = .next (s.updCore core (fun c => (c.setTile tile []).ran none))) ∧
      (∀ cls scope fmt cp rm tile addr stride, e.record.kind = .mstore cls scope fmt cp rm tile addr stride →
        let rows := s.tileRows e.ctx fmt rm addr stride (c.tiles.getD tile [])
        (cls = .p → (∀ r ∈ rows, s.scratchSpan core e.ctx r.1 r.2.length = true) →
          exec (.mstoreEntryRun core) s =
            .next ((rows.foldl (fun s r => s.scratchWrite core r.1 r.2) s).updCore core (·.ran none))) ∧
        (∀ ps qs u, cls ≠ .p → s.storeRows e.ctx rows = (.ok ps, qs, u) →
          let sent := u.streamPieces core e.ctx e.record.tidx scope cp ps
          exec (.mstoreEntryRun core) s = .next (sent.updCore core (·.ran none)) ∧
          sent.mem = u.mem ∧
          ∀ l, u.lane? core e.ctx = some l → ∃ seq, sent.lane? core e.ctx = some { l with deferred := l.deferred ++ ps.map (fun y =>
            let bytes := y.bytes.map (fun b => (b, (0xFF : Byte)))
            { id := 0, tidx := e.record.tidx, idx := 0, before := [], seq := seq
              kind := if y.device then .sStore y.va y.pa y.key bytes scope else .hostStore y.va y.pa bytes }) }) ∧
        (∀ good r rest, cls = .p → rows = good ++ r :: rest → (∀ x ∈ good, s.scratchSpan core e.ctx x.1 x.2.length = true) →
          s.scratchSpan core e.ctx r.1 r.2.length = false → ∃ (k : Nat) (v : State) (lost : List (Nat × Word)), k ≤ good.length ∧
            v = { s with freeCtr := v.freeCtr } ∧ (∀ x ∈ lost, x.2 = 0 ∨ x.2 ∈ s.livePool e.ctx) ∧
            exec (.mstoreEntryRun core) s = .next ((v.scratchAbandoned core e.ctx (good.take k)
              (s.tileRows e.ctx fmt rm addr stride lost)).updCore core (·.ran (some (0x094, r.1))))) ∧
        (∀ cause a ps u, cls ≠ .p → s.storeRows e.ctx rows = (.bad cause a, ps, u) →
          ∃ (k : Nat) (v : State) (lost : List (Nat × Word)), k ≤ ps.length ∧
            v = { u with freeCtr := v.freeCtr } ∧ (∀ x ∈ lost, x.2 = 0 ∨ x.2 ∈ s.livePool e.ctx) ∧
            exec (.mstoreEntryRun core) s = .next ((v.streamAbandoned core e scope cp (ps.take k)
              (s.tileRows e.ctx fmt rm addr stride lost)).updCore core (·.ran (some (cause, a))))))) ∧
    (∀ e rest ws, c.queue = e :: rest → e.record.kind = .mma ws → core < 1024 →
      (∃ t, exec (.leaveGrant core) s = .next t ∧ t.core? core = some { c with queue := { e with leave := true } :: rest }) ∧
      (4096 ≤ e.leaveWait → ∃ t, exec (.leaveWaitExpiry core) s = .next t ∧
        t.core? core = some { c with queue := { e with leave := true } :: rest })) ∧
    (∀ e rest, c.queue = e :: rest →
      let left := (s.updCore core (fun c => { c with queue := rest })).updLane core e.ctx (·.clearFlag e.record.tidx e.record.flag)
      (e.stage = .ran none → exec (.matrixEntryFinish core) s = .next left) ∧
      (∀ f l t, e.stage = .ran (some f) → (left.blemish e.ctx f.1).lane? core e.ctx = some l → l.thread? e.record.tidx = some t →
        exec (.matrixEntryFinish core) s = .next ((left.blemish e.ctx f.1).updLane core e.ctx (fun l =>
          l.updThread e.record.tidx (fun t => { t with matrixFail := match t.matrixFail with
            | some q => some q
            | none => some f })))) ∧
      (∀ f, e.stage = .ran (some f) →
        ((left.blemish e.ctx f.1).lane? core e.ctx).bind (fun l => l.thread? e.record.tidx) = none →
        exec (.matrixEntryFinish core) s = .next ((left.blemish e.ctx f.1).failPacket e.ctx f.1)))

/-! ### Translations, links, and accesses from outside -/

/-- R242, R243, R258, R346-R349, R187: a shootdown drops every cached translation of its range and no other, squashes the chunks
that used one, and is reported when their accesses have drained; it starts with the grants of every arbiter and not while a store of
its pages is due. A migration is taken with a free frame and its page locked, and waits for a lock in its way; it moves the page in
one commit, or fails with a record and the trap of its parked threads. The model's choices: requests get their frames in their order
of arrival and a commit whose leaf is gone resumes the threads (log 20), the record of a failure carries a cause of kind load (log
47), and the grants are asked for by the event itself (log 9). -/
def Obligations.ShootdownsAndMigrations : Prop :=
  ∀ (core ctx id reason : Nat) (s : State),
    (let u := s.takeTlbinv core ctx
     ∀ d, u.shootdowns.find? (fun d => d.ctx = ctx && !d.broadcast) = some d →
      let free := u.soloUses d = false ∧ u.storesDue d = false ∧ u.soloReads (d.mark.toList.map (· / 64)) = false
      (∀ v, free → u.takeGrants (.shootdown d.id) (List.range 16) = (true, v) →
        ∃ t, exec (.shootdownStart core ctx) s = .next t ∧ t = (v.applyMark d).broadcastShootdown d ∧
          (∀ e, e ∈ t.tlb ↔ e ∈ s.tlb ∧ d.meetsEntry e = false)) ∧
      (¬free → exec (.shootdownStart core ctx) s = .next (u.dropRequests (.engine (.shootdown d.id))))) ∧
    (∀ d, s.shootdowns.find? (fun d => d.id = id) = some d → d.broadcast = true → s.drainsFor d = false →
      let t := ({ s with shootdowns := s.shootdowns.filter (fun x => x.id ≠ id) } : State).dropRequests (.engine (.shootdown id))
      (∀ c i flag, d.starter = .thread c i flag →
        exec (.shootdownComplete id) s = .next (t.updLane c d.ctx (·.clearFlag i flag))) ∧
      (d.starter = .register → exec (.shootdownComplete id) s = .next (t.updCtx d.ctx (·.updPage (fun p =>
        { p with invBusy := false, invDone := (p.invDone + 1) % 2 ^ 32 })))) ∧
      ((∀ c i flag, d.starter ≠ .thread c i flag) → d.starter ≠ .register → exec (.shootdownComplete id) s = .next t)) ∧
    (let t := s.assignFrames
     ∀ m, t.migrations.find? (fun m => m.id = id && !m.locked && m.dest.isSome) = some m →
      let lock : RangeLock := { owner := .migration id, ctx := m.ctx, source := true, ranges := [(m.oldPa, m.size)] }
      let free := (∀ k ∈ t.locks, lock.conflicts k = false) ∧ t.lockRoom [lock] = true ∧ t.lockWaitsSolo [lock] = false
      let may := m.lost = false ∧ t.linkUp m.oldPa = true ∧ t.underWay m = true
      (∀ v, may → free → t.takeGrants (.migration id) lock.dies = (true, v) → exec (.migrationStart id) s =
        .next (((v.dropRequests (.engine (.migration id))).registerLocks [lock]).updMigration id (fun m =>
          { m with locked := true }))) ∧
      (may → ¬free → exec (.migrationStart id) s = .next (t.dropRequests (.engine (.migration id)))) ∧
      (¬may → exec (.migrationStart id) s = .next (t.dropRequests (.engine (.migration id))))) ∧
    (∀ m c dest, s.migrations.find? (fun m => m.id = id && m.locked) = some m → s.ctx? m.ctx = some c → m.dest = some dest →
      (s.migrationLeaf c m = none → exec (.migrationCommit id) s = .next ((s.resumeParked id).endMigration id)) ∧
      (∀ leaf, s.migrationLeaf c m = some leaf →
        let key := c.keyIndex (field leaf.entry 61 2)
        let old := wholeLines ((List.range (m.size / 64)).map (fun i => m.oldPa + 64 * i))
        let d : Shootdown := { id := s.nextShootdown, ctx := m.ctx, all := false, page := m.va / 65536
                               pages := m.size / 65536, starter := .migration id, broadcast := false }
        s.pageFault m key = none → s.storesTo m.oldPa m.size = false → s.soloUses d = false →
        s.soloReads (old.map (·.1) ++ [leaf.at_ / 64] ++ (List.range (m.size / 64)).map (fun i => dest / 64 + i)) = false →
        ∀ v, s.takeGrants (.migration id) (List.range 16) = (true, v) →
        let w := v.passGrants (.migration id) (.shootdown d.id)
        let moved := (w.engineCommit (devBytes dest key (w.bytesAt m.oldPa m.size))).moveGuards m.oldPa m.size dest
        let t := (moved.rewriteEntry c leaf.at_ (movedEntry leaf.entry dest)).broadcast none old [] m.homes
        exec (.migrationCommit id) s = .next (((({ t with
          nextShootdown := t.nextShootdown + 1, shootdowns := t.shootdowns ++ [d] } : State).broadcastShootdown d).resumeParked
            id).endMigration id))) ∧
    (∀ m t, s.migrations.find? (fun m => m.id = id) = some m → s.migrationFails m reason = true →
      s.appendRecord (.migration id) m.ctx { kind := 1, cause := 0x080 + reason, bytes := 0, core := 0, tidx := 0, addr := m.va } = (true, t) →
      exec (.migrationFail id reason) s = .next ((t.endMigration id).trapParked m reason))

/-- R244, R357, R391, R402, R403: a lost CXL link fails its outstanding accesses with link-lost and marks its leaves unreachable; at
most LINKRETRY retrainings follow a loss; a host or coupler port that goes down fails its accesses; an error or a late completion of
a read fails it; a CXL link is not brought up while the marks of its loss are still to be set; a session link keeps a line whose tag
failed and starts its counters again at a re-key. The model's choices: which line a failed tag concerns is free, and a line not sent
again since the last re-key is kept no longer (log 21); the number of a coupler link is its port plus 4 (log 46); a link's
retrainings are counted against LINKRETRY of its own die (log 76); a late mark keeps the link down (log 80). -/
def Obligations.LinksFailAndRecover : Prop :=
  ∀ (port die core ctx tidx idx : Nat) (ok : Bool) (s : State),
    (∀ p, s.cxl[port]? = some p → p.up = true →
      let t := ({ s with
        cxl := loseLink port s.cxl
        migrations := s.migrations.map (fun (m : Migration) => if physKind m.oldPa = .capacity port then { m with lost := true } else m)
          } : State).failOutstanding (fun pa => physKind pa = .capacity port) 7
      exec (.cxlLinkDown port) s = .next (t.contexts.foldl (State.markUnreachable port) t) ∧
      exec (.cxlCompletionTimeout port) s = .next (t.contexts.foldl (State.markUnreachable port) t)) ∧
    (∀ p, port < 4 → s.cxl[port]? = some p → p.up = false →
      let limit := (s.taratAt (port / 2)).linkRetry
      let up : State := { s with cxl := trainLink limit port s.cxl }
      (ok = false ∨ limit ≤ p.retrains → exec (.linkRetrain port ok) s = .next { s with cxl := listSet s.cxl port (fun _ =>
        if p.retrains < limit then { p with up := ok, retrains := p.retrains + 1 } else p) }) ∧
      (ok = true → p.retrains < limit → (∀ d ∈ s.shootdowns, d.mark = none ∨ d.broadcast = true) →
        (∀ c ∈ s.contexts, ∀ x ∈ p.missed, s.lateMarks up x.1 x.2 c = []) → exec (.linkRetrain port ok) s = .next up ∧
        up.cxl[port]? = some { p with up := true, retrains := p.retrains + 1, missed := [] }) ∧
      (ok = true → p.retrains < limit → (∃ d ∈ s.shootdowns, d.mark ≠ none ∧ d.broadcast = false) →
        exec (.linkRetrain port ok) s = .next s)) ∧
    (∀ p, s.couplers[port]? = some p → p.up = false → ∃ t, exec (.linkRetrain (port + 4) ok) s = .next t ∧
      t.couplers[port]? =
        some (if p.retrains < (s.taratAt (port / 8)).linkRetry then { up := ok, retrains := p.retrains + 1 } else p)) ∧
    (exec (.hostPortLinkDown port) s = .next (({ s with hosts := listSet s.hosts port (fun p => { p with up := false }) } :
      State).failOutstanding (fun pa => physKind pa = .host port) 7)) ∧
    (∀ p, s.hosts[port]? = some p → ∃ t, exec (.hostPortLinkUp port) s = .next t ∧ t.hosts[port]? = some { p with up := true } ∧
      t = { s with hosts := t.hosts }) ∧
    (∀ p, s.couplers[port]? = some p → p.up = true → ∃ cs, cs[port]? = some { up := false, retrains := 0 } ∧
      exec (.couplerLinkDown port) s = .next (({ s with couplers := cs } : State).failOutstanding
        (fun pa => physKind pa = .peer port) 7)) ∧
    (exec (.hostCompletionError core ctx tidx idx) s = .next (s.failOneRead core ctx tidx idx atOuter
      (fun k => 0x080 + k * 16 + 8))) ∧
    (exec (.hostCompletionTimeout core ctx tidx idx) s = .next (s.failOneRead core ctx tidx idx
      (fun pa => atOuter pa && s.linkUp pa) (fun k => 0x080 + k * 16 + 9))) ∧
    (∀ x, s.sessions[die]? = some x → x.counterWrite < 2 ^ 40 → ∃ (t : State) (y : SessionLink), exec (.linkTagFail die true core ctx tidx idx) s = .next t ∧
      t = { s with sessions := t.sessions, freeCtr := t.freeCtr } ∧ t.sessions[die]? = some y ∧
      y.counterWrite = x.counterWrite + 1 ∧ y.keyGen = x.keyGen ∧
      (y.kept = x.kept ++ [(1, true)] ∨ ∃ (i n : Nat), x.kept[i]? = some (n, false) ∧ y.kept[i]? = some (n + 1, true) ∧
        y.kept.length = x.kept.length ∧ ∀ j, j ≠ i → y.kept[j]? = x.kept[j]?)) ∧
    (exec (.linkTagFail die false core ctx tidx idx) s =
      .next (({ s with sessions := listSet s.sessions die (SessionLink.send false 1) } : State).failOneRead core ctx tidx idx
        (fun pa => decide (pa < 2 ^ 40) && decide (homeDie pa = die)) (fun k => 0x1C0 + k * 16 + 2))) ∧
    (∀ x, s.sessions[die]? = some x → ∃ t y, exec (.sessionRekey die) s = .next t ∧ t = { s with sessions := t.sessions } ∧
      t.sessions[die]? = some y ∧ y.keyGen = x.keyGen + 1 ∧ y.counterRead = 0 ∧ y.counterWrite = 0 ∧ ∀ k ∈ y.kept, k.2 = false)

/-- R11, R191, R247, R328, R329, R348, R349, R356, R363, R364: a posted write becomes one commit; an aperture access of a live
context of the function is translated, another is refused and counted; a read behind an access that its port holds waits for its
turn; a peer reads committed bytes; CROVF and HOSTFAULT read and clear; the invalidation commands request a shootdown; a register
write reaches its page. IDENT reads as R329 gives it, CTXCMD and FWCMD read as zero, and so does a page of a context that another
function made. The model's choices: a read behind a held access is itself held (log 82), HOSTFAULT and CROVF count modulo 2^32 (log
67), the SYSREG page has its new value at once, beside the write that goes to the cores (log 88), and a register access is 8 bytes,
aligned (log 56). -/
def Obligations.OutsideAccessesAndRegisters : Prop :=
  ∀ (port fn ctx : Nat) (s : State),
    (∀ w pa key t u, s.posted.find? (fun w => w.port = port) = some w → w.read = none → s.postedPlace w = (.ok (pa, key, .device), t) →
      t.lockedFor pa true = false → t.mayCommitLines (.port w.port) [pa / 64] = (true, u) →
      exec (.hostWriteArrival port) s = .next (((({ u with posted := u.posted.erase w } : State).engineCommit
        (w.bytes.mapIdx (fun i b =>
          ({ pa := pa + i, val := mergeByte (u.byteAt (pa + i)) b.1 b.2, key := key } : DevByte)))).touchPhys pa
            w.bytes.length).dropRequests (.engine (.port w.port)))) ∧
    (∀ ap off len data, s.hostReaches port fn = true → ap < 4 → 0 < len → off + len ≤ 2 ^ 36 →
      (∀ c va bs t, s.portWaits (16 + port) = false → s.throughAperture port fn ap off = some (c, va) →
        s.readVa c va len .load true = (.ok bs, t) →
        exec (.apertureRead port fn ap off len) s = .next { t with resp := .data bs }) ∧
      (s.portWaits (16 + port) = true → ∃ w : PostedWrite, w.port = 16 + port ∧ w.read = some (fn, some ap, off, len) ∧
        exec (.apertureRead port fn ap off len) s = .next { s with resp := .held, posted := s.posted ++ [w] }) ∧
      (∀ c va ps qs t, s.throughAperture port fn ap off = some (c, va) →
        s.writeVa c va (leBytes len data) .store false = (.ok ps, qs, t) →
        exec (.apertureWrite port fn ap off len data) s = .next (t.receive port c ps)) ∧
      (∀ c va m qs t, s.throughAperture port fn ap off = some (c, va) →
        s.writeVa c va (leBytes len data) .store false = (.park m, qs, t) →
        exec (.apertureWrite port fn ap off len data) s = .next ((s.onlyMigrations t).postLater port c va (leBytes len data))) ∧
      (∀ f, s.throughAperture port fn ap off = none → s.func? port fn = some f →
        ∃ t, (s.portWaits (16 + port) = false → exec (.apertureRead port fn ap off len) s = .next { t with resp := .abort }) ∧
          exec (.apertureWrite port fn ap off len data) s = .next t ∧
          t.func? port fn = some { f with hostfault := (f.hostfault + 1) % 2 ^ 32 })) ∧
    (∀ q addr len p, s.couplers[q]? = some p → p.up = true → 0 < len → s.portWaits q = false →
      (∀ x ∈ lineSpans addr len, s.lockedFor x.1 false = false ∧ s.devicePresent x.1 = true ∧ s.blockReadable x.1 = true) →
      exec (.peerRead q addr len) s = .next { s.touchPhys addr len with resp := .data (s.bytesAt addr len) }) ∧
    (∀ c, s.ctx? ctx = some c → ∃ t, exec (.crovfRead ctx) s = .next t ∧ t.resp = .data (leBytes 8 c.page.crOvf) ∧
      t.ctx? ctx = some { c with page := { c.page with crOvf := 0 } }) ∧
    (∀ f, s.func? port fn = some f → ∃ t, exec (.hostfaultRead port fn) s = .next t ∧ t.resp = .data (leBytes 8 f.hostfault) ∧
      t.func? port fn = some { f with hostfault := 0 }) ∧
    (∀ c pages, s.ctx? ctx = some c → c.page.invBusy = false →
      let busy := s.updCtx ctx (·.updPage (fun p => { p with invBusy := true }))
      (1 ≤ pages → pages ≤ 2 ^ 41 → exec (.invalidateRange ctx pages) s =
        .next (busy.requestShootdown ctx false (c.page.invVa / 65536) pages .register)) ∧
      exec (.invalidateAll ctx) s = .next (busy.requestShootdown ctx true (c.page.invVa / 65536) 0 .register)) ∧
    (∀ num v, v < 2 ^ 64 → exec (.sysregWrite ctx num v) s = .next ((s.updCtx ctx (fun c => { c with
      regs := c.regs.write num v })).updLanes ctx (fun l => { l with regWrites := l.regWrites ++ [(num, v)] }))) ∧
    (∀ c f off v, s.ctx? ctx = some c → s.func? port fn = some f → c.func = 32 * port + fn → ctx < 64 → off < 0x8000 → off % 8 = 0 →
      v < 2 ^ 64 →
      exec (.registerWrite port fn (0x10000 + 0x8000 * ctx + off) v) s = .next (s.updCtx ctx (Context.regWrite off v))) ∧
    (∀ f off v, s.func? port fn = some f → off < 0x10000 → off % 8 = 0 → off ≠ 0x190 → v < 2 ^ 64 →
      ∃ t, exec (.registerWrite port fn off v) s = .next t ∧ t.func? port fn = some (f.regWrite (decide (fn = 0)) off v)) ∧
    (∀ f ms, s.func? port fn = some f → s.moves = .registerRead port fn 0 :: ms → s.identity = State.reset.identity → ∃ t,
      step s = .next t ∧ t.resp = .data (leBytes 8 0x0000168000010000)) ∧
    (∀ f off ms, s.func? port fn = some f → s.moves = .registerRead port fn off :: ms → off ∈ [0x180, 0x190] → ∃ t,
      step s = .next t ∧ t.resp = .data (leBytes 8 0)) ∧
    (∀ f c off ms, s.func? port fn = some f → s.ctx? ctx = some c → c.func ≠ 32 * port + fn → off < 0x8000 → off % 8 = 0 → ctx < 64 →
      s.moves = .registerRead port fn (0x10000 + 0x8000 * ctx + off) :: ms → ∃ t, step s = .next t ∧ t.resp = .data (leBytes 8 0))

/-- R366-R369, R381, R382, R383, R384, R386, R388: a doorbell between QRPTR and QRPTR plus the size sets QWPTR, another sets DBERR;
clearing and enabling a queue; a packet is taken at QRPTR at its queue's turn; a MEASURE packet is opened, or fails; a retired
packet is closed with the hashes of its result ranges, or fails with the cause that ends the hashing; its record, which says whether
it failed and why, extends the chain; its waybill, when it wants one, is written after that and before it completes, and a waybill
that cannot be written leaves the chain extended and fails the packet. The record of a packet that did not fail itself but had a
failed copy or matrix entry carries that entry's cause (Packet.outcome): the model's choice (log 23). -/
def Obligations.QueuesAndMeasurement : Prop :=
  ∀ (ctx q : Nat) (s : State) (c : Context),
    s.ctx? ctx = some c →
    (∀ k v, c.queues[q]? = some k → ∃ t, exec (.doorbellWrite ctx q v) s = .next t ∧
      (t.ctx? ctx).bind (fun c => c.queues[q]?) =
        some (if k.qrptr ≤ v ∧ v ≤ k.qrptr + 2 ^ k.log2sz then { k with qwptr := v } else { k with dberr := true })) ∧
    (∀ k, c.queues[q]? = some k → ∃ t, exec (.queueClear ctx q) s = .next t ∧
      (t.ctx? ctx).bind (fun c => c.queues[q]?) = some { k with err := false, dberr := false, cause := 0, index := 0 }) ∧
    (∀ k en n, c.queues[q]? = some k → 4 ≤ n → n ≤ 20 → ∃ t, exec (.queueEnable ctx q en n) s = .next t ∧
      (t.ctx? ctx).bind (fun c => c.queues[q]?) = some { k with en := en, log2sz := if k.en then k.log2sz else n }) ∧
    (c.visit ≠ q → exec (.packetTake ctx q) s = .next s) ∧
    (∀ k bytes t, c.visit = q → c.queues[q]? = some k → k.en = true → k.err = false → k.qrptr < k.qwptr → c.queueFree q = true → c.dying = none →
      (s.updCtx ctx (fun c => { c with visit := (q + 1) % 16 })).readVa ctx (k.packetVa k.qrptr) 64 .load false = (.ok bytes, t) →
      let p := Packet.fresh q k.qrptr c.regs.hseed (leWords 8 bytes)
      1 ≤ p.type → p.type ≤ 7 → (p.type ≤ 2 → ∀ x ∈ c.packets, x.type ≠ 1 ∧ x.type ≠ 2) →
      exec (.packetTake ctx q) s = .next (t.updCtx ctx (fun c => { c.updQueue q (fun k => { k with qrptr := k.qrptr + 1 }) with
        packets := c.packets ++ [p] }))) ∧
    (∀ p, s.takenPacket ctx q 7 = some p →
      (∀ t, p.formatOk = true → s.openMeasured ctx p { image := none, arg := none } = .ok t →
        exec (.measure ctx q) s = .next (t.setStage ctx p .retired)) ∧
      (∀ t cause, p.formatOk = true → s.openMeasured ctx p { image := none, arg := none } = .bad t cause →
        exec (.measure ctx q) s = .next (t.failBegin ctx p cause)) ∧
      (p.formatOk = false → exec (.measure ctx q) s = .next (s.failBegin ctx p 0x180))) ∧
    (∀ i p m, c.packet? q i = some p → p.measured = some m → p.stage = .retired →
      (p.outcome ≠ none → exec (.packetClose ctx q i) s = .next (s.setStage ctx p .closed)) ∧
      (∀ hs t, p.outcome = none → s.hashResults ctx p m.ranges = (.ok hs, t) →
        exec (.packetClose ctx q i) s =
          .next ((t.updMeasured ctx p (fun m => { m with resHash := hs })).setStage ctx p .closed)) ∧
      (∀ cause a t, p.outcome = none → s.hashResults ctx p m.ranges = (.bad cause a, t) →
        exec (.packetClose ctx q i) s = .next ((t.setStage ctx p .closed).updCtx ctx (fun x =>
          x.updPacket q i (fun p => { p with cause := some cause }))))) ∧
    (∀ (p : Packet) (m : Measured), let r := measurementRecord p m
      r.length = 384 ∧ r[18]? = some (if p.outcome = none then 0 else 1) ∧ (r.drop 20).take 2 = leBytes 2 (p.outcome.getD 0) ∧
      (p.outcome ≠ none → (r.drop 128).take 192 = List.replicate 192 0)) ∧
    (∀ p m, c.chainNext = some (p, m) → m.n = c.page.mseq + 1 →
      let record := measurementRecord p m
      let chain := sha384 (c.page.mchain ++ record)
      let linked := s.updCtx ctx (·.updPage (fun g => { g with mchain := chain, mseq := m.n }))
      let t := match p.cause with
        | some e => if p.reported then linked else (linked.queueFail ctx p.q e p.index).updCtx ctx (fun c =>
            c.updPacket p.q p.index (fun p => { p with reported := true }))
        | none => linked
      (p.wantsWaybill = false ∨ c.dying ≠ none → exec (.chainExtend ctx) s = .next (t.completeNow ctx p)) ∧
      (p.wantsWaybill = true → c.dying = none →
        (∀ ps u v, t.writeChecked ctx m.out (waybill s c m chain record) = (.ok ps, u) →
          u.mayCommit (.strip ctx p.q) ps = (true, v) →
          exec (.chainExtend ctx) s = .next ((v.commitAs (.strip ctx p.q) ps).completeNow ctx p)) ∧
        (∀ e a u, t.writeChecked ctx m.out (waybill s c m chain record) = (.bad e a, u) →
          exec (.chainExtend ctx) s = .next ((u.updCtx ctx (fun c => c.updPacket p.q p.index (fun p =>
            { p with cause := some e }))).completeNow ctx p))))

/-! ### Packets, regions and pre-emption -/

/-- R260: the threads of a launch are dealt out to the cores of its region: at gate opening the threads pending on a core are those
of index t below the number of threads with floor(t/256) mod N the core's place among the N of the region, each of them once and in
rising order, so that every thread belongs to exactly one core. -/
def Obligations.EveryThreadIsDealtOnce : Prop :=
  (∀ n total : Nat, 0 < n →
    (∀ k, k < n → let mine := pendingIds n (launchShare n total k) (256 * k)
      (∀ t, t ∈ mine ↔ t < total ∧ t / 256 % n = k) ∧ mine.Pairwise (· < ·)) ∧
    ((List.range n).map (launchShare n total)).sum = total) ∧
  ∀ (r : Region) (p : Packet) (l : Lane), p.type = 1 → positionOf l.core r.cores < r.h * r.w →
    let x := l.opened r p
    ∀ t, t ∈ x.pendingList (some (r.h * r.w)) x.pendingLeft ↔
      t < p.threadCount ∧ t / 256 % (r.h * r.w) = positionOf l.core r.cores

/-- R32, R372-R376, R379, R399: where each packet begins, waits and retires, and the state it leaves: a LAUNCH or GRAPH, with its
parameter block and, measured, with its opening, on the region its context holds, or in the region queue; the opening of its gates;
a COPY at a dray; a SIGNAL; a barrier by the values it reads; and the retirement of a packet whose work is done. -/
def Obligations.PacketsBeginAndRetire : Prop :=
  ∀ (ctx q : Nat) (s : State) (c : Context),
    s.ctx? ctx = some c →
    (∀ p o k i, (i = Instr.launch ctx q ∧ s.takenPacket ctx q 1 = some p) ∨ (i = Instr.graph ctx q ∧ s.takenPacket ctx q 2 = some p) →
      p.formatOk = true → c.kernelOf p = .ok (o, k) →
      ∀ old u, (s.updCtx ctx (fun c => c.updPacket p.q p.index (Packet.begin_ c.regs.hseed))).imageNow ctx o = (.ok old, u) →
      let t := u.updCtx ctx (fun c => c.updPacket p.q p.index (fun p => u.withRuns ctx (p.withKernel o k old)))
      let arg := t.translates ctx .load (if k.psize = 0 then [] else pagePieces (p.word 5) k.psize)
      let opening := t.openMeasured ctx p { image := some (o.objVa + o.imageOff, o.imageSize, o.hashEntry), arg := some (p.word 5, k.psize) }
      (∀ v, (p.isMeasured = false ∧ arg = (.ok (), v)) ∨ (p.isMeasured = true ∧ opening = .ok v) →
        (v.region? ctx = none → exec i s = .next ((v.queueRegion ctx p.shape.1 p.shape.2 false).setStage ctx p .wantRegion)) ∧
        (∀ r, v.region? ctx = some r → p.shape = (r.h, r.w) → exec i s = .next ((v.acquireCores r).setStage ctx p .loading)) ∧
        (∀ r, v.region? ctx = some r → p.shape ≠ (r.h, r.w) → r.sharer ≠ none → exec i s = .next (v.setStage ctx p .wantRegion)) ∧
        (∀ r, v.region? ctx = some r → p.shape ≠ (r.h, r.w) → r.sharer = none → exec i s =
          .next (((v.releaseRegion ctx).queueRegion ctx p.shape.1 p.shape.2 false).setStage ctx p .wantRegion))) ∧
      (∀ e v, (p.isMeasured = false ∧ ∃ a, arg = (.bad e a, v)) ∨ (p.isMeasured = true ∧ opening = .bad v e) →
        exec i s = .next (v.failBegin ctx p e)) ∧
      (∀ v, p.isMeasured = true → opening = .wait v → exec i s = .next v)) ∧
    (∀ p e i, (i = Instr.launch ctx q ∧ s.takenPacket ctx q 1 = some p) ∨ (i = Instr.graph ctx q ∧ s.takenPacket ctx q 2 = some p) →
      p.formatOk = true → c.kernelOf p = .error e → exec i s = .next (s.failBegin ctx p e)) ∧
    (∀ p i, (i = Instr.launch ctx q ∧ s.takenPacket ctx q 1 = some p) ∨ (i = Instr.graph ctx q ∧ s.takenPacket ctx q 2 = some p) →
      p.formatOk = false → exec i s = .next (s.failBegin ctx p 0x180)) ∧
    (∀ p r t, s.region? ctx = some r → c.kernelPacket? = some p → p.stage = .loading → s.openGates ctx r p = (true, t) →
      exec (.gateOpen ctx) s = .next t) ∧
    (∀ p bytes t d u, s.takenPacket ctx q 3 = some p → p.formatOk = true → p.isMeasured = false →
      s.readVa ctx (p.word 3) 64 .load false = (.ok bytes, t) → copyFieldsOk (leWords 8 bytes) = true →
      (CopyParam.ofWords (leWords 8 bytes)).mode = 0 → t.pickDray = (some d, u) → p.measured = none →
      exec (.copyPacket ctx q) s = .next ((u.handOver 0 ctx 0 (leWords 8 bytes) (p.word 3) none (some (p.q, p.index)) d.1
        d.2).setStage ctx p .copying)) ∧
    (∀ p i ty vs ls outer t, (i = Instr.barrierAnd ctx q ∧ ty = 4 ∧ s.takenPacket ctx q 4 = some p) ∨
        (i = Instr.barrierOr ctx q ∧ ty = 5 ∧ s.takenPacket ctx q 5 = some p) ∨
        (i = Instr.barrierReading ctx q ∧ ty = p.type ∧ (p.wake = true ∨ (p.pollable = true ∧ 4096 ≤ p.poll)) ∧
          c.packets.find? (fun p => p.q = q && p.stage = .waiting) = some p) →
      p.formatOk = true → s.readSignals ctx p.signals = (.ok (vs, ls, outer), t) →
      ((∀ v ∈ vs, v.msb = false) → (vs = [] ∨ (ty = 4 ∧ ∀ v ∈ vs, v = 0) ∨ (ty ≠ 4 ∧ ∃ v ∈ vs, v = 0)) →
        exec i s = .next (t.complete ctx p (.add (-1)))) ∧
      ((∀ v ∈ vs, v.msb = false) → vs ≠ [] → ((ty = 4 ∧ ∃ v ∈ vs, v ≠ 0) ∨ (ty ≠ 4 ∧ ∀ v ∈ vs, v ≠ 0)) →
        exec i s = .next (t.updCtx ctx (fun c => c.updPacket p.q p.index (fun x => { x with
          stage := .waiting, sigLines := ls, pollable := outer, wake := false, poll := 0 })))) ∧
      (∀ v, vs.find? (fun v => v.msb) = some v → exec i s = .next (t.complete ctx { p with cause := some 0x181 } (.store v)))) ∧
    (∀ p t u, s.takenPacket ctx q 6 = some p → p.formatOk = true →
      s.updateSignal ctx q (p.word 3) (if p.word 5 = 1 then .add (p.words.getD 4 0) else .store (p.words.getD 4 0)) = (.ok t, u) →
      exec (.signalPacket ctx q) s = .next ((t.setStage ctx p .retired).completeNow ctx p)) ∧
    (∀ p i, c.packet? q i = some p →
      (p.stage = .running → s.kernelDone ctx p = true → exec (.packetRetire ctx q i) s = .next (s.retireKernel ctx p .retired)) ∧
      (p.stage = .stopped → s.engineWork ctx = false → exec (.packetRetire ctx q i) s = .next (s.retireKernel ctx p .closed)) ∧
      (p.stage = .retired → p.measured = none → exec (.packetRetire ctx q i) s = .next (s.completeNow ctx p)))

/-- R339, R404, R406, R408-R412, R415, R416, R294: a region is assigned at a free origin, which no region and no failed die meets;
it is shared, or handed over to its sharer; the quantum marks contexts for pre-emption; a marked context freezes, is saved, and is
resumed on a free region, or its graph re-placed; a resume whose images do not check, or whose save area was accessed meanwhile,
fails the packet; a quiescent region is frozen and its packet fails. MODEL'S CHOICES: which of the shapes a relinked graph takes is
a free choice (log 28), the module's settings and failed dies are those of the Tarat registers of die 0 (log 76), the shape asked
for again after a pre-emption is that of the region held, before the gates that of the packet (log 54), and any access by software,
a host or a peer to bytes of a save area makes the restore fail (log 91). -/
def Obligations.RegionsAndPreemption : Prop :=
  ∀ (ctx : Nat) (s : State),
    (∀ r rest p rect, s.regionQueue = r :: rest → s.requestPacket? r = some p → r.resume = false →
      s.freeRect r.h r.w r.ctx = some rect →
      rect.h = r.h ∧ rect.w = r.w ∧ rect.holder = r.ctx ∧ rect.row + r.h ≤ 32 ∧ rect.col + r.w ≤ 32 ∧
      (∀ x ∈ s.regions, rect.overlaps x = false) ∧ (∀ d ∈ s.tarat.dieFail, rect.overlaps (dieRect d) = false) ∧
      exec .regionAssign s = .next (({ s with regionQueue := rest } : State).giveRegion rect |>.setStage r.ctx p .loading)) ∧
    (∀ r rest p x, s.regionQueue = r :: rest → s.requestPacket? r = some p → r.resume = false →
      s.freeRect r.h r.w r.ctx = none → s.shareable r = some x →
      let t := (({ s with regionQueue := rest } : State).updRegion x.holder (fun y => { y with sharer := some r.ctx })).acquireCores x
      exec .regionShare s = .next (({ t with
        lanes := t.lanes ++ x.cores.map (fun c => Lane.reset c r.ctx (s.ctxRegs r.ctx)) } : State).setStage r.ctx p .loading)) ∧
    (∀ r p, s.region? ctx = some r → (s.ctx? ctx).bind (·.kernelPacket?) = some p → r.sharer ≠ some ctx →
      p.stage = .wantRegion → p.shape ≠ (r.h, r.w) →
      exec (.regionHandover ctx) s = .next ((s.releaseRegion ctx).queueRegion ctx p.shape.1 p.shape.2 false)) ∧
    (∀ r rest rect, s.regionQueue = r :: rest → 2 ^ s.tarat.quantum ≤ r.waited → s.soundRect r.h r.w r.ctx = some rect →
      let hit := (s.regions.filter (fun x => x.overlaps rect && decide (2 ^ s.tarat.quantum ≤ x.heldCycles))).flatMap (·.contexts)
      exec .quantumExpiry s = .next { s with contexts := s.contexts.map (fun (c : Context) =>
        if hit.contains c.num then { c with preempt := true } else c) }) ∧
    (∀ c, s.ctx? ctx = some c → c.preempt = true → c.frozen = false →
      exec (.hardPreemptFreeze ctx) s = .next (((s.updCtx ctx (fun c => { c with frozen := true })).updLanes ctx
        (fun l => { l with frozen := true })).squashContext ctx)) ∧
    (∀ c r p t u areas, s.ctx? ctx = some c → s.region? ctx = some r → s.maySave ctx r c = true → c.kernelPacket? = some p →
      p.stage = .running → s.takeGrants (.strip ctx 17) (List.range 16) = (true, t) →
      t.writeImages ctx (c.keyIndex 0) c.regs (List.range r.cores.length) = .ok u areas →
      exec (.hardPreemptSave ctx) s = .next ((((u.dropRequests (.engine (.strip ctx 17))).yieldRegion ctx r.h r.w p .preempted).updCtx
        ctx (fun c => { c with
          save := some { cores := r.cores.filterMap (s.imageOf r ctx), h := r.h, w := r.w, areas := areas } })).watchSave ctx areas)) ∧
    (∀ r p sv rect t u, s.resumable ctx = some (r, p, sv) → s.freeRect r.h r.w ctx = some rect →
      s.saveTouched ctx = false → s.checkImages (s.saveKey ctx) ctx sv.areas = (some true, t) →
      (t.popRegion.giveRegion rect).restore ctx p sv (State.loadImage (s.ctxRegs ctx) (fun x => some (rect.coreAt (32 * x.dy + x.dx)))) =
        (true, u) →
      exec (.resumeRestore ctx) s = .next u) ∧
    (∀ r p sv rect t, s.resumable ctx = some (r, p, sv) → s.freeRect r.h r.w ctx = some rect →
      (s.saveTouched ctx = true ∧ t = s) ∨
        (s.saveTouched ctx = false ∧ s.checkImages (s.saveKey ctx) ctx sv.areas = (some false, t)) →
      exec (.resumeRestore ctx) s = .next ((t.popRegion.giveRegion rect).failRestore ctx p)) ∧
    (∀ r p sv rect, s.resumable ctx = some (r, p, sv) → s.mayRelink p = true →
      s.relinkShapes p.stages.length ctx ≠ [] →
      let pick := s.choose (s.relinkShapes p.stages.length ctx).length
      let x := (s.relinkShapes p.stages.length ctx).getD pick.1 (1, 1)
      pick.2.freeRect x.1 x.2 ctx = some rect →
      exec (.graphRelink ctx) s = .next (pick.2.resumeOn ctx (p.replaced rect.w) sv (fun t => (t.popRegion.giveRegion rect).updCtx ctx
        (fun c => c.updPacket p.q p.index (Packet.replaced rect.w))) (State.loadImage (s.ctxRegs ctx) (fun c =>
          if p.offsets.contains (32 * c.dy + c.dx) then rect.cores[positionOf (32 * c.dy + c.dx) p.offsets]? else none)))) ∧
    (∀ c r p, s.ctx? ctx = some c → s.region? ctx = some r → c.kernelPacket? = some p → p.stage = .running →
      s.quiescent ctx = true → c.page.diagBase = 0 → exec (.quiescentStall ctx) s = .next (s.failPacket ctx 0x0C0))

/-! ### Contexts, ownership and module reset -/

/-- R333, R335, R336, R404: the commands of CTXCMD and the failure of a die. A command of a function whose own BUSY is set is
ignored; one that finds another running waits its turn with BUSY set. A CREATE whose checks pass makes a context with the lowest
free number; otherwise CTXSTAT shows the status of the first check that fails. A DESTROY of a context of the function resets and
removes it. A GRANT that nothing refuses gives its VF the quota and the ranges of the record; a GRANT from a VF is DENIED. A failed
die resets the contexts it concerns. MODEL'S CHOICES: a command that finds another running waits its turn with BUSY set and CTXSTAT
at 2^63 (log 56), and a GRANT gives of PEERS only what the PF's own part holds (log 25). -/
def Obligations.ContextCommands : Prop :=
  ∀ (port fn ctx die : Nat) (s : State),
    (∀ f cmd i, s.func? port fn = some f → ctx < 64 → (cmd, i) ∈ [(Command.create, Instr.create port fn),
        (.destroy ctx, .destroy port fn ctx), (.grant, .grant port fn)] →
      (f.busy = true → exec i s = .next s) ∧
      (f.busy = false → (s.commandRuns = true ∨ s.commands ≠ []) →
        exec i s = .next { s.updFunc port fn (fun f => { f with ctxstat := 2 ^ 63 }) with
          commands := s.commands ++ [{ port := port, fn := fn, cmd := cmd }] })) ∧
    (∀ f, s.func? port fn = some f → f.busy = false → s.commandRuns = false → s.commands = [] →
      (∀ n, s.createStatus port fn f = 0 → s.freeNumber = some n →
        exec (.create port fn) s = .next (s.createContext port fn n f) ∧
        (s.createContext port fn n f).ctx? n =
          some (Context.fresh n (32 * port + fn) f.ctxrec ((s.freeKeys port).take (recKeys f.ctxrec))) ∧
        ((s.createContext port fn n f).func? port fn).map (·.ctxstat) = some (n * 2 ^ 40)) ∧
      (s.createStatus port fn f ≠ 0 → ∃ t, exec (.create port fn) s = .next t ∧
        t.func? port fn = some { f with ctxstat := s.createStatus port fn f * 2 ^ 48 } ∧ t.contexts = s.contexts) ∧
      (s.firmware.state ≠ .owned ∨ s.firmware.provision = true → s.createStatus port fn f = 7) ∧
      (fn ≠ 0 → s.grantFaults port fn f = [8]) ∧
      (ctx < 64 → s.mayDestroy port fn ctx = true → exec (.destroy port fn ctx) s =
        .next (((s.updFunc port fn (fun f => { f with ctxstat := 2 ^ 63 })).beginReset 0x182 true ctx).settleAll)) ∧
      (ctx < 64 → s.mayDestroy port fn ctx = false → ∃ t, exec (.destroy port fn ctx) s = .next t ∧
        t.func? port fn = some { f with ctxstat := 8 * 2 ^ 48 } ∧ t.contexts = s.contexts) ∧
      (s.grantFaults port fn f = [] → exec (.grant port fn) s = .next ((s.updFunc port fn (fun f => { f with ctxstat := 0 })).updFunc
        port (field (recWord f.ctxrec 0) 0 5) (Function.take (recWord f.ctxrec 1) (quotaPeers f.quota) (recRanges f.ctxrec)))) ∧
      (∀ st, s.grantFaults port fn f = [st] → ∃ t, exec (.grant port fn) s = .next t ∧
        t.func? port fn = some { f with ctxstat := st * 2 ^ 48 })) ∧
    (∀ l, s.sessions[die]? = some l → 3 ≤ l.failures → die ∉ s.tarat.dieFail →
      let t : State := { s with io := s.io.map (IoDie.failDie die) }
      exec (.dieFailed die) s = .next (((s.contexts.filter (s.dieConcerns die)).map Context.num).foldl
        (fun (t : State) n => t.beginReset 0x184 false n) t).settleAll)

/-- R332, R358-R361: an ownership command that no check refuses has its effect, FWSTAT shows OK and the nonce is fresh; one that a
single check refuses changes nothing but FWSTAT, which shows the status, and the nonce. A port that may not command ownership meets
DENIED, and a state that does not list the command BADSTATE, whatever else is wrong. MODEL'S CHOICES (log 26): the key is the 1952
bytes of an ML-DSA-65 key followed by the P-384 key, a TRANSFER's payload is a hash of 48 bytes, a STAGE_FW's an address and a
length of 8 bytes each, a SETSVN's a number below 256; DENIED comes before BADSTATE, and both before every other status. -/
def Obligations.OwnershipCommands : Prop :=
  ∀ (port : Nat) (s : State) (f : Function) (r : OwnRecord) (keys : List Byte),
    s.func? port 0 = some f → field f.fwstat 63 1 = 0 → s.firmware.waiting = none → r = f.ownRecord → keys = r.payload.take 1952 →
    let fw := s.firmware
    let done := fun (st : Nat) => { s.updFunc port 0 (fun f => { f with fwstat := st }) with firmware := s.firmware.freshen }
    let owner := fun (st : OwnState) (fieldOk svnOk : Bool) =>
      ({ state := decide (fw.state = st), field := fieldOk, svn := svnOk, key := fw.ownerKeys.take 1952, hash := true } : OwnCheck)
    let next := fun (st : OwnState) (hashOk : Bool) =>
      ({ state := decide (fw.state = st), field := decide (1952 ≤ r.len), svn := true, key := keys, hash := hashOk } : OwnCheck)
    let decides := fun (i : Instr) (cmd : Nat) (k : OwnCheck) (effect : State) =>
      f.command = cmd → (s.ownFaults port r k = [] → exec i s = .next effect) ∧
        (∀ st, s.ownFaults port r k = [st] → exec i s = .next (done st)) ∧
        (fw.partition.ownPorts / 2 ^ port % 2 = 0 → exec i s = .next (done 6)) ∧
        (fw.partition.ownPorts / 2 ^ port % 2 = 1 → k.state = false → exec i s = .next (done 2))
    let sets := fun (g : Firmware → Firmware) => { done 0 with firmware := g s.firmware.freshen }
    decides (.take port) 1 (next .unowned true) ((done 0).changeOwner port .owned r.payload) ∧
    decides (.transfer port) 2 (owner .owned (decide (r.len = 48)) true)
      (sets (fun w => { w with state := .pending, nextHash := r.payload })) ∧
    decides (.accept port) 3 (next .pending (decide (sha384 keys = fw.nextHash))) ((done 0).changeOwner port .owned r.payload) ∧
    decides (.cancel port) 4 (owner .pending true true) (sets (fun w => { w with state := .owned, nextHash := [] })) ∧
    decides (.release port) 5 (owner .owned true true) ((done 0).changeOwner port .unowned []) ∧
    decides (.stageFw port) 6 (owner .owned (decide (r.len = 16) &&
        decide (natAt r.payload 0 8 + natAt r.payload 8 8 ≤ 2 ^ 48)) true)
      (sets (fun w => { w with staged := some (s.bytesAt (hostPa port (natAt r.payload 0 8)) (natAt r.payload 8 8)) })) ∧
    decides (.setsvn port) 7 (owner .owned (decide (0 < r.len) && decide (leNat r.payload < 256))
      (decide (fw.minSvn ≤ leNat r.payload))) (sets (fun w => { w with minSvn := leNat r.payload })) ∧
    decides (.partition port) 8 (owner .owned (partitionOk r.len r.payload) true)
      (sets (fun w => { w with nextPartition := some (Partition.ofBytes r.payload) }))

/-- R358, R360: no step lowers the fused minimum SVN. -/
def Obligations.MinSvnNeverFalls : Prop :=
  ∀ s t : State, step s = .next t → s.firmware.minSvn ≤ t.firmware.minSvn

/-- R12, R328, R329, R331, R332, R353, R405: the machine after reset: every aperture closed and every function register at its
value, each PF with its port's part of the default partition, the Tarat registers at theirs, no context, no region and nothing in
flight, every link up, and no device block readable; and the module reset, after which memory keeps its bytes. MODEL'S CHOICES: some
of the reset values (log 5, 6 and 7), and what a module reset keeps: memory's bytes, and the staged image that it starts or leaves
staged (log 57). -/
def Obligations.ResetState : Prop :=
  let s := State.reset
  s.functions.length = 64 ∧
  (∀ f ∈ s.functions, f.aps = [0, 0, 0, 0] ∧ f.hostfault = 0 ∧ f.ctxstat = 0 ∧ f.fwstat = 0 ∧ f.ctxrec = List.replicate 16 0) ∧
  (∀ port fn f, s.func? port fn = some f → fn ≠ 0 → f.quota = 0 ∧ f.ranges = List.replicate 16 0) ∧
  (s.func? 0 0).map (·.quota) = some 0xFF7F0020 ∧ (s.func? 1 0).map (·.quota) = some 0xFF007F0020 ∧
  (s.func? 0 0).map (·.keyBase) = some 1 ∧ (s.func? 1 0).map (·.keyBase) = some 128 ∧
  s.identity.word = 0x0000168000010000 ∧ s.io.length = 2 ∧
  (∀ d ∈ s.io, d.tarat.quantum = 26 ∧ d.tarat.share = true ∧ d.tarat.relink = true ∧ d.tarat.linkRetry = 3 ∧ d.tarat.dieFail = []) ∧
  s.contexts = [] ∧ s.regions = [] ∧ s.lanes = [] ∧ s.cores = [] ∧ s.copies = [] ∧ s.migrations = [] ∧ s.shootdowns = [] ∧
  s.broadcasts = [] ∧ s.soloHolder = none ∧ s.regionQueue = [] ∧
  (∀ p ∈ s.cxl, p.up = true) ∧ (∀ p ∈ s.hosts, p.up = true) ∧ (∀ p ∈ s.couplers, p.up = true) ∧
  (∀ pa key k, s.readFault pa key k = some (intCause k 1)) ∧
  ∀ u : State, ∃ t, exec .moduleReset u = .next t ∧ t.contexts = [] ∧ t.regions = [] ∧ t.io = s.io ∧ t.lanes = [] ∧
    t.identity = s.identity ∧
    (∀ pa key k, t.readFault pa key k = some (intCause k 1)) ∧ t.mem = u.mem ∧ t.firmware.minSvn = u.firmware.minSvn ∧
    (u.firmware.staged = none → t.firmware.running = u.firmware.running) ∧
    (∀ image, u.firmware.staged = some image → t.firmware.running =
      if Config.makerSigned image = true ∧ u.firmware.minSvn ≤ Config.imageSvn image ∧ (if u.firmware.state = .unowned
        then Config.imageProvision image = true else Config.ownerSigned u.firmware.ownerKeys image = true)
      then image else u.firmware.running) ∧
    t.functions = (List.range 64).map (Function.reset (u.firmware.nextPartition.getD u.firmware.partition))

/-! ### The whole machine -/

/-- R55, R54: a null on any fed slot consumes the operand set and sends nulls to every target, with no other effect; a predicate
that does not match consumes it and sends nothing. This is said of every instruction but STEER, MERGE, CARRY and INVAR, which have
rules of their own; that a null goes before the predicate is the model's choice (log 13). -/
def Obligations.NullsAndPredicates : Prop :=
  ∀ (i : Instr) (f : Fields) (s : State) (p : Spot) (toks : List Token) (r : Run),
    i.fields? = some f → i.wellFormed = true → (∀ g, i ≠ .steer g ∧ i ≠ .merge g ∧ i ≠ .carry g ∧ i ≠ .invar g) →
    s.spot? s.cur = some p → operandSet p.block p.run s.cur.idx = some (toks, r) →
    (anyNull toks = true →
      exec i s = .next (s.updRun s.cur (fun _ => sendTokens p.block.occ s.cur.idx (p.run.idx s.cur.idx).fired (siteOf s p toks).deps
        (toAll i.targets none) (r.consumed s.cur.idx false)))) ∧
    (anyNull toks = false → predOk f toks = false → exec i s = .next (s.updRun s.cur (fun _ => r.consumed s.cur.idx false)))

/-- R53, R56, R57, R159, R270, R321: what every instruction leaves unchanged when it fires. All of memory with its integrity, every
register of a thread, of a context and of the module, every barrier and every configured block stay: a firing records its stores,
its WRITEs and its flags in its run, and the commit of the chunk applies them. Only the passes' runs and the streams change, with
the cached translations and lines, the requests for migration, the watch on what the part keeps in memory, and the model's counter
of free values. -/
def Obligations.FiringsChangeOnlyTheirPass : Prop :=
  ∀ (i : Instr) (s t : State), i.fields? ≠ none → exec i s = .next t →
    t = { s with lanes := t.lanes, cores := t.cores, tlb := t.tlb, migrations := t.migrations, nextMigration := t.nextMigration
                 freeCtr := t.freeCtr, hostSent := t.hostSent, guards := t.guards } ∧
    (∀ a, t.byteAt a = s.byteAt a) ∧
    t.lanes.map (fun (l : Lane) => { l with passes := [], links := [], rateTokens := 0 }) =
      s.lanes.map (fun (l : Lane) => { l with passes := [], links := [], rateTokens := 0 }) ∧
    t.cores.map (fun (c : CoreState) => { c with l1 := [], banks := c.banks.map (fun (b : Bank) => { b with fifo := [], pixels := [], dropped := 0 }) }) =
      s.cores.map (fun (c : CoreState) => { c with l1 := [], banks := c.banks.map (fun (b : Bank) => { b with fifo := [], pixels := [], dropped := 0 }) })

/-- The memory of the machine right after reset is in its canonical form: no listed byte reads as an unlisted one. MODEL'S CHOICE:
the form, and what an unlisted byte reads as, are the model's (log 5); the spec speaks of neither. -/
def Obligations.MemoryCanonicalAtReset : Prop := State.reset.MemoryCanonical

/-- Every step keeps the canonical form of memory (the form is the model's, log 5): addresses rise strictly and no zero is listed.
-/
def Obligations.MemoryStaysCanonical : Prop :=
  ∀ s t : State, s.MemoryCanonical → step s = .next t → t.MemoryCanonical

/-- R42, R53, R59: a step whose move is a firing runs the instruction that the word at the named index of the configured block
decodes to, for the thread of the move, and then only notes that the core was active; a step whose move is an event runs that event,
and one whose firing or event meets an error runs it with that error; with no move nothing changes. The schedule is the model's (log
1). -/
def Obligations.StepRunsTheDecodedInstruction : Prop :=
  ∀ (s : State) (ms : List Move),
    (∀ core ctx pass tidx idx w i t, s.moves = .fire core ctx pass tidx idx :: ms →
      let x : Firing := { core := core, ctx := ctx, pass := pass, tidx := tidx, idx := idx }
      let u : State := { s with moves := ms }
      (u.spot? x).bind (fun p => p.block.words[idx]?) = some w → decodeWord w.1 w.2 = .ok i →
      exec i { u with cur := x } = .next t →
      step s = .next (if (u.spot? x).map (·.run.idxs) = (t.spot? x).map (·.run.idxs) then t else t.active core ctx)) ∧
    (∀ e core ctx pass tidx idx t, s.moves = .upsetFire e core ctx pass tidx idx :: ms →
      step { s with moves := .fire core ctx pass tidx idx :: ms, mishap := some e } = .next t → step s = .next { t with mishap := none }) ∧
    (∀ i, s.moves = .event i :: ms → step s = exec i { s with moves := ms }) ∧
    (∀ m i t, s.moves = .upset m i :: ms → exec i { s with moves := ms, mishap := some m } = .next t →
      step s = .next { t with mishap := none }) ∧
    (s.moves = [] → step s = .next s)

/-- R42, R47-R52, and the encoding tables of the families: the decoding of the encoding of a well-formed instruction is that
instruction, whatever its operands. -/
def Obligations.DecodeInvertsEncode : Prop :=
  ∀ (n : Nat) (i : Instr), i.wellFormed = true → decodeTableWord n (encodeBits i) = some i

/-- R47-R52, R58: words written out from the encoding tables decode to the instructions they stand for, and every reserved opcode is
rejected with OPCODE. -/
def Obligations.WordsOfTheSpecDecode : Prop :=
  let dest := fun (n : BitVec 7) (sl : Slot) => some ({ idx := n, slot := sl } : Target)
  let plain := fun (t0 t1 : Option Target) => ({ pm := .always, hot := false, t0 := t0, t1 := t1 } : Fields)
  decodeWord 0x378086E1F8000064 0 = .ok (.cmp (plain (dest 6 .p) (dest 7 .p)) .i32 .lt (some 100)) ∧
  decodeWord 0x6110830000000001 0 = .ok (.ftoi (plain (dest 3 .a) none) .rtz .n32) ∧
  decodeWord 0x0900862240000000 0 = .ok (.steer (plain (dest 6 .a) (dest 9 .a))) ∧
  decodeWord 0x0E00000000000151 0 = .ok (.call (plain none none) 5 2 1) ∧
  decodeWord 0x1E008B800000000A 0 = .ok (.setf (plain (dest 11 .c) none) 10) ∧
  (∀ r : Raw, (r.op = 0 ∨ r.op ∈ [0x12, 0x13] ∨ (0x24 ≤ r.op ∧ r.op ≤ 0x27) ∨ (0x4D ≤ r.op ∧ r.op ≤ 0x4F) ∨
      (0x6D ≤ r.op ∧ r.op ≤ 0x77) ∨ (0x7E ≤ r.op ∧ r.op ≤ 0x8F) ∨ (0xA3 ≤ r.op ∧ r.op ≤ 0xAF) ∨ (0xB8 ≤ r.op ∧ r.op ≤ 0xBF) ∨
      (0xC8 ≤ r.op ∧ r.op ≤ 0xCF) ∨ (0xD3 ≤ r.op ∧ r.op ≤ 0xDF) ∨ (0xE8 ≤ r.op ∧ r.op ≤ 0xFF)) →
    decodeRaw r = .error .opcode)

/-- R393, R396-R398, R424: taking a trap. A thread that is not in a handler, in a context with one, leaves with TCAUSE, TINFO and
TBLOCK set and waits at the block at HANDLER; nothing else changes. Without a handler, or in it already, its packet fails. A RESUME
returns it to the block in which it trapped. -/
def Obligations.TrapsEnterTheHandler : Prop :=
  ∀ (core ctx tidx blk cause info : Nat) (s : State) (l : Lane) (k : Packet) (t : Thread),
    s.lane? core ctx = some l → (s.ctx? ctx).bind (·.kernelPacket?) = some k → l.thread? tidx = some t →
    (∀ h, s.handlerBlock core ctx = some h → t.handler = none →
      s.takeTrap core ctx tidx blk cause (some info) = s.updLane core ctx (fun l => l.updThread tidx (fun t =>
        { t with place := .waiting h false
                 handler := some { tcause := cause, tinfo := info % 2 ^ 57, tblock := k.blockVa blk } }))) ∧
    ((s.handlerBlock core ctx = none ∨ t.handler ≠ none) →
      s.takeTrap core ctx tidx blk cause (some info) =
        (s.updLane core ctx (fun l => l.updThread tidx (fun t => { t with place := .waiting blk false }))).failPacket ctx cause) ∧
    (∀ (b : Block) (r : Run) (x : Nat) (g : HandlerRegs) (n : Nat), t.handler = some g → r.exit = some (x, .resume) →
      k.blockAt g.tblock = some n → nextBlock k b t r = n)

/-- R427: the `.param` fields of a kernel are placed in source order, each at the lowest multiple of its alignment at or after the
end of the field before it; PSIZE is the end of the last, rounded up to a multiple of 8; and a `.param` after the kernel's first
block is an assembly error. -/
def Obligations.ArgumentFieldsArePlaced : Prop :=
  (∀ (e : Nat) (fs : List (Nat × Nat)), (∀ f ∈ fs, 0 < f.2) →
    let offs := (placeFields e fs).1
    let ends := e :: List.zipWith (fun (o : Nat) (f : Nat × Nat) => o + f.1) offs fs
    offs.length = fs.length ∧ (placeFields e fs).2 = ends.getLastD e ∧
    ∀ (k : Nat) (f : Nat × Nat) (o b : Nat), fs[k]? = some f → offs[k]? = some o → ends[k]? = some b →
      f.2 ∣ o ∧ b ≤ o ∧ ∀ n, f.2 ∣ n → b ≤ n → o ≤ n) ∧
  (∀ k : AsmKernel,
    let last := (placeFields 0 (k.fields.map (·.2))).2
    8 ∣ k.psize ∧ last ≤ k.psize ∧ ∀ n, 8 ∣ n → last ≤ n → k.psize ≤ n) ∧
  (∀ (s : AsmSource) (name : Text) (ps : AsmParams) (k : AsmKernel) (x : AsmScope) (more : List AsmScope) (v w : Text) (size align : Nat),
    s.open_ = x :: more → x = .kernel ∨ x = .graph → s.kernels.getLast? = some k →
    ps.get "SIZE" = some v → ps.get "ALIGN" = some w →
    needNat 0 (2 ^ 32 - 1) .parameter v = .ok size → needNat 1 (2 ^ 32 - 1) .parameter w = .ok align →
    ((∃ t ∈ k.stages, t.blocks ≠ []) → s.newParam name ps = .error .parameter) ∧
    ((∀ t ∈ k.stages, t.blocks = []) → (∀ f ∈ k.fields, f.1 ≠ name) →
      s.newParam name ps = .ok (s.kernel (fun k => { k with fields := k.fields ++ [(name, size, align)] }))))
end

