-- ==== Sys2Proof/Laws/Fire.lean ====
section
/-! SUPPORT. What a firing does, said once: an instruction with an operand set acts, and sends, traps or waits. -/

namespace Sys2Proof.Machine


theorem operandSet_tidx {b r k toks r'} (h : operandSet b r k = some (toks, r')) : r'.tidx = r.tidx := by
  unfold operandSet at h
  split at h
  · split at h
    · cases h; rfl
    · cases h
  · split at h
    · cases h
    · cases h; rfl

theorem Lane.pass_id {l : Lane} {id p} (h : l.pass? id = some p) : p.id = id := by
  simpa using List.find?_some h

theorem Pass.run_tidx {p : Pass} {k r} (h : p.run? k = some r) : r.tidx = k := by
  simpa using List.find?_some h

theorem spot_run {s : State} {x p} (h : s.spot? x = some p) : p.run.tidx = x.tidx := by
  unfold State.spot? at h
  split at h
  · cases h
  · split at h
    · cases h
    · split at h
      · cases h
      · split at h
        · next hr _ _ => cases h; exact Pass.run_tidx hr
        · cases h

@[simp] theorem Run.consumed_tidx (r : Run) (k b) : (r.consumed k b).tidx = r.tidx := rfl
@[simp] theorem Run.record_tidx (r : Run) (a b c d) : (r.record a b c d).tidx = r.tidx := rfl
@[simp] theorem sendToken_tidx (a b c d r x) : (sendToken a b c d r x).tidx = r.tidx := by
  unfold sendToken; split <;> rfl
@[simp] theorem sendTokens_tidx (a b c d o r) : (sendTokens a b c d o r).tidx = r.tidx := by
  unfold sendTokens
  induction o generalizing r with
  | nil => rfl
  | cons y o ih => simp [ih]

theorem State.updRun_updRun (s : State) (x : Firing) (f g : Run → Run) (hf : ∀ r, r.tidx = x.tidx → (f r).tidx = x.tidx) :
    (s.updRun x f).updRun x g = s.updRun x (fun r => g (f r)) := by
  simp only [State.updRun, State.updPass, State.updLane, List.map_map]
  congr 1
  apply List.map_congr_left
  intro l _
  simp only [Function.comp]
  by_cases h : (decide (l.core = x.core) && decide (l.ctx = x.ctx)) = true
  · simp only [h, if_true, Lane.updPass, List.map_map]
    congr 1
    apply List.map_congr_left
    intro p _
    simp only [Function.comp]
    by_cases hp : p.id = x.pass
    · simp only [hp, if_true, Pass.updRun, List.map_map]
      congr 1
      apply List.map_congr_left
      intro r _
      simp only [Function.comp]
      by_cases hr : r.tidx = x.tidx
      · simp [hr, hf r hr]
      · simp [hr]
    · simp [hp]
  · simp [h]

/-! ### One lemma per outcome of `State.fire` -/

theorem Ready.tidx {s : State} {f : Fields} {p toks r} (h : Ready s f p toks r) : r.tidx = s.cur.tidx :=
  (operandSet_tidx h.2.1).trans (spot_run h.1)

theorem fire_ok {s : State} {f : Fields} {p toks r ts act t out deps} (h : Ready s f p toks r)
    (ha : act (siteOf s p toks) (s.took r) = .ok t out deps) :
    s.fire f ts act = t.sending s p toks deps out := by
  obtain ⟨h1, h2, h3, h4⟩ := h
  simp only [siteOf, State.took] at ha
  simp only [State.fire, h1, h2, h3, h4, ha]
  rfl

theorem fire_bad {s : State} {f : Fields} {p toks r ts act t cause info} (h : Ready s f p toks r)
    (ha : act (siteOf s p toks) (s.took r) = .bad t cause info) :
    s.fire f ts act = t.updRun s.cur (fun r => sendTokens p.block.occ s.cur.idx (p.run.idx s.cur.idx).fired
      (siteOf s p toks).deps (toAll ts none) (r.record s.cur.idx (p.run.idx s.cur.idx).fired cause info)) := by
  obtain ⟨h1, h2, h3, h4⟩ := h
  simp only [siteOf, State.took] at ha
  simp only [State.fire, h1, h2, h3, h4, ha, siteOf]
  rfl

theorem fire_wait {s : State} {f : Fields} {p toks r ts act} (h : Ready s f p toks r)
    (ha : act (siteOf s p toks) (s.took r) = .wait) : s.fire f ts act = s := by
  obtain ⟨h1, h2, h3, h4⟩ := h
  simp only [siteOf, State.took] at ha
  simp only [State.fire, h1, h2, h3, h4, ha]
  rfl

theorem took_sending {s : State} {f : Fields} {p toks r} (h : Ready s f p toks r) (out) :
    (s.took r).sending s p toks [] out = s.sent p toks r out := by
  simp only [State.took, State.sending, State.sent]
  rw [State.updRun_updRun _ _ _ _ (fun _ _ => by simpa using h.tidx)]

theorem took_recorded {s : State} {f : Fields} {p toks r} (h : Ready s f p toks r) (g : Run → Run)
    (hg : ∀ r, (g r).tidx = r.tidx) (out) :
    ((s.took r).updRun s.cur g).sending s p toks [] out = s.recorded p toks r g out := by
  simp only [State.took, State.sending, State.recorded]
  rw [State.updRun_updRun _ _ _ _ (fun r hr => (hg r).trans hr)]
  rw [State.updRun_updRun _ _ _ _ (fun _ _ => by simpa using h.tidx)]

theorem took_trapped {s : State} {f : Fields} {p toks r} (h : Ready s f p toks r) (ts cause info) :
    (s.took r).updRun s.cur (fun r => sendTokens p.block.occ s.cur.idx (p.run.idx s.cur.idx).fired
      (siteOf s p toks).deps (toAll ts none) (r.record s.cur.idx (p.run.idx s.cur.idx).fired cause info))
      = s.trapped p toks r ts cause info := by
  simp only [State.took, State.trapped]
  rw [State.updRun_updRun _ _ _ _ (fun _ _ => by simpa using h.tidx)]

/-- An instruction that sends one value. -/
theorem fireValue_ok {s : State} {f : Fields} {p toks r g v} (h : Ready s f p toks r)
    (hg : g (siteOf s p toks) (s.took r) = .ok v) :
    s.fireValue f g = s.sent p toks r (toAll (Fields.both f) (some v)) := by
  rw [State.fireValue, fire_ok h (t := s.took r) (out := toAll (Fields.both f) (some v)) (deps := []) (by simp [hg]),
    took_sending h]

/-- An instruction that detects a cause of its value. -/
theorem fireValue_bad {s : State} {f : Fields} {p toks r g cause} (h : Ready s f p toks r)
    (hg : g (siteOf s p toks) (s.took r) = .error cause) :
    s.fireValue f g = s.trapped p toks r (Fields.both f) cause (some s.cur.idx) := by
  rw [State.fireValue, fire_bad h (t := s.took r) (cause := cause) (info := some s.cur.idx) (by simp only [hg]; rfl),
    took_trapped h]

/-- An instruction that changes its run. -/
theorem fireRecord_ok {s : State} {f : Fields} {p toks r} {g : Site → Run → Run} (h : Ready s f p toks r)
    (hg : ∀ x r, (g x r).tidx = r.tidx) :
    s.fireRecord f g = s.recorded p toks r (g (siteOf s p toks)) (doneBoth f) := by
  rw [State.fireRecord, fire_ok h rfl]
  exact took_recorded h _ (hg _) _

/-- An instruction that sends tokens and does nothing else. -/
theorem fire_send {s : State} {f : Fields} {p toks r ts act out} (h : Ready s f p toks r)
    (ha : act (siteOf s p toks) (s.took r) = .ok (s.took r) out []) : s.fire f ts act = s.sent p toks r out := by
  rw [fire_ok h ha, took_sending h]

/-- An instruction that detects a cause. -/
theorem fire_trap {s : State} {f : Fields} {p toks r ts act c i} (h : Ready s f p toks r)
    (ha : act (siteOf s p toks) (s.took r) = .bad (s.took r) c i) : s.fire f ts act = s.trapped p toks r ts c i := by
  rw [fire_bad h ha, took_trapped h]

/-- An instruction that changes its run and sends tokens. -/
theorem fire_rec {s : State} {f : Fields} {p toks r ts act out} (g : Run → Run) (hg : ∀ r, (g r).tidx = r.tidx)
    (h : Ready s f p toks r) (ha : act (siteOf s p toks) (s.took r) = .ok ((s.took r).updRun s.cur g) out []) :
    s.fire f ts act = s.recorded p toks r g out := by
  rw [fire_ok h ha, took_recorded h g hg]

/-- An instruction that defers an effect. -/
theorem fire_defer {s : State} {f : Fields} {p toks r ts act out} (k : DeferredKind) (h : Ready s f p toks r)
    (ha : act (siteOf s p toks) (s.took r) =
      .ok ((s.took r).defer s.cur (siteOf s p toks).deps (fun _ => k)) out [p.pass.nextId]) :
    s.fire f ts act = s.deferring p toks r k out := by
  rw [fire_ok h ha]; rfl

/-- An instruction that may fire once, on its first firing. -/
theorem fireOnce_first {s : State} {f : Fields} {p toks r act} (h : Ready s f p toks r) (h1 : FirstFiring s p) :
    s.fireOnce f act = s.fire f (Fields.both f) act := by
  obtain ⟨a, b, c, d⟩ := h
  have h1 : (p.run.idx s.cur.idx).fired = 0 := h1
  simp only [State.fireOnce, State.fire, a, b, c, d, h1, Nat.lt_irrefl, if_false]

/-- An instruction that may fire once, fired again. -/
theorem fireOnce_again {s : State} {f : Fields} {p toks r act} (h : Ready s f p toks r) (h1 : ¬FirstFiring s p) :
    s.fireOnce f act = s.trapped p toks r (Fields.both f) cMultiExit none := by
  refine fire_trap h ?_
  have h1 : 0 < (siteOf s p toks).gen := Nat.pos_of_ne_zero h1
  simp [h1]

/-- Firing without a thread or an operand set changes nothing. -/
theorem fire_none {s : State} {f : Fields} {ts act} (h : s.spot? s.cur = none) : s.fire f ts act = s := by
  simp [State.fire, h]

theorem fire_unfed {s : State} {f : Fields} {ts act p} (h : s.spot? s.cur = some p)
    (hp : operandSet p.block p.run s.cur.idx = none) : s.fire f ts act = s := by
  simp [State.fire, h, hp]

end Sys2Proof.Machine
end

