-- ==== Sys2Proof/Laws/Access.lean ====
section
/-! SUPPORT. What reading and writing at an address does, said once: where an access lies, what a pass that reads committed memory
alone finds there, and what a store leaves in the chunk. -/

namespace Sys2Proof.Machine

@[simp] theorem siteOf_at (s : State) (p toks) : (siteOf s p toks).at_ = s.cur := rfl
@[simp] theorem siteOf_spot (s : State) (p toks) : (siteOf s p toks).spot = p := rfl
@[simp] theorem siteOf_toks (s : State) (p toks) : (siteOf s p toks).toks = toks := rfl
@[simp] theorem siteOf_gen (s : State) (p toks) : (siteOf s p toks).gen = (p.run.idx s.cur.idx).fired := rfl
@[simp] theorem siteOf_nextId (s : State) (p toks) : (siteOf s p toks).nextId = p.pass.nextId := rfl

theorem spot_lane_core {s : State} {p : Spot} (h : s.spot? s.cur = some p) : p.lane.core = s.cur.core := by
  unfold State.spot? at h
  split at h
  · cases h
  · next l hl =>
    have := List.find?_some hl
    simp at this
    split at h
    · cases h
    · split at h
      · cases h
      · split at h
        · cases h; exact this.1
        · cases h

theorem loadBytes_committed {p : Pass} {l : Lane} (h1 : p.accesses = []) (h2 : l.earlier p.id = []) (s : State) (tidx deps sp addr n) :
    loadBytes s l p tidx deps sp addr n = ((List.range n).map (fun k => s.committedByte l.core sp (addr + k)), s) := by
  induction n generalizing addr with
  | zero => rfl
  | succ n ih =>
    have hd : ∀ b : Byte, [b].dedup = [b] := fun _ => rfl
    simp [loadBytes, Pass.loadChoices, Pass.writesOf, h1, State.prePassByte, h2, resolve, resolveByte, hd, ih, List.range_succ_eq_map,
      Function.comp_def, Nat.add_assoc, Nat.add_comm 1]

theorem holds_none {p : Pass} {l : Lane} (h1 : p.accesses = []) (h2 : l.earlier p.id = []) (tidx deps sp addr n) (hn : n ≠ 0) :
    p.holds l tidx deps sp addr n = false := by
  simp only [Pass.holds, h1, h2, List.any_nil, Bool.or_self, List.all_eq_false]
  exact ⟨0, by simp; omega, by simp⟩

theorem chunkRead_scratch {s : State} {x : Site} (h : ReadsCommitted x.spot) (hc : x.spot.lane.core = x.at_.core) (cp ea n k) :
    s.chunkRead x .scratch cp ea n 0 ea k =
      .got (s.access x .scratch ea n 0 ea .load) (s.scratchBytes x.at_.core ea n) ea [x.nextId] := by
  obtain ⟨h1, h2, h3⟩ := h
  simp [State.chunkRead, State.soloWaits, State.sightOf, h3, loadBytes_committed h1 h2, hc, State.scratchBytes, State.committedByte]

theorem readBytes_range (m : List Host.Cell) (pa n : Nat) : Memory.readBytes m pa n = (List.range n).map (fun k => Memory.read m (pa + k)) := by
  induction n generalizing pa with
  | zero => rfl
  | succ n ih => simp [Memory.readBytes, ih, List.range_succ_eq_map, Function.comp_def, Nat.add_assoc, Nat.add_comm 1]

/-- Taking a line into the CACHE banks changes no memory. -/
@[simp] theorem State.allocateL1_mem (s : State) (core : Nat) (x : L1Line) : (s.allocateL1 core x).mem = s.mem := by
  unfold State.allocateL1
  split
  · rfl
  · dsimp only
    split_ifs <;> rfl

/-- Filling or refreshing a copy changes no memory. -/
@[simp] theorem State.refreshCopy_mem (s : State) (core line byS cp) : (s.refreshCopy core line byS cp).mem = s.mem := by
  unfold State.refreshCopy
  split
  · rfl
  · split
    · exact State.allocateL1_mem _ _ _
    · rfl

/-- Taking a line where there is no copy changes no memory. -/
@[simp] theorem State.fillCopy_mem (s : State) (core line byS cp) : (s.fillCopy core line byS cp).mem = s.mem := by
  unfold State.fillCopy
  split <;> simp

/-- What a core sees of memory when none of its stores is on its way. -/
theorem seenMem_none {s : State} {core : Nat} (h : s.pendingStores core = []) (m : List Host.Cell) : s.seenMem core m = m := by
  simp [State.seenMem, h]

/-- What a core reads of a line of which it holds no copy: memory with the core's own stores that are on their way, and the line is
taken into the CACHE banks as the policy has it. -/
theorem sight_home {s : State} {core line : Nat} (hc : s.copyOf core line = none) (byS cp) :
    s.sight core line byS cp = (s.seenMem core s.mem, s.refreshCopy core line byS cp) := by
  simp [State.sight, State.useCopy, hc]

/-- What a core reads of a line, said once: the homes with the core's own stores that are on their way, or, where it holds an older
copy, that copy in their place, by a free choice. -/
theorem sight_cases {t : State} {core line byS cp} :
    ((∀ c, t.copyOf core line = some c → c.bytes = t.bytesAt (line * 64) 64) →
      t.sight core line byS cp = (t.seenMem core t.mem, t.refreshCopy core line byS cp)) ∧
    (∀ c, t.copyOf core line = some c → c.bytes ≠ t.bytesAt (line * 64) 64 → ∃ v : State, v = { t with freeCtr := v.freeCtr } ∧
      (t.sight core line byS cp = (t.seenMem core t.mem, v.refreshCopy core line byS cp) ∨
       t.sight core line byS cp = (t.seenMem core (Memory.writeBytes t.mem (line * 64) c.bytes), v))) := by
  refine ⟨fun h => ?_, fun c hc hb => ⟨(t.choose 2).2, rfl, ?_⟩⟩
  · cases hc : t.copyOf core line with
    | none => exact sight_home hc byS cp
    | some c => simp [State.sight, State.useCopy, hc, h c hc]
  · by_cases h0 : (t.choose 2).1 = 0
    · left; simp [State.sight, State.useCopy, hc, hb, h0]; rfl
    · right; simp [State.sight, State.useCopy, hc, hb, h0]; rfl

/-- A chunked read of a pass that reads committed memory alone finds what its core sees of the line. -/
theorem chunkRead_sight {s v : State} {x : Site} {look : List Host.Cell} (h : ReadsCommitted x.spot) {cp pa key ea n k} (hn : n ≠ 0)
    (hr : s.readFault pa key k = none) (hs : s.sight x.at_.core (pa / 64) false cp = (look, v)) :
    s.chunkRead x .device cp pa n key ea k =
      .got (v.access x .device pa n key ea .load) (Memory.readBytes look pa n) pa [x.nextId] := by
  obtain ⟨h1, h2, h3⟩ := h
  simp [State.chunkRead, holds_none h1 h2 _ _ _ _ _ hn, hr, State.soloWaits, h3, loadBytes_committed h1 h2, State.sightOf, hs,
    readBytes_range, State.committedByte, State.byteAt]

theorem chunkRead_device {s : State} {x : Site} (h : ReadsCommitted x.spot) {cp pa key ea n k} (hn : n ≠ 0)
    (hr : s.readFault pa key k = none) (hc : s.copyOf x.at_.core (pa / 64) = none) :
    s.chunkRead x .device cp pa n key ea k =
      .got ((s.refreshCopy x.at_.core (pa / 64) false cp).access x .device pa n key ea .load)
        (Memory.readBytes (s.seenMem x.at_.core s.mem) pa n) pa [x.nextId] := chunkRead_sight h hn hr (sight_home hc false cp)

theorem chunkRead_bad {s : State} {x : Site} (h : ReadsCommitted x.spot) {cp pa key ea n k c} (hn : n ≠ 0)
    (hr : s.readFault pa key k = some c) : s.chunkRead x .device cp pa n key ea k = .bad s c := by
  obtain ⟨h1, h2, h3⟩ := h
  simp [State.chunkRead, holds_none h1 h2 _ _ _ _ _ hn, hr]

/-- What an S load takes when its lane has no earlier pass in flight: what its core sees of the line. -/
theorem streamBytes_first {s : State} {x : Site} (h : x.spot.lane.earlier x.spot.pass.id = []) (pa n cp) :
    s.streamBytes x pa n cp = (Memory.readBytes (s.sight x.at_.core (pa / 64) true cp).1 pa n, (s.sight x.at_.core (pa / 64) true cp).2) := by
  simp [State.streamBytes, State.prePassByte, h, readBytes_range, State.committedByte, State.byteAt]

theorem address_scratch {s : State} {core ctx ea align k} (h1 : ea % align = 0) (h2 : ea < 2 ^ 20)
    (h3 : s.scratchBank core ctx (ea / 32768) = true) : s.address core ctx .p ea align k = (.scratch ea, s) := by
  have h2 : ea < 1048576 := h2
  simp [State.address, h1, h2, h3]

theorem address_scratch_misaligned {s : State} {core ctx ea align k} (h1 : ea % align ≠ 0) :
    s.address core ctx .p ea align k = (.bad (memCause k reasonMisaligned), s) := by
  simp [State.address, h1]

theorem address_scratch_outside {s : State} {core ctx ea align k} (h1 : ea % align = 0)
    (h : ¬(ea < 2 ^ 20 ∧ s.scratchBank core ctx (ea / 32768) = true)) :
    s.address core ctx .p ea align k = (.bad (memCause k reasonBounds), s) := by
  simp only [State.address, h1, ne_eq, not_true, decide_false, Bool.false_eq_true, if_false]
  rw [if_neg (by simpa using h)]

theorem address_device {s t : State} {core ctx cls ea align k pa key} (hc : cls ≠ .p) (h1 : ea % align = 0) (h2 : ea < 2 ^ 57)
    (ht : translate s ctx ea k = (.ok pa key .device, t)) :
    s.address core ctx cls ea align k =
      (if t.lockedFor pa (k ≠ .load) then .bad (memCause k reasonLocked) else .device pa key, t) := by
  cases cls <;> simp [State.address, h1, show ¬ 144115188075855872 ≤ ea from Nat.not_le.mpr h2, ht] at hc ⊢ <;> split <;> rfl

theorem address_outside {s t : State} {core ctx cls ea align k pa key} (hc : cls ≠ .p) (h1 : ea % align = 0) (h2 : ea < 2 ^ 57)
    (ht : translate s ctx ea k = (.ok pa key .outside, t)) :
    s.address core ctx cls ea align k = (.outside pa, t) := by
  cases cls <;> simp [State.address, h1, show ¬ 144115188075855872 ≤ ea from Nat.not_le.mpr h2, ht] at hc ⊢

/-! ### Reads and writes -/

@[simp] theorem unspecified_false (s : State) (ctx : Nat) (bs : List Byte) : s.unspecified false ctx bs = (bs, s) := rfl

/-- A read of the siding changes the counter of free values alone. -/
theorem unspecified_state (s : State) (free : Bool) (ctx : Nat) (bs : List Byte) :
    (s.unspecified free ctx bs).2 = { s with freeCtr := (s.unspecified free ctx bs).2.freeCtr } := by
  cases free <;> rfl

@[simp] theorem found_unspecified_bad (s : State) (c : Nat) (free : Bool) (ctx : Nat) :
    (Found.bad s c).unspecified free ctx = .bad s c := rfl

@[simp] theorem found_unspecified_wait (free : Bool) (ctx : Nat) : Found.wait.unspecified free ctx = .wait := rfl

@[simp] theorem found_unspecified_got (s : State) (bs : List Byte) (pa : Nat) (ids : List Nat) (free : Bool) (ctx : Nat) :
    (Found.got s bs pa ids).unspecified free ctx = .got (s.unspecified free ctx bs).2 (s.unspecified free ctx bs).1 pa ids := rfl

/-- No BANKMODE of an earlier uncommitted pass of the core names the bank of an address. -/
def BankSettled (x : Site) (ea : Nat) : Prop := x.bankWaits (ea / 32768) = false

theorem readAt_scratch {s : State} {x : Site} (h : ReadsCommitted x.spot) (hc : x.spot.lane.core = x.at_.core) {ea n align cp k}
    (hb : BankSettled x ea) (h1 : ea % align = 0) (h2 : ea < 2 ^ 20) (h3 : s.scratchBank x.at_.core x.at_.ctx (ea / 32768) = true) :
    s.readAt x .p cp ea n align k =
      .got (s.access x .scratch ea n 0 ea .load) (s.scratchBytes x.at_.core ea n) ea [x.nextId] := by
  simp [State.readAt, Site.scratchWaits, show x.bankWaits (ea / 32768) = false from hb, address_scratch h1 h2 h3,
    chunkRead_scratch h hc]

theorem readAt_scratch_misaligned {s : State} {x : Site} {ea n align cp k} (hb : BankSettled x ea) (h1 : ea % align ≠ 0) :
    s.readAt x .p cp ea n align k = .bad s (memCause k reasonMisaligned) := by
  simp [State.readAt, Site.scratchWaits, show x.bankWaits (ea / 32768) = false from hb, address_scratch_misaligned h1]

theorem readAt_scratch_outside {s : State} {x : Site} {ea n align cp k} (hb : BankSettled x ea) (h1 : ea % align = 0)
    (h : ¬(ea < 2 ^ 20 ∧ s.scratchBank x.at_.core x.at_.ctx (ea / 32768) = true)) :
    s.readAt x .p cp ea n align k = .bad s (memCause k reasonBounds) := by
  simp [State.readAt, Site.scratchWaits, show x.bankWaits (ea / 32768) = false from hb, address_scratch_outside h1 h]

theorem readAt_device {s t : State} {x : Site} (h : ReadsCommitted x.spot) {ea n align cp pa key}
    (h1 : ea % align = 0) (h2 : ea < 2 ^ 57) (ht : translate s x.at_.ctx ea .load = (.ok pa key .device, t))
    (hl : t.lockedFor pa false = false) (hn : n ≠ 0) (hr : t.readFault pa key .load = none)
    (hc : t.copyOf x.at_.core (pa / 64) = none) :
    s.readAt x .g cp ea n align .load =
      (Found.got ((t.refreshCopy x.at_.core (pa / 64) false cp).access x .device pa n key ea .load)
        (Memory.readBytes (t.seenMem x.at_.core t.mem) pa n) pa [x.nextId]).unspecified (s.inSiding x.at_.ctx ea) x.at_.ctx := by
  simp [State.readAt, Site.scratchWaits, address_device (core := x.at_.core) (cls := .g) (by simp) h1 h2 ht, hl,
    chunkRead_device h hn hr hc]

theorem readAt_device_locked {s t : State} {x : Site} {ea n align cp pa key}
    (h1 : ea % align = 0) (h2 : ea < 2 ^ 57) (ht : translate s x.at_.ctx ea .load = (.ok pa key .device, t))
    (hl : t.lockedFor pa false = true) : s.readAt x .g cp ea n align .load = .bad t (memCause .load reasonLocked) := by
  simp [State.readAt, Site.scratchWaits, address_device (core := x.at_.core) (cls := .g) (by simp) h1 h2 ht, hl]

theorem readAt_device_fault {s t : State} {x : Site} (h : ReadsCommitted x.spot) {ea n align cp pa key c}
    (h1 : ea % align = 0) (h2 : ea < 2 ^ 57) (ht : translate s x.at_.ctx ea .load = (.ok pa key .device, t))
    (hl : t.lockedFor pa false = false) (hn : n ≠ 0) (hr : t.readFault pa key .load = some c) :
    s.readAt x .g cp ea n align .load = .bad t c := by
  simp [State.readAt, Site.scratchWaits, address_device (core := x.at_.core) (cls := .g) (by simp) h1 h2 ht, hl, chunkRead_bad h hn hr]

theorem writeAt_scratch {s : State} {x : Site} {scope cp ea align bytes reads ts out} (hb : BankSettled x ea) (h1 : ea % align = 0) (h2 : ea < 2 ^ 20)
    (h3 : s.scratchBank x.at_.core x.at_.ctx (ea / 32768) = true) :
    s.writeAt x .p scope cp ea align bytes reads ts out =
      (match s.countLines x [lineKey x.at_.core .scratch ea] with
       | none => .bad s cStoreOverrun ea
       | some u => .ok (u.access x .scratch ea bytes.length 0 ea (.store bytes reads)) out [x.nextId]) := by
  simp [State.writeAt, Site.scratchWaits, show x.bankWaits (ea / 32768) = false from hb, address_scratch h1 h2 h3] <;> rfl

theorem writeAt_device {s t : State} {x : Site} {scope cp ea align bytes reads ts out pa key} (h1 : ea % align = 0) (h2 : ea < 2 ^ 57)
    (ht : translate s x.at_.ctx ea .store = (.ok pa key .device, t)) (hl : t.lockedFor pa true = false) :
    s.writeAt x .g scope cp ea align bytes reads ts out =
      (match t.countLines x [lineKey x.at_.core .device pa] with
       | none => .bad t cStoreOverrun ea
       | some u => .ok ((u.fillCopy x.at_.core (pa / 64) false cp).access x .device pa bytes.length key ea (.store bytes reads)) out [x.nextId]) := by
  simp [State.writeAt, Site.scratchWaits, address_device (core := x.at_.core) (cls := .g) (by simp) h1 h2 ht, hl] <;> rfl

theorem writeAt_stream {s t : State} {x : Site} {scope cp ea align bytes reads ts out pa key} (h1 : ea % align = 0) (h2 : ea < 2 ^ 57)
    (ht : translate s x.at_.ctx ea .store = (.ok pa key .device, t)) (hl : t.lockedFor pa true = false) :
    s.writeAt x .s scope cp ea align bytes reads ts out =
      .ok ((t.fillCopy x.at_.core (pa / 64) false cp).defer x.at_ x.deps (fun _ => .sStore ea pa key bytes scope)) out [x.nextId] := by
  simp [State.writeAt, Site.scratchWaits, address_device (core := x.at_.core) (cls := .s) (by simp) h1 h2 ht, hl]

theorem writeAt_outside {s t : State} {x : Site} {cls scope cp ea align bytes reads ts out pa key} (hc : cls ≠ .p)
    (h1 : ea % align = 0) (h2 : ea < 2 ^ 57) (ht : translate s x.at_.ctx ea .store = (.ok pa key .outside, t)) :
    s.writeAt x cls scope cp ea align bytes reads ts out =
      .ok (t.defer x.at_ x.deps (fun _ => .hostStore ea pa bytes)) out [x.nextId] := by
  simp [State.writeAt, Site.scratchWaits, hc, address_outside hc h1 h2 ht]

end Sys2Proof.Machine
end

