-- ==== Sys2Proof/Laws/Memory.lean ====
section
/-! SUPPORT. Memory as a list of cells: a read after a write, and that every operation keeps the canonical form. -/

namespace Sys2Proof.Machine

/-! ### The canonical form -/

theorem Memory.wfFrom_cons {lo c m} :
    Memory.wfFrom lo (c :: m) = true ↔ (∀ l, lo = some l → l < c.1) ∧ c.2 ≠ 0 ∧ Memory.wfFrom (some c.1) m = true := by
  cases lo <;> simp [Memory.wfFrom, and_assoc]

/-- What a bound below the first address says. -/
theorem Memory.wfFrom_none {lo m} (h : Memory.wfFrom lo m = true) : Memory.wfFrom none m = true := by
  cases m with
  | nil => rfl
  | cons c m =>
    rw [Memory.wfFrom_cons] at h ⊢
    exact ⟨(fun _ h => by cases h), h.2⟩

theorem Memory.wfFrom_mono {l k m} (h : Memory.wfFrom (some l) m = true) (hk : k ≤ l) : Memory.wfFrom (some k) m = true := by
  cases m with
  | nil => rfl
  | cons c m =>
    rw [Memory.wfFrom_cons] at h ⊢
    exact ⟨fun j hj => by cases hj; have := h.1 l rfl; omega, h.2⟩

/-- A bound below a bound. -/
theorem Memory.wfFrom_skip {lo n m} (h : Memory.wfFrom (some n) m = true) (hl : ∀ l, lo = some l → l < n) :
    Memory.wfFrom lo m = true := by
  cases lo with
  | none => exact Memory.wfFrom_none h
  | some l => exact Memory.wfFrom_mono h (Nat.le_of_lt (hl l rfl))

/-- An address at or below the bound is not listed. -/
theorem Memory.read_below {l m a} (h : Memory.wfFrom (some l) m = true) (ha : a ≤ l) : Memory.read m a = 0 := by
  induction m generalizing l with
  | nil => rfl
  | cons c m ih =>
    rw [Memory.wfFrom_cons] at h
    have := h.1 l rfl
    rw [Memory.read, if_neg (by omega)]
    exact ih h.2.2 (by omega)

theorem Memory.wfFrom_write {lo m a b} (h : Memory.wfFrom lo m = true) (hl : ∀ l, lo = some l → l < a) :
    Memory.wfFrom lo (Memory.write m a b) = true := by
  induction m generalizing lo with
  | nil =>
    unfold Memory.write
    split
    · rfl
    · next hb => exact Memory.wfFrom_cons.2 ⟨hl, hb, rfl⟩
  | cons c m ih =>
    obtain ⟨h1, h2, h3⟩ := Memory.wfFrom_cons.1 h
    unfold Memory.write
    split
    · next hc => exact Memory.wfFrom_cons.2 ⟨h1, h2, ih h3 (fun l hl => by cases hl; exact hc)⟩
    · split
      · next hc ha =>
        split
        · exact Memory.wfFrom_skip h3 h1
        · next hb => exact Memory.wfFrom_cons.2 ⟨hl, hb, ha ▸ h3⟩
      · next hc ha =>
        split
        · exact h
        · next hb =>
          exact Memory.wfFrom_cons.2 ⟨hl, hb, Memory.wfFrom_cons.2 ⟨fun l hl => by cases hl; simp only at *; omega, h2, h3⟩⟩

theorem Memory.wf_write {m} (a b) (h : Memory.wf m = true) : Memory.wf (Memory.write m a b) = true :=
  Memory.wfFrom_write h (fun _ h => by cases h)

theorem Memory.wf_writeBytes {m} (a bs) (h : Memory.wf m = true) : Memory.wf (Memory.writeBytes m a bs) = true := by
  induction bs generalizing m a with
  | nil => exact h
  | cons b bs ih => exact ih (a + 1) (Memory.wf_write a b h)

theorem Memory.wfFrom_filter {lo m} (p : Host.Cell → Bool) (h : Memory.wfFrom lo m = true) : Memory.wfFrom lo (m.filter p) = true := by
  induction m generalizing lo with
  | nil => rfl
  | cons c m ih =>
    obtain ⟨h1, h2, h3⟩ := Memory.wfFrom_cons.1 h
    rw [List.filter_cons]
    split
    · exact Memory.wfFrom_cons.2 ⟨h1, h2, ih h3⟩
    · exact Memory.wfFrom_skip (ih h3) h1

theorem Memory.wf_clear {m} (a n) (h : Memory.wf m = true) : Memory.wf (Memory.clear m a n) = true := Memory.wfFrom_filter _ h

/-! ### Reading after writing -/

theorem Memory.read_write_same {m} (a b) (h : Memory.wf m = true) : Memory.read (Memory.write m a b) a = b := by
  suffices ∀ lo, Memory.wfFrom lo m = true → Memory.read (Memory.write m a b) a = b from this none h
  clear h
  induction m with
  | nil =>
    intro lo _
    unfold Memory.write
    split
    · next hb => exact hb.symm
    · simp [Memory.read]
  | cons c m ih =>
    intro lo h
    replace h := (Memory.wfFrom_cons.1 h).2
    unfold Memory.write
    split
    · next hc => rw [Memory.read, if_neg (by omega)]; exact ih _ h.2
    · split
      · next hc ha =>
        split
        · next hb => rw [hb]; exact Memory.read_below h.2 (by omega)
        · simp [Memory.read]
      · next hc ha =>
        split
        · next hb => rw [Memory.read, if_neg ha, hb]; exact Memory.read_below h.2 (by omega)
        · simp [Memory.read]

theorem Memory.read_write_other {m a b x} (hx : x ≠ a) : Memory.read (Memory.write m a b) x = Memory.read m x := by
  induction m with
  | nil =>
    unfold Memory.write
    split
    · rfl
    · simp [Memory.read, Ne.symm hx]
  | cons c m ih =>
    unfold Memory.write
    split
    · simp only [Memory.read, ih]
    · split
      · next ha =>
        split
        · rw [Memory.read, if_neg (by omega)]
        · simp [Memory.read, Ne.symm hx, ha]
      · split
        · rfl
        · simp [Memory.read, Ne.symm hx]

/-- A write of bytes leaves every other address alone. -/
theorem Memory.read_writeBytes_other {m a bs x} (hx : x < a ∨ a + bs.length ≤ x) :
    Memory.read (Memory.writeBytes m a bs) x = Memory.read m x := by
  induction bs generalizing m a with
  | nil => rfl
  | cons b bs ih =>
    simp only [List.length_cons] at hx
    rw [Memory.writeBytes, ih (by omega), Memory.read_write_other (by omega)]

/-- A write of bytes is read back. -/
theorem Memory.read_writeBytes_same {m a bs} (k : Nat) (h : Memory.wf m = true) (hk : k < bs.length) :
    Memory.read (Memory.writeBytes m a bs) (a + k) = bs[k] := by
  induction bs generalizing m a k with
  | nil => cases hk
  | cons b bs ih =>
    cases k with
    | zero => rw [Memory.writeBytes, Memory.read_writeBytes_other (by omega)]; exact Memory.read_write_same a b h
    | succ k =>
      have := ih (m := Memory.write m a b) (a := a + 1) k (Memory.wf_write a b h) (by simpa using hk)
      rw [Memory.writeBytes, List.getElem_cons_succ, ← this]
      congr 1
      omega

theorem Memory.read_clear {m a n x} : Memory.read (Memory.clear m a n) x = if a ≤ x ∧ x < a + n then 0 else Memory.read m x := by
  induction m with
  | nil => simp [Memory.clear, Memory.read]
  | cons c m ih =>
    unfold Memory.clear at ih ⊢
    rw [List.filter_cons]
    split
    · next hc =>
      simp only [Bool.or_eq_true, decide_eq_true_eq] at hc
      rw [Memory.read, Memory.read, ih]
      split
      · next hx => rw [if_neg (by omega)]
      · rfl
    · next hc =>
      simp only [Bool.or_eq_true, decide_eq_true_eq] at hc
      rw [ih, Memory.read]
      split
      · rfl
      · next hx => rw [if_neg (by omega)]

/-- Two memories in canonical form that read alike are equal. -/
theorem Memory.ext_of_read {m m' : List Host.Cell} (h : Memory.wf m = true) (h' : Memory.wf m' = true)
    (he : ∀ a, Memory.read m a = Memory.read m' a) : m = m' := by
  suffices ∀ lo lo', Memory.wfFrom lo m = true → Memory.wfFrom lo' m' = true → m = m' from this none none h h'
  clear h h'
  induction m generalizing m' with
  | nil =>
    intro lo lo' _ h'
    cases m' with
    | nil => rfl
    | cons c m' =>
      have := he c.1
      simp only [Memory.read, if_true] at this
      exact absurd this.symm (Memory.wfFrom_cons.1 h').2.1
  | cons c m ih =>
    intro lo lo' h h'
    obtain ⟨_, h2, h3⟩ := Memory.wfFrom_cons.1 h
    cases m' with
    | nil =>
      have := he c.1
      simp only [Memory.read, if_true] at this
      exact absurd this h2
    | cons d m' =>
      obtain ⟨_, h2', h3'⟩ := Memory.wfFrom_cons.1 h'
      have hc := he c.1
      have hd := he d.1
      simp only [Memory.read, if_true] at hc hd
      have h1 : c.1 = d.1 := by
        rcases Nat.lt_trichotomy c.1 d.1 with hlt | heq | hgt
        · rw [if_neg (by omega), Memory.read_below h3' (by omega)] at hc
          exact absurd hc h2
        · exact heq
        · rw [if_neg (by omega), Memory.read_below h3 (by omega)] at hd
          exact absurd hd.symm h2'
      rw [if_pos h1.symm] at hc
      obtain rfl : c = d := Prod.ext h1 hc
      refine congrArg _ (ih (fun a => ?_) _ _ h3 h3')
      by_cases ha : a ≤ c.1
      · rw [Memory.read_below h3 ha, Memory.read_below h3' ha]
      · have := he a
        simp only [Memory.read] at this
        rwa [if_neg (by omega), if_neg (by omega)] at this

/-! ### Bytes read together -/

@[simp] theorem Memory.readBytes_length (m a n) : (Memory.readBytes m a n).length = n := by
  induction n generalizing a with
  | zero => rfl
  | succ n ih => simp [Memory.readBytes, ih]

@[simp] theorem leBytes_length (n v) : (leBytes n v).length = n := by
  induction n generalizing v with
  | zero => rfl
  | succ n ih => simp [leBytes, ih]

/-- The number of `n` bytes of a number is that number modulo 2^(8n). -/
theorem leNat_leBytes (n v : Nat) : leNat (leBytes n v) = v % 256 ^ n := by
  induction n generalizing v with
  | zero => simp [leBytes, leNat, Nat.mod_one]
  | succ n ih =>
    rw [leBytes, leNat, ih, BitVec.toNat_ofNat, show (256 : Nat) ^ (n + 1) = 2 ^ 8 * 256 ^ n by rw [Nat.pow_succ, Nat.mul_comm]; norm_num, Nat.mod_mul]
    norm_num

/-- A fold of writes keeps the canonical form. -/
theorem Memory.wf_foldl {α : Type} (f : List Host.Cell → α → List Host.Cell) (hf : ∀ m x, Memory.wf m = true → Memory.wf (f m x) = true)
    (xs : List α) {m} (h : Memory.wf m = true) : Memory.wf (xs.foldl f m) = true := by
  induction xs generalizing m with
  | nil => exact h
  | cons x xs ih => exact ih (hf m x h)

end Sys2Proof.Machine
end

