-- ==== Sys2Proof/Laws/State.lean ====
section
/-! SUPPORT. The laws of the updates of State: one lemma per field per update, and what a lookup finds after an update. -/

namespace Sys2Proof.Machine

/-! ### updLane changes lanes alone -/

@[simp] theorem State.updLane_moves (s : State) (c x : Nat) (f : Lane → Lane) : (s.updLane c x f).moves = s.moves := rfl
@[simp] theorem State.updLane_freeCtr (s : State) (c x : Nat) (f : Lane → Lane) : (s.updLane c x f).freeCtr = s.freeCtr := rfl
@[simp] theorem State.updLane_cur (s : State) (c x : Nat) (f : Lane → Lane) : (s.updLane c x f).cur = s.cur := rfl
@[simp] theorem State.updLane_resp (s : State) (c x : Nat) (f : Lane → Lane) : (s.updLane c x f).resp = s.resp := rfl
@[simp] theorem State.updLane_mem (s : State) (c x : Nat) (f : Lane → Lane) : (s.updLane c x f).mem = s.mem := rfl
@[simp] theorem State.updLane_integrity (s : State) (c x : Nat) (f : Lane → Lane) : (s.updLane c x f).integrity = s.integrity := rfl
@[simp] theorem State.updLane_keys (s : State) (c x : Nat) (f : Lane → Lane) : (s.updLane c x f).keys = s.keys := rfl
@[simp] theorem State.updLane_tlb (s : State) (c x : Nat) (f : Lane → Lane) : (s.updLane c x f).tlb = s.tlb := rfl
@[simp] theorem State.updLane_cores (s : State) (c x : Nat) (f : Lane → Lane) : (s.updLane c x f).cores = s.cores := rfl
@[simp] theorem State.updLane_arbiters (s : State) (c x : Nat) (f : Lane → Lane) : (s.updLane c x f).arbiters = s.arbiters := rfl
@[simp] theorem State.updLane_broadcasts (s : State) (c x : Nat) (f : Lane → Lane) : (s.updLane c x f).broadcasts = s.broadcasts := rfl
@[simp] theorem State.updLane_byteTracked (s : State) (c x : Nat) (f : Lane → Lane) : (s.updLane c x f).byteTracked = s.byteTracked := rfl
@[simp] theorem State.updLane_soloQueue (s : State) (c x : Nat) (f : Lane → Lane) : (s.updLane c x f).soloQueue = s.soloQueue := rfl
@[simp] theorem State.updLane_soloHolder (s : State) (c x : Nat) (f : Lane → Lane) : (s.updLane c x f).soloHolder = s.soloHolder := rfl
@[simp] theorem State.updLane_regionQueue (s : State) (c x : Nat) (f : Lane → Lane) : (s.updLane c x f).regionQueue = s.regionQueue := rfl
@[simp] theorem State.updLane_regions (s : State) (c x : Nat) (f : Lane → Lane) : (s.updLane c x f).regions = s.regions := rfl
@[simp] theorem State.updLane_locks (s : State) (c x : Nat) (f : Lane → Lane) : (s.updLane c x f).locks = s.locks := rfl
@[simp] theorem State.updLane_waitingLocks (s : State) (c x : Nat) (f : Lane → Lane) : (s.updLane c x f).waitingLocks = s.waitingLocks := rfl
@[simp] theorem State.updLane_reserved (s : State) (c x : Nat) (f : Lane → Lane) : (s.updLane c x f).reserved = s.reserved := rfl
@[simp] theorem State.updLane_copies (s : State) (c x : Nat) (f : Lane → Lane) : (s.updLane c x f).copies = s.copies := rfl
@[simp] theorem State.updLane_nextCopy (s : State) (c x : Nat) (f : Lane → Lane) : (s.updLane c x f).nextCopy = s.nextCopy := rfl
@[simp] theorem State.updLane_migrations (s : State) (c x : Nat) (f : Lane → Lane) : (s.updLane c x f).migrations = s.migrations := rfl
@[simp] theorem State.updLane_nextMigration (s : State) (c x : Nat) (f : Lane → Lane) : (s.updLane c x f).nextMigration = s.nextMigration := rfl
@[simp] theorem State.updLane_shootdowns (s : State) (c x : Nat) (f : Lane → Lane) : (s.updLane c x f).shootdowns = s.shootdowns := rfl
@[simp] theorem State.updLane_nextShootdown (s : State) (c x : Nat) (f : Lane → Lane) : (s.updLane c x f).nextShootdown = s.nextShootdown := rfl
@[simp] theorem State.updLane_cxl (s : State) (c x : Nat) (f : Lane → Lane) : (s.updLane c x f).cxl = s.cxl := rfl
@[simp] theorem State.updLane_hosts (s : State) (c x : Nat) (f : Lane → Lane) : (s.updLane c x f).hosts = s.hosts := rfl
@[simp] theorem State.updLane_couplers (s : State) (c x : Nat) (f : Lane → Lane) : (s.updLane c x f).couplers = s.couplers := rfl
@[simp] theorem State.updLane_sessions (s : State) (c x : Nat) (f : Lane → Lane) : (s.updLane c x f).sessions = s.sessions := rfl
@[simp] theorem State.updLane_posted (s : State) (c x : Nat) (f : Lane → Lane) : (s.updLane c x f).posted = s.posted := rfl
@[simp] theorem State.updLane_guards (s : State) (c x : Nat) (f : Lane → Lane) : (s.updLane c x f).guards = s.guards := rfl
@[simp] theorem State.updLane_corrected (s : State) (c x : Nat) (f : Lane → Lane) : (s.updLane c x f).corrected = s.corrected := rfl
@[simp] theorem State.updLane_mishap (s : State) (c x : Nat) (f : Lane → Lane) : (s.updLane c x f).mishap = s.mishap := rfl
@[simp] theorem State.updLane_hostSent (s : State) (c x : Nat) (f : Lane → Lane) : (s.updLane c x f).hostSent = s.hostSent := rfl
@[simp] theorem State.updLane_io (s : State) (c x : Nat) (f : Lane → Lane) : (s.updLane c x f).io = s.io := rfl
@[simp] theorem State.updLane_contexts (s : State) (c x : Nat) (f : Lane → Lane) : (s.updLane c x f).contexts = s.contexts := rfl
@[simp] theorem State.updLane_functions (s : State) (c x : Nat) (f : Lane → Lane) : (s.updLane c x f).functions = s.functions := rfl
@[simp] theorem State.updLane_firmware (s : State) (c x : Nat) (f : Lane → Lane) : (s.updLane c x f).firmware = s.firmware := rfl
@[simp] theorem State.updLane_commands (s : State) (c x : Nat) (f : Lane → Lane) : (s.updLane c x f).commands = s.commands := rfl
@[simp] theorem State.updLane_identity (s : State) (c x : Nat) (f : Lane → Lane) : (s.updLane c x f).identity = s.identity := rfl
@[simp] theorem State.updLane_tarat (s : State) (c x : Nat) (f : Lane → Lane) : (s.updLane c x f).tarat = s.tarat := rfl

/-! ### updLanes changes lanes alone -/

@[simp] theorem State.updLanes_moves (s : State) (x : Nat) (f : Lane → Lane) : (s.updLanes x f).moves = s.moves := rfl
@[simp] theorem State.updLanes_freeCtr (s : State) (x : Nat) (f : Lane → Lane) : (s.updLanes x f).freeCtr = s.freeCtr := rfl
@[simp] theorem State.updLanes_cur (s : State) (x : Nat) (f : Lane → Lane) : (s.updLanes x f).cur = s.cur := rfl
@[simp] theorem State.updLanes_resp (s : State) (x : Nat) (f : Lane → Lane) : (s.updLanes x f).resp = s.resp := rfl
@[simp] theorem State.updLanes_mem (s : State) (x : Nat) (f : Lane → Lane) : (s.updLanes x f).mem = s.mem := rfl
@[simp] theorem State.updLanes_integrity (s : State) (x : Nat) (f : Lane → Lane) : (s.updLanes x f).integrity = s.integrity := rfl
@[simp] theorem State.updLanes_keys (s : State) (x : Nat) (f : Lane → Lane) : (s.updLanes x f).keys = s.keys := rfl
@[simp] theorem State.updLanes_tlb (s : State) (x : Nat) (f : Lane → Lane) : (s.updLanes x f).tlb = s.tlb := rfl
@[simp] theorem State.updLanes_cores (s : State) (x : Nat) (f : Lane → Lane) : (s.updLanes x f).cores = s.cores := rfl
@[simp] theorem State.updLanes_arbiters (s : State) (x : Nat) (f : Lane → Lane) : (s.updLanes x f).arbiters = s.arbiters := rfl
@[simp] theorem State.updLanes_broadcasts (s : State) (x : Nat) (f : Lane → Lane) : (s.updLanes x f).broadcasts = s.broadcasts := rfl
@[simp] theorem State.updLanes_byteTracked (s : State) (x : Nat) (f : Lane → Lane) : (s.updLanes x f).byteTracked = s.byteTracked := rfl
@[simp] theorem State.updLanes_soloQueue (s : State) (x : Nat) (f : Lane → Lane) : (s.updLanes x f).soloQueue = s.soloQueue := rfl
@[simp] theorem State.updLanes_soloHolder (s : State) (x : Nat) (f : Lane → Lane) : (s.updLanes x f).soloHolder = s.soloHolder := rfl
@[simp] theorem State.updLanes_regionQueue (s : State) (x : Nat) (f : Lane → Lane) : (s.updLanes x f).regionQueue = s.regionQueue := rfl
@[simp] theorem State.updLanes_regions (s : State) (x : Nat) (f : Lane → Lane) : (s.updLanes x f).regions = s.regions := rfl
@[simp] theorem State.updLanes_locks (s : State) (x : Nat) (f : Lane → Lane) : (s.updLanes x f).locks = s.locks := rfl
@[simp] theorem State.updLanes_waitingLocks (s : State) (x : Nat) (f : Lane → Lane) : (s.updLanes x f).waitingLocks = s.waitingLocks := rfl
@[simp] theorem State.updLanes_reserved (s : State) (x : Nat) (f : Lane → Lane) : (s.updLanes x f).reserved = s.reserved := rfl
@[simp] theorem State.updLanes_copies (s : State) (x : Nat) (f : Lane → Lane) : (s.updLanes x f).copies = s.copies := rfl
@[simp] theorem State.updLanes_nextCopy (s : State) (x : Nat) (f : Lane → Lane) : (s.updLanes x f).nextCopy = s.nextCopy := rfl
@[simp] theorem State.updLanes_migrations (s : State) (x : Nat) (f : Lane → Lane) : (s.updLanes x f).migrations = s.migrations := rfl
@[simp] theorem State.updLanes_nextMigration (s : State) (x : Nat) (f : Lane → Lane) : (s.updLanes x f).nextMigration = s.nextMigration := rfl
@[simp] theorem State.updLanes_shootdowns (s : State) (x : Nat) (f : Lane → Lane) : (s.updLanes x f).shootdowns = s.shootdowns := rfl
@[simp] theorem State.updLanes_nextShootdown (s : State) (x : Nat) (f : Lane → Lane) : (s.updLanes x f).nextShootdown = s.nextShootdown := rfl
@[simp] theorem State.updLanes_cxl (s : State) (x : Nat) (f : Lane → Lane) : (s.updLanes x f).cxl = s.cxl := rfl
@[simp] theorem State.updLanes_hosts (s : State) (x : Nat) (f : Lane → Lane) : (s.updLanes x f).hosts = s.hosts := rfl
@[simp] theorem State.updLanes_couplers (s : State) (x : Nat) (f : Lane → Lane) : (s.updLanes x f).couplers = s.couplers := rfl
@[simp] theorem State.updLanes_sessions (s : State) (x : Nat) (f : Lane → Lane) : (s.updLanes x f).sessions = s.sessions := rfl
@[simp] theorem State.updLanes_posted (s : State) (x : Nat) (f : Lane → Lane) : (s.updLanes x f).posted = s.posted := rfl
@[simp] theorem State.updLanes_guards (s : State) (x : Nat) (f : Lane → Lane) : (s.updLanes x f).guards = s.guards := rfl
@[simp] theorem State.updLanes_corrected (s : State) (x : Nat) (f : Lane → Lane) : (s.updLanes x f).corrected = s.corrected := rfl
@[simp] theorem State.updLanes_mishap (s : State) (x : Nat) (f : Lane → Lane) : (s.updLanes x f).mishap = s.mishap := rfl
@[simp] theorem State.updLanes_hostSent (s : State) (x : Nat) (f : Lane → Lane) : (s.updLanes x f).hostSent = s.hostSent := rfl
@[simp] theorem State.updLanes_io (s : State) (x : Nat) (f : Lane → Lane) : (s.updLanes x f).io = s.io := rfl
@[simp] theorem State.updLanes_contexts (s : State) (x : Nat) (f : Lane → Lane) : (s.updLanes x f).contexts = s.contexts := rfl
@[simp] theorem State.updLanes_functions (s : State) (x : Nat) (f : Lane → Lane) : (s.updLanes x f).functions = s.functions := rfl
@[simp] theorem State.updLanes_firmware (s : State) (x : Nat) (f : Lane → Lane) : (s.updLanes x f).firmware = s.firmware := rfl
@[simp] theorem State.updLanes_commands (s : State) (x : Nat) (f : Lane → Lane) : (s.updLanes x f).commands = s.commands := rfl
@[simp] theorem State.updLanes_identity (s : State) (x : Nat) (f : Lane → Lane) : (s.updLanes x f).identity = s.identity := rfl
@[simp] theorem State.updLanes_tarat (s : State) (x : Nat) (f : Lane → Lane) : (s.updLanes x f).tarat = s.tarat := rfl

/-! ### updCore changes cores alone -/

@[simp] theorem State.updCore_moves (s : State) (c : Nat) (f : CoreState → CoreState) : (s.updCore c f).moves = s.moves := rfl
@[simp] theorem State.updCore_freeCtr (s : State) (c : Nat) (f : CoreState → CoreState) : (s.updCore c f).freeCtr = s.freeCtr := rfl
@[simp] theorem State.updCore_cur (s : State) (c : Nat) (f : CoreState → CoreState) : (s.updCore c f).cur = s.cur := rfl
@[simp] theorem State.updCore_resp (s : State) (c : Nat) (f : CoreState → CoreState) : (s.updCore c f).resp = s.resp := rfl
@[simp] theorem State.updCore_mem (s : State) (c : Nat) (f : CoreState → CoreState) : (s.updCore c f).mem = s.mem := rfl
@[simp] theorem State.updCore_integrity (s : State) (c : Nat) (f : CoreState → CoreState) : (s.updCore c f).integrity = s.integrity := rfl
@[simp] theorem State.updCore_keys (s : State) (c : Nat) (f : CoreState → CoreState) : (s.updCore c f).keys = s.keys := rfl
@[simp] theorem State.updCore_tlb (s : State) (c : Nat) (f : CoreState → CoreState) : (s.updCore c f).tlb = s.tlb := rfl
@[simp] theorem State.updCore_lanes (s : State) (c : Nat) (f : CoreState → CoreState) : (s.updCore c f).lanes = s.lanes := rfl
@[simp] theorem State.updCore_arbiters (s : State) (c : Nat) (f : CoreState → CoreState) : (s.updCore c f).arbiters = s.arbiters := rfl
@[simp] theorem State.updCore_broadcasts (s : State) (c : Nat) (f : CoreState → CoreState) : (s.updCore c f).broadcasts = s.broadcasts := rfl
@[simp] theorem State.updCore_byteTracked (s : State) (c : Nat) (f : CoreState → CoreState) : (s.updCore c f).byteTracked = s.byteTracked := rfl
@[simp] theorem State.updCore_soloQueue (s : State) (c : Nat) (f : CoreState → CoreState) : (s.updCore c f).soloQueue = s.soloQueue := rfl
@[simp] theorem State.updCore_soloHolder (s : State) (c : Nat) (f : CoreState → CoreState) : (s.updCore c f).soloHolder = s.soloHolder := rfl
@[simp] theorem State.updCore_regionQueue (s : State) (c : Nat) (f : CoreState → CoreState) : (s.updCore c f).regionQueue = s.regionQueue := rfl
@[simp] theorem State.updCore_regions (s : State) (c : Nat) (f : CoreState → CoreState) : (s.updCore c f).regions = s.regions := rfl
@[simp] theorem State.updCore_locks (s : State) (c : Nat) (f : CoreState → CoreState) : (s.updCore c f).locks = s.locks := rfl
@[simp] theorem State.updCore_waitingLocks (s : State) (c : Nat) (f : CoreState → CoreState) : (s.updCore c f).waitingLocks = s.waitingLocks := rfl
@[simp] theorem State.updCore_reserved (s : State) (c : Nat) (f : CoreState → CoreState) : (s.updCore c f).reserved = s.reserved := rfl
@[simp] theorem State.updCore_copies (s : State) (c : Nat) (f : CoreState → CoreState) : (s.updCore c f).copies = s.copies := rfl
@[simp] theorem State.updCore_nextCopy (s : State) (c : Nat) (f : CoreState → CoreState) : (s.updCore c f).nextCopy = s.nextCopy := rfl
@[simp] theorem State.updCore_migrations (s : State) (c : Nat) (f : CoreState → CoreState) : (s.updCore c f).migrations = s.migrations := rfl
@[simp] theorem State.updCore_nextMigration (s : State) (c : Nat) (f : CoreState → CoreState) : (s.updCore c f).nextMigration = s.nextMigration := rfl
@[simp] theorem State.updCore_shootdowns (s : State) (c : Nat) (f : CoreState → CoreState) : (s.updCore c f).shootdowns = s.shootdowns := rfl
@[simp] theorem State.updCore_nextShootdown (s : State) (c : Nat) (f : CoreState → CoreState) : (s.updCore c f).nextShootdown = s.nextShootdown := rfl
@[simp] theorem State.updCore_cxl (s : State) (c : Nat) (f : CoreState → CoreState) : (s.updCore c f).cxl = s.cxl := rfl
@[simp] theorem State.updCore_hosts (s : State) (c : Nat) (f : CoreState → CoreState) : (s.updCore c f).hosts = s.hosts := rfl
@[simp] theorem State.updCore_couplers (s : State) (c : Nat) (f : CoreState → CoreState) : (s.updCore c f).couplers = s.couplers := rfl
@[simp] theorem State.updCore_sessions (s : State) (c : Nat) (f : CoreState → CoreState) : (s.updCore c f).sessions = s.sessions := rfl
@[simp] theorem State.updCore_posted (s : State) (c : Nat) (f : CoreState → CoreState) : (s.updCore c f).posted = s.posted := rfl
@[simp] theorem State.updCore_guards (s : State) (c : Nat) (f : CoreState → CoreState) : (s.updCore c f).guards = s.guards := rfl
@[simp] theorem State.updCore_corrected (s : State) (c : Nat) (f : CoreState → CoreState) : (s.updCore c f).corrected = s.corrected := rfl
@[simp] theorem State.updCore_mishap (s : State) (c : Nat) (f : CoreState → CoreState) : (s.updCore c f).mishap = s.mishap := rfl
@[simp] theorem State.updCore_hostSent (s : State) (c : Nat) (f : CoreState → CoreState) : (s.updCore c f).hostSent = s.hostSent := rfl
@[simp] theorem State.updCore_io (s : State) (c : Nat) (f : CoreState → CoreState) : (s.updCore c f).io = s.io := rfl
@[simp] theorem State.updCore_contexts (s : State) (c : Nat) (f : CoreState → CoreState) : (s.updCore c f).contexts = s.contexts := rfl
@[simp] theorem State.updCore_functions (s : State) (c : Nat) (f : CoreState → CoreState) : (s.updCore c f).functions = s.functions := rfl
@[simp] theorem State.updCore_firmware (s : State) (c : Nat) (f : CoreState → CoreState) : (s.updCore c f).firmware = s.firmware := rfl
@[simp] theorem State.updCore_commands (s : State) (c : Nat) (f : CoreState → CoreState) : (s.updCore c f).commands = s.commands := rfl
@[simp] theorem State.updCore_identity (s : State) (c : Nat) (f : CoreState → CoreState) : (s.updCore c f).identity = s.identity := rfl
@[simp] theorem State.updCore_tarat (s : State) (c : Nat) (f : CoreState → CoreState) : (s.updCore c f).tarat = s.tarat := rfl

/-! ### updCtx changes contexts alone -/

@[simp] theorem State.updCtx_moves (s : State) (x : Nat) (f : Context → Context) : (s.updCtx x f).moves = s.moves := rfl
@[simp] theorem State.updCtx_freeCtr (s : State) (x : Nat) (f : Context → Context) : (s.updCtx x f).freeCtr = s.freeCtr := rfl
@[simp] theorem State.updCtx_cur (s : State) (x : Nat) (f : Context → Context) : (s.updCtx x f).cur = s.cur := rfl
@[simp] theorem State.updCtx_resp (s : State) (x : Nat) (f : Context → Context) : (s.updCtx x f).resp = s.resp := rfl
@[simp] theorem State.updCtx_mem (s : State) (x : Nat) (f : Context → Context) : (s.updCtx x f).mem = s.mem := rfl
@[simp] theorem State.updCtx_integrity (s : State) (x : Nat) (f : Context → Context) : (s.updCtx x f).integrity = s.integrity := rfl
@[simp] theorem State.updCtx_keys (s : State) (x : Nat) (f : Context → Context) : (s.updCtx x f).keys = s.keys := rfl
@[simp] theorem State.updCtx_tlb (s : State) (x : Nat) (f : Context → Context) : (s.updCtx x f).tlb = s.tlb := rfl
@[simp] theorem State.updCtx_cores (s : State) (x : Nat) (f : Context → Context) : (s.updCtx x f).cores = s.cores := rfl
@[simp] theorem State.updCtx_lanes (s : State) (x : Nat) (f : Context → Context) : (s.updCtx x f).lanes = s.lanes := rfl
@[simp] theorem State.updCtx_arbiters (s : State) (x : Nat) (f : Context → Context) : (s.updCtx x f).arbiters = s.arbiters := rfl
@[simp] theorem State.updCtx_broadcasts (s : State) (x : Nat) (f : Context → Context) : (s.updCtx x f).broadcasts = s.broadcasts := rfl
@[simp] theorem State.updCtx_byteTracked (s : State) (x : Nat) (f : Context → Context) : (s.updCtx x f).byteTracked = s.byteTracked := rfl
@[simp] theorem State.updCtx_soloQueue (s : State) (x : Nat) (f : Context → Context) : (s.updCtx x f).soloQueue = s.soloQueue := rfl
@[simp] theorem State.updCtx_soloHolder (s : State) (x : Nat) (f : Context → Context) : (s.updCtx x f).soloHolder = s.soloHolder := rfl
@[simp] theorem State.updCtx_regionQueue (s : State) (x : Nat) (f : Context → Context) : (s.updCtx x f).regionQueue = s.regionQueue := rfl
@[simp] theorem State.updCtx_regions (s : State) (x : Nat) (f : Context → Context) : (s.updCtx x f).regions = s.regions := rfl
@[simp] theorem State.updCtx_locks (s : State) (x : Nat) (f : Context → Context) : (s.updCtx x f).locks = s.locks := rfl
@[simp] theorem State.updCtx_waitingLocks (s : State) (x : Nat) (f : Context → Context) : (s.updCtx x f).waitingLocks = s.waitingLocks := rfl
@[simp] theorem State.updCtx_reserved (s : State) (x : Nat) (f : Context → Context) : (s.updCtx x f).reserved = s.reserved := rfl
@[simp] theorem State.updCtx_copies (s : State) (x : Nat) (f : Context → Context) : (s.updCtx x f).copies = s.copies := rfl
@[simp] theorem State.updCtx_nextCopy (s : State) (x : Nat) (f : Context → Context) : (s.updCtx x f).nextCopy = s.nextCopy := rfl
@[simp] theorem State.updCtx_migrations (s : State) (x : Nat) (f : Context → Context) : (s.updCtx x f).migrations = s.migrations := rfl
@[simp] theorem State.updCtx_nextMigration (s : State) (x : Nat) (f : Context → Context) : (s.updCtx x f).nextMigration = s.nextMigration := rfl
@[simp] theorem State.updCtx_shootdowns (s : State) (x : Nat) (f : Context → Context) : (s.updCtx x f).shootdowns = s.shootdowns := rfl
@[simp] theorem State.updCtx_nextShootdown (s : State) (x : Nat) (f : Context → Context) : (s.updCtx x f).nextShootdown = s.nextShootdown := rfl
@[simp] theorem State.updCtx_cxl (s : State) (x : Nat) (f : Context → Context) : (s.updCtx x f).cxl = s.cxl := rfl
@[simp] theorem State.updCtx_hosts (s : State) (x : Nat) (f : Context → Context) : (s.updCtx x f).hosts = s.hosts := rfl
@[simp] theorem State.updCtx_couplers (s : State) (x : Nat) (f : Context → Context) : (s.updCtx x f).couplers = s.couplers := rfl
@[simp] theorem State.updCtx_sessions (s : State) (x : Nat) (f : Context → Context) : (s.updCtx x f).sessions = s.sessions := rfl
@[simp] theorem State.updCtx_posted (s : State) (x : Nat) (f : Context → Context) : (s.updCtx x f).posted = s.posted := rfl
@[simp] theorem State.updCtx_guards (s : State) (x : Nat) (f : Context → Context) : (s.updCtx x f).guards = s.guards := rfl
@[simp] theorem State.updCtx_corrected (s : State) (x : Nat) (f : Context → Context) : (s.updCtx x f).corrected = s.corrected := rfl
@[simp] theorem State.updCtx_mishap (s : State) (x : Nat) (f : Context → Context) : (s.updCtx x f).mishap = s.mishap := rfl
@[simp] theorem State.updCtx_hostSent (s : State) (x : Nat) (f : Context → Context) : (s.updCtx x f).hostSent = s.hostSent := rfl
@[simp] theorem State.updCtx_io (s : State) (x : Nat) (f : Context → Context) : (s.updCtx x f).io = s.io := rfl
@[simp] theorem State.updCtx_functions (s : State) (x : Nat) (f : Context → Context) : (s.updCtx x f).functions = s.functions := rfl
@[simp] theorem State.updCtx_firmware (s : State) (x : Nat) (f : Context → Context) : (s.updCtx x f).firmware = s.firmware := rfl
@[simp] theorem State.updCtx_commands (s : State) (x : Nat) (f : Context → Context) : (s.updCtx x f).commands = s.commands := rfl
@[simp] theorem State.updCtx_identity (s : State) (x : Nat) (f : Context → Context) : (s.updCtx x f).identity = s.identity := rfl
@[simp] theorem State.updCtx_tarat (s : State) (x : Nat) (f : Context → Context) : (s.updCtx x f).tarat = s.tarat := rfl

/-! ### updPass changes lanes alone -/

@[simp] theorem State.updPass_moves (s : State) (c x p : Nat) (f : Pass → Pass) : (s.updPass c x p f).moves = s.moves := rfl
@[simp] theorem State.updPass_freeCtr (s : State) (c x p : Nat) (f : Pass → Pass) : (s.updPass c x p f).freeCtr = s.freeCtr := rfl
@[simp] theorem State.updPass_cur (s : State) (c x p : Nat) (f : Pass → Pass) : (s.updPass c x p f).cur = s.cur := rfl
@[simp] theorem State.updPass_resp (s : State) (c x p : Nat) (f : Pass → Pass) : (s.updPass c x p f).resp = s.resp := rfl
@[simp] theorem State.updPass_mem (s : State) (c x p : Nat) (f : Pass → Pass) : (s.updPass c x p f).mem = s.mem := rfl
@[simp] theorem State.updPass_integrity (s : State) (c x p : Nat) (f : Pass → Pass) : (s.updPass c x p f).integrity = s.integrity := rfl
@[simp] theorem State.updPass_keys (s : State) (c x p : Nat) (f : Pass → Pass) : (s.updPass c x p f).keys = s.keys := rfl
@[simp] theorem State.updPass_tlb (s : State) (c x p : Nat) (f : Pass → Pass) : (s.updPass c x p f).tlb = s.tlb := rfl
@[simp] theorem State.updPass_cores (s : State) (c x p : Nat) (f : Pass → Pass) : (s.updPass c x p f).cores = s.cores := rfl
@[simp] theorem State.updPass_arbiters (s : State) (c x p : Nat) (f : Pass → Pass) : (s.updPass c x p f).arbiters = s.arbiters := rfl
@[simp] theorem State.updPass_broadcasts (s : State) (c x p : Nat) (f : Pass → Pass) : (s.updPass c x p f).broadcasts = s.broadcasts := rfl
@[simp] theorem State.updPass_byteTracked (s : State) (c x p : Nat) (f : Pass → Pass) : (s.updPass c x p f).byteTracked = s.byteTracked := rfl
@[simp] theorem State.updPass_soloQueue (s : State) (c x p : Nat) (f : Pass → Pass) : (s.updPass c x p f).soloQueue = s.soloQueue := rfl
@[simp] theorem State.updPass_soloHolder (s : State) (c x p : Nat) (f : Pass → Pass) : (s.updPass c x p f).soloHolder = s.soloHolder := rfl
@[simp] theorem State.updPass_regionQueue (s : State) (c x p : Nat) (f : Pass → Pass) : (s.updPass c x p f).regionQueue = s.regionQueue := rfl
@[simp] theorem State.updPass_regions (s : State) (c x p : Nat) (f : Pass → Pass) : (s.updPass c x p f).regions = s.regions := rfl
@[simp] theorem State.updPass_locks (s : State) (c x p : Nat) (f : Pass → Pass) : (s.updPass c x p f).locks = s.locks := rfl
@[simp] theorem State.updPass_waitingLocks (s : State) (c x p : Nat) (f : Pass → Pass) : (s.updPass c x p f).waitingLocks = s.waitingLocks := rfl
@[simp] theorem State.updPass_reserved (s : State) (c x p : Nat) (f : Pass → Pass) : (s.updPass c x p f).reserved = s.reserved := rfl
@[simp] theorem State.updPass_copies (s : State) (c x p : Nat) (f : Pass → Pass) : (s.updPass c x p f).copies = s.copies := rfl
@[simp] theorem State.updPass_nextCopy (s : State) (c x p : Nat) (f : Pass → Pass) : (s.updPass c x p f).nextCopy = s.nextCopy := rfl
@[simp] theorem State.updPass_migrations (s : State) (c x p : Nat) (f : Pass → Pass) : (s.updPass c x p f).migrations = s.migrations := rfl
@[simp] theorem State.updPass_nextMigration (s : State) (c x p : Nat) (f : Pass → Pass) : (s.updPass c x p f).nextMigration = s.nextMigration := rfl
@[simp] theorem State.updPass_shootdowns (s : State) (c x p : Nat) (f : Pass → Pass) : (s.updPass c x p f).shootdowns = s.shootdowns := rfl
@[simp] theorem State.updPass_nextShootdown (s : State) (c x p : Nat) (f : Pass → Pass) : (s.updPass c x p f).nextShootdown = s.nextShootdown := rfl
@[simp] theorem State.updPass_cxl (s : State) (c x p : Nat) (f : Pass → Pass) : (s.updPass c x p f).cxl = s.cxl := rfl
@[simp] theorem State.updPass_hosts (s : State) (c x p : Nat) (f : Pass → Pass) : (s.updPass c x p f).hosts = s.hosts := rfl
@[simp] theorem State.updPass_couplers (s : State) (c x p : Nat) (f : Pass → Pass) : (s.updPass c x p f).couplers = s.couplers := rfl
@[simp] theorem State.updPass_sessions (s : State) (c x p : Nat) (f : Pass → Pass) : (s.updPass c x p f).sessions = s.sessions := rfl
@[simp] theorem State.updPass_posted (s : State) (c x p : Nat) (f : Pass → Pass) : (s.updPass c x p f).posted = s.posted := rfl
@[simp] theorem State.updPass_guards (s : State) (c x p : Nat) (f : Pass → Pass) : (s.updPass c x p f).guards = s.guards := rfl
@[simp] theorem State.updPass_corrected (s : State) (c x p : Nat) (f : Pass → Pass) : (s.updPass c x p f).corrected = s.corrected := rfl
@[simp] theorem State.updPass_mishap (s : State) (c x p : Nat) (f : Pass → Pass) : (s.updPass c x p f).mishap = s.mishap := rfl
@[simp] theorem State.updPass_hostSent (s : State) (c x p : Nat) (f : Pass → Pass) : (s.updPass c x p f).hostSent = s.hostSent := rfl
@[simp] theorem State.updPass_io (s : State) (c x p : Nat) (f : Pass → Pass) : (s.updPass c x p f).io = s.io := rfl
@[simp] theorem State.updPass_contexts (s : State) (c x p : Nat) (f : Pass → Pass) : (s.updPass c x p f).contexts = s.contexts := rfl
@[simp] theorem State.updPass_functions (s : State) (c x p : Nat) (f : Pass → Pass) : (s.updPass c x p f).functions = s.functions := rfl
@[simp] theorem State.updPass_firmware (s : State) (c x p : Nat) (f : Pass → Pass) : (s.updPass c x p f).firmware = s.firmware := rfl
@[simp] theorem State.updPass_commands (s : State) (c x p : Nat) (f : Pass → Pass) : (s.updPass c x p f).commands = s.commands := rfl
@[simp] theorem State.updPass_identity (s : State) (c x p : Nat) (f : Pass → Pass) : (s.updPass c x p f).identity = s.identity := rfl
@[simp] theorem State.updPass_tarat (s : State) (c x p : Nat) (f : Pass → Pass) : (s.updPass c x p f).tarat = s.tarat := rfl

/-! ### updRun changes lanes alone -/

@[simp] theorem State.updRun_moves (s : State) (x : Firing) (f : Run → Run) : (s.updRun x f).moves = s.moves := rfl
@[simp] theorem State.updRun_freeCtr (s : State) (x : Firing) (f : Run → Run) : (s.updRun x f).freeCtr = s.freeCtr := rfl
@[simp] theorem State.updRun_cur (s : State) (x : Firing) (f : Run → Run) : (s.updRun x f).cur = s.cur := rfl
@[simp] theorem State.updRun_resp (s : State) (x : Firing) (f : Run → Run) : (s.updRun x f).resp = s.resp := rfl
@[simp] theorem State.updRun_mem (s : State) (x : Firing) (f : Run → Run) : (s.updRun x f).mem = s.mem := rfl
@[simp] theorem State.updRun_integrity (s : State) (x : Firing) (f : Run → Run) : (s.updRun x f).integrity = s.integrity := rfl
@[simp] theorem State.updRun_keys (s : State) (x : Firing) (f : Run → Run) : (s.updRun x f).keys = s.keys := rfl
@[simp] theorem State.updRun_tlb (s : State) (x : Firing) (f : Run → Run) : (s.updRun x f).tlb = s.tlb := rfl
@[simp] theorem State.updRun_cores (s : State) (x : Firing) (f : Run → Run) : (s.updRun x f).cores = s.cores := rfl
@[simp] theorem State.updRun_arbiters (s : State) (x : Firing) (f : Run → Run) : (s.updRun x f).arbiters = s.arbiters := rfl
@[simp] theorem State.updRun_broadcasts (s : State) (x : Firing) (f : Run → Run) : (s.updRun x f).broadcasts = s.broadcasts := rfl
@[simp] theorem State.updRun_byteTracked (s : State) (x : Firing) (f : Run → Run) : (s.updRun x f).byteTracked = s.byteTracked := rfl
@[simp] theorem State.updRun_soloQueue (s : State) (x : Firing) (f : Run → Run) : (s.updRun x f).soloQueue = s.soloQueue := rfl
@[simp] theorem State.updRun_soloHolder (s : State) (x : Firing) (f : Run → Run) : (s.updRun x f).soloHolder = s.soloHolder := rfl
@[simp] theorem State.updRun_regionQueue (s : State) (x : Firing) (f : Run → Run) : (s.updRun x f).regionQueue = s.regionQueue := rfl
@[simp] theorem State.updRun_regions (s : State) (x : Firing) (f : Run → Run) : (s.updRun x f).regions = s.regions := rfl
@[simp] theorem State.updRun_locks (s : State) (x : Firing) (f : Run → Run) : (s.updRun x f).locks = s.locks := rfl
@[simp] theorem State.updRun_waitingLocks (s : State) (x : Firing) (f : Run → Run) : (s.updRun x f).waitingLocks = s.waitingLocks := rfl
@[simp] theorem State.updRun_reserved (s : State) (x : Firing) (f : Run → Run) : (s.updRun x f).reserved = s.reserved := rfl
@[simp] theorem State.updRun_copies (s : State) (x : Firing) (f : Run → Run) : (s.updRun x f).copies = s.copies := rfl
@[simp] theorem State.updRun_nextCopy (s : State) (x : Firing) (f : Run → Run) : (s.updRun x f).nextCopy = s.nextCopy := rfl
@[simp] theorem State.updRun_migrations (s : State) (x : Firing) (f : Run → Run) : (s.updRun x f).migrations = s.migrations := rfl
@[simp] theorem State.updRun_nextMigration (s : State) (x : Firing) (f : Run → Run) : (s.updRun x f).nextMigration = s.nextMigration := rfl
@[simp] theorem State.updRun_shootdowns (s : State) (x : Firing) (f : Run → Run) : (s.updRun x f).shootdowns = s.shootdowns := rfl
@[simp] theorem State.updRun_nextShootdown (s : State) (x : Firing) (f : Run → Run) : (s.updRun x f).nextShootdown = s.nextShootdown := rfl
@[simp] theorem State.updRun_cxl (s : State) (x : Firing) (f : Run → Run) : (s.updRun x f).cxl = s.cxl := rfl
@[simp] theorem State.updRun_hosts (s : State) (x : Firing) (f : Run → Run) : (s.updRun x f).hosts = s.hosts := rfl
@[simp] theorem State.updRun_couplers (s : State) (x : Firing) (f : Run → Run) : (s.updRun x f).couplers = s.couplers := rfl
@[simp] theorem State.updRun_sessions (s : State) (x : Firing) (f : Run → Run) : (s.updRun x f).sessions = s.sessions := rfl
@[simp] theorem State.updRun_posted (s : State) (x : Firing) (f : Run → Run) : (s.updRun x f).posted = s.posted := rfl
@[simp] theorem State.updRun_guards (s : State) (x : Firing) (f : Run → Run) : (s.updRun x f).guards = s.guards := rfl
@[simp] theorem State.updRun_corrected (s : State) (x : Firing) (f : Run → Run) : (s.updRun x f).corrected = s.corrected := rfl
@[simp] theorem State.updRun_mishap (s : State) (x : Firing) (f : Run → Run) : (s.updRun x f).mishap = s.mishap := rfl
@[simp] theorem State.updRun_hostSent (s : State) (x : Firing) (f : Run → Run) : (s.updRun x f).hostSent = s.hostSent := rfl
@[simp] theorem State.updRun_io (s : State) (x : Firing) (f : Run → Run) : (s.updRun x f).io = s.io := rfl
@[simp] theorem State.updRun_contexts (s : State) (x : Firing) (f : Run → Run) : (s.updRun x f).contexts = s.contexts := rfl
@[simp] theorem State.updRun_functions (s : State) (x : Firing) (f : Run → Run) : (s.updRun x f).functions = s.functions := rfl
@[simp] theorem State.updRun_firmware (s : State) (x : Firing) (f : Run → Run) : (s.updRun x f).firmware = s.firmware := rfl
@[simp] theorem State.updRun_commands (s : State) (x : Firing) (f : Run → Run) : (s.updRun x f).commands = s.commands := rfl
@[simp] theorem State.updRun_identity (s : State) (x : Firing) (f : Run → Run) : (s.updRun x f).identity = s.identity := rfl
@[simp] theorem State.updRun_tarat (s : State) (x : Firing) (f : Run → Run) : (s.updRun x f).tarat = s.tarat := rfl

/-! ### updCopy changes copies alone -/

@[simp] theorem State.updCopy_moves (s : State) (i : Nat) (f : Copy → Copy) : (s.updCopy i f).moves = s.moves := rfl
@[simp] theorem State.updCopy_freeCtr (s : State) (i : Nat) (f : Copy → Copy) : (s.updCopy i f).freeCtr = s.freeCtr := rfl
@[simp] theorem State.updCopy_cur (s : State) (i : Nat) (f : Copy → Copy) : (s.updCopy i f).cur = s.cur := rfl
@[simp] theorem State.updCopy_resp (s : State) (i : Nat) (f : Copy → Copy) : (s.updCopy i f).resp = s.resp := rfl
@[simp] theorem State.updCopy_mem (s : State) (i : Nat) (f : Copy → Copy) : (s.updCopy i f).mem = s.mem := rfl
@[simp] theorem State.updCopy_integrity (s : State) (i : Nat) (f : Copy → Copy) : (s.updCopy i f).integrity = s.integrity := rfl
@[simp] theorem State.updCopy_keys (s : State) (i : Nat) (f : Copy → Copy) : (s.updCopy i f).keys = s.keys := rfl
@[simp] theorem State.updCopy_tlb (s : State) (i : Nat) (f : Copy → Copy) : (s.updCopy i f).tlb = s.tlb := rfl
@[simp] theorem State.updCopy_cores (s : State) (i : Nat) (f : Copy → Copy) : (s.updCopy i f).cores = s.cores := rfl
@[simp] theorem State.updCopy_lanes (s : State) (i : Nat) (f : Copy → Copy) : (s.updCopy i f).lanes = s.lanes := rfl
@[simp] theorem State.updCopy_arbiters (s : State) (i : Nat) (f : Copy → Copy) : (s.updCopy i f).arbiters = s.arbiters := rfl
@[simp] theorem State.updCopy_broadcasts (s : State) (i : Nat) (f : Copy → Copy) : (s.updCopy i f).broadcasts = s.broadcasts := rfl
@[simp] theorem State.updCopy_byteTracked (s : State) (i : Nat) (f : Copy → Copy) : (s.updCopy i f).byteTracked = s.byteTracked := rfl
@[simp] theorem State.updCopy_soloQueue (s : State) (i : Nat) (f : Copy → Copy) : (s.updCopy i f).soloQueue = s.soloQueue := rfl
@[simp] theorem State.updCopy_soloHolder (s : State) (i : Nat) (f : Copy → Copy) : (s.updCopy i f).soloHolder = s.soloHolder := rfl
@[simp] theorem State.updCopy_regionQueue (s : State) (i : Nat) (f : Copy → Copy) : (s.updCopy i f).regionQueue = s.regionQueue := rfl
@[simp] theorem State.updCopy_regions (s : State) (i : Nat) (f : Copy → Copy) : (s.updCopy i f).regions = s.regions := rfl
@[simp] theorem State.updCopy_locks (s : State) (i : Nat) (f : Copy → Copy) : (s.updCopy i f).locks = s.locks := rfl
@[simp] theorem State.updCopy_waitingLocks (s : State) (i : Nat) (f : Copy → Copy) : (s.updCopy i f).waitingLocks = s.waitingLocks := rfl
@[simp] theorem State.updCopy_reserved (s : State) (i : Nat) (f : Copy → Copy) : (s.updCopy i f).reserved = s.reserved := rfl
@[simp] theorem State.updCopy_nextCopy (s : State) (i : Nat) (f : Copy → Copy) : (s.updCopy i f).nextCopy = s.nextCopy := rfl
@[simp] theorem State.updCopy_migrations (s : State) (i : Nat) (f : Copy → Copy) : (s.updCopy i f).migrations = s.migrations := rfl
@[simp] theorem State.updCopy_nextMigration (s : State) (i : Nat) (f : Copy → Copy) : (s.updCopy i f).nextMigration = s.nextMigration := rfl
@[simp] theorem State.updCopy_shootdowns (s : State) (i : Nat) (f : Copy → Copy) : (s.updCopy i f).shootdowns = s.shootdowns := rfl
@[simp] theorem State.updCopy_nextShootdown (s : State) (i : Nat) (f : Copy → Copy) : (s.updCopy i f).nextShootdown = s.nextShootdown := rfl
@[simp] theorem State.updCopy_cxl (s : State) (i : Nat) (f : Copy → Copy) : (s.updCopy i f).cxl = s.cxl := rfl
@[simp] theorem State.updCopy_hosts (s : State) (i : Nat) (f : Copy → Copy) : (s.updCopy i f).hosts = s.hosts := rfl
@[simp] theorem State.updCopy_couplers (s : State) (i : Nat) (f : Copy → Copy) : (s.updCopy i f).couplers = s.couplers := rfl
@[simp] theorem State.updCopy_sessions (s : State) (i : Nat) (f : Copy → Copy) : (s.updCopy i f).sessions = s.sessions := rfl
@[simp] theorem State.updCopy_posted (s : State) (i : Nat) (f : Copy → Copy) : (s.updCopy i f).posted = s.posted := rfl
@[simp] theorem State.updCopy_guards (s : State) (i : Nat) (f : Copy → Copy) : (s.updCopy i f).guards = s.guards := rfl
@[simp] theorem State.updCopy_corrected (s : State) (i : Nat) (f : Copy → Copy) : (s.updCopy i f).corrected = s.corrected := rfl
@[simp] theorem State.updCopy_mishap (s : State) (i : Nat) (f : Copy → Copy) : (s.updCopy i f).mishap = s.mishap := rfl
@[simp] theorem State.updCopy_hostSent (s : State) (i : Nat) (f : Copy → Copy) : (s.updCopy i f).hostSent = s.hostSent := rfl
@[simp] theorem State.updCopy_io (s : State) (i : Nat) (f : Copy → Copy) : (s.updCopy i f).io = s.io := rfl
@[simp] theorem State.updCopy_contexts (s : State) (i : Nat) (f : Copy → Copy) : (s.updCopy i f).contexts = s.contexts := rfl
@[simp] theorem State.updCopy_functions (s : State) (i : Nat) (f : Copy → Copy) : (s.updCopy i f).functions = s.functions := rfl
@[simp] theorem State.updCopy_firmware (s : State) (i : Nat) (f : Copy → Copy) : (s.updCopy i f).firmware = s.firmware := rfl
@[simp] theorem State.updCopy_commands (s : State) (i : Nat) (f : Copy → Copy) : (s.updCopy i f).commands = s.commands := rfl
@[simp] theorem State.updCopy_identity (s : State) (i : Nat) (f : Copy → Copy) : (s.updCopy i f).identity = s.identity := rfl
@[simp] theorem State.updCopy_tarat (s : State) (i : Nat) (f : Copy → Copy) : (s.updCopy i f).tarat = s.tarat := rfl

/-! ### updRegion changes regions alone -/

@[simp] theorem State.updRegion_moves (s : State) (x : Nat) (f : Region → Region) : (s.updRegion x f).moves = s.moves := rfl
@[simp] theorem State.updRegion_freeCtr (s : State) (x : Nat) (f : Region → Region) : (s.updRegion x f).freeCtr = s.freeCtr := rfl
@[simp] theorem State.updRegion_cur (s : State) (x : Nat) (f : Region → Region) : (s.updRegion x f).cur = s.cur := rfl
@[simp] theorem State.updRegion_resp (s : State) (x : Nat) (f : Region → Region) : (s.updRegion x f).resp = s.resp := rfl
@[simp] theorem State.updRegion_mem (s : State) (x : Nat) (f : Region → Region) : (s.updRegion x f).mem = s.mem := rfl
@[simp] theorem State.updRegion_integrity (s : State) (x : Nat) (f : Region → Region) : (s.updRegion x f).integrity = s.integrity := rfl
@[simp] theorem State.updRegion_keys (s : State) (x : Nat) (f : Region → Region) : (s.updRegion x f).keys = s.keys := rfl
@[simp] theorem State.updRegion_tlb (s : State) (x : Nat) (f : Region → Region) : (s.updRegion x f).tlb = s.tlb := rfl
@[simp] theorem State.updRegion_cores (s : State) (x : Nat) (f : Region → Region) : (s.updRegion x f).cores = s.cores := rfl
@[simp] theorem State.updRegion_lanes (s : State) (x : Nat) (f : Region → Region) : (s.updRegion x f).lanes = s.lanes := rfl
@[simp] theorem State.updRegion_arbiters (s : State) (x : Nat) (f : Region → Region) : (s.updRegion x f).arbiters = s.arbiters := rfl
@[simp] theorem State.updRegion_broadcasts (s : State) (x : Nat) (f : Region → Region) : (s.updRegion x f).broadcasts = s.broadcasts := rfl
@[simp] theorem State.updRegion_byteTracked (s : State) (x : Nat) (f : Region → Region) : (s.updRegion x f).byteTracked = s.byteTracked := rfl
@[simp] theorem State.updRegion_soloQueue (s : State) (x : Nat) (f : Region → Region) : (s.updRegion x f).soloQueue = s.soloQueue := rfl
@[simp] theorem State.updRegion_soloHolder (s : State) (x : Nat) (f : Region → Region) : (s.updRegion x f).soloHolder = s.soloHolder := rfl
@[simp] theorem State.updRegion_regionQueue (s : State) (x : Nat) (f : Region → Region) : (s.updRegion x f).regionQueue = s.regionQueue := rfl
@[simp] theorem State.updRegion_locks (s : State) (x : Nat) (f : Region → Region) : (s.updRegion x f).locks = s.locks := rfl
@[simp] theorem State.updRegion_waitingLocks (s : State) (x : Nat) (f : Region → Region) : (s.updRegion x f).waitingLocks = s.waitingLocks := rfl
@[simp] theorem State.updRegion_reserved (s : State) (x : Nat) (f : Region → Region) : (s.updRegion x f).reserved = s.reserved := rfl
@[simp] theorem State.updRegion_copies (s : State) (x : Nat) (f : Region → Region) : (s.updRegion x f).copies = s.copies := rfl
@[simp] theorem State.updRegion_nextCopy (s : State) (x : Nat) (f : Region → Region) : (s.updRegion x f).nextCopy = s.nextCopy := rfl
@[simp] theorem State.updRegion_migrations (s : State) (x : Nat) (f : Region → Region) : (s.updRegion x f).migrations = s.migrations := rfl
@[simp] theorem State.updRegion_nextMigration (s : State) (x : Nat) (f : Region → Region) : (s.updRegion x f).nextMigration = s.nextMigration := rfl
@[simp] theorem State.updRegion_shootdowns (s : State) (x : Nat) (f : Region → Region) : (s.updRegion x f).shootdowns = s.shootdowns := rfl
@[simp] theorem State.updRegion_nextShootdown (s : State) (x : Nat) (f : Region → Region) : (s.updRegion x f).nextShootdown = s.nextShootdown := rfl
@[simp] theorem State.updRegion_cxl (s : State) (x : Nat) (f : Region → Region) : (s.updRegion x f).cxl = s.cxl := rfl
@[simp] theorem State.updRegion_hosts (s : State) (x : Nat) (f : Region → Region) : (s.updRegion x f).hosts = s.hosts := rfl
@[simp] theorem State.updRegion_couplers (s : State) (x : Nat) (f : Region → Region) : (s.updRegion x f).couplers = s.couplers := rfl
@[simp] theorem State.updRegion_sessions (s : State) (x : Nat) (f : Region → Region) : (s.updRegion x f).sessions = s.sessions := rfl
@[simp] theorem State.updRegion_posted (s : State) (x : Nat) (f : Region → Region) : (s.updRegion x f).posted = s.posted := rfl
@[simp] theorem State.updRegion_guards (s : State) (x : Nat) (f : Region → Region) : (s.updRegion x f).guards = s.guards := rfl
@[simp] theorem State.updRegion_corrected (s : State) (x : Nat) (f : Region → Region) : (s.updRegion x f).corrected = s.corrected := rfl
@[simp] theorem State.updRegion_mishap (s : State) (x : Nat) (f : Region → Region) : (s.updRegion x f).mishap = s.mishap := rfl
@[simp] theorem State.updRegion_hostSent (s : State) (x : Nat) (f : Region → Region) : (s.updRegion x f).hostSent = s.hostSent := rfl
@[simp] theorem State.updRegion_io (s : State) (x : Nat) (f : Region → Region) : (s.updRegion x f).io = s.io := rfl
@[simp] theorem State.updRegion_contexts (s : State) (x : Nat) (f : Region → Region) : (s.updRegion x f).contexts = s.contexts := rfl
@[simp] theorem State.updRegion_functions (s : State) (x : Nat) (f : Region → Region) : (s.updRegion x f).functions = s.functions := rfl
@[simp] theorem State.updRegion_firmware (s : State) (x : Nat) (f : Region → Region) : (s.updRegion x f).firmware = s.firmware := rfl
@[simp] theorem State.updRegion_commands (s : State) (x : Nat) (f : Region → Region) : (s.updRegion x f).commands = s.commands := rfl
@[simp] theorem State.updRegion_identity (s : State) (x : Nat) (f : Region → Region) : (s.updRegion x f).identity = s.identity := rfl
@[simp] theorem State.updRegion_tarat (s : State) (x : Nat) (f : Region → Region) : (s.updRegion x f).tarat = s.tarat := rfl

/-! ### updMigration changes migrations alone -/

@[simp] theorem State.updMigration_moves (s : State) (i : Nat) (f : Migration → Migration) : (s.updMigration i f).moves = s.moves := rfl
@[simp] theorem State.updMigration_freeCtr (s : State) (i : Nat) (f : Migration → Migration) : (s.updMigration i f).freeCtr = s.freeCtr := rfl
@[simp] theorem State.updMigration_cur (s : State) (i : Nat) (f : Migration → Migration) : (s.updMigration i f).cur = s.cur := rfl
@[simp] theorem State.updMigration_resp (s : State) (i : Nat) (f : Migration → Migration) : (s.updMigration i f).resp = s.resp := rfl
@[simp] theorem State.updMigration_mem (s : State) (i : Nat) (f : Migration → Migration) : (s.updMigration i f).mem = s.mem := rfl
@[simp] theorem State.updMigration_integrity (s : State) (i : Nat) (f : Migration → Migration) : (s.updMigration i f).integrity = s.integrity := rfl
@[simp] theorem State.updMigration_keys (s : State) (i : Nat) (f : Migration → Migration) : (s.updMigration i f).keys = s.keys := rfl
@[simp] theorem State.updMigration_tlb (s : State) (i : Nat) (f : Migration → Migration) : (s.updMigration i f).tlb = s.tlb := rfl
@[simp] theorem State.updMigration_cores (s : State) (i : Nat) (f : Migration → Migration) : (s.updMigration i f).cores = s.cores := rfl
@[simp] theorem State.updMigration_lanes (s : State) (i : Nat) (f : Migration → Migration) : (s.updMigration i f).lanes = s.lanes := rfl
@[simp] theorem State.updMigration_arbiters (s : State) (i : Nat) (f : Migration → Migration) : (s.updMigration i f).arbiters = s.arbiters := rfl
@[simp] theorem State.updMigration_broadcasts (s : State) (i : Nat) (f : Migration → Migration) : (s.updMigration i f).broadcasts = s.broadcasts := rfl
@[simp] theorem State.updMigration_byteTracked (s : State) (i : Nat) (f : Migration → Migration) : (s.updMigration i f).byteTracked = s.byteTracked := rfl
@[simp] theorem State.updMigration_soloQueue (s : State) (i : Nat) (f : Migration → Migration) : (s.updMigration i f).soloQueue = s.soloQueue := rfl
@[simp] theorem State.updMigration_soloHolder (s : State) (i : Nat) (f : Migration → Migration) : (s.updMigration i f).soloHolder = s.soloHolder := rfl
@[simp] theorem State.updMigration_regionQueue (s : State) (i : Nat) (f : Migration → Migration) : (s.updMigration i f).regionQueue = s.regionQueue := rfl
@[simp] theorem State.updMigration_regions (s : State) (i : Nat) (f : Migration → Migration) : (s.updMigration i f).regions = s.regions := rfl
@[simp] theorem State.updMigration_locks (s : State) (i : Nat) (f : Migration → Migration) : (s.updMigration i f).locks = s.locks := rfl
@[simp] theorem State.updMigration_waitingLocks (s : State) (i : Nat) (f : Migration → Migration) : (s.updMigration i f).waitingLocks = s.waitingLocks := rfl
@[simp] theorem State.updMigration_reserved (s : State) (i : Nat) (f : Migration → Migration) : (s.updMigration i f).reserved = s.reserved := rfl
@[simp] theorem State.updMigration_copies (s : State) (i : Nat) (f : Migration → Migration) : (s.updMigration i f).copies = s.copies := rfl
@[simp] theorem State.updMigration_nextCopy (s : State) (i : Nat) (f : Migration → Migration) : (s.updMigration i f).nextCopy = s.nextCopy := rfl
@[simp] theorem State.updMigration_nextMigration (s : State) (i : Nat) (f : Migration → Migration) : (s.updMigration i f).nextMigration = s.nextMigration := rfl
@[simp] theorem State.updMigration_shootdowns (s : State) (i : Nat) (f : Migration → Migration) : (s.updMigration i f).shootdowns = s.shootdowns := rfl
@[simp] theorem State.updMigration_nextShootdown (s : State) (i : Nat) (f : Migration → Migration) : (s.updMigration i f).nextShootdown = s.nextShootdown := rfl
@[simp] theorem State.updMigration_cxl (s : State) (i : Nat) (f : Migration → Migration) : (s.updMigration i f).cxl = s.cxl := rfl
@[simp] theorem State.updMigration_hosts (s : State) (i : Nat) (f : Migration → Migration) : (s.updMigration i f).hosts = s.hosts := rfl
@[simp] theorem State.updMigration_couplers (s : State) (i : Nat) (f : Migration → Migration) : (s.updMigration i f).couplers = s.couplers := rfl
@[simp] theorem State.updMigration_sessions (s : State) (i : Nat) (f : Migration → Migration) : (s.updMigration i f).sessions = s.sessions := rfl
@[simp] theorem State.updMigration_posted (s : State) (i : Nat) (f : Migration → Migration) : (s.updMigration i f).posted = s.posted := rfl
@[simp] theorem State.updMigration_guards (s : State) (i : Nat) (f : Migration → Migration) : (s.updMigration i f).guards = s.guards := rfl
@[simp] theorem State.updMigration_corrected (s : State) (i : Nat) (f : Migration → Migration) : (s.updMigration i f).corrected = s.corrected := rfl
@[simp] theorem State.updMigration_mishap (s : State) (i : Nat) (f : Migration → Migration) : (s.updMigration i f).mishap = s.mishap := rfl
@[simp] theorem State.updMigration_hostSent (s : State) (i : Nat) (f : Migration → Migration) : (s.updMigration i f).hostSent = s.hostSent := rfl
@[simp] theorem State.updMigration_io (s : State) (i : Nat) (f : Migration → Migration) : (s.updMigration i f).io = s.io := rfl
@[simp] theorem State.updMigration_contexts (s : State) (i : Nat) (f : Migration → Migration) : (s.updMigration i f).contexts = s.contexts := rfl
@[simp] theorem State.updMigration_functions (s : State) (i : Nat) (f : Migration → Migration) : (s.updMigration i f).functions = s.functions := rfl
@[simp] theorem State.updMigration_firmware (s : State) (i : Nat) (f : Migration → Migration) : (s.updMigration i f).firmware = s.firmware := rfl
@[simp] theorem State.updMigration_commands (s : State) (i : Nat) (f : Migration → Migration) : (s.updMigration i f).commands = s.commands := rfl
@[simp] theorem State.updMigration_identity (s : State) (i : Nat) (f : Migration → Migration) : (s.updMigration i f).identity = s.identity := rfl
@[simp] theorem State.updMigration_tarat (s : State) (i : Nat) (f : Migration → Migration) : (s.updMigration i f).tarat = s.tarat := rfl

/-! ### updFunc changes functions alone -/

@[simp] theorem State.updFunc_moves (s : State) (p n : Nat) (f : Function → Function) : (s.updFunc p n f).moves = s.moves := rfl
@[simp] theorem State.updFunc_freeCtr (s : State) (p n : Nat) (f : Function → Function) : (s.updFunc p n f).freeCtr = s.freeCtr := rfl
@[simp] theorem State.updFunc_cur (s : State) (p n : Nat) (f : Function → Function) : (s.updFunc p n f).cur = s.cur := rfl
@[simp] theorem State.updFunc_resp (s : State) (p n : Nat) (f : Function → Function) : (s.updFunc p n f).resp = s.resp := rfl
@[simp] theorem State.updFunc_mem (s : State) (p n : Nat) (f : Function → Function) : (s.updFunc p n f).mem = s.mem := rfl
@[simp] theorem State.updFunc_integrity (s : State) (p n : Nat) (f : Function → Function) : (s.updFunc p n f).integrity = s.integrity := rfl
@[simp] theorem State.updFunc_keys (s : State) (p n : Nat) (f : Function → Function) : (s.updFunc p n f).keys = s.keys := rfl
@[simp] theorem State.updFunc_tlb (s : State) (p n : Nat) (f : Function → Function) : (s.updFunc p n f).tlb = s.tlb := rfl
@[simp] theorem State.updFunc_cores (s : State) (p n : Nat) (f : Function → Function) : (s.updFunc p n f).cores = s.cores := rfl
@[simp] theorem State.updFunc_lanes (s : State) (p n : Nat) (f : Function → Function) : (s.updFunc p n f).lanes = s.lanes := rfl
@[simp] theorem State.updFunc_arbiters (s : State) (p n : Nat) (f : Function → Function) : (s.updFunc p n f).arbiters = s.arbiters := rfl
@[simp] theorem State.updFunc_broadcasts (s : State) (p n : Nat) (f : Function → Function) : (s.updFunc p n f).broadcasts = s.broadcasts := rfl
@[simp] theorem State.updFunc_byteTracked (s : State) (p n : Nat) (f : Function → Function) : (s.updFunc p n f).byteTracked = s.byteTracked := rfl
@[simp] theorem State.updFunc_soloQueue (s : State) (p n : Nat) (f : Function → Function) : (s.updFunc p n f).soloQueue = s.soloQueue := rfl
@[simp] theorem State.updFunc_soloHolder (s : State) (p n : Nat) (f : Function → Function) : (s.updFunc p n f).soloHolder = s.soloHolder := rfl
@[simp] theorem State.updFunc_regionQueue (s : State) (p n : Nat) (f : Function → Function) : (s.updFunc p n f).regionQueue = s.regionQueue := rfl
@[simp] theorem State.updFunc_regions (s : State) (p n : Nat) (f : Function → Function) : (s.updFunc p n f).regions = s.regions := rfl
@[simp] theorem State.updFunc_locks (s : State) (p n : Nat) (f : Function → Function) : (s.updFunc p n f).locks = s.locks := rfl
@[simp] theorem State.updFunc_waitingLocks (s : State) (p n : Nat) (f : Function → Function) : (s.updFunc p n f).waitingLocks = s.waitingLocks := rfl
@[simp] theorem State.updFunc_reserved (s : State) (p n : Nat) (f : Function → Function) : (s.updFunc p n f).reserved = s.reserved := rfl
@[simp] theorem State.updFunc_copies (s : State) (p n : Nat) (f : Function → Function) : (s.updFunc p n f).copies = s.copies := rfl
@[simp] theorem State.updFunc_nextCopy (s : State) (p n : Nat) (f : Function → Function) : (s.updFunc p n f).nextCopy = s.nextCopy := rfl
@[simp] theorem State.updFunc_migrations (s : State) (p n : Nat) (f : Function → Function) : (s.updFunc p n f).migrations = s.migrations := rfl
@[simp] theorem State.updFunc_nextMigration (s : State) (p n : Nat) (f : Function → Function) : (s.updFunc p n f).nextMigration = s.nextMigration := rfl
@[simp] theorem State.updFunc_shootdowns (s : State) (p n : Nat) (f : Function → Function) : (s.updFunc p n f).shootdowns = s.shootdowns := rfl
@[simp] theorem State.updFunc_nextShootdown (s : State) (p n : Nat) (f : Function → Function) : (s.updFunc p n f).nextShootdown = s.nextShootdown := rfl
@[simp] theorem State.updFunc_cxl (s : State) (p n : Nat) (f : Function → Function) : (s.updFunc p n f).cxl = s.cxl := rfl
@[simp] theorem State.updFunc_hosts (s : State) (p n : Nat) (f : Function → Function) : (s.updFunc p n f).hosts = s.hosts := rfl
@[simp] theorem State.updFunc_couplers (s : State) (p n : Nat) (f : Function → Function) : (s.updFunc p n f).couplers = s.couplers := rfl
@[simp] theorem State.updFunc_sessions (s : State) (p n : Nat) (f : Function → Function) : (s.updFunc p n f).sessions = s.sessions := rfl
@[simp] theorem State.updFunc_posted (s : State) (p n : Nat) (f : Function → Function) : (s.updFunc p n f).posted = s.posted := rfl
@[simp] theorem State.updFunc_guards (s : State) (p n : Nat) (f : Function → Function) : (s.updFunc p n f).guards = s.guards := rfl
@[simp] theorem State.updFunc_corrected (s : State) (p n : Nat) (f : Function → Function) : (s.updFunc p n f).corrected = s.corrected := rfl
@[simp] theorem State.updFunc_mishap (s : State) (p n : Nat) (f : Function → Function) : (s.updFunc p n f).mishap = s.mishap := rfl
@[simp] theorem State.updFunc_hostSent (s : State) (p n : Nat) (f : Function → Function) : (s.updFunc p n f).hostSent = s.hostSent := rfl
@[simp] theorem State.updFunc_io (s : State) (p n : Nat) (f : Function → Function) : (s.updFunc p n f).io = s.io := rfl
@[simp] theorem State.updFunc_contexts (s : State) (p n : Nat) (f : Function → Function) : (s.updFunc p n f).contexts = s.contexts := rfl
@[simp] theorem State.updFunc_firmware (s : State) (p n : Nat) (f : Function → Function) : (s.updFunc p n f).firmware = s.firmware := rfl
@[simp] theorem State.updFunc_commands (s : State) (p n : Nat) (f : Function → Function) : (s.updFunc p n f).commands = s.commands := rfl
@[simp] theorem State.updFunc_identity (s : State) (p n : Nat) (f : Function → Function) : (s.updFunc p n f).identity = s.identity := rfl
@[simp] theorem State.updFunc_tarat (s : State) (p n : Nat) (f : Function → Function) : (s.updFunc p n f).tarat = s.tarat := rfl

/-! ### Parts that an update does not touch -/

@[simp] theorem State.core_updLane (s : State) (c x : Nat) (f : Lane → Lane) (k : Nat) : (s.updLane c x f).core? k = s.core? k := rfl
@[simp] theorem State.ctx_updLane (s : State) (c x : Nat) (f : Lane → Lane) (k : Nat) : (s.updLane c x f).ctx? k = s.ctx? k := rfl
@[simp] theorem State.copy_updLane (s : State) (c x : Nat) (f : Lane → Lane) (k : Nat) : (s.updLane c x f).copy? k = s.copy? k := rfl
@[simp] theorem State.func_updLane (s : State) (c x : Nat) (f : Lane → Lane) (k y : Nat) : (s.updLane c x f).func? k y = s.func? k y := rfl
@[simp] theorem State.region_updLane (s : State) (c x : Nat) (f : Lane → Lane) (k : Nat) : (s.updLane c x f).region? k = s.region? k := rfl
@[simp] theorem State.byteAt_updLane (s : State) (c x : Nat) (f : Lane → Lane) (k : Nat) : (s.updLane c x f).byteAt k = s.byteAt k := rfl

@[simp] theorem State.core_updLanes (s : State) (x : Nat) (f : Lane → Lane) (k : Nat) : (s.updLanes x f).core? k = s.core? k := rfl
@[simp] theorem State.ctx_updLanes (s : State) (x : Nat) (f : Lane → Lane) (k : Nat) : (s.updLanes x f).ctx? k = s.ctx? k := rfl
@[simp] theorem State.copy_updLanes (s : State) (x : Nat) (f : Lane → Lane) (k : Nat) : (s.updLanes x f).copy? k = s.copy? k := rfl
@[simp] theorem State.func_updLanes (s : State) (x : Nat) (f : Lane → Lane) (k y : Nat) : (s.updLanes x f).func? k y = s.func? k y := rfl
@[simp] theorem State.region_updLanes (s : State) (x : Nat) (f : Lane → Lane) (k : Nat) : (s.updLanes x f).region? k = s.region? k := rfl
@[simp] theorem State.byteAt_updLanes (s : State) (x : Nat) (f : Lane → Lane) (k : Nat) : (s.updLanes x f).byteAt k = s.byteAt k := rfl

@[simp] theorem State.lane_updCore (s : State) (c : Nat) (f : CoreState → CoreState) (k y : Nat) : (s.updCore c f).lane? k y = s.lane? k y := rfl
@[simp] theorem State.ctx_updCore (s : State) (c : Nat) (f : CoreState → CoreState) (k : Nat) : (s.updCore c f).ctx? k = s.ctx? k := rfl
@[simp] theorem State.copy_updCore (s : State) (c : Nat) (f : CoreState → CoreState) (k : Nat) : (s.updCore c f).copy? k = s.copy? k := rfl
@[simp] theorem State.func_updCore (s : State) (c : Nat) (f : CoreState → CoreState) (k y : Nat) : (s.updCore c f).func? k y = s.func? k y := rfl
@[simp] theorem State.region_updCore (s : State) (c : Nat) (f : CoreState → CoreState) (k : Nat) : (s.updCore c f).region? k = s.region? k := rfl
@[simp] theorem State.byteAt_updCore (s : State) (c : Nat) (f : CoreState → CoreState) (k : Nat) : (s.updCore c f).byteAt k = s.byteAt k := rfl

@[simp] theorem State.lane_updCtx (s : State) (x : Nat) (f : Context → Context) (k y : Nat) : (s.updCtx x f).lane? k y = s.lane? k y := rfl
@[simp] theorem State.core_updCtx (s : State) (x : Nat) (f : Context → Context) (k : Nat) : (s.updCtx x f).core? k = s.core? k := rfl
@[simp] theorem State.copy_updCtx (s : State) (x : Nat) (f : Context → Context) (k : Nat) : (s.updCtx x f).copy? k = s.copy? k := rfl
@[simp] theorem State.func_updCtx (s : State) (x : Nat) (f : Context → Context) (k y : Nat) : (s.updCtx x f).func? k y = s.func? k y := rfl
@[simp] theorem State.region_updCtx (s : State) (x : Nat) (f : Context → Context) (k : Nat) : (s.updCtx x f).region? k = s.region? k := rfl
@[simp] theorem State.byteAt_updCtx (s : State) (x : Nat) (f : Context → Context) (k : Nat) : (s.updCtx x f).byteAt k = s.byteAt k := rfl

@[simp] theorem State.core_updPass (s : State) (c x p : Nat) (f : Pass → Pass) (k : Nat) : (s.updPass c x p f).core? k = s.core? k := rfl
@[simp] theorem State.ctx_updPass (s : State) (c x p : Nat) (f : Pass → Pass) (k : Nat) : (s.updPass c x p f).ctx? k = s.ctx? k := rfl
@[simp] theorem State.copy_updPass (s : State) (c x p : Nat) (f : Pass → Pass) (k : Nat) : (s.updPass c x p f).copy? k = s.copy? k := rfl
@[simp] theorem State.func_updPass (s : State) (c x p : Nat) (f : Pass → Pass) (k y : Nat) : (s.updPass c x p f).func? k y = s.func? k y := rfl
@[simp] theorem State.region_updPass (s : State) (c x p : Nat) (f : Pass → Pass) (k : Nat) : (s.updPass c x p f).region? k = s.region? k := rfl
@[simp] theorem State.byteAt_updPass (s : State) (c x p : Nat) (f : Pass → Pass) (k : Nat) : (s.updPass c x p f).byteAt k = s.byteAt k := rfl

@[simp] theorem State.core_updRun (s : State) (x : Firing) (f : Run → Run) (k : Nat) : (s.updRun x f).core? k = s.core? k := rfl
@[simp] theorem State.ctx_updRun (s : State) (x : Firing) (f : Run → Run) (k : Nat) : (s.updRun x f).ctx? k = s.ctx? k := rfl
@[simp] theorem State.copy_updRun (s : State) (x : Firing) (f : Run → Run) (k : Nat) : (s.updRun x f).copy? k = s.copy? k := rfl
@[simp] theorem State.func_updRun (s : State) (x : Firing) (f : Run → Run) (k y : Nat) : (s.updRun x f).func? k y = s.func? k y := rfl
@[simp] theorem State.region_updRun (s : State) (x : Firing) (f : Run → Run) (k : Nat) : (s.updRun x f).region? k = s.region? k := rfl
@[simp] theorem State.byteAt_updRun (s : State) (x : Firing) (f : Run → Run) (k : Nat) : (s.updRun x f).byteAt k = s.byteAt k := rfl

@[simp] theorem State.lane_updCopy (s : State) (i : Nat) (f : Copy → Copy) (k y : Nat) : (s.updCopy i f).lane? k y = s.lane? k y := rfl
@[simp] theorem State.core_updCopy (s : State) (i : Nat) (f : Copy → Copy) (k : Nat) : (s.updCopy i f).core? k = s.core? k := rfl
@[simp] theorem State.ctx_updCopy (s : State) (i : Nat) (f : Copy → Copy) (k : Nat) : (s.updCopy i f).ctx? k = s.ctx? k := rfl
@[simp] theorem State.func_updCopy (s : State) (i : Nat) (f : Copy → Copy) (k y : Nat) : (s.updCopy i f).func? k y = s.func? k y := rfl
@[simp] theorem State.region_updCopy (s : State) (i : Nat) (f : Copy → Copy) (k : Nat) : (s.updCopy i f).region? k = s.region? k := rfl
@[simp] theorem State.byteAt_updCopy (s : State) (i : Nat) (f : Copy → Copy) (k : Nat) : (s.updCopy i f).byteAt k = s.byteAt k := rfl

@[simp] theorem State.lane_updRegion (s : State) (x : Nat) (f : Region → Region) (k y : Nat) : (s.updRegion x f).lane? k y = s.lane? k y := rfl
@[simp] theorem State.core_updRegion (s : State) (x : Nat) (f : Region → Region) (k : Nat) : (s.updRegion x f).core? k = s.core? k := rfl
@[simp] theorem State.ctx_updRegion (s : State) (x : Nat) (f : Region → Region) (k : Nat) : (s.updRegion x f).ctx? k = s.ctx? k := rfl
@[simp] theorem State.copy_updRegion (s : State) (x : Nat) (f : Region → Region) (k : Nat) : (s.updRegion x f).copy? k = s.copy? k := rfl
@[simp] theorem State.func_updRegion (s : State) (x : Nat) (f : Region → Region) (k y : Nat) : (s.updRegion x f).func? k y = s.func? k y := rfl
@[simp] theorem State.byteAt_updRegion (s : State) (x : Nat) (f : Region → Region) (k : Nat) : (s.updRegion x f).byteAt k = s.byteAt k := rfl

@[simp] theorem State.lane_updMigration (s : State) (i : Nat) (f : Migration → Migration) (k y : Nat) : (s.updMigration i f).lane? k y = s.lane? k y := rfl
@[simp] theorem State.core_updMigration (s : State) (i : Nat) (f : Migration → Migration) (k : Nat) : (s.updMigration i f).core? k = s.core? k := rfl
@[simp] theorem State.ctx_updMigration (s : State) (i : Nat) (f : Migration → Migration) (k : Nat) : (s.updMigration i f).ctx? k = s.ctx? k := rfl
@[simp] theorem State.copy_updMigration (s : State) (i : Nat) (f : Migration → Migration) (k : Nat) : (s.updMigration i f).copy? k = s.copy? k := rfl
@[simp] theorem State.func_updMigration (s : State) (i : Nat) (f : Migration → Migration) (k y : Nat) : (s.updMigration i f).func? k y = s.func? k y := rfl
@[simp] theorem State.region_updMigration (s : State) (i : Nat) (f : Migration → Migration) (k : Nat) : (s.updMigration i f).region? k = s.region? k := rfl
@[simp] theorem State.byteAt_updMigration (s : State) (i : Nat) (f : Migration → Migration) (k : Nat) : (s.updMigration i f).byteAt k = s.byteAt k := rfl

@[simp] theorem State.lane_updFunc (s : State) (p n : Nat) (f : Function → Function) (k y : Nat) : (s.updFunc p n f).lane? k y = s.lane? k y := rfl
@[simp] theorem State.core_updFunc (s : State) (p n : Nat) (f : Function → Function) (k : Nat) : (s.updFunc p n f).core? k = s.core? k := rfl
@[simp] theorem State.ctx_updFunc (s : State) (p n : Nat) (f : Function → Function) (k : Nat) : (s.updFunc p n f).ctx? k = s.ctx? k := rfl
@[simp] theorem State.copy_updFunc (s : State) (p n : Nat) (f : Function → Function) (k : Nat) : (s.updFunc p n f).copy? k = s.copy? k := rfl
@[simp] theorem State.region_updFunc (s : State) (p n : Nat) (f : Function → Function) (k : Nat) : (s.updFunc p n f).region? k = s.region? k := rfl
@[simp] theorem State.byteAt_updFunc (s : State) (p n : Nat) (f : Function → Function) (k : Nat) : (s.updFunc p n f).byteAt k = s.byteAt k := rfl

/-! ### A part that an update changes -/

theorem find_map_same {α : Type} (p : α → Bool) (f : α → α) (l : List α) (h : ∀ x, p x = true → p (f x) = true) :
    (l.map (fun x => if p x then f x else x)).find? p = (l.find? p).map f := by
  induction l with
  | nil => rfl
  | cons x l ih =>
    by_cases hx : p x = true
    · simp [hx, h x hx]
    · simp only [List.map_cons, hx, Bool.false_eq_true, if_false, List.find?_cons_of_neg hx, ih]

theorem find_map_other {α : Type} (p q : α → Bool) (f : α → α) (l : List α) (h : ∀ x, q x = true → p (f x) = p x)
    (hd : ∀ x, q x = true → p x = false) : (l.map (fun x => if q x then f x else x)).find? p = l.find? p := by
  induction l with
  | nil => rfl
  | cons x l ih =>
    by_cases hq : q x = true
    · have hp := hd x hq
      simp only [List.map_cons, hq, if_true]
      rw [List.find?_cons_of_neg (by simp [h x hq, hp]), List.find?_cons_of_neg (by simp [hp]), ih]
    · simp only [List.map_cons, hq, Bool.false_eq_true, if_false, List.find?_cons, ih]

/-- A lane after it has been changed by a function that keeps its place. -/
theorem State.lane_updLane_same (s : State) (c x : Nat) (f : Lane → Lane) (h : ∀ l, (f l).core = l.core ∧ (f l).ctx = l.ctx) :
    (s.updLane c x f).lane? c x = (s.lane? c x).map f :=
  find_map_same _ f s.lanes (fun l hl => by simpa [(h l).1, (h l).2] using hl)

/-- Another lane stays. -/
theorem State.lane_updLane_other (s : State) (c x c' x' : Nat) (f : Lane → Lane) (h : ∀ l, (f l).core = l.core ∧ (f l).ctx = l.ctx)
    (hn : ¬(c' = c ∧ x' = x)) : (s.updLane c x f).lane? c' x' = s.lane? c' x' :=
  find_map_other _ _ f s.lanes (fun l _ => by simp [(h l).1, (h l).2])
    (fun l hl => by
      simp only [Bool.and_eq_true, decide_eq_true_eq] at hl
      simp only [Bool.and_eq_false_iff, decide_eq_false_iff_not]
      omega)

theorem State.core_updCore_same (s : State) (c : Nat) (f : CoreState → CoreState) (h : ∀ k, (f k).core = k.core) :
    (s.updCore c f).core? c = (s.core? c).map f := by
  have := find_map_same (fun k : CoreState => decide (k.core = c)) f s.cores (fun k hk => by simpa [h k] using hk)
  simpa [State.updCore, State.core?] using this

theorem State.ctx_updCtx_same (s : State) (x : Nat) (f : Context → Context) (h : ∀ c, (f c).num = c.num) :
    (s.updCtx x f).ctx? x = (s.ctx? x).map f := by
  have := find_map_same (fun c : Context => decide (c.num = x)) f s.contexts (fun c hc => by simpa [h c] using hc)
  simpa [State.updCtx, State.ctx?] using this

theorem State.copy_updCopy_same (s : State) (i : Nat) (f : Copy → Copy) (h : ∀ c, (f c).id = c.id) :
    (s.updCopy i f).copy? i = (s.copy? i).map f := by
  have := find_map_same (fun c : Copy => decide (c.id = i)) f s.copies (fun c hc => by simpa [h c] using hc)
  simpa [State.updCopy, State.copy?] using this

@[simp] theorem listSet_length {α : Type} (l : List α) (k : Nat) (f : α → α) : (listSet l k f).length = l.length := by
  simp [listSet]

@[simp] theorem listSet_same {α : Type} (l : List α) (k : Nat) (f : α → α) : (listSet l k f)[k]? = l[k]?.map f := by
  simp [listSet]

theorem listSet_other {α : Type} (l : List α) {k j : Nat} (f : α → α) (h : j ≠ k) : (listSet l k f)[j]? = l[j]? := by
  simp only [listSet, List.getElem?_mapIdx, h, if_false]
  cases l[j]? <;> rfl

theorem State.func_updFunc_same (s : State) (p n : Nat) (f : Function → Function) :
    (s.updFunc p n f).func? p n = (s.func? p n).map f := by
  unfold State.func?
  split
  · simp [State.updFunc]
  · rfl

theorem State.func_updFunc_other (s : State) {p n p' n' : Nat} (f : Function → Function) (h : funcIndex p' n' ≠ funcIndex p n) :
    (s.updFunc p n f).func? p' n' = s.func? p' n' := by
  unfold State.func?
  split
  · exact listSet_other s.functions f h
  · rfl

end Sys2Proof.Machine
end

