-- ==== Sys2Proof/Tests/Slice0.lean ====
section
/-! SUPPORT. The model's own tests. Expected results are taken from the spec's tables and worked examples, or computed by
hand from its rules. First the words of the encodings, written out field by field; then the ill-formed terms; then one step of
the instructions; then, for each statement with hypotheses, a state and operands that meet them. -/

namespace Sys2Proof.Tests

open Sys2Proof Sys2Proof.Machine

-- The theorems of this file are checked one after another, so that the check needs few threads.
set_option Elab.async false

/-! ### Words written out from the encodings -/

/-- A 64-bit instruction word, field by field (R47). -/
def wordOf (op : BitVec 8) (fn : BitVec 4) (pm : BitVec 2) (u x : BitVec 1) (t0 t1 : BitVec 10) (ops : BitVec 28) : Nat :=
  (op ++ fn ++ pm ++ u ++ x ++ t0 ++ t1 ++ ops).toNat

/-- Whether a word with its extension decodes to an instruction. -/
def decodesTo (w ext : Nat) (i : Instr) : Bool :=
  match decodeWord w ext with
  | .ok j => decide (j = i)
  | .error _ => false

/-- Whether a word with its extension is rejected with a fault of R60. -/
def rejects (w ext : Nat) (e : LoadFault) : Bool :=
  match decodeWord w ext with
  | .ok _ => false
  | .error d => decide (d = e)

/-- T0 = index 5, slot c (0b1_0000101_10); T1 = index 9, slot b (0b1_0001001_01). -/
def fT : Fields := { pm := .always, hot := false, t0 := some { idx := 5, slot := .c }, t1 := some { idx := 9, slot := .b } }

/-- No target, no predicate. -/
def fN : Fields := { pm := .always, hot := false, t0 := none, t1 := none }

/-- A word with the two targets of `fT`, no predicate, no extension. -/
def wT (op : BitVec 8) (fn : BitVec 4) (ops : BitVec 28) : Nat :=
  wordOf op fn 0b00 0b0 0b0 0b1000010110 0b1000100101 ops

/-- A word with no target. -/
def wN (op : BitVec 8) (fn : BitVec 4) (ops : BitVec 28) : Nat := wordOf op fn 0b00 0b0 0b0 0 0 ops

/-- The worked examples of R52, R152, R214, R249: ADD with an immediate, a streamed LD, an MMA, an ACAS. -/
theorem test_words_of_the_worked_examples :
    decodesTo 0x280087225FFFFFFB 0 (.add { pm := .always, hot := false, t0 := some { idx := 7, slot := .a }
                                           t1 := some { idx := 9, slot := .b } } .i32 false (some 0x7FFFFFB)) = true ∧
    decodesTo 0x78008A22E54D0000 0 (.ld { pm := .always, hot := false, t0 := some { idx := 10, slot := .a }
                                          t1 := some { idx := 11, slot := .c } }
      { cls := .s, scope := .die, fmt := .bf16, cp := .noAlloc, oe := true, disp := 0 }) = true ∧
    decodesTo 0xC1008C8000018800 0 (.mma { pm := .always, hot := false, t0 := some { idx := 12, slot := .c }, t1 := none } true
      (some 1)) = true ∧
    decodesTo 0x9700882260180000 0 (.acas { pm := .always, hot := false, t0 := some { idx := 8, slot := .a }
                                            t1 := some { idx := 9, slot := .c } }
      { cls := .g, scope := .core, fmt := .i32, cp := .normal, oe := false, disp := 0 }) = true := by decide +kernel

/-- R303: the dataflow and control instructions. PM 0b10 is fire on false; U is .HOT. -/
theorem test_words_of_dataflow :
    decodesTo (wordOf 0x01 0 0b10 0b1 0b0 0b1000010110 0 0) 0
      (.mov { pm := .onFalse, hot := true, t0 := some { idx := 5, slot := .c }, t1 := none }) = true ∧
    decodesTo (wT 0x02 0 0b1000000000000000000000000011) 0 (.movi fT 3) = true ∧
    decodesTo (wordOf 0x03 0 0 0 0b1 0b1000010110 0b1000100101 0) 0xFEDCBA9876543210 (.movx fT 0xFEDCBA9876543210) = true ∧
    decodesTo (wordOf 0x04 0 0 0 0b1 0b1000010110 0b1000100101 0)
      ((0b1000001100 : BitVec 10) ++ (0b1000001011 : BitVec 10) ++ (0 : BitVec 44)).toNat
      (.fan fT (some { idx := 3, slot := .a }) (some { idx := 2, slot := .p })) = true ∧
    decodesTo (wT 0x05 0 0) 0 (.null fT) = true ∧
    decodesTo (wT 0x06 0 0b101010) 0 (.read fT 42) = true ∧
    decodesTo (wN 0x07 0 0b101011) 0 (.write fN 43) = true ∧
    decodesTo (wT 0x08 0 0) 0 (.sel fT none) = true ∧
    decodesTo (wT 0x09 0 0) 0 (.steer fT) = true ∧
    decodesTo (wT 0x0A 0 0) 0 (.merge fT) = true ∧
    decodesTo (wT 0x0B 0 0) 0 (.carry fT) = true ∧
    decodesTo (wT 0x0C 0 0) 0 (.invar fT) = true := by decide +kernel

/-- R303: exits, threads, groups and live slots. -/
theorem test_words_of_threads :
    decodesTo (wN 0x0D 0 0b110) 0 (.exit fN 6) = true ∧
    decodesTo (wN 0x0E 0 0b101010011110) 0 (.call fN 42 3 6) = true ∧
    decodesTo (wN 0x0F 0 0) 0 (.ret fN) = true ∧
    decodesTo (wN 0x10 0 0) 0 (.drop fN) = true ∧
    decodesTo (wT 0x11 0 0b10100000000001) 0 (.test fT .none 0x801) = true ∧
    decodesTo (wT 0x14 0 0b011) 0 (.spawn fT 3) = true ∧
    decodesTo (wN 0x15 0 0) 0 (.endThread fN) = true ∧
    decodesTo (wT 0x16 0 0) 0 (.gnew fT) = true ∧
    decodesTo (wT 0x17 0 0) 0 (.gfree fT) = true ∧
    decodesTo (wT 0x18 0 0) 0 (.join fT) = true ∧
    decodesTo (wT 0x19 0 0) 0 (.leave fT) = true ∧
    decodesTo (wN 0x1A 0 0) 0 (.bar fN) = true ∧
    decodesTo (wT 0x1B 0 0) 0 (.barinit fT) = true ∧
    decodesTo (wN 0x1C 0 0b100001000000000000) 0 (.elect fN 33) = true ∧
    decodesTo (wN 0x1D 0 0b0010_00000_100001_000000000000) 0 (.vote fN .cnt 33) = true ∧
    decodesTo (wT 0x1E 0 0b100000000011) 0 (.setf fT 0x803) = true ∧
    decodesTo (wT 0x1F 0 0b100000000011) 0 (.clrf fT 0x803) = true ∧
    decodesTo (wT 0x20 0 0b1000000000000000000000001000) 0 (.grow fT (some 8)) = true ∧
    decodesTo (wT 0x21 0 0) 0 (.shrink fT none) = true ∧
    decodesTo (wT 0x22 0 0b1011) 0 (.sread fT 11) = true ∧
    decodesTo (wT 0x23 0 0) 0 (.yield fT) = true := by decide +kernel

/-- R105: the integer instructions; FN[1:0] is the type, FN[3:2] the modifier. -/
theorem test_words_of_integers :
    decodesTo (wT 0x28 0b0100 0) 0 (.add fT .i32 true none) = true ∧
    decodesTo (wT 0x29 0b0101 0) 0 (.sub fT .n32 true none) = true ∧
    decodesTo (wT 0x2A 0b0010 0x8000001) 0 (.mul fT .i64 false (some 1)) = true ∧
    decodesTo (wT 0x2B 0b0011 0) 0 (.mulh fT .n64 none) = true ∧
    decodesTo (wT 0x2C 0b0111 0) 0 (.mad fT .n64 true none) = true ∧
    decodesTo (wT 0x2D 0b0100 0) 0 (.div fT .i32 true none) = true ∧
    decodesTo (wT 0x2E 0b0000 0) 0 (.rem fT .i32 false none) = true ∧
    decodesTo (wT 0x2F 0b0110 0) 0 (.neg fT .i64 true) = true ∧
    decodesTo (wT 0x30 0b0000 0) 0 (.abs fT .i32 false) = true ∧
    decodesTo (wT 0x31 0b0001 0) 0 (.min fT .n32 none) = true ∧
    decodesTo (wT 0x32 0b0001 0) 0 (.max fT .n32 none) = true ∧
    decodesTo (wT 0x33 0b0001 0) 0 (.clamp fT .n32 none) = true ∧
    decodesTo (wT 0x34 0b0101 0) 0 (.absd fT .n32 true none) = true ∧
    decodesTo (wT 0x35 0b0001 0) 0 (.adds fT .n32 none) = true ∧
    decodesTo (wT 0x36 0b0001 0) 0 (.subs fT .n32 none) = true ∧
    decodesTo (wT 0x37 0b1110 0) 0 (.cmp fT .i64 .ge none) = true ∧
    decodesTo (wT 0x38 0b0011 0xFFFFFFF) 0 (.and fT .n64 (some 0x7FFFFFF)) = true ∧
    decodesTo (wT 0x39 0b0011 0) 0 (.or fT .n64 none) = true ∧
    decodesTo (wT 0x3A 0b0011 0) 0 (.xor fT .n64 none) = true ∧
    decodesTo (wT 0x3B 0b0011 0) 0 (.andn fT .n64 none) = true ∧
    decodesTo (wT 0x3C 0b0011 0) 0 (.not fT .n64) = true ∧
    decodesTo (wT 0x3D 0b0011 0) 0 (.shl fT .n64 none) = true ∧
    decodesTo (wT 0x3E 0b0011 0) 0 (.shr fT .n64 none) = true ∧
    decodesTo (wT 0x3F 0b0010 0) 0 (.sar fT .i64 none) = true ∧
    decodesTo (wT 0x40 0b0010 0) 0 (.rol fT .i64 none) = true ∧
    decodesTo (wT 0x41 0b0010 0) 0 (.ror fT .i64 none) = true ∧
    decodesTo (wT 0x42 0b0110 0) 0 (.fsh fT .i64 true none) = true ∧
    decodesTo (wT 0x43 0b0000 0) 0 (.clz fT .i32) = true ∧
    decodesTo (wT 0x44 0b0001 0) 0 (.ctz fT .n32) = true ∧
    decodesTo (wT 0x45 0b0010 0) 0 (.popc fT .i64) = true ∧
    decodesTo (wT 0x46 0b0011 0) 0 (.brev fT .n64) = true ∧
    decodesTo (wT 0x47 0b0011 0) 0 (.bfx fT .n64 none) = true ∧
    decodesTo (wT 0x48 0b0011 0) 0 (.bfi fT .n64 none) = true ∧
    decodesTo (wT 0x49 0b1001 0) 0 (.ext fT .n32 .b32) = true ∧
    decodesTo (wT 0x4A 0b0011 0) 0 (.perm fT .n64 none) = true ∧
    decodesTo (wT 0x4B 0b1110 0) 0 (.lea fT .i64 3 none) = true ∧
    decodesTo (wT 0x4C 0b1101 0) 0 (.crc fT .n32 .c32cb none) = true := by decide +kernel

/-- R122: the W-float instructions; FN[2:0] is the rounding mode, FN[3] the modifier. -/
theorem test_words_of_floats :
    decodesTo (wT 0x50 0b0101 0) 0 (.fadd fT .hsr none) = true ∧
    decodesTo (wT 0x51 0b0000 0) 0 (.fsub fT .rne none) = true ∧
    decodesTo (wT 0x52 0b0001 0x8000002) 0 (.fmul fT .rtz (some 2)) = true ∧
    decodesTo (wT 0x53 0b0010 0) 0 (.fma fT .rup none) = true ∧
    decodesTo (wT 0x54 0b0011 0) 0 (.fnma fT .rdn none) = true ∧
    decodesTo (wT 0x55 0b0100 0) 0 (.fdiv fT .rna none) = true ∧
    decodesTo (wT 0x56 0b0000 0) 0 (.fsqrt fT .rne) = true ∧
    decodesTo (wT 0x57 0b0000 0) 0 (.frcp fT .rne) = true ∧
    decodesTo (wT 0x58 0b0000 0) 0 (.frsq fT .rne) = true ∧
    decodesTo (wT 0x59 0b1000 0) 0 (.fmin fT .rne true none) = true ∧
    decodesTo (wT 0x5A 0b0000 0) 0 (.fmax fT .rne false none) = true ∧
    decodesTo (wT 0x5B 0b0000 0) 0 (.fabs fT .rne) = true ∧
    decodesTo (wT 0x5C 0b0000 0) 0 (.fneg fT .rne) = true ∧
    decodesTo (wT 0x5D 0b1000 0) 0 (.fsgn fT .rne true none) = true ∧
    decodesTo (wT 0x5E 0b1000 0) 0 (.fcmp fT .rne true none) = true ∧
    decodesTo (wT 0x5F 0b0000 0) 0 (.fclass fT .rne) = true ∧
    decodesTo (wT 0x60 0b0010 0) 0 (.frint fT .rup) = true ∧
    decodesTo (wT 0x61 0b0001 0b10) 0 (.ftoi fT .rtz .i64) = true ∧
    decodesTo (wT 0x62 0b0000 0b01) 0 (.itof fT .rne .n32) = true ∧
    decodesTo (wT 0x63 0b0000 0) 0 (.fscale fT .rne) = true ∧
    decodesTo (wT 0x64 0b0000 0) 0 (.flogb fT .rne) = true ∧
    decodesTo (wT 0x65 0b0000 0) 0 (.fmant fT .rne) = true ∧
    decodesTo (wT 0x66 0b0000 0) 0 (.fexp2 fT .rne) = true ∧
    decodesTo (wT 0x67 0b0000 0) 0 (.flog2 fT .rne) = true ∧
    decodesTo (wT 0x68 0b0000 0) 0 (.fsin fT .rne) = true ∧
    decodesTo (wT 0x69 0b0000 0) 0 (.fcos fT .rne) = true ∧
    decodesTo (wT 0x6A 0b0000 0) 0 (.ftanh fT .rne) = true ∧
    decodesTo (wT 0x6B 0b0000 0) 0 (.ferf fT .rne) = true ∧
    decodesTo (wT 0x6C 0b0000 0) 0 (.fclamp fT .rne none) = true := by decide +kernel

/-- CLASS, SCOPE, FMT, CP, OE and DISP of the memory layout (R51). -/
def opsM (cls scope : BitVec 2) (fmt : BitVec 5) (cp : BitVec 2) (oe : BitVec 1) (disp : BitVec 16) : BitVec 28 :=
  cls ++ scope ++ fmt ++ cp ++ oe ++ disp

/-- Class G, format `fmt`, slot c not an order slot. -/
def mG (fmt : Fmt) : MemOps := { cls := .g, scope := .core, fmt := fmt, cp := .normal, oe := false, disp := 0 }

/-- R195, R205, R210, R211, R214, R215, R219: the memory, atomic and order instructions. -/
theorem test_words_of_memory :
    decodesTo (wT 0x78 0 (opsM 0b10 0b00 0b00111 0b00 0b1 0xFFF8)) 0
      (.ld fT { cls := .p, scope := .core, fmt := .fp32, cp := .normal, oe := true, disp := 0xFFF8 }) = true ∧
    decodesTo (wT 0x79 0b0001 (opsM 0b01 0b11 0b01000 0b11 0b0 0x0010)) 0
      (.st fT { cls := .s, scope := .sys, fmt := .fp16, cp := .uncached, oe := false, disp := 16 } .rtz) = true ∧
    decodesTo (wT 0x7A 0 (opsM 0 0 0 0 0b1 0x0FFF)) 0 (.ldt fT 0xFFF true) = true ∧
    decodesTo (wT 0x7B 0b0100 (opsM 0 0 0 0 0b0 0x0005)) 0 (.stt fT 5 false .rna) = true ∧
    decodesTo (wT 0x7C 0 (opsM 0b00 0 0 0b01 0 0)) 0
      (.pref fT { cls := .g, scope := .core, fmt := .raw64, cp := .keep, oe := false, disp := 0 }) = true ∧
    decodesTo (wT 0x7D 0 (opsM 0b01 0b10 0 0 0 0)) 0
      (.evict fT { cls := .s, scope := .pkg, fmt := .raw64, cp := .normal, oe := false, disp := 0 }) = true ∧
    decodesTo (wT 0x90 0 (opsM 0 0 0b00011 0 0 0)) 0 (.aadd fT (mG .i32)) = true ∧
    decodesTo (wT 0x91 0 (opsM 0 0 0b00110 0 0 0)) 0 (.amin fT (mG .n32)) = true ∧
    decodesTo (wT 0x92 0 (opsM 0 0 0b00000 0 0 0)) 0 (.amax fT (mG .raw64)) = true ∧
    decodesTo (wT 0x93 0 (opsM 0 0 0b00011 0 0 0)) 0 (.aand fT (mG .i32)) = true ∧
    decodesTo (wT 0x94 0 (opsM 0 0 0b00011 0 0 0)) 0 (.aor fT (mG .i32)) = true ∧
    decodesTo (wT 0x95 0 (opsM 0 0 0b00011 0 0 0)) 0 (.axor fT (mG .i32)) = true ∧
    decodesTo (wT 0x96 0 (opsM 0 0 0b00011 0 0 0)) 0 (.axchg fT (mG .i32)) = true ∧
    decodesTo (wT 0x97 0 (opsM 0 0 0b00011 0 0 0)) 0 (.acas fT (mG .i32)) = true ∧
    decodesTo (wT 0x98 0 (opsM 0 0 0b00110 0 0 0)) 0 (.aincw fT (mG .n32)) = true ∧
    decodesTo (wT 0x99 0 (opsM 0 0 0b00000 0 0 0)) 0 (.adecw fT (mG .raw64)) = true ∧
    decodesTo (wT 0x9A 0b0101 (opsM 0 0 0b00111 0 0 0)) 0 (.afadd fT (mG .fp32) .hsr) = true ∧
    decodesTo (wT 0x9B 0b0000 (opsM 0 0 0b01001 0 0 0)) 0 (.afmin fT (mG .bf16) .rne) = true ∧
    decodesTo (wT 0x9C 0b0000 (opsM 0 0 0b00000 0 0 0)) 0 (.afmax fT (mG .raw64) .rne) = true ∧
    decodesTo (wordOf 0x9D 0 0 0 0b1 0b1000010110 0b1000100101 0) 0b10010 (.red fT (mG .raw64) .rne true .max) = true ∧
    decodesTo (wT 0x9E 0 0) 0 (.ojoin fT) = true ∧
    decodesTo (wT 0x9F 0 (opsM 0 0b01 0 0 0 0)) 0 (.rel fT .die) = true ∧
    decodesTo (wT 0xA0 0 (opsM 0 0b10 0 0 0 0)) 0 (.acq fT .pkg) = true ∧
    decodesTo (wT 0xA1 0 (opsM 0 0b11 0 0 0 0)) 0 (.fence fT .sys) = true ∧
    decodesTo (wT 0xA2 0 (opsM 0b10 0 0b00110 0 0b1 0b1010000000000000)) 0 (.waita fT .p .n32 true .none) = true := by
  decide +kernel

/-- R222, R225, R231, R232: the streams and gathers; E, PORT and OE of a port. -/
theorem test_words_of_streams :
    decodesTo (wT 0xB0 0 (opsM 0 0 0 0 0b1 0)) 0 (.bankmode fT true) = true ∧
    decodesTo (wT 0xB1 0 0b0_000110_0000_1_0000000000000000) 0 (.push fT { edge := false, port := 6 } true) = true ∧
    decodesTo (wT 0xB2 0 0b1_111111_0000_0_0000000000000000) 0 (.pop fT { edge := true, port := 63 } false) = true ∧
    decodesTo (wT 0xB3 0 0b0_011111_0000_0_0000000000000000) 0 (.peek fT { edge := false, port := 31 } false) = true ∧
    decodesTo (wT 0xB4 0 0b1_000001_0000_0_0000000000000000) 0 (.wfeed fT { edge := true, port := 1 } false) = true ∧
    decodesTo (wT 0xB5 0 0b1_000001_0000_0_0000000000000000) 0 (.wemit fT { edge := true, port := 1 } false) = true ∧
    decodesTo (wT 0xB6 0 (opsM 0b01 0b01 0b01111 0b10 0b0 0x8000)) 0
      (.gath fT { cls := .s, scope := .die, fmt := .s12, cp := .noAlloc, oe := false, disp := 0x8000 }) = true ∧
    decodesTo (wT 0xB7 0 0) 0 (.grecv fT) = true := by decide +kernel

/-- CLASS, SCOPE, FMT, CP, OE, FV, FLAG and TILE of the matrix layout (R146). -/
def opsX (cls scope : BitVec 2) (fmt : BitVec 5) (cp : BitVec 2) (oe fv : BitVec 1) (flag : BitVec 4) (tile : BitVec 2) : BitVec 28 :=
  cls ++ scope ++ fmt ++ cp ++ oe ++ fv ++ flag ++ tile ++ (0 : BitVec 9)

/-- R146, R154, R249, R256, R257, R418: the matrix engine, the collectives, copies and the system instructions. -/
theorem test_words_of_engines_and_system :
    decodesTo (wT 0xC0 0 (opsX 0b01 0b01 0b01110 0b10 1 1 0b0010 0)) 0 (.mbld fT .s .die .t6 .noAlloc true (some 2)) = true ∧
    decodesTo (wT 0xC1 0 (opsX 0 0 0 0 1 1 0b1011 0)) 0 (.mma fT true (some 11)) = true ∧
    decodesTo (wT 0xC2 0 (opsX 0 0 0 0 0 0 0 0b11)) 0 (.mzero fT false none 3) = true ∧
    decodesTo (wT 0xC3 0b0100 (opsX 0b10 0 0b00111 0 0 1 0 0b01)) 0 (.mstore fT .p .core .fp32 .normal false (some 0) 1 .rna) = true ∧
    decodesTo (wT 0xC4 0 (opsX 0 0 0 0 1 0 0 0b10)) 0 (.mread fT true 2) = true ∧
    decodesTo (wN 0xC5 0 0b0_0001_11_000_000101_0_00000000000) 0 (.reduce fN .min .n64 .rne 5) = true ∧
    decodesTo (wN 0xC6 0 0b0_0110_00_101_111111_1_00000000000) 0 (.scan fN .fadd .i32 .hsr 63 true) = true ∧
    decodesTo (wN 0xC7 0 0b0_0000_00_000_000111_0_00000000000) 0 (.bcast fN 7) = true ∧
    decodesTo (wT 0xD0 0 (opsX 0b10 0 0 0 1 1 0b0011 0)) 0 (.copy fT .p true (some 3)) = true ∧
    decodesTo (wT 0xD1 0 (opsX 0 0 0 0 1 0 0 0)) 0 (.credit fT true) = true ∧
    decodesTo (wT 0xD2 0 0) 0 (.cstat fT false) = true ∧
    decodesTo (wN 0xE0 0 0b111111) 0 (.trap fN 63) = true ∧
    decodesTo (wN 0xE1 0 0xABCD) 0 (.brk fN 0xABCD) = true ∧
    decodesTo (wT 0xE2 0 0x10014) 0 (.sysrd fT true 0x14) = true ∧
    decodesTo (wT 0xE3 0 0x00003) 0 (.syswr fT false 3) = true ∧
    decodesTo (wT 0xE4 0 (opsX 0b10 0 0 0 0 0 0 0)) 0 (.tlbinv fT true false none) = true ∧
    decodesTo (wT 0xE5 0 (opsX 0 0 0 0 1 1 0b0001 0)) 0 (.cfginv fT false true (some 1)) = true ∧
    decodesTo (wN 0xE6 0 0b1) 0 (.resume fN true) = true ∧
    decodesTo (wN 0xE7 0 0b1_101000011) 0 (.halt fN true 0x143) = true := by decide +kernel

/-- R60: words with a fault are rejected with the lowest detail among their faults. -/
theorem test_bad_words_are_rejected :
    rejects (wN 0x00 0 0) 0 .opcode = true ∧
    rejects (wordOf 0x28 0 0b11 0 0 0 0 0) 0 .predicate = true ∧
    rejects (wT 0x28 0b1000 0) 0 .fn = true ∧
    rejects (wordOf 0x28 0 0 0 0 0b0000010110 0 0) 0 .target = true ∧
    rejects (wN 0x28 0 1) 0 .field = true ∧
    rejects (wordOf 0x28 0 0 0 1 0 0 0) 0 .extension = true ∧
    rejects (wN 0x03 0 0) 0 .extension = true ∧
    rejects (wN 0xC1 0 (opsX 0 0 0 0 0 1 0b1100 0)) 0 .flag = true := by decide +kernel


/-! ### Small states -/

/-- A block with one word at index 0 and, at index 1, a FAN that names the slots given of index 0. -/
def blockOf (w : Nat × Nat) (sls : List Slot) : Block :=
  { blk := 3, header := [0, 0, 0, 0], words := w :: feederWords sls, maps := [], va := 0, stale := false }

/-- Tokens waiting at index 0. -/
def toksOf (vals : List (Slot × Option Word)) : List Token :=
  vals.map (fun v => { idx := 0, slot := v.1, val := v.2, deps := [] })

/-- The run of thread 77 with tokens at index 0, whose word is a source when no slot is fed. -/
def runOf (vals : List (Slot × Option Word)) : Run :=
  { Run.empty 77 0 (if vals.isEmpty then [0] else []) with tokens := toksOf vals }

/-- Thread 77 in pass 0, with eight live values. -/
def thread77 : Thread := { Thread.fresh 77 0 3 [10, 11, 12, 13, 14, 15, 16, 17] with place := .inPass 0 }

/-- A streaming pass with one run. -/
def passOf (r : Run) : Pass := { Pass.single [] [] with blk := 3, runs := [r], admission := [77] }

/-- The lane of context 0 on core 0 with one pass. -/
def laneOf (b : Block) (t : Thread) (p : Pass) : Lane :=
  { Lane.reset 0 0 SysRegs.reset with
    threads := [t]
    slots := [{ block := some b }, { block := none }]
    passes := [p]
    nextPass := 1 }

/-- The firing of index 0 for thread 77 in pass 0. -/
def cur77 : Firing := { core := 0, ctx := 0, pass := 0, tidx := 77, idx := 0 }

/-- A state with one lane, whose thread 77 is about to fire index 0. -/
def stateOf (l : Lane) : State := { State.reset with lanes := [l], cores := [CoreState.reset 0], cur := cur77 }

/-- The 64-bit word of an opcode with FN and OPS, whose T0 is slot a of index 2. -/
def wordO (op : BitVec 8) (fn : BitVec 4) (ops : BitVec 28) : Nat × Nat := (wordOf op fn 0 0 0 0b1000001000 0 ops, 0)

/-- Its fields. -/
def fO : Fields := { pm := .always, hot := false, t0 := some { idx := 2, slot := .a }, t1 := none }

/-- The scene: a word at index 0 with tokens at its slots; the run and the thread changed as given. -/
def sceneWith (w : Nat × Nat) (vals : List (Slot × Option Word)) (g : Run → Run) (h : Thread → Thread) : State :=
  stateOf (laneOf (blockOf w (vals.map (·.1))) (h thread77) (passOf (g (runOf vals))))

/-- The scene with nothing changed. -/
def sceneOf (w : Nat × Nat) (vals : List (Slot × Option Word)) : State := sceneWith w vals id id

/-- Tokens in slots a and b, and in a, b and c. -/
def ab (a b : Word) : List (Slot × Option Word) := [(.a, some a), (.b, some b)]

/-- Tokens in slots a, b and c. -/
def abc (a b c : Word) : List (Slot × Option Word) := [(.a, some a), (.b, some b), (.c, some c)]

/-- The instruction at index 0 has fired once before. -/
def firedOnce (r : Run) : Run := r.consumed 0 true

/-- The thread is in handler. -/
def inHandler (t : Thread) : Thread := { t with handler := some { tcause := 1, tinfo := 2, tblock := 3 } }

/-! ### Reading the outcome of a firing -/

/-- The run of thread 77 after an outcome. -/
def runAfter (o : Host.Outcome State Fault Refusal) : Option Run :=
  match o with
  | .next t => ((t.lane? 0 0).bind (·.pass? 0)).bind (·.run? 77)
  | _ => none

/-- The token sent to slot a of index 2: none, a null, or a value. -/
def sent (o : Host.Outcome State Fault Refusal) : Option (Option Word) :=
  (runAfter o).bind (fun r => (r.tokens.find? (fun t => t.idx = 2 && t.slot = .a)).map (·.val))

/-- The cause recorded, with its TINFO. -/
def caused (o : Host.Outcome State Fault Refusal) : Option (Nat × Option Nat) :=
  (runAfter o).bind (fun r => r.causes.head?.map (fun c => (c.cause, c.info)))

/-- One step that fires a word with T0 at slot a of index 2: what it sends. -/
def gives (op : BitVec 8) (fn : BitVec 4) (ops : BitVec 28) (vals : List (Slot × Option Word)) : Option (Option Word) :=
  sent (step { sceneOf (wordO op fn ops) vals with moves := [.fire 0 0 0 77 0] })

/-- One step that fires such a word: the cause it records. -/
def trapsWith (op : BitVec 8) (fn : BitVec 4) (ops : BitVec 28) (vals : List (Slot × Option Word)) : Option (Nat × Option Nat) :=
  caused (step { sceneOf (wordO op fn ops) vals with moves := [.fire 0 0 0 77 0] })

/-- One step that fires a word without targets: the run after it. -/
def leaves (op : BitVec 8) (ops : BitVec 28) (vals : List (Slot × Option Word)) : Option Run :=
  runAfter (step { sceneOf (wordOf op 0 0 0 0 0 0 ops, 0) vals with moves := [.fire 0 0 0 77 0] })

/-! ### Integer results (R103-R120), computed by hand -/

/-- ADD.I32 wraps and sign-extends; .CHK traps with 0x000 and the index; SUB, MUL, MULH, MAD. -/
theorem test_sums_and_products :
    gives 0x28 0b0000 0 (ab 0x7FFFFFFF 1) = some (some 0xFFFFFFFF80000000) ∧
    trapsWith 0x28 0b0100 0 (ab 0x7FFFFFFF 1) = some (0, some 0) ∧
    gives 0x28 0b0000 0x7FFFFFB [(.a, some 3)] = none ∧
    gives 0x28 0b0000 0xFFFFFFB [(.a, some 3)] = some (some 0xFFFFFFFFFFFFFFFE) ∧
    gives 0x29 0b0001 0 (ab 0 1) = some (some 0xFFFFFFFF) ∧
    gives 0x2A 0b0011 0 (ab 0x8000000000000001 2) = some (some 2) ∧
    gives 0x2B 0b0001 0 (ab 0xFFFFFFFF 0xFFFFFFFF) = some (some 0xFFFFFFFE) ∧
    gives 0x2C 0b0000 0 (abc 3 5 0xFFFFFFFF) = some (some 14) := by decide +kernel

/-- DIV and REM: truncation, zero divisors, the quotient that overflows (R109). -/
theorem test_quotients :
    gives 0x2D 0b0000 0 (ab 0xFFFFFFF9 2) = some (some 0xFFFFFFFFFFFFFFFD) ∧
    gives 0x2E 0b0000 0 (ab 0xFFFFFFF9 2) = some (some 0xFFFFFFFFFFFFFFFF) ∧
    gives 0x2D 0b0001 0 (ab 5 0) = some (some 0xFFFFFFFF) ∧
    gives 0x2E 0b0001 0 (ab 5 0) = some (some 5) ∧
    trapsWith 0x2D 0b0100 0 (ab 5 0) = some (1, some 0) ∧
    gives 0x2D 0b0000 0 (ab 0x80000000 0xFFFFFFFF) = some (some 0xFFFFFFFF80000000) ∧
    trapsWith 0x2E 0b0100 0 (ab 0x80000000 0xFFFFFFFF) = some (0, some 0) := by decide +kernel

/-- NEG, ABS, ABSD, MIN, MAX, CLAMP, ADDS, SUBS, CMP (R106, R107, R110, R111). -/
theorem test_order_and_saturation :
    gives 0x2F 0b0000 0 [(.a, some 0x80000000)] = some (some 0xFFFFFFFF80000000) ∧
    trapsWith 0x30 0b0100 0 [(.a, some 0x80000000)] = some (0, some 0) ∧
    gives 0x34 0b0001 0 (ab 3 5) = some (some 2) ∧
    gives 0x31 0b0000 0 (ab 0xFFFFFFFF 1) = some (some 0xFFFFFFFFFFFFFFFF) ∧
    gives 0x32 0b0001 0 (ab 0xFFFFFFFF 1) = some (some 0xFFFFFFFF) ∧
    gives 0x33 0b0000 0 (abc 50 1 9) = some (some 9) ∧
    gives 0x35 0b0000 0 (ab 0x7FFFFFFF 1) = some (some 0x7FFFFFFF) ∧
    gives 0x36 0b0001 0 (ab 1 2) = some (some 0) ∧
    gives 0x37 0b1000 0 (ab 0xFFFFFFFF 1) = some (some 1) ∧
    gives 0x37 0b1001 0 (ab 0xFFFFFFFF 1) = some (some 0) := by decide +kernel

/-- Logic, shifts, rotates, the funnel shift (R112-R114). -/
theorem test_logic_and_shifts :
    gives 0x38 0b0000 0 (ab 0xF0F0F0F0 0xFF00FF00) = some (some 0xFFFFFFFFF000F000) ∧
    gives 0x39 0b0001 0 (ab 0xF0 0x0F) = some (some 0xFF) ∧
    gives 0x3A 0b0001 0 (ab 0xFF 0x0F) = some (some 0xF0) ∧
    gives 0x3B 0b0001 0 (ab 0xFF 0x0F) = some (some 0xF0) ∧
    gives 0x3C 0b0001 0 [(.a, some 0xFFFFFFFE)] = some (some 1) ∧
    gives 0x3D 0b0001 0 (ab 1 32) = some (some 0) ∧
    gives 0x3E 0b0001 0 (ab 0x80000000 31) = some (some 1) ∧
    gives 0x3F 0b0000 0 (ab 0x80000000 99) = some (some 0xFFFFFFFFFFFFFFFF) ∧
    gives 0x40 0b0001 0 (ab 0x80000001 33) = some (some 3) ∧
    gives 0x41 0b0001 0 (ab 3 1) = some (some 0x80000001) ∧
    gives 0x42 0b0001 0 (abc 0x12345678 0x9ABCDEF0 8) = some (some 0x3456789A) ∧
    gives 0x42 0b0101 0 (abc 0x12345678 0x9ABCDEF0 8) = some (some 0x789ABCDE) := by decide +kernel

/-- Counts, fields, extensions, bytes, LEA and the checksum (R115-R120). -/
theorem test_bits_and_bytes :
    gives 0x43 0b0000 0 [(.a, some 1)] = some (some 31) ∧
    gives 0x44 0b0010 0 [(.a, some 0)] = some (some 64) ∧
    gives 0x45 0b0000 0 [(.a, some 0xFFFFFFFFFF)] = some (some 32) ∧
    gives 0x46 0b0001 0 [(.a, some 1)] = some (some 0x80000000) ∧
    gives 0x47 0b0001 0 (ab 0xABCD 0x0804) = some (some 0xBC) ∧
    gives 0x48 0b0001 0 (abc 0xFFFF 0 0x0404) = some (some 0xFF0F) ∧
    gives 0x49 0b0000 0 [(.a, some 0x80)] = some (some 0xFFFFFFFFFFFFFF80) ∧
    gives 0x4A 0b0001 0 (ab 0x44332211 0x80123) = some (some 0x11223344) ∧
    gives 0x4B 0b1111 0 (ab 0x1000 5) = some (some 0x1028) := by decide +kernel

/-! ### W-float results (R74-R135), computed by hand: 1 is 0x3FFE000000000000 -/

/-- Sums, products, quotients and roots, rounded to 50 bits. -/
theorem test_float_arithmetic :
    gives 0x50 0 0 (ab 0x3FFE000000000000 0x3FFE000000000000) = some (some 0x4002000000000000) ∧
    gives 0x51 0 0 (ab 0x3FFE000000000000 0x3FFE000000000000) = some (some 0) ∧
    gives 0x52 0 0x8000003 [(.a, some 0x4002000000000000)] = some (some 0x4007000000000000) ∧
    gives 0x53 0 0 (abc 0x4002000000000000 0x4002000000000000 0x3FFE000000000000) = some (some 0x4006800000000000) ∧
    gives 0x54 0 0 (abc 0x4002000000000000 0x4002000000000000 0x3FFE000000000000) = some (some 0xC003000000000000) ∧
    gives 0x55 0 0 (ab 0x3FFE000000000000 0x4003000000000000) = some (some 0x3FF6AAAAAAAAAAAB) ∧
    gives 0x55 1 0 (ab 0x3FFE000000000000 0x4003000000000000) = some (some 0x3FF6AAAAAAAAAAAA) ∧
    gives 0x56 0 0 [(.a, some 0x4002000000000000)] = some (some 0x3FFED413CCCFE77A) ∧
    gives 0x56 0 0 [(.a, some 0xC002000000000000)] = some (some 0x7FFFC00000000000) ∧
    gives 0x57 0 0 [(.a, some 0)] = some (some 0x7FFC000000000000) := by decide +kernel

/-- Selections, signs, comparison, classes and conversions. -/
theorem test_float_selection_and_conversion :
    gives 0x59 0 0 (ab 0x7FFFC00000000000 0x3FFE000000000000) = some (some 0x3FFE000000000000) ∧
    gives 0x59 8 0 (ab 0x7FFFC00000000000 0x3FFE000000000000) = some (some 0x7FFFC00000000000) ∧
    gives 0x5C 0 0 [(.a, some 0x3FFE000000000000)] = some (some 0xBFFE000000000000) ∧
    gives 0x61 1 0 [(.a, some 0xC003000000000000)] = some (some 0xFFFFFFFFFFFFFFFD) ∧
    gives 0x61 1 0 [(.a, some 0x7FFC000000000000)] = some (some 0x7FFFFFFF) ∧
    gives 0x62 0 1 [(.a, some 0xFFFFFFFF00000003)] = some (some 0x4003000000000000) ∧
    gives 0x60 2 0 [(.a, some 0x3FFA000000000000)] = some (some 0x3FFE000000000000) ∧
    gives 0x64 0 0 [(.a, some 0x400A000000000000)] = some (some 0x4003000000000000) ∧
    gives 0x66 0 0 [(.a, some 0x4003000000000000)] = some (some 0x400A000000000000) ∧
    gives 0x67 0 0 [(.a, some 0)] = some (some 0xFFFC000000000000) := by decide +kernel

/-! ### Dataflow and control -/

/-- MOV, MOVI, SEL, NULL, READ, TEST and SREAD (R304, R305, R307, R319, R326). -/
theorem test_values_move :
    gives 0x01 0 0 [(.a, some 9)] = some (some 9) ∧
    gives 0x01 0 0 [(.a, none)] = some none ∧
    gives 0x02 0 0xFFFFFFF [] = some (some 0xFFFFFFFFFFFFFFFF) ∧
    gives 0x05 0 0 [(.a, some 9)] = some none ∧
    gives 0x06 0 7 [] = some (some 17) ∧
    trapsWith 0x06 0 8 [] = some (0x058, none) ∧
    gives 0x08 0 0 (abc 1 2 3) = some (some 1) ∧
    gives 0x08 0 0 (abc 1 2 0) = some (some 2) ∧
    gives 0x11 0 0b10000000000001 [] = some (some 1) ∧
    gives 0x22 0 0 [] = some (some 77) ∧
    gives 0x22 0 10 [] = some (some 8) := by decide +kernel

/-- EXIT, CALL, RET, HALT and WRITE record; a second WRITE traps (R308, R314, R425). -/
theorem test_exits_record :
    (leaves 0x0D 6 []).map (·.exit) = some (some (0, .exit 6)) ∧
    (leaves 0x0E 0b101010011110 []).map (·.exit) = some (some (0, .call 6 42 3)) ∧
    (leaves 0x0F 0 [(.a, some 12)]).map (·.exit) = some (some (0, .ret 0 12)) ∧
    (leaves 0xE7 0x243 []).map (·.exit) = some (some (0, .halt 0x43)) ∧
    (leaves 0x07 5 [(.a, some 12)]).map (·.writes) = some [(5, 12)] ∧
    (leaves 0xE6 0 []).bind (fun r => r.causes.head?.map (·.cause)) = some 0x05B ∧
    (leaves 0xE0 0x3F [(.a, some 12)]).bind (fun r => r.causes.head?.map (fun c => (c.cause, c.info))) = some (0x17F, some 12) := by
  decide +kernel

/-! ### Witnesses: states and operands that meet the hypotheses of the statements

`Ready` of a concrete scene, with what else a statement assumes of it. -/

/-- A test of a firing that is ready. -/
def readyIn (s : State) (f : Fields) (q : Spot → List Token → Run → Bool) : Bool :=
  match s.spot? s.cur with
  | none => false
  | some p =>
    match operandSet p.block p.run s.cur.idx with
    | none => false
    | some (toks, r) => !anyNull toks && predOk f toks && q p toks r

theorem readyIn_spec {s : State} {f : Fields} {q : Spot → List Token → Run → Bool} (h : readyIn s f q = true) :
    ∃ p toks r, Ready s f p toks r ∧ q p toks r = true := by
  unfold readyIn at h
  split at h
  · cases h
  · next p hp =>
    split at h
    · cases h
    · next toks r ho =>
      simp only [Bool.and_eq_true, Bool.not_eq_true'] at h
      exact ⟨p, toks, r, ⟨hp, ho, h.1.1, h.1.2⟩, h.2⟩

/-- A scene in which more than readiness holds. -/
theorem ready_and {s : State} {f : Fields} (H : Spot → List Token → Run → Prop) [∀ p t r, Decidable (H p t r)]
    (h : readyIn s f (fun p t r => decide (H p t r)) = true) : ∃ p toks r, Ready s f p toks r ∧ H p toks r := by
  obtain ⟨p, t, r, h1, h2⟩ := readyIn_spec h
  exact ⟨p, t, r, h1, of_decide_eq_true h2⟩

/-- The scene of an integer instruction with a and b (O1, O3-O5, O8, O11, O13, O18, O19: their hypothesis is readiness alone). -/
def sAdd (a b : Word) : State := sceneOf (wordO 0x28 0 0) (ab a b)

theorem witness_IntegerArithmetic : ∃ p toks r, Ready (sAdd 5 6) fO p toks r :=
  (readyIn_spec (q := fun _ _ _ => true) (by decide +kernel)).imp fun _ h => h.imp fun _ h => h.imp fun _ h => h.1

theorem witness_DivisionAndRemainder_quotient : ∃ p toks r, Ready (sAdd 0x80000000 1) fO p toks r ∧
    val .i32 ((siteOf (sAdd 0x80000000 1) p toks).b none) ≠ 0 ∧
    ¬(tySigned .i32 = true ∧ val .i32 (siteOf (sAdd 0x80000000 1) p toks).a = tyLo .i32 ∧
      val .i32 ((siteOf (sAdd 0x80000000 1) p toks).b none) = -1) := ready_and _ (by decide +kernel)

theorem witness_DivisionAndRemainder_zero : ∃ p toks r, Ready (sAdd 5 0x100000000) fO p toks r ∧
    val .i32 ((siteOf (sAdd 5 0x100000000) p toks).b none) = 0 := ready_and _ (by decide +kernel)

theorem witness_DivisionAndRemainder_overflow : ∃ p toks r, Ready (sAdd 0x80000000 0xFFFFFFFF) fO p toks r ∧
    tySigned .i32 = true ∧ val .i32 (siteOf (sAdd 0x80000000 0xFFFFFFFF) p toks).a = tyLo .i32 ∧
    val .i32 ((siteOf (sAdd 0x80000000 0xFFFFFFFF) p toks).b none) = -1 := ready_and _ (by decide +kernel)

theorem witness_BitFields_bounds : (31 : Nat) < tyWidth .i32 ∧ (7 : Nat) < extBits .b8 ∧ extBits .b8 ≤ 8 ∧ (3 : Nat) < tyWidth .n32 / 8 := by
  decide

/-- A finite W word, and a magnitude within the bounds. -/
theorem witness_FloatResults : (match wRead 0x4000000000000000 with
     | .fin false _ _ => true
     | _ => false) = true ∧
    (2 : ℚ) ^ (-4094 : Int) ≤ (1 : Nat) * 2 ^ (0 : Int) ∧ ((1 : Nat) : ℚ) * 2 ^ (0 : Int) ≤ (2 ^ 50 - 1) * 2 ^ (4046 : Int) :=
  ⟨by decide +kernel, by rw [zpow_zero, mul_one, Nat.cast_one]; exact zpow_le_one_of_nonpos₀ (by norm_num) (by norm_num),
    by rw [zpow_zero, mul_one, Nat.cast_one]; exact one_le_mul_of_one_le_of_one_le (by norm_num) (one_le_zpow₀ (by norm_num) (by norm_num))⟩

theorem witness_ElementaryFunctions_nan : ∃ p toks r, Ready (sAdd 0x7FFE000000000001 0) fO p toks r ∧
    wRead (siteOf (sAdd 0x7FFE000000000001 0) p toks).a = .nan := ready_and _ (by decide +kernel)

theorem witness_ElementaryFunctions_infinity : ∃ p toks r, Ready (sAdd 0xFFFC000000000000 0) fO p toks r ∧
    wRead (siteOf (sAdd 0xFFFC000000000000 0) p toks).a = .inf true := ready_and _ (by decide +kernel)

theorem witness_ElementaryFunctions_zero : ∃ p toks r, Ready (sAdd 0x8000000000000000 0) fO p toks r ∧
    (match wRead (siteOf (sAdd 0x8000000000000000 0) p toks).a with
     | .fin true 0 _ => true
     | _ => false) = true := ready_and _ (by decide +kernel)

theorem witness_ElementaryFunctions_negative_and_large : ∃ p toks r, Ready (sAdd 0xC0A6000000000000 0) fO p toks r ∧
    (match wRead (siteOf (sAdd 0xC0A6000000000000 0) p toks).a with
     | .fin true m e => decide (m ≠ 0 ∧ 2 ^ 40 * 2 ^ (-e).toNat < m * 2 ^ e.toNat)
     | _ => false) = true := ready_and _ (by decide +kernel)

/-- 8 = 2^3, an integer and a power of two; and -4, an integer. -/
theorem witness_ElementaryFunctions_exact : ∃ p toks r, Ready (sAdd (wWrite (.fin false 1 3)) 0) fO p toks r ∧
    (match wRead (siteOf (sAdd (wWrite (.fin false 1 3)) 0) p toks).a with
     | .fin false m e => decide (m ≠ 0 ∧ m * 2 ^ e.toNat = 8 * 2 ^ (-e).toNat ∧ 2 ^ Nat.log2 m = m)
     | _ => false) = true ∧
    (match wRead (wWrite (.fin true 1 2)) with
     | .fin true m e => decide (m ≠ 0 ∧ m * 2 ^ e.toNat = 4 * 2 ^ (-e).toNat)
     | _ => false) = true := ready_and _ (by decide +kernel)

theorem witness_RoundingGoesToTheNeighbour : ∃ e g : Int, e < g := ⟨0, 1, by decide⟩

theorem witness_ValuesAreMoved : ∃ p toks r, Ready (sceneOf (wordO 0x06 0 7) []) fO p toks r ∧
    (7 : BitVec 6).toNat < p.thread.lvsn ∧ p.thread.lvsn ≤ (8 : BitVec 6).toNat := ready_and _ (by decide +kernel)

theorem witness_ExitsAndWrites_first : ∃ p toks r, Ready (sceneOf (wordO 0x01 0 0) [(.a, some 1)]) fO p toks r ∧
    p.run.exit = none ∧ p.thread.handler = none ∧ (p.run.idx 0).fired = 0 := ready_and _ (by decide +kernel)

theorem witness_ExitsAndWrites_in_handler : ∃ p toks r, Ready (sceneWith (wordO 0x01 0 0) [(.a, some 1)] id inHandler) fO p toks r ∧
    p.run.exit = none ∧ p.thread.handler ≠ none := ready_and _ (by decide +kernel)

theorem witness_ExitsAndWrites_second : ∃ p toks r, Ready (sceneWith (wordO 0x01 0 0) [(.a, some 1)]
      (fun (r : Run) => firedOnce { r with exit := some (5, .ended) }) id) fO p toks r ∧
    p.run.exit ≠ none ∧ (p.run.idx 0).fired ≠ 0 := ready_and _ (by decide +kernel)

/-- A drained run of a thread with eight slots that writes slot 7 and one that writes slot 8; one that has left, and one that has
not. -/
theorem witness_ExitsAndWrites_settle :
    ({ runOf [] with writes := [(7, 5)], exit := some (0, .ended) } : Run).countAfter 8 = 8 ∧
    ({ runOf [] with writes := [(8, 5)] } : Run).countAfter 8 = 8 ∧
    ({ runOf [] with exit := some (0, .call 0 7 0) } : Run).leaves = false ∧ (runOf []).exit = none := by decide +kernel

/-- GROW and SHRINK at both bounds of their counts. -/
theorem witness_CommitEffects_counts : ∃ p toks r, Ready (sAdd 0 4) fO p toks r ∧ (p.run.idx 0).fired = 0 ∧
    ((siteOf (sAdd 0 4) p toks).b none).toNat = 4 ∧ ((siteOf (sAdd 0 4) p toks).b (some 65)).toNat = 65 :=
  ready_and _ (by decide +kernel)

theorem witness_CollectivesContribute : ∃ p toks r, Ready (sAdd 0 4) fO p toks r ∧ (p.run.idx 0).fired = 0 ∧
    (7 : BitVec 6).toNat < p.thread.lvsn ∧ p.thread.lvsn ≤ (8 : BitVec 6).toNat := ready_and _ (by decide +kernel)

theorem witness_CollectiveFolds : ([(4, 0), (5, 7)] : List (Nat × Word))[1]? = some (5, 7) := by decide

/-- The operand set of a scene, nulls allowed. -/
def setIn (s : State) (q : Spot → List Token → Run → Bool) : Bool :=
  match s.spot? s.cur with
  | none => false
  | some p =>
    match operandSet p.block p.run s.cur.idx with
    | none => false
    | some (toks, r) => q p toks r

theorem setIn_spec {s : State} (H : Spot → List Token → Run → Prop) [∀ p t r, Decidable (H p t r)]
    (h : setIn s (fun p t r => decide (H p t r)) = true) :
    ∃ p toks r, s.spot? s.cur = some p ∧ operandSet p.block p.run s.cur.idx = some (toks, r) ∧ H p toks r := by
  unfold setIn at h
  split at h
  · cases h
  · next p hp =>
    split at h
    · cases h
    · next toks r ho => exact ⟨p, toks, r, hp, ho, of_decide_eq_true h⟩

/-- The token picked for a slot, as the statement on STEER says it. -/
def pickOf (toks : List Token) (sl : Slot) : Option Word := ((toks.find? (fun t => t.slot = sl)).map (·.val)).getD (some 0)

theorem witness_Steer_null_side : ∃ p toks r, (sceneOf (wordO 0x09 0 0) [(.a, some 1), (.b, none)]).spot? cur77 = some p ∧
    operandSet p.block p.run 0 = some (toks, r) ∧ pickOf toks .b = none := setIn_spec _ (by decide +kernel)

theorem witness_Steer_null_value : ∃ p toks r, (sceneOf (wordO 0x09 0 0) [(.a, none), (.b, some 1)]).spot? cur77 = some p ∧
    operandSet p.block p.run 0 = some (toks, r) ∧ pickOf toks .p = some 0 ∧ pickOf toks .b = some 1 ∧ pickOf toks .a = none :=
  setIn_spec _ (by decide +kernel)

/-- A STEER with predicate fire on true. -/
def fSteerP : Fields := { fO with pm := .onTrue }

theorem witness_Steer_predicate : ∃ p toks r,
    (sceneOf (wordOf 0x09 0 0b01 0 0 0b1000001000 0 0, 0) [(.a, some 7), (.b, some 0), (.p, some 0)]).spot? cur77 = some p ∧
    operandSet p.block p.run 0 = some (toks, r) ∧ pickOf toks .p = some 0 ∧ pickOf toks .b = some 0 ∧ pickOf toks .a = some 7 ∧
    predOk fSteerP toks = false ∧ predOk fO toks = true := setIn_spec _ (by decide +kernel)

/-! #### MERGE, CARRY and INVAR -/

/-- The spot of a scene. -/
def spotIn (s : State) (q : Spot → Bool) : Bool :=
  match s.spot? s.cur with
  | none => false
  | some p => q p

theorem spotIn_spec {s : State} (H : Spot → Prop) [∀ p, Decidable (H p)] (h : spotIn s (fun p => decide (H p)) = true) :
    ∃ p, s.spot? s.cur = some p ∧ H p := by
  unfold spotIn at h
  split at h
  · cases h
  · next p hp => exact ⟨p, hp, of_decide_eq_true h⟩

/-- The token and the tokens left, tested. -/
def takenIs (k : Nat) (sl : Slot) (ts : List Token) (q : Token → List Token → Bool) : Bool :=
  match takeToken k sl ts with
  | none => false
  | some (t, us) => q t us

/-- MERGE whose slot c selects a (not 0) or b (0), with its tokens there; and with a null in c. -/
theorem witness_Merge : ∃ p, (sceneOf (wordO 0x0A 0 0) (abc 8 9 1)).spot? cur77 = some p ∧
    takenIs 0 .c p.run.tokens (fun c ts => decide (c.val = some 1) && takenIs 0 .a ts (fun t _ => decide (t.val = some 8))) = true :=
  spotIn_spec _ (by decide +kernel)

theorem witness_Merge_other : ∃ p, (sceneOf (wordO 0x0A 0 0) (abc 8 9 0)).spot? cur77 = some p ∧
    takenIs 0 .c p.run.tokens (fun c ts => decide (c.val = some 0) && takenIs 0 .b ts (fun t _ => decide (t.val = some 9))) = true :=
  spotIn_spec _ (by decide +kernel)

theorem witness_Merge_null : ∃ p, (sceneOf (wordO 0x0A 0 0) [(.a, some 8), (.b, some 9), (.c, none)]).spot? cur77 = some p ∧
    takenIs 0 .c p.run.tokens (fun c _ => decide (c.val = none)) = true := spotIn_spec _ (by decide +kernel)

/-- The state of index 0 as given. -/
def idx0 (looping : Bool) (hold : Option (Option Word)) (r : Run) : Run :=
  r.updIdx 0 (fun i => { i with looping := looping, hold := hold })

theorem witness_Carry_starts : ∃ p, (sceneOf (wordO 0x0B 0 0) (ab 8 9)).spot? cur77 = some p ∧
    (p.run.idx 0).fired - leastConsumed p.block p.run ≤ p.block.occ ∧ (p.run.idx 0).looping = false ∧
    takenIs 0 .a p.run.tokens (fun t _ => decide (t.val = some 8)) = true := spotIn_spec _ (by decide +kernel)

theorem witness_Carry_loops : ∃ p, (sceneWith (wordO 0x0B 0 0) (ab 8 9) (idx0 true none) id).spot? cur77 = some p ∧
    (p.run.idx 0).fired - leastConsumed p.block p.run ≤ p.block.occ ∧ (p.run.idx 0).looping = true ∧
    takenIs 0 .b p.run.tokens (fun t _ => decide (t.val = some 9)) = true := spotIn_spec _ (by decide +kernel)

theorem witness_Carry_ends : ∃ p, (sceneWith (wordO 0x0B 0 0) [(.a, some 8), (.b, none)] (idx0 true none) id).spot? cur77 = some p ∧
    (p.run.idx 0).fired - leastConsumed p.block p.run ≤ p.block.occ ∧ (p.run.idx 0).looping = true ∧
    takenIs 0 .b p.run.tokens (fun t _ => decide (t.val = none)) = true := spotIn_spec _ (by decide +kernel)

theorem witness_Invar_holds : ∃ p, (sceneWith (wordO 0x0C 0 0) (ab 8 9) (idx0 false (some (some 5))) id).spot? cur77 = some p ∧
    (p.run.idx 0).hold = some (some 5) ∧ takenIs 0 .b p.run.tokens (fun t _ => decide (t.val ≠ none)) = true :=
  spotIn_spec _ (by decide +kernel)

theorem witness_Invar_takes : ∃ p, (sceneOf (wordO 0x0C 0 0) (ab 8 9)).spot? cur77 = some p ∧ (p.run.idx 0).hold = none ∧
    takenIs 0 .a p.run.tokens (fun t ts => decide (t.val = some 8) && takenIs 0 .b ts (fun u _ => decide (u.val ≠ none))) = true :=
  spotIn_spec _ (by decide +kernel)

theorem witness_Invar_lets_go : ∃ p, (sceneWith (wordO 0x0C 0 0) [(.a, some 8), (.b, none)] (idx0 false (some (some 5))) id).spot?
      cur77 = some p ∧ (p.run.idx 0).hold = some (some 5) ∧ takenIs 0 .b p.run.tokens (fun t _ => decide (t.val = none)) = true :=
  spotIn_spec _ (by decide +kernel)

/-! #### Deferred effects and register reads -/

/-- CREDIT at the last value it takes and the first it traps on; an invalidation of one page and one out of range. -/
theorem witness_EffectsAreDeferred : ∃ p toks r, Ready (sAdd 0xFFF 0) fO p toks r ∧
    (siteOf (sAdd 0xFFF 0) p toks).a.toNat < 2 ^ 12 ∧ (siteOf (sAdd 0xFFF 0) p toks).flagRoom none = true :=
  ready_and _ (by decide +kernel)

theorem witness_EffectsAreDeferred_flag_full : ∃ p toks r,
    Ready (sceneWith (wordO 0x28 0 0) (ab 0x1000 0) id (fun (t : Thread) => { t with counts := List.replicate 12 255 })) fO p toks r ∧
    (siteOf (sAdd 0x1000 0) p toks).a.toNat = 2 ^ 12 ∧
    (siteOf (sceneWith (wordO 0x28 0 0) (ab 0x1000 0) id (fun (t : Thread) => { t with counts := List.replicate 12 255 })) p toks).flagRoom
      (some 0) = false := ready_and _ (by decide +kernel)

/-- CSTAT's selectors at the ends of their ranges. -/
theorem witness_TrapsAndRegisterReads : ∃ p toks r, Ready (sAdd 15 0) fO p toks r ∧ (siteOf (sAdd 15 0) p toks).a.toNat < 16 :=
  ready_and _ (by decide +kernel)

theorem witness_TrapsAndRegisterReads_last : ∃ p toks r, Ready (sAdd 63 0) fO p toks r ∧
    48 ≤ (siteOf (sAdd 63 0) p toks).a.toNat ∧ (siteOf (sAdd 63 0) p toks).a.toNat < 64 := ready_and _ (by decide +kernel)

theorem witness_TrapsAndRegisterReads_beyond : ∃ p toks r, Ready (sAdd 64 0) fO p toks r ∧
    64 ≤ (siteOf (sAdd 64 0) p toks).a.toNat := ready_and _ (by decide +kernel)

/-! #### A context with pages

Root table at 0x40000, level-1 table at 0x80000, level-2 table at 0x90000. The page at 0x100000 is device memory, mapped to itself
(R, W); that at 0x110000 is the first page of host port 0 (R, W); that at 0x200000 is an image (R, W, X), which holds block 3: one END. -/

/-- A packet LAUNCH that is running, of one stage, on the image section at 0x200000. -/
def launch0 : Packet :=
  { Packet.fresh 0 0 0 [1, 0, 0, 0, 0, 0, 0, 0] with
    stage := .running, image := (0x200000, 0x10000), slots := 8, stages := [{ offset := 0, nthr := 1, name := 0, run := 0 }]
    runs := [[{ blk := 3, rank := 5, stores := 4, wait := 0 }, { blk := 4, rank := 2, stores := 0, wait := 0 }]] }

/-- Context 0 of the PF of port 0, with key index 1 and 16 MiB of range. -/
def context0 (packets : List Packet) : Context :=
  { num := 0, func := 0, domain := 0, pasid := 0, root := 1, nkey := 0, peers := 0
    ranges := [rangeWord 0 256], record := List.replicate 16 0, keys := [1], regs := SysRegs.reset
    page := CtxPage.reset (List.replicate 48 0), queues := List.replicate 16 Queue.reset, objects := [], objWaiting := none
    packets := packets, nextChain := 1, spawnCounter := 0, save := none, frozen := false, preempt := false, dying := none }

/-- The page tables. -/
def tables0 : List Host.Cell :=
  [(0x40000, 0x01), (0x40002, 0x08), (0x80000, 0x01), (0x80002, 0x09), (0x90080, 0x33), (0x90082, 0x10), (0x90088, 0x33), (0x9008E, 0x01),
   (0x9008F, 0x08), (0x90100, 0x73), (0x90102, 0x20), (0x2000C4, 0x0A), (0x2000C7, 0x10), (0x2000E7, 0x15)]

/-- A state with context 0, its tables, and every block of the first 16 MiB sound under key index 1. -/
def withContext (packets : List Packet) (s : State) : State :=
  { s with
    contexts := [context0 packets], mem := tables0
    keys := [{ index := 1, version := 0, allot := 0, holder := some 0 }]
    integrity := [{ first := 0, count := 0x20000, key := 1, version := 0, allot := 0, failing := false, uncorrectable := false }] }

/-- The scene in which core 0 has bank 0 in mode SCRATCH, and context 0 runs. -/
def sceneMem (w : Nat × Nat) (vals : List (Slot × Option Word)) : State :=
  let s := sceneWith w vals id id
  withContext [launch0] { s with cores := s.cores.map (fun (c : CoreState) => c.updBank 0 (fun (b : Bank) => { b with mode := .scratch })) }

/-- A translation that reaches device memory, and what else holds of it. -/
def toDevice (x : Trans × State) (q : Nat → Nat → State → Bool) : Bool :=
  match x with
  | (.ok pa key .device, t) => q pa key t
  | _ => false

theorem toDevice_spec {x : Trans × State} {q : Nat → Nat → State → Bool} (h : toDevice x q = true) :
    ∃ pa key t, x = (.ok pa key .device, t) ∧ q pa key t = true := by
  unfold toDevice at h
  split at h
  · exact ⟨_, _, _, rfl, h⟩
  · cases h

/-- A pass that reads committed memory alone. -/
def commits (p : Spot) : Bool := decide (p.pass.accesses = [] ∧ p.lane.earlier p.pass.id = [] ∧ p.pass.solo ≠ .holding)

theorem commits_spec {p : Spot} (h : commits p = true) : ReadsCommitted p := by
  simpa [commits, ReadsCommitted] using h

/-- The page at 0x100000 is reached. -/
theorem test_translation_reaches_its_page :
    (translate (sceneMem (wordO 0x78 0 0) (ab 0x100008 0)) 0 0x100008 .load).1 = .ok 0x100008 1 .device ∧
    (translate (sceneMem (wordO 0x78 0 0) (ab 0x100008 0)) 0 0x110008 .store).1 = .ok 0x1000000000008 1 .outside ∧
    (translate (sceneMem (wordO 0x78 0 0) (ab 0x100008 0)) 0 0x100008 .fetch).1 = .bad 0x0B1 ∧
    (translate (sceneMem (wordO 0x78 0 0) (ab 0x100008 0)) 0 0x120008 .load).1 = .bad 0x082 := by decide +kernel

/-- The scene after an earlier pass of the lane that has issued a BANKMODE of bank 0 and not committed: the thread is in pass 1. -/
def afterBankMode (s : State) : State :=
  { s with
    cur := { cur77 with pass := 1 }
    lanes := s.lanes.map (fun (l : Lane) => { l with
      passes := { passOf (runOf []) with state := .submitted, bankSets := [(77, 0, 0)] } ::
        l.passes.map (fun (p : Pass) => { p with id := 1 }) }) }

/-- An access to bank 0 then waits; with no such pass it does not. -/
theorem witness_bank_waits : ∃ p toks r, Ready (afterBankMode (sceneMem (wordO 0x78 0 0) (ab 0x7FF8 0))) fO p toks r ∧
    (siteOf (afterBankMode (sceneMem (wordO 0x78 0 0) (ab 0x7FF8 0))) p toks).bankWaits
      (effAddr (siteOf (afterBankMode (sceneMem (wordO 0x78 0 0) (ab 0x7FF8 0))) p toks).a 0 / 32768) = true ∧
    (siteOf (afterBankMode (sceneMem (wordO 0x78 0 0) (ab 0x7FF8 0))) p toks).portWaits { edge := false, port := 0 } = true ∧
    (p.run.idx 0).fired = 0 := ready_and _ (by decide +kernel)

theorem witness_bank_settled : ∃ p toks r, Ready (sceneMem (wordO 0x78 0 0) (ab 0x7FF8 0)) fO p toks r ∧
    (siteOf (sceneMem (wordO 0x78 0 0) (ab 0x7FF8 0)) p toks).bankWaits 0 = false ∧
    (siteOf (sceneMem (wordO 0x78 0 0) (ab 0x7FF8 0)) p toks).bankWaits 1 = false ∧
    (siteOf (sceneMem (wordO 0x78 0 0) (ab 0x7FF8 0)) p toks).portWaits { edge := false, port := 0 } = false :=
  ready_and _ (by decide +kernel)

/-- An LD of class P: aligned and in the bank (its first and its last word), misaligned, and beyond the bank. -/
theorem witness_ScratchpadLoad : ∃ p toks r, Ready (sceneMem (wordO 0x78 0 0) (ab 0x7FF8 0)) fO p toks r ∧
    effAddr (siteOf (sceneMem (wordO 0x78 0 0) (ab 0x7FF8 0)) p toks).a 0 % fmtBytes .raw64 = 0 ∧
    effAddr (siteOf (sceneMem (wordO 0x78 0 0) (ab 0x7FF8 0)) p toks).a 0 < 2 ^ 20 ∧
    (sceneMem (wordO 0x78 0 0) (ab 0x7FF8 0)).scratchBank 0 0
      (effAddr (siteOf (sceneMem (wordO 0x78 0 0) (ab 0x7FF8 0)) p toks).a 0 / 32768) = true ∧ commits p = true :=
  ready_and _ (by decide +kernel)

/-- A pass whose thread 77 has stored 7 and then, ordered after it, 8 at address `a`, and 9 there in no order with either; thread 78
has stored 6. -/
def writesAt (sp : Space) (a : Nat) (p : Pass) : Pass :=
  let w := fun (id t idx : Nat) (v : Byte) (before : List Nat) =>
    ({ id := id, tidx := t, idx := idx, space := sp, addr := a, len := 8, key := 1
       kind := .store (List.replicate 8 (v, 255)) false, before := before } : Access)
  { p with nextId := 4, accesses := [w 0 77 5 7 [], w 1 77 6 8 [0], w 2 77 7 9 [], w 3 78 8 6 []] }

/-- Its load ordered after the first two may read 8 or 9, and with nothing ordered before it the byte before the pass or any of the
three; no pass writes another address. -/
theorem witness_ScratchpadLoad_forwarding :
    ((writesAt .scratch 8 (passOf (runOf []))).writesOf 77 .scratch 8).map (fun w => (w.id, w.val)) = [(0, 7), (1, 8), (2, 9)] ∧
    (writesAt .scratch 8 (passOf (runOf []))).loadChoices 77 [0, 1] 1 .scratch 8 = [8, 9] ∧
    (writesAt .scratch 8 (passOf (runOf []))).loadChoices 77 [] 1 .scratch 8 = [1, 7, 8, 9] ∧
    (writesAt .scratch 8 (passOf (runOf []))).loadChoices 77 [0, 1, 2] 1 .scratch 8 = [9] ∧
    (writesAt .scratch 8 (passOf (runOf []))).loadChoices 79 [] 1 .scratch 8 = [1] ∧
    (writesAt .scratch 8 (passOf (runOf []))).loadChoices 77 [] 1 .scratch 16 = [1] := by decide +kernel

/-- The load of a solo pass, at a line of which a broadcast is on its way to its core, and at another. -/
theorem witness_ScratchpadLoad_solo : ∃ p toks r, Ready ({ (sceneMem (wordO 0x78 0 0) (ab 8 0)).updPass 0 0 0 (fun p => { p with solo := .holding }) with
      broadcasts := [{ source := none, wlines := [(lineKey 0 .scratch 8, 255)], clines := [], cores := [0], dies := [] }] }) fO p toks r ∧
    ((({ (sceneMem (wordO 0x78 0 0) (ab 8 0)).updPass 0 0 0 (fun p => { p with solo := .holding }) with
      broadcasts := [{ source := none, wlines := [(lineKey 0 .scratch 8, 255)], clines := [], cores := [0], dies := [] }] } : State).took r).soloWaits
        (siteOf (sceneMem (wordO 0x78 0 0) (ab 8 0)) p toks) (lineKey 0 .scratch 8)) = true ∧
    ((sceneMem (wordO 0x78 0 0) (ab 8 0)).soloWaits (siteOf (sceneMem (wordO 0x78 0 0) (ab 8 0)) p toks) (lineKey 0 .scratch 8)) = false :=
  ready_and _ (by decide +kernel)

theorem witness_ScratchpadLoad_misaligned : ∃ p toks r, Ready (sceneMem (wordO 0x78 0 0) (ab 1 0)) fO p toks r ∧
    effAddr (siteOf (sceneMem (wordO 0x78 0 0) (ab 1 0)) p toks).a 0 % fmtBytes .raw64 ≠ 0 := ready_and _ (by decide +kernel)

theorem witness_ScratchpadLoad_bounds : ∃ p toks r, Ready (sceneMem (wordO 0x78 0 0) (ab 0x8000 0)) fO p toks r ∧
    effAddr (siteOf (sceneMem (wordO 0x78 0 0) (ab 0x8000 0)) p toks).a 0 % fmtBytes .raw64 = 0 ∧
    ¬(effAddr (siteOf (sceneMem (wordO 0x78 0 0) (ab 0x8000 0)) p toks).a 0 < 2 ^ 20 ∧
      (sceneMem (wordO 0x78 0 0) (ab 0x8000 0)).scratchBank 0 0
        (effAddr (siteOf (sceneMem (wordO 0x78 0 0) (ab 0x8000 0)) p toks).a 0 / 32768) = true) := ready_and _ (by decide +kernel)

/-- The scene of an access at 0x100008, with a word to store in b. -/
def sDev : State := sceneMem (wordO 0x78 0 0) (ab 0x100008 5)

/-- The same with the line locked as a destination. -/
def sLocked : State :=
  { sDev with locks := [{ owner := .copy 0, ctx := 0, source := false, ranges := [(0x100000, 64)] }] }

/-- The same with the block failing its check. -/
def sFailing : State :=
  { sDev with integrity := { first := 0x2000, count := 1, key := 1, version := 0, allot := 0, failing := true
                             uncorrectable := false } :: sDev.integrity }

theorem witness_DeviceLoad : ∃ p toks r, Ready sDev fO p toks r ∧ (siteOf sDev p toks).a = 0x100008 ∧
    commits p = true ∧ toDevice (translate (sDev.took r) 0 0x100008 .load) (fun pa key t =>
      !t.lockedFor pa false && (t.readFault pa key .load).isNone && (t.copyOf 0 (pa / 64)).isNone) = true :=
  ready_and _ (by decide +kernel)

theorem witness_DeviceLoad_locked : ∃ p toks r, Ready sLocked fO p toks r ∧ (siteOf sLocked p toks).a = 0x100008 ∧
    toDevice (translate (sLocked.took r) 0 0x100008 .load) (fun pa _ t => t.lockedFor pa false) = true :=
  ready_and _ (by decide +kernel)

theorem witness_DeviceLoad_fails : ∃ p toks r, Ready sFailing fO p toks r ∧ (siteOf sFailing p toks).a = 0x100008 ∧
    commits p = true ∧ toDevice (translate (sFailing.took r) 0 0x100008 .load) (fun pa key t =>
      !t.lockedFor pa false && decide (t.readFault pa key .load = some 0x1C0)) = true := ready_and _ (by decide +kernel)

/-- The same with a copy of the line in the CACHE banks, of 64 bytes of the value given. -/
def sCopied (b : Byte) : State :=
  { sDev with cores := sDev.cores.map (fun (c : CoreState) => { c with l1 := [{ line := 0x4000, bytes := List.replicate 64 b,
                                                                                byS := false, keep := false }] }) }

/-- A copy that is as its home, and an older one. -/
theorem witness_DeviceLoad_copies : ∃ p toks r, Ready (sCopied 1) fO p toks r ∧ (siteOf (sCopied 1) p toks).a = 0x100008 ∧
    toDevice (translate ((sCopied 1).took r) 0 0x100008 .load) (fun pa key t => (t.readFault pa key .load).isNone &&
      ((t.copyOf 0 (pa / 64)).any (fun c => decide (c.bytes ≠ t.bytesAt (pa / 64 * 64) 64)))) = true ∧
    toDevice (translate ((sCopied 0).took r) 0 0x100008 .load) (fun pa key t => (t.readFault pa key .load).isNone &&
      ((t.copyOf 0 (pa / 64)).any (fun c => decide (c.bytes = t.bytesAt (pa / 64 * 64) 64)))) = true := ready_and _ (by decide +kernel)

/-- The access of an earlier pass of the lane that has stored a byte 7 at 0x100008 and not committed: the thread is in pass 1. -/
def afterStore (s : State) : State :=
  { s with
    cur := { cur77 with pass := 1 }
    lanes := s.lanes.map (fun (l : Lane) => { l with
      passes := { passOf (runOf []) with state := .submitted, accesses :=
          [{ id := 0, tidx := 77, idx := 0, space := .device, addr := 0x100008, len := 1, key := 1
             kind := .store [(7, 255)] false, before := [] }] } ::
        l.passes.map (fun (p : Pass) => { p with id := 1 }) }) }

/-- An S load then sees that byte before the home has it. -/
theorem witness_DeviceLoad_earlier_pass : ∃ p toks r, Ready (afterStore sDev) fO p toks r ∧ (siteOf (afterStore sDev) p toks).a = 0x100008 ∧
    toDevice (translate ((afterStore sDev).took r) 0 0x100008 .load) (fun pa key t =>
      !t.lockedFor pa false && (t.readFault pa key .load).isNone && (t.copyOf 0 (pa / 64)).isNone &&
      decide (({ afterStore sDev with mem := t.seenMem 0 t.mem } : State).prePassByte p.lane p.pass.id .device pa = 7) &&
      decide (t.byteAt pa = 0)) = true := ready_and _ (by decide +kernel)

/-- The scene with eight bytes at 0x100008 written by an earlier uncommitted pass, or not. -/
def afterWrites (s : State) : State :=
  { s with
    cur := { cur77 with pass := 1 }
    lanes := s.lanes.map (fun (l : Lane) => { l with
      passes := writesAt .device 0x100008 { passOf (runOf []) with state := .submitted } :: l.passes.map (fun (p : Pass) => { p with id := 1 }) }) }

/-- A load of class G of those bytes reads no memory; the earlier pass's one byte of `afterStore` leaves it memory to read. -/
theorem witness_DeviceLoad_held :
    (∃ p toks r, Ready (afterWrites sDev) fO p toks r ∧ (siteOf (afterWrites sDev) p toks).a = 0x100008 ∧
      toDevice (translate ((afterWrites sDev).took r) 0 0x100008 .load) (fun pa _ t => !t.lockedFor pa false &&
        p.pass.holds p.lane 77 (siteOf (afterWrites sDev) p toks).deps .device pa 8 &&
        !t.soloWaits (siteOf (afterWrites sDev) p toks) (lineKey 0 .device pa)) = true) ∧
    (∃ p toks r, Ready (afterStore sDev) fO p toks r ∧ (siteOf (afterStore sDev) p toks).a = 0x100008 ∧
      toDevice (translate ((afterStore sDev).took r) 0 0x100008 .load) (fun pa key t => !t.lockedFor pa false &&
        !p.pass.holds p.lane 77 (siteOf (afterStore sDev) p toks).deps .device pa 8 && (t.readFault pa key .load).isNone &&
        !t.soloWaits (siteOf (afterStore sDev) p toks) (lineKey 0 .device pa) && (t.copyOf 0 (pa / 64)).isNone) = true) :=
  ⟨ready_and _ (by decide +kernel), ready_and _ (by decide +kernel)⟩

/-- A misaligned load, one at 2^57, one of a host page, and one whose translation faults. -/
theorem witness_DeviceLoad_others :
    (∃ p toks r, Ready (sceneMem (wordO 0x78 0 0) (ab 0x100001 0)) fO p toks r ∧
      effAddr (siteOf (sceneMem (wordO 0x78 0 0) (ab 0x100001 0)) p toks).a 0 % fmtBytes .raw64 ≠ 0) ∧
    (∃ p toks r, Ready (sceneMem (wordO 0x78 0 0) (ab (2 ^ 57) 0)) fO p toks r ∧
      effAddr (siteOf (sceneMem (wordO 0x78 0 0) (ab (2 ^ 57) 0)) p toks).a 0 = 2 ^ 57) ∧
    (∃ p toks r, Ready (sceneMem (wordO 0x78 0 0) (ab 0x110008 0)) fO p toks r ∧
      (translate ((sceneMem (wordO 0x78 0 0) (ab 0x110008 0)).took r) 0 0x110008 .load).1 = .ok 0x1000000000008 1 .outside) ∧
    (translate sDev 0 0x120008 .load).1 = .bad 0x082 :=
  ⟨ready_and _ (by decide +kernel), ready_and _ (by decide +kernel), ready_and _ (by decide +kernel), by decide +kernel⟩

/-- The scene in which the registers of core 0 have a siding of 64 KiB at 0x100000. -/
def sSiding : State :=
  { sDev with lanes := sDev.lanes.map (fun (l : Lane) => { l with regs := { l.regs with sidebase := 0x100000, sidelen := 1 } }) }

/-- A load of the siding while thread 77 is there, and one of another page; the free values are those of the context's pool. -/
theorem witness_DeviceLoad_siding : ∃ p toks r, Ready sSiding fO p toks r ∧ (siteOf sSiding p toks).a = 0x100008 ∧
    (sSiding.took r).inSiding 0 0x100008 = true ∧ (sSiding.took r).inSiding 0 0x110000 = false ∧ (sDev.took r).inSiding 0 0x100008 = false ∧
    (sSiding.lanes.any (fun l => decide (l.ctx = 0 ∧ l.regs.sidebase ≤ 0x100008 ∧ 0x100008 < l.regs.sidebase + l.regs.sidelen * 65536) &&
      !l.threads.isEmpty)) = true ∧
    toDevice (translate (sSiding.took r) 0 0x100008 .load) (fun pa key t =>
      !t.lockedFor pa false && (t.readFault pa key .load).isNone && (t.copyOf 0 (pa / 64)).isNone) = true := ready_and _ (by decide +kernel)

/-- A block whose STORES is as given. -/
def storesHeader (n : Nat) (s : State) : State :=
  s.updLane 0 0 (fun l => { l with slots := l.slots.map (fun (c : CfgSlot) =>
    { block := c.block.map (fun (b : Block) => { b with header := [n * 2 ^ 9, 0, 0, 0] }) }) })

/-- A P store within STORES 1, and one that exceeds STORES 0. -/
theorem witness_StoresAreHeld : ∃ p toks r, Ready (storesHeader 1 (sceneMem (wordO 0x79 0 0) (ab 8 5))) fO p toks r ∧
    ((storesHeader 1 (sceneMem (wordO 0x79 0 0) (ab 8 5))).scratchBank 0 0 0) = true ∧
    (((storesHeader 1 (sceneMem (wordO 0x79 0 0) (ab 8 5))).took r).countLines
      (siteOf (storesHeader 1 (sceneMem (wordO 0x79 0 0) (ab 8 5))) p toks) [lineKey 0 .scratch 8]).isSome = true :=
  ready_and _ (by decide +kernel)

theorem witness_StoresAreHeld_overrun : ∃ p toks r, Ready (sceneMem (wordO 0x79 0 0) (ab 8 5)) fO p toks r ∧
    (((sceneMem (wordO 0x79 0 0) (ab 8 5)).took r).countLines (siteOf (sceneMem (wordO 0x79 0 0) (ab 8 5)) p toks)
      [lineKey 0 .scratch 8]) = none := ready_and _ (by decide +kernel)

theorem witness_StoresAreHeld_device : ∃ p toks r, Ready (storesHeader 1 sDev) fO p toks r ∧
    toDevice (translate ((storesHeader 1 sDev).took r) 0 0x100008 .store) (fun pa _ t =>
      !t.lockedFor pa true && (t.countLines (siteOf (storesHeader 1 sDev) p toks) [lineKey 0 .device pa]).isSome) = true :=
  ready_and _ (by decide +kernel)

/-- A misaligned store, one beyond the bank, one at 2^57, one whose translation faults, and a locked line. -/
theorem witness_StoresAreHeld_traps :
    (∃ p toks r, Ready (sceneMem (wordO 0x79 0 0) (ab 1 5)) fO p toks r ∧
      effAddr (siteOf (sceneMem (wordO 0x79 0 0) (ab 1 5)) p toks).a 0 % fmtBytes .raw64 ≠ 0) ∧
    (∃ p toks r, Ready (sceneMem (wordO 0x79 0 0) (ab 0x8000 5)) fO p toks r ∧
      (sceneMem (wordO 0x79 0 0) (ab 0x8000 5)).scratchBank 0 0
        (effAddr (siteOf (sceneMem (wordO 0x79 0 0) (ab 0x8000 5)) p toks).a 0 / 32768) = false) ∧
    (∃ p toks r, Ready (sceneMem (wordO 0x79 0 0) (ab (2 ^ 57) 5)) fO p toks r ∧
      effAddr (siteOf (sceneMem (wordO 0x79 0 0) (ab (2 ^ 57) 5)) p toks).a 0 = 2 ^ 57) ∧
    (translate sDev 0 0x120008 .store).1 = .bad 0x092 ∧ sLocked.lockedFor 0x100008 true = true ∧ Fmt.raw64.plain = true :=
  ⟨ready_and _ (by decide +kernel), ready_and _ (by decide +kernel), ready_and _ (by decide +kernel), by decide +kernel,
    by decide +kernel, by decide +kernel⟩

/-- A translation that reaches a host page. -/
theorem witness_StoresAreHeld_host : ∃ p toks r, Ready (sceneMem (wordO 0x79 0 0) (ab 0x110008 5)) fO p toks r ∧
    (translate ((sceneMem (wordO 0x79 0 0) (ab 0x110008 5)).took r) 0 0x110008 .store).1 = .ok 0x1000000000008 1 .outside :=
  ready_and _ (by decide +kernel)

/-- A map of FP32 at 0x100000 with extents 3, 1, 0 and rows of 16 bytes. -/
def map0 : List Word := [0x100000, 7, 0x10000003, 16, 0, 0, 0, 0]

/-- The scene whose block takes map 2 with it and may store one line. -/
def sMap (a : Word) : State :=
  (storesHeader 1 (sceneMem (wordO 0x7A 0 2) (ab a 5))).updLane 0 0 (fun l => { l with slots := l.slots.map (fun (c : CfgSlot) =>
    { block := c.block.map (fun (b : Block) => { b with maps := [(2, map0)] }) }) })

/-- The last element inside, and the first outside. -/
theorem witness_TensorMapAccesses : ∃ p toks r, Ready (sMap 0x10000003) fO p toks r ∧ p.block.map? 2 = some (TMap.ofWords map0) ∧
    (TMap.ofWords map0).outside (coords (siteOf (sMap 0x10000003) p toks).a) = false ∧ (TMap.ofWords map0).sfmt = 0 ∧
    (TMap.ofWords map0).fmt = .fp32 ∧ (TMap.ofWords map0).stream = false ∧ commits p = true ∧
    toDevice (translate ((sMap 0x10000003).took r) 0 0x10001C .load) (fun pa key t =>
      !t.lockedFor pa false && (t.readFault pa key .load).isNone && (t.copyOf 0 (pa / 64)).isNone) = true ∧
    toDevice (translate ((sMap 0x10000003).took r) 0 0x10001C .store) (fun pa _ t =>
      !t.lockedFor pa true && (t.countLines (siteOf (sMap 0x10000003) p toks) [lineKey 0 .device pa]).isSome) = true :=
  ready_and _ (by decide +kernel)

theorem witness_TensorMapAccesses_outside : ∃ p toks r, Ready (sMap 4) fO p toks r ∧
    p.block.map? 2 = some (TMap.ofWords map0) ∧ (TMap.ofWords map0).outside (coords (siteOf (sMap 4) p toks).a) = true :=
  ready_and _ (by decide +kernel)

/-- The scene whose block takes a map with it as map 2, under a STORES of 1. -/
def sMapOf (ws : List Word) (a : Word) : State :=
  (sMap a).updLane 0 0 (fun l => { l with slots := l.slots.map (fun (c : CfgSlot) =>
    { block := c.block.map (fun (b : Block) => { b with maps := [(2, ws)] }) }) })

/-- A map of class G or S of the format with the code given at 0x100000, 64 elements long, without a scale; and one of E4M3 with an
E8M0 scale at 0x100100. -/
def mapOf (fmt : Word) (stream : Bool) : List Word := [0x100000, (if stream then 0x8000 else 0) + fmt, 63, 0, 0, 0, 0, 0]

/-- The scaled map. -/
def scaledMap : List Word := [0x100000, 32 * (BitVec.ofNat 64 Fmt.e8m0.code) + BitVec.ofNat 64 Fmt.e4m3.code, 63, 0, 0x100100, 0, 0, 0]

/-- What one read of an element's bytes finds. -/
def foundAt (x : Found) (q : List Byte → List Nat → State → Bool) : Bool :=
  match x with
  | .got t b _ ids => q b ids t
  | _ => false

/-- Whole elements of classes G and S, a packed element in one byte, one in two bytes, and an element with its scale. -/
theorem witness_TensorMapAccesses_forms :
    (∃ p toks r, Ready (sMapOf (mapOf (BitVec.ofNat 64 Fmt.fp32.code) true) 3) fO p toks r ∧
      let s := sMapOf (mapOf (BitVec.ofNat 64 Fmt.fp32.code) true) 3
      let m := TMap.ofWords (mapOf (BitVec.ofNat 64 Fmt.fp32.code) true)
      m.stream = true ∧ m.sfmt = 0 ∧ m.place (coords 3) = (12, 0, 32) ∧
      foundAt ((s.took r).readAt (siteOf s p toks) m.cls m.policy 0x10000C 4 4 .load) (fun b ids _ => decide (b.length = 4 ∧ ids = [])) = true) ∧
    (∃ p toks r, Ready (sMapOf (mapOf (BitVec.ofNat 64 Fmt.e2m1.code) false) 3) fO p toks r ∧
      let s := sMapOf (mapOf (BitVec.ofNat 64 Fmt.e2m1.code) false) 3
      let m := TMap.ofWords (mapOf (BitVec.ofNat 64 Fmt.e2m1.code) false)
      m.fmt = .e2m1 ∧ m.stream = false ∧ m.outside (coords 3) = false ∧ m.place (coords 3) = (1, 4, 4) ∧
      foundAt ((s.took r).readAt (siteOf s p toks) m.cls m.policy 0x100001 1 1 .load) (fun b ids _ => decide (b.length = 1 ∧ ids = [0])) = true) ∧
    (∃ p toks r, Ready (sMapOf (mapOf (BitVec.ofNat 64 Fmt.t6.code) true) 1) fO p toks r ∧
      let s := sMapOf (mapOf (BitVec.ofNat 64 Fmt.t6.code) true) 1
      let m := TMap.ofWords (mapOf (BitVec.ofNat 64 Fmt.t6.code) true)
      m.fmt = .t6 ∧ m.place (coords 1) = (0, 6, 6) ∧
      foundAt ((s.took r).readAt (siteOf s p toks) m.cls m.policy 0x100000 1 1 .load) (fun _ ids t => decide (ids = []) &&
        foundAt (t.readAt (siteOf s p toks) m.cls m.policy 0x100001 1 1 .load) (fun b _ _ => decide (b.length = 1))) = true) ∧
    (∃ p toks r, Ready (sMapOf scaledMap 40) fO p toks r ∧
      let s := sMapOf scaledMap 40
      let m := TMap.ofWords scaledMap
      m.fmt = .e4m3 ∧ m.sfmt ≠ 0 ∧ m.scaleVa (coords 40) = 0x100101 ∧
      foundAt ((s.took r).readAt (siteOf s p toks) m.cls m.policy 0x100028 1 1 .load) (fun b ids t => decide (ids = [0]) &&
        foundAt (t.readAt (siteOf s p toks) m.cls m.policy 0x100101 1 1 .load) (fun _ _ _ => decide (b.length = 1))) = true) :=
  ⟨ready_and _ (by decide +kernel), ready_and _ (by decide +kernel), ready_and _ (by decide +kernel), ready_and _ (by decide +kernel)⟩

/-- An element of T6 whose second byte lies on the page at 0x120000, which is not there. -/
theorem witness_TensorMapAccesses_second_byte : ∃ p toks r,
    Ready (sMapOf (0x11FFFF :: (mapOf (BitVec.ofNat 64 Fmt.t6.code) true).drop 1) 1) fO p toks r ∧
    let s := sMapOf (0x11FFFF :: (mapOf (BitVec.ofNat 64 Fmt.t6.code) true).drop 1) 1
    let m := TMap.ofWords (0x11FFFF :: (mapOf (BitVec.ofNat 64 Fmt.t6.code) true).drop 1)
    m.outside (coords 1) = false ∧ m.place (coords 1) = (0, 6, 6) ∧
    foundAt ((s.took r).readAt (siteOf s p toks) m.cls m.policy 0x11FFFF 1 1 .load) (fun _ ids t =>
      match t.readAt ((siteOf s p toks).after ids) m.cls m.policy 0x120000 1 1 .load with
      | .bad _ cause => decide (cause = 0x082)
      | _ => false) = true := ready_and _ (by decide +kernel)

/-- A line that a PREF would take, and an address that names none. -/
theorem witness_CopiesAreTaken : ∃ p toks r, Ready sDev fO p toks r ∧
    ((sDev.took r).lineOf (siteOf sDev p toks) 0x100008).1 = some 0x4000 ∧
    (((sDev.took r).lineOf (siteOf sDev p toks) 0x100008).2.copyOf 0 0x4000) = none ∧
    ((sDev.took r).lineOf (siteOf sDev p toks) 0x120008).1 = none := ready_and _ (by decide +kernel)

/-- The scene beside a lane of core 1 of which a store stands before a REL of scope PKG. -/
def sRelease : State :=
  { sDev with lanes := sDev.lanes ++ [{ Lane.reset 1 0 SysRegs.reset with
      deferred := [{ id := 0, tidx := 5, idx := 0, kind := .sStore 0x100100 0x100100 1 [(5, 255)] .pkg, before := [], seq := 0 },
        { id := 1, tidx := 5, idx := 1, kind := .release .pkg, before := [0], seq := 0 }] }] }

/-- An ACQ with nothing to wait for, and one that waits for that store. -/
theorem witness_CopiesAreTaken_acquire : ∃ p toks r, Ready sRelease fO p toks r ∧ p.pass.solo ≠ .holding ∧
    (sDev.took r).releaseDue 0 false = false ∧ (sRelease.took r).releaseDue 0 false = true ∧
    ((sRelease.took r).lanes.any (fun l => decide (l.core ≠ 0) && l.unpublished.any (fun m => decide (m.1.kind = .release .pkg) && !m.2 &&
      l.unpublished.any (fun d => d.1.kind.isStore && !d.2 && decide (d.1.seq ≤ m.1.seq))))) = true :=
  ready_and _ (by decide +kernel)

/-- WAITA of class P on a word that is 0: .EQ with b = 0 holds, .NE does not. -/
theorem witness_Waita : ∃ p toks r, Ready (sceneMem (wordO 0xA2 0 0) (ab 8 0)) fO p toks r ∧
    (sceneMem (wordO 0xA2 0 0) (ab 8 0)).scratchBank 0 0 0 = true ∧ commits p = true ∧
    waitHolds .raw64 .eq (fmtDecode .raw64 (leNat ((sceneMem (wordO 0xA2 0 0) (ab 8 0)).scratchBytes 0 8 8)))
      ((siteOf (sceneMem (wordO 0xA2 0 0) (ab 8 0)) p toks).b none) = true ∧
    waitHolds .raw64 .ne (fmtDecode .raw64 (leNat ((sceneMem (wordO 0xA2 0 0) (ab 8 0)).scratchBytes 0 8 8)))
      ((siteOf (sceneMem (wordO 0xA2 0 0) (ab 8 0)) p toks).b none) = false := ready_and _ (by decide +kernel)

/-- WAITA of class G on a word of device memory that is 0: .EQ with b = 5 does not hold, .NE does. -/
theorem witness_Waita_device : ∃ p toks r, Ready sDev fO p toks r ∧ commits p = true ∧ (siteOf sDev p toks).a = 0x100008 ∧
    toDevice (translate (sDev.took r) 0 0x100008 .load) (fun pa key t =>
      !t.lockedFor pa false && (t.readFault pa key .load).isNone && (t.copyOf 0 (pa / 64)).isNone &&
      !waitHolds .raw64 .eq (fmtDecode .raw64 (leNat (Memory.readBytes (t.seenMem 0 t.mem) pa 8))) ((siteOf sDev p toks).b none) &&
      waitHolds .raw64 .ne (fmtDecode .raw64 (leNat (Memory.readBytes (t.seenMem 0 t.mem) pa 8))) ((siteOf sDev p toks).b none)) = true :=
  ready_and _ (by decide +kernel)

/-- An address of an atomic, on both spaces, with a line it may write. -/
theorem witness_Atomics : ∃ p toks r, Ready (storesHeader 1 sDev) fO p toks r ∧ commits p = true ∧
    (match ((storesHeader 1 sDev).took r).address 0 0 .g 0x100008 4 .rmw with
     | (.device pa key, t) => (t.countLines (siteOf (storesHeader 1 sDev) p toks) [lineKey 0 .device pa]).isSome &&
         (t.readFault pa key .rmw).isNone
     | _ => false) = true ∧
    (match ((storesHeader 1 sDev).took r).address 0 0 .p 0x10 4 .rmw with
     | (.scratch a, t) => (t.countLines (siteOf (storesHeader 1 sDev) p toks) [lineKey 0 .scratch a]).isSome
     | _ => false) = true := ready_and _ (by decide +kernel)

/-- AADD without T0 and RED.ADD act on a host page, an AADD with T0 and an AMIN do not; a host page, one that is not there, a locked
line, one line too many, and a bank that is none. -/
theorem witness_Atomics_others :
    (let m : MemOps := { cls := .g, scope := .core, fmt := .raw64, cp := .normal, oe := false, disp := 0 }
     let g : Fields := { fO with t0 := none }
     hostAtomic (.aadd g m) .raw64 (g.t0.isSome && !isRed (.aadd g m)) = true ∧
     hostAtomic (.red fO m .rne false .add) .raw64 (fO.t0.isSome && !isRed (.red fO m .rne false .add)) = true ∧
     hostAtomic (.aadd fO m) .raw64 (fO.t0.isSome && !isRed (.aadd fO m)) = false ∧
     hostAtomic (.amin g m) .raw64 (g.t0.isSome && !isRed (.amin g m)) = false) ∧
    (translate sDev 0 0x110008 .rmw).1 = .ok 0x1000000000008 1 .outside ∧
    (translate (translate sDev 0 0x110009 .rmw).2 0 0x110009 .rmw).1 = .ok 0x1000000000009 1 .outside ∧
    (translate (translate sDev 0 0x100009 .rmw).2 0 0x100009 .rmw).1 = .ok 0x100009 1 .device ∧
    (translate sDev 0 0x120008 .rmw).1 = .bad 0x0A2 ∧ (sLocked.lockedFor 0x100008 true) = true ∧ causeRank 0x0A2 ≠ causeRank 0x0A3 ∧
    sDev.scratchBank 0 0 1 = false ∧
    (∃ p toks r, Ready sDev fO p toks r ∧ ((sDev.took r).countLines (siteOf sDev p toks) [lineKey 0 .device 0x100008]) = none) :=
  ⟨by decide, by decide +kernel, by decide +kernel, by decide +kernel, by decide +kernel, by decide +kernel, by decide +kernel,
    by decide +kernel, ready_and _ (by decide +kernel)⟩

theorem witness_AtomicNewValues : Fmt.i32.atomicInt = true ∧ Fmt.n32.atomicInt = true ∧ Fmt.raw64.atomicInt = true := by decide

/-- Finite values, infinities of both signs and NaN, among the bits of an element and among the words. -/
theorem witness_AtomicNewValues_floats : fmtVal .fp32 0x3F800000 = .fin false (2 ^ 149) (-149) ∧ fmtVal .bf16 0xFF80 = .inf true ∧
    fmtVal .fp16 0x7C00 = .inf false ∧ fmtVal .fp32 0x7FC00000 = .nan ∧ wRead 0x7FFE000000000001 = .nan ∧
    wRead 0x7FFC000000000000 = .inf false ∧ wRead 0 = .fin false 0 0 ∧ fmtVal .raw64 0 = .fin false 0 0 := by decide +kernel

/-! #### Streams and gathers -/

/-- The scene in which bank 0 is a FIFO of two entries with the entries given. -/
def sFifo (es : List FifoEntry) : State :=
  let s := sceneOf (wordO 0xB1 0 0) (ab 9 0)
  { s with cores := s.cores.map (fun (c : CoreState) => c.updBank 0 (fun (b : Bank) => { b with mode := .fifo, geom := 1, fifo := es })) }

/-- An entry that nobody has popped. -/
def entry0 : FifoEntry := { val := 4, prod := none, tidx := 9, pop := none }

theorem witness_FifoStreams_room : ∃ p toks r, Ready (sFifo [entry0]) fO p toks r ∧ (p.run.idx 0).fired = 0 ∧
    ((sFifo [entry0]).took r).portLoc 0 0 { edge := false, port := 0 } .fifo = some (.bank 0 0) ∧
    ((sFifo [entry0]).took r).fifo? 0 (.bank 0 0) = some ([entry0], 2) ∧ p.pass.lowerDone p.run.pseq 0 = true ∧
    p.pass.solo ≠ .holding ∧ ((sFifo [entry0]).took r).copyBound (.bank 0 0) = false ∧
    (popEntry (siteOf (sFifo [entry0]) p toks).ref (sFifo [entry0]).cur.tidx [entry0]).isSome = true ∧
    ([entry0].filter (fun e => e.pop.isNone || e.pop = some (siteOf (sFifo [entry0]) p toks).ref))[((siteOf (sFifo [entry0]) p toks).b
      none).toNat]?.isSome = true := ready_and _ (by decide +kernel)

/-- A graph of two stages, of which the second stands at an offset; its edge 0 is a FIFO in bank 0 of that stage's core. -/
def graph0 (offset : Nat) : Packet :=
  { launch0 with
    words := [2, 0, 0, 0, 0, 0, 0, 0]
    stages := [{ offset := 0, nthr := 1, name := 0, run := 0 }, { offset := offset, nthr := 1, name := 0, run := 0 }]
    edges := [[0, 0, 1, 1, 0, 1]] }

/-- The scene of a PUSH over edge 0 of that graph, on a region of two cores; the consumer's marshal accepts `rl` tokens a window. -/
def sEdge (offset rl : Nat) : State :=
  let s := withContext [graph0 offset] (sceneOf (wordO 0xB1 0 0) (ab 9 0))
  { s with
    cores := s.cores ++ [{ CoreState.reset 1 with banks := listSet (CoreState.reset 1).banks 0 (fun (b : Bank) =>
      { b with mode := .fifo, geom := 1 }) }]
    lanes := s.lanes ++ [{ Lane.reset 1 0 { SysRegs.reset with rltokens := rl } with rateTokens := 1 }]
    regions := [{ row := 0, col := 0, h := 1, w := 2, holder := 0, sharer := none, heldCycles := 0 }] }

/-- An edge to the other core, whose window has room or has not; and one to a core outside the region. -/
theorem witness_FifoStreams_edge : ∃ p toks r, Ready (sEdge 1 2) fO p toks r ∧ (p.run.idx 0).fired = 0 ∧
    ((sEdge 1 2).took r).borderRefuses 0 { edge := true, port := 0 } = none ∧
    ((sEdge 1 2).took r).portLoc 0 0 { edge := true, port := 0 } .fifo = some (.bank 1 0) ∧
    ((sEdge 1 2).took r).fifo? 0 (.bank 1 0) = some ([], 2) ∧ p.pass.lowerDone p.run.pseq 0 = true := ready_and _ (by decide +kernel)

/-- An edge waits for no bank of its own core, of which an earlier pass sets one. -/
theorem witness_FifoStreams_edge_settled : ∃ p toks r, Ready (afterBankMode (sEdge 1 2)) fO p toks r ∧
    (siteOf (afterBankMode (sEdge 1 2)) p toks).portWaits { edge := true, port := 0 } = false ∧
    (siteOf (afterBankMode (sEdge 1 2)) p toks).portWaits { edge := false, port := 0 } = true := ready_and _ (by decide +kernel)

theorem witness_FifoStreams_window : ∃ p toks r, Ready (sEdge 1 2) fO p toks r ∧
    (((sEdge 1 2).took r).lane? 1 0).map (fun l => (l.regs.rltokens, l.rateTokens)) = some (2, 1) ∧
    ((sEdge 1 1).lane? 1 0).map (fun l => (l.regs.rltokens, l.rateTokens)) = some (1, 1) ∧
    ((sEdge 1 0).lane? 1 0).map (fun l => l.regs.rltokens) = some 0 := ready_and _ (by decide +kernel)

theorem witness_FifoStreams_border : ∃ p toks r, Ready (sEdge 2 0) fO p toks r ∧ (p.run.idx 0).fired = 0 ∧
    ((sEdge 2 0).took r).borderRefuses 0 { edge := true, port := 0 } = some 2 := ready_and _ (by decide +kernel)

/-- A second firing, and a bank that a copy has bound. -/
theorem witness_FifoStreams_second_and_bound :
    (∃ p toks r, Ready (sceneWith (wordO 0xB1 0 0) (ab 9 0) firedOnce id) fO p toks r ∧ (p.run.idx 0).fired ≠ 0) ∧
    ({ sFifo [] with cores := (sFifo []).cores.map (fun (c : CoreState) => c.updBank 0 (fun (b : Bank) =>
      { b with binding := [.copy 0] })) } : State).copyBound (.bank 0 0) = true :=
  ⟨ready_and _ (by decide +kernel), by decide +kernel⟩

theorem witness_FifoStreams_full : ∃ p toks r, Ready (sFifo [entry0, entry0]) fO p toks r ∧
    ((sFifo [entry0, entry0]).took r).fifo? 0 (.bank 0 0) = some ([entry0, entry0], 2) := ready_and _ (by decide +kernel)

theorem witness_FifoStreams_empty : ∃ p toks r, Ready (sFifo []) fO p toks r ∧
    ((sFifo []).took r).fifo? 0 (.bank 0 0) = some ([], 2) ∧ popEntry (siteOf (sFifo []) p toks).ref (sFifo []).cur.tidx [] = none :=
  ready_and _ (by decide +kernel)

theorem witness_FifoStreams_no_port : ∃ p toks r, Ready (sFifo []) fO p toks r ∧
    ((sFifo []).took r).portLoc 0 0 { edge := false, port := 31 } .fifo = none := ready_and _ (by decide +kernel)

/-- A 1 x 1 WINDOW of rows of two pixels, with the pixels given. -/
def sWindow (px : List Pixel) (a b : Word) : State :=
  let s := sceneOf (wordO 0xB5 0 0) (ab a b)
  { s with cores := s.cores.map (fun (c : CoreState) => c.updBank 0 (fun (b : Bank) =>
      { b with mode := .window, geom := 1 + 2 ^ 16, pixels := px })) }

/-- A 1 x 2 window: element 0 lies below the last element, element 2 beyond it. -/
theorem witness_WindowStreams : ∃ p toks r, Ready (sWindow [{ val := 4, prod := none, tidx := 9 }, { val := 5, prod := none, tidx := 9 }] 0 0)
      fO p toks r ∧ (p.run.idx 0).fired = 0 ∧ p.pass.solo ≠ .holding ∧ p.pass.lowerDone p.run.pseq 0 = true ∧
    ((sWindow [] 0 0).took r).portLoc 0 0 { edge := false, port := 0 } .window = some (.bank 0 0) ∧
    (Geometry.of (1 + 2 ^ 16)).kh * (Geometry.of (1 + 2 ^ 16)).kw - 1 = 1 ∧ (Geometry.of (1 + 2 ^ 16)).rw = 2 ∧
    2 / (Geometry.of (1 + 2 ^ 16)).rw < 0 + ((Geometry.of (1 + 2 ^ 16)).kh - 1) * (Geometry.of (1 + 2 ^ 16)).dil + 1 +
      (Geometry.of (1 + 2 ^ 16)).str ∧
    (Geometry.of (1 + 2 ^ 16)).pixel 0 1 < 2 ∧ (Geometry.of (1 + 2 ^ 16)).firstRow 0 = 0 := ready_and _ (by decide +kernel)

/-- Element 1, the last of the first window, whose pixels are both held; and a row of one window that has retired. -/
theorem witness_WindowStreams_last : ∃ p toks r, Ready (sWindow [{ val := 4, prod := none, tidx := 9 }, { val := 5, prod := none, tidx := 9 }] 0 1)
      fO p toks r ∧ (p.run.idx 0).fired = 0 ∧ p.pass.solo ≠ .holding ∧ p.pass.lowerDone p.run.pseq 0 = true ∧
    ((siteOf (sWindow [{ val := 4, prod := none, tidx := 9 }, { val := 5, prod := none, tidx := 9 }] 0 1) p toks).b none).toNat =
      (Geometry.of (1 + 2 ^ 16)).kh * (Geometry.of (1 + 2 ^ 16)).kw - 1 ∧ (Geometry.of (1 + 2 ^ 16)).pixel 0 1 = 1 :=
  ready_and _ (by decide +kernel)

/-- A window of which pixels are missing; a bank that is full; a port that is none; a bank on another core, which takes two tokens a
window; and a window held back from a solo pass by its producer. -/
theorem witness_WindowStreams_waits :
    (∃ p toks r, Ready (sWindow [{ val := 4, prod := none, tidx := 9 }] 0 0) fO p toks r ∧ (p.run.idx 0).fired = 0 ∧
      1 ≤ (Geometry.of (1 + 2 ^ 16)).pixel 0 1 ∧
      ((sWindow [{ val := 4, prod := none, tidx := 9 }] 0 0).took r).portLoc 0 0 { edge := false, port := 31 } .window = none) ∧
    ¬(4 / (Geometry.of (1 + 2 ^ 16)).rw < 0 + ((Geometry.of (1 + 2 ^ 16)).kh - 1) * (Geometry.of (1 + 2 ^ 16)).dil + 1 +
      (Geometry.of (1 + 2 ^ 16)).str) ∧
    (let s := sEdge 1 2
     let t : State := { withContext [{ graph0 1 with edges := [[0, 0, 1, 2, 0, 1]] }] s with cores := s.cores.map (fun (c : CoreState) =>
       { c with banks := listSet c.banks 0 (fun (b : Bank) => { b with mode := .window, geom := 1 + 2 ^ 16 }) }) }
     ∃ p toks r, Ready t fO p toks r ∧ (t.took r).borderRefuses 0 { edge := true, port := 0 } = none ∧
      (t.took r).portLoc 0 0 { edge := true, port := 0 } .window = some (.bank 1 0) ∧
      ((t.took r).bank? 1 0).map (fun k => (k.geom, k.pixels.length)) = some (1 + 2 ^ 16, 0) ∧ p.pass.lowerDone p.run.pseq 0 = true ∧
      ((t.took r).lane? 1 0).map (fun l => (l.regs.rltokens, l.rateTokens)) = some (2, 1)) :=
  ⟨ready_and _ (by decide +kernel), by decide, ready_and _ (by decide +kernel)⟩

theorem witness_WindowStreams_retire : (Geometry.of (1 + 2 ^ 16)).ow = 1 ∧ (Geometry.of (1 + 2 ^ 16)).str = 1 ∧
    (let k : Bank := (sWindow [] 0 0).bank? 0 0 |>.getD Bank.reset
     k.geom = 1 + 2 ^ 16 ∧ k.freeRow = 0 ∧ (k.retire [0]).freeRow = 1 ∧ (k.retire []).freeRow = 0) := by decide +kernel

/-- A gather of the thread, returned or not. -/
def gather0 (returned : Bool) (r : Run) : Run :=
  { r with gathers := [{ ticket := 9, idx := 16, gen := 0, val := 4, pa := 0, va := 0, returned := returned, received := false, deps := [] }] }

theorem witness_GathersAndBankModes_returned : ∃ p toks r, Ready (sceneWith (wordO 0xB7 0 0) [(.a, some 9)] (gather0 true) id) fO p toks r ∧
    (p.run.gathers.find? (fun g => g.ticket = 9 && !g.received)).map (·.returned) = some true := ready_and _ (by decide +kernel)

theorem witness_GathersAndBankModes_waits : ∃ p toks r, Ready (sceneWith (wordO 0xB7 0 0) [(.a, some 9)] (gather0 false) id) fO p toks r ∧
    (p.run.gathers.find? (fun g => g.ticket = 9 && !g.received)).map (·.returned) = some false ∧
    (p.run.gathers.find? (fun g => g.ticket = 8 && !g.received)) = none := ready_and _ (by decide +kernel)

theorem witness_GathersAndBankModes_gather : ∃ p toks r, Ready sDev fO p toks r ∧ (sDev.took r).mergerLoad 0 0 < 32 ∧
    (match (sDev.took r).readAt (siteOf sDev p toks) .s .normal 0x100008 8 8 .load with
     | .got _ bytes pa _ => decide (bytes.length = 8 ∧ pa = 0x100008)
     | _ => false) = true := ready_and _ (by decide +kernel)

/-- Thirty-two gathers wait at the edge unit of index 0, the ticket of one at index 16. -/
def gathers32 (r : Run) : Run :=
  { r with
    tokens := r.tokens ++ [{ idx := 16, slot := .a, val := some 31, deps := [] }]
    gathers := (List.range 32).map (fun k =>
      ({ ticket := k, idx := 16, gen := 0, val := 4, pa := 0, va := 0, returned := false, received := false, deps := [] } : Gather)) }

theorem witness_GathersAndBankModes_full : ∃ p toks r, Ready (sceneWith (wordO 0xB6 0 0x4000000) [(.a, some 0)] gathers32 id) fO p toks r ∧
    32 ≤ ((sceneWith (wordO 0xB6 0 0x4000000) [(.a, some 0)] gathers32 id).took r).mergerLoad 0 0 := ready_and _ (by decide +kernel)

/-! #### The matrix engine and parameter blocks -/

/-- Core 0's scratchpad with bytes from address 0 on. -/
def scratch0 (bytes : List Byte) (s : State) : State :=
  { s with cores := s.cores.map (fun (c : CoreState) => c.updBank 0 (fun (b : Bank) => { b with
      mode := .scratch, bytes := Memory.writeBytes [] 0 bytes })) }

/-- The scene of a queued instruction with a and b. -/
def sMatrix (a b : Word) : State := sceneMem (wordO 0xC2 0 0) (ab a b)

/-- The context shares its region. -/
def shared (s : State) : State :=
  { s with regions := [{ row := 0, col := 0, h := 1, w := 1, holder := 1, sharer := some 0, heldCycles := 0 }] }

theorem witness_MatrixEntries_not_owned : ∃ p toks r, Ready (shared (sMatrix 0 0)) fO p toks r ∧ (shared (sMatrix 0 0)).ownsEngine 0 = false :=
  ready_and _ (by decide +kernel)

/-- The least stride and the greatest depth of BF16; a stride that is no multiple of 16 is the next. -/
theorem witness_MatrixEntries : ∃ p toks r, Ready (sMatrix 0x10 0x300000100) fO p toks r ∧ (sMatrix 0x10 0x300000100).ownsEngine 0 = true ∧
    (siteOf (sMatrix 0x10 0x300000100) p toks).flagRoom (some 0) = true ∧ (siteOf (sMatrix 0x10 0x300000100) p toks).a.toNat % 16 = 0 ∧
    rowBytes .bf16 128 = 256 ∧ 0x300000100 % 2 ^ 32 % 16 = 0 ∧ rowBytes .bf16 128 ≤ 0x300000100 % 2 ^ 32 ∧
    0x300000100 / 2 ^ 32 < depthLimit .bf16 ∧ 0x300000101 % 16 ≠ 0 := ready_and _ (by decide +kernel)

theorem witness_MatrixEntries_store : ∃ p toks r, Ready (sMatrix 0x18 0x200) fO p toks r ∧
    ((siteOf (sMatrix 0x18 0x200) p toks).b none).toNat / 2 ^ 32 = 0 ∧ rowBytes .fp32 128 ≤ 0x200 ∧
    (siteOf (sMatrix 0x18 0x200) p toks).a.toNat % 16 ≠ 0 := ready_and _ (by decide +kernel)

theorem witness_MatrixEntries_flag_full : ∃ p toks r,
    Ready (sceneWith (wordO 0xC2 0 0) (ab 0 0) id (fun (t : Thread) => { t with counts := List.replicate 12 255 })) fO p toks r ∧
    (siteOf (sceneWith (wordO 0xC2 0 0) (ab 0 0) id (fun (t : Thread) => { t with counts := List.replicate 12 255 })) p toks).flagRoom
      (some 0) = false ∧ (sceneWith (wordO 0xC2 0 0) (ab 0 0) id (fun (t : Thread) => { t with counts := List.replicate 12 255 })).ownsEngine
      0 = true := ready_and _ (by decide +kernel)

/-- An MMA of E4M3 on one 32-row block: A at 0x100, rows of 32 bytes. -/
def mmaWords : List Word := [0x500, 0x2000000100, 0, 0, 0, 0, 0, 0]

/-- A MODE 0 copy of one row of 64 bytes from 0x100000 to 0x100800. -/
def copyWords : List Word := [0x100000, 0x100800, 64, 0, 0, 0, 0, 0]

/-- Words as bytes. -/
def bytesOf (ws : List Word) : List Byte := ws.flatMap (fun w => leBytes 8 w.toNat)

/-- The scene whose scratchpad holds a parameter block at 0. -/
def sParam (ws : List Word) : State := scratch0 (bytesOf ws) (sMatrix 0 0)

theorem witness_ParameterBlocks_mma : ∃ p toks r, Ready (sParam mmaWords) fO p toks r ∧ (sParam mmaWords).scratchBank 0 0 0 = true ∧
    commits p = true ∧ (sParam mmaWords).ownsEngine 0 = true ∧ leWords 8 ((sParam mmaWords).scratchBytes 0 0 64) = mmaWords ∧
    mmaFieldsOk mmaWords = true ∧ (sParam mmaWords).mmaSpanFault 0 0 (MmaParam.ofWords mmaWords) = none :=
  ready_and _ (by decide +kernel)

theorem witness_ParameterBlocks_copy : ∃ p toks r, Ready (sParam copyWords) fO p toks r ∧ commits p = true ∧
    leWords 8 ((sParam copyWords).scratchBytes 0 0 64) = copyWords ∧ copyFieldsOk copyWords = true ∧
    (sParam copyWords).copyBanksOk 0 0 (CopyParam.ofWords copyWords) = true ∧ mmaFieldsOk copyWords = false ∧
    copyFieldsOk mmaWords = false := ready_and _ (by decide +kernel)

/-- A parameter block in a bank that an earlier pass sets, a misaligned one, and a full flag. -/
theorem witness_ParameterBlocks_waits : ∃ p toks r, Ready (afterBankMode (sParam copyWords)) fO p toks r ∧
    (siteOf (afterBankMode (sParam copyWords)) p toks).bankWaits 0 = true ∧ (afterBankMode (sParam copyWords)).ownsEngine 0 = true :=
  ready_and _ (by decide +kernel)

theorem witness_ParameterBlocks_misaligned : ∃ p toks r, Ready (sMatrix 8 0) fO p toks r ∧ (siteOf (sMatrix 8 0) p toks).a.toNat % 64 ≠ 0 ∧
    (siteOf (sMatrix 8 0) p toks).bankWaits 0 = false ∧ (sMatrix 8 0).ownsEngine 0 = true := ready_and _ (by decide +kernel)

/-- The state whose threads have every flag full. -/
def flagsFull (s : State) : State :=
  s.updLane 0 0 (fun l => { l with threads := l.threads.map (fun (t : Thread) => { t with counts := List.replicate 12 255 }) })

theorem witness_ParameterBlocks_flag_full : ∃ p toks r, Ready (flagsFull (sParam copyWords)) fO p toks r ∧ commits p = true ∧
    (siteOf (flagsFull (sParam copyWords)) p toks).flagRoom (some 11) = false ∧
    leWords 8 ((flagsFull (sParam copyWords)).scratchBytes 0 0 64) = copyWords ∧
    (flagsFull (sParam copyWords)).copyBanksOk 0 0 (CopyParam.ofWords copyWords) = true := ready_and _ (by decide +kernel)

/-- With no earlier pass of its lane a firing waits for no bank. -/
theorem bankWaits_of_first {x : Site} (h : x.spot.lane.uncommitted x.spot.pass.id = []) (b : Nat) : x.bankWaits b = false := by
  simp [Site.bankWaits, h]

/-- A COPY whose parameter block stands in device memory at 0x100000. -/
def sParamDev (ws : List Word) : State :=
  let s := sceneMem (wordO 0xD0 0 0) (ab 0x100000 0)
  { s with mem := Memory.writeBytes s.mem 0x100000 (bytesOf ws) }

theorem witness_ParameterBlocks_device : ∃ p toks r, Ready (sParamDev copyWords) fO p toks r ∧ commits p = true ∧
    (siteOf (sParamDev copyWords) p toks).spot.lane.uncommitted (siteOf (sParamDev copyWords) p toks).spot.pass.id = [] ∧
    (siteOf (sParamDev copyWords) p toks).a = 0x100000 ∧ (siteOf (sParamDev copyWords) p toks).flagRoom none = true ∧
    toDevice (translate ((sParamDev copyWords).took r) 0 0x100000 .load) (fun pa key t =>
      !t.lockedFor pa false && (t.readFault pa key .load).isNone && (t.copyOf 0 (pa / 64)).isNone &&
      decide (leWords 8 (Memory.readBytes (t.seenMem 0 t.mem) pa 64) = copyWords) &&
      t.copyBanksOk 0 0 (CopyParam.ofWords copyWords)) = true := ready_and _ (by decide +kernel)

/-- A matrix entry of thread 77. -/
def matrixEntry (k : MatrixKind) (st : EntryStage) (flag : Option Nat) : MatrixEntry :=
  { ctx := 0, record := { tidx := 77, idx := 0, gen := 0, kind := k, flag := flag }, stage := st, leaveWait := 4096, leave := true }

/-- The scene with one entry in the queue, and the B operand loaded for K = 32 of E4M3. -/
def sQueue (a : Word) (e : MatrixEntry) : State :=
  let s := sMatrix a 0
  { s with cores := s.cores.map (fun (c : CoreState) => { c with queue := [e], bfmt := 10, bdepth := 1 }) }

/-- MREAD of the last element; the queue holds no entry, or one that writes the tile. -/
theorem witness_MRead : ∃ p toks r, Ready (sMatrix 0x1FFF 0) fO p toks r ∧ (siteOf (sMatrix 0x1FFF 0) p toks).a.toNat < 2 ^ 13 ∧
    ((sMatrix 0x1FFF 0).core? 0).map (·.queue) = some [] := ready_and _ (by decide +kernel)

theorem witness_MRead_waits : ∃ p toks r, Ready (sQueue 0x2000 (matrixEntry (.mzero 1) .queued none)) fO p toks r ∧
    2 ^ 13 ≤ (siteOf (sQueue 0x2000 (matrixEntry (.mzero 1) .queued none)) p toks).a.toNat ∧
    ((sQueue 0x2000 (matrixEntry (.mzero 1) .queued none)).core? 0).map (fun c => c.queue.any (fun e => e.record.kind.writes 1)) =
      some true := ready_and _ (by decide +kernel)

/-- The head entry of core 0. -/
def headIn (s : State) (q : CoreState → MatrixEntry → Bool) : Bool :=
  match s.core? 0 with
  | none => false
  | some c => match c.head? with
    | none => false
    | some e => q c e

theorem headIn_spec {s : State} {q : CoreState → MatrixEntry → Bool} (h : headIn s q = true) :
    ∃ c e, s.core? 0 = some c ∧ c.head? = some e ∧ q c e = true := by
  unfold headIn at h
  split at h
  · cases h
  · next c hc =>
    split at h
    · cases h
    · next e he => exact ⟨c, e, hc, he, h⟩

/-- An MBLD whose rows lie in the bank, and one whose rows do not. -/
theorem witness_MatrixEntriesRun_mbld : ∃ c e, (sQueue 0 (matrixEntry (.mbld .p .e4m3 .normal 0 128 0) .queued none)).core? 0 = some c ∧
    c.head? = some e ∧ (match (sQueue 0 (matrixEntry (.mbld .p .e4m3 .normal 0 128 0) .queued none)).readRows 0 e.ctx .p .normal 0 128 (rowBytes .e4m3 128)
      (List.range (32 * (0 + 1))) with
     | (.ok rows, _) => decide (rows.length = 32)
     | _ => false) = true := headIn_spec (by decide +kernel)

theorem witness_MatrixEntriesRun_mbld_fails : ∃ c e, (sQueue 0 (matrixEntry (.mbld .p .e4m3 .normal 0x8000 128 0) .queued none)).core? 0 = some c ∧
    c.head? = some e ∧ (match (sQueue 0 (matrixEntry (.mbld .p .e4m3 .normal 0x8000 128 0) .queued none)).readRows 0 e.ctx .p .normal 0x8000 128
      (rowBytes .e4m3 128) (List.range (32 * (0 + 1))) with
     | (.bad cause a, _) => decide (cause = 0x084 ∧ a = 0x8000)
     | _ => false) = true := headIn_spec (by decide +kernel)

/-- An MMA with leave, whose depth the B operand has; and a core whose B operand has none. -/
theorem witness_MatrixEntriesRun_mma : ∃ c e, (sQueue 0 (matrixEntry (.mma mmaWords) .queued none)).core? 0 = some c ∧ c.head? = some e ∧
    (e.leave && decide ((MmaParam.ofWords mmaWords).kb + 1 ≤ c.bdepth ∧ c.bfmt ≠ 9) &&
      ((sQueue 0 (matrixEntry (.mma mmaWords) .queued none)).mmaSpanFault 0 e.ctx (MmaParam.ofWords mmaWords)).isNone &&
      decide ((CoreState.reset 0).bdepth < (MmaParam.ofWords mmaWords).kb + 1)) = true := headIn_spec (by decide +kernel)

/-- An MSTORE of E4M3 whose rows lie in the bank; an MZERO at the head. -/
theorem witness_MatrixEntriesRun_mstore : ∃ c e, (sQueue 0 (matrixEntry (.mstore .p .core .e4m3 .normal .rne 0 0 128) .queued none)).core? 0 = some c ∧
    c.head? = some e ∧ ((List.range 64).all (fun i =>
      (sQueue 0 (matrixEntry (.mstore .p .core .e4m3 .normal .rne 0 0 128) .queued none)).scratchSpan 0 e.ctx (0 + i * 128)
        (storeRow .e4m3 .rne (fun _ => 0) (c.tiles.getD 0 []) i).length)) = true := headIn_spec (by decide +kernel)

/-- What holds of the pieces that an MSTORE's rows make. -/
def storing (x : Reach (List Piece) × List Piece × State) (q : List Piece → State → Bool) (fails : Nat → Nat → List Piece → Bool) : Bool :=
  match x with
  | (.ok ps, _, t) => q ps t
  | (.bad cause a, ps, _) => fails cause a ps
  | _ => false

/-- An MSTORE of E2M1 whose rows lie on the page at 0x100000, which is device memory; and one whose last row lies on the page at
0x120000, which is not there, after 63 on the host's. -/
theorem witness_MatrixEntriesRun_mstore_device :
    (let s := sQueue 0 (matrixEntry (.mstore .s .die .e2m1 .normal .rne 0 0x100000 64) .queued none)
     let rows := fun (a : Nat) => (List.range 64).map (fun i => (a + i * 64, storeRow .e2m1 .rne (fun _ => 0) [] i))
     storing (s.storeRows 0 (rows 0x100000)) (fun ps t => ps.all (·.device) && (t.lane? 0 0).isSome) (fun _ _ _ => false)) = true := by
  decide +kernel

/-- An MSTORE of E2M1 of class P whose first row ends bank 0: the second row lies in no SCRATCH bank. -/
theorem witness_MatrixEntriesRun_mstore_bounds :
    (let s := sQueue 0 (matrixEntry (.mstore .p .die .e2m1 .normal .rne 0 0x7FC0 64) .queued none)
     match s.tileRows 0 .e2m1 .rne 0x7FC0 64 [] with
     | x :: y :: _ => s.scratchSpan 0 0 x.1 x.2.length && !s.scratchSpan 0 0 y.1 y.2.length
     | _ => false) = true := by decide +kernel

theorem witness_MatrixEntriesRun_mstore_fails :
    (let s := sQueue 0 (matrixEntry (.mstore .s .die .e2m1 .normal .rne 0 0x11F040 64) .queued none)
     let rows := fun (a : Nat) => (List.range 64).map (fun i => (a + i * 64, storeRow .e2m1 .rne (fun _ => 0) [] i))
     storing (s.storeRows 0 (rows 0x11F040)) (fun _ _ => false)
       (fun cause a ps => decide (cause = 0x092 ∧ a = 0x120000) && ps.all (fun p => !p.device))) = true := by
  decide +kernel

/-- An entry that has run: with no failure, with a failure of a thread of the lane, and of a thread that has ended. -/
theorem witness_MatrixEntriesRun_finish :
    ((sQueue 0 (matrixEntry (.mzero 1) (.ran none) (some 2))).core? 0).map (fun c => c.queue.map (·.stage)) = some [.ran none] ∧
    ((sQueue 0 (matrixEntry (.mzero 1) (.ran (some (0x103, 0))) none)).lane? 0 0).map (fun l => (l.thread? 77).isSome) = some true ∧
    ((sQueue 0 (matrixEntry (.mzero 1) (.ran (some (0x103, 0))) none)).lane? 0 0).map (fun l => (l.thread? 78).isSome) = some false := by
  decide +kernel

/-! #### The marshal, the end of a pass, and its commit -/

/-- Thread 77 waits at block 3. -/
def waiting77 : Thread := { thread77 with place := .waiting 3 false }

/-- A lane in which thread 77 waits, block 3 has the age given, and the passes given stand. -/
def waitLane (age : Nat) (t : Thread) (ps : List Pass) : Lane :=
  { laneOf (blockOf (wordO 0x01 0 0) [.a]) t (passOf (runOf [])) with
    passes := ps, ages := [{ blk := 3, age := age, everChosen := false }] }

/-- A state with context 0 and one lane. -/
def sLane (l : Lane) : State :=
  { withContext [launch0] (stateOf l) with regions := [{ row := 0, col := 0, h := 1, w := 1, holder := 0, sharer := none, heldCycles := 0 }] }

/-- An earlier uncommitted pass leaves the byte of its highest thread. -/
theorem witness_ScratchpadLoad_earlier :
    let e : Pass := writesAt .scratch 8 { passOf (runOf []) with state := .submitted }
    let l := waitLane 0 thread77 [e, { passOf (runOf []) with id := 1 }]
    l.earlier 1 = [e] ∧ (e.accesses.filterMap (·.storeAt .scratch 8)).map (fun w => (w.tidx, w.mask)) =
      [(77, 255), (77, 255), (77, 255), (78, 255)] ∧ (∀ y ∈ e.accesses, y.atomicAt .scratch 8 = none) ∧
    (sLane l).prePassByte l 1 .scratch 8 = 6 ∧ (sLane l).prePassByte l 1 .scratch 16 = 0 := by decide +kernel

/-- The lane and the packet of context 0 on core 0. -/
def laneIn (s : State) (q : Lane → Packet → Bool) : Bool :=
  match s.lane? 0 0, (s.ctx? 0).bind (·.kernelPacket?) with
  | some l, some k => q l k
  | _, _ => false

theorem laneIn_spec {s : State} {q : Lane → Packet → Bool} (h : laneIn s q = true) :
    ∃ l k, s.lane? 0 0 = some l ∧ (s.ctx? 0).bind (·.kernelPacket?) = some k ∧ q l k = true := by
  unfold laneIn at h
  split at h
  · next l k hl hk => exact ⟨l, k, hl, hk, h⟩
  · cases h

/-- An overdue block (age 8192 = 2 x AGE), an eligible one (4096), and one that only the drain rule takes (0). -/
theorem witness_BlockChoice : ∃ l k, (sLane (waitLane 8192 waiting77 [])).lane? 0 0 = some l ∧
    ((sLane (waitLane 8192 waiting77 [])).ctx? 0).bind (·.kernelPacket?) = some k ∧
    (decide (l.chosen? k = some 3) && l.mayChoose k && decide ((waitLane 4096 waiting77 []).chosen? k = some 3) &&
      decide ((waitLane 0 waiting77 []).chosen? k = some 3) &&
      decide ((waitLane 0 waiting77 [passOf (runOf [])]).chosen? k = none)) = true := laneIn_spec (by decide +kernel)

/-- A pass that waits for its configuration; block 3 of the image loads. -/
theorem witness_Marshal_configuration : ∃ l k, (sLane (waitLane 0 thread77 [{ passOf (runOf []) with state := .loading }])).lane? 0 0 =
      some l ∧ ((sLane (waitLane 0 thread77 [{ passOf (runOf []) with state := .loading }])).ctx? 0).bind (·.kernelPacket?) = some k ∧
    (l.loading?.isSome && !l.frozen && (match (sLane l).loadBlock 0 k l.stage 3 with
      | .ok _ b => decide (b.words = [(0x15 * 2 ^ 56, 0)])
      | _ => false)) = true := laneIn_spec (by decide +kernel)

/-- A pass that admits thread 77, which waits; and one that admits a thread still to be created, 78, with room for it. -/
def admitting (t : Nat) : Pass := { passOf (runOf []) with admission := [t], admitted := 0, runs := [] }

theorem witness_Marshal_admission : ∃ l k, (sLane (waitLane 0 waiting77 [admitting 77])).lane? 0 0 = some l ∧
    ((sLane (waitLane 0 waiting77 [admitting 77])).ctx? 0).bind (·.kernelPacket?) = some k ∧
    ((l.admits?.bind l.block?).isSome && ((l.thread? 77).map (·.spill)) == some none && (l.thread? 78).isNone &&
      (match (sLane (waitLane 0 waiting77 [admitting 78])).createThread 0 0 78 k.slots [some k.arg] (.inPass 0) with
       | .ok t => ((t.lane? 0 0).bind (fun l => l.thread? 78)).isSome
       | _ => false)) = true := laneIn_spec (by decide +kernel)

/-- A squashed pass whose slot holds its block, and one whose slot is empty; the solo queue. -/
theorem witness_Marshal_replay_and_solo :
    ((waitLane 0 thread77 [{ passOf (runOf []) with state := .squashed }]).replays?.bind
      (waitLane 0 thread77 [{ passOf (runOf []) with state := .squashed }]).block?).isSome = true ∧
    ((waitLane 0 thread77 [{ passOf (runOf []) with state := .squashed, slot := 1 }]).replays?).isSome = true ∧
    ((waitLane 0 thread77 [{ passOf (runOf []) with state := .squashed, slot := 1 }]).block?
      { passOf (runOf []) with state := .squashed, slot := 1 }) = none ∧
    ((sLane (waitLane 0 thread77 [passOf (runOf [])])).passAt? { core := 0, ctx := 0, pass := 0 }).isSome = true := by decide +kernel

/-- Two passes of a lane request the solo ticket, the later one first: the earlier receives it. -/
theorem witness_Marshal_solo :
    let l := waitLane 0 thread77 [{ passOf (runOf []) with state := .squashed, solo := .waiting },
      { passOf (runOf []) with id := 1, state := .squashed, solo := .waiting }]
    let s : State := { sLane l with soloQueue := [{ core := 0, ctx := 0, pass := 1 }, { core := 0, ctx := 0, pass := 0 },
      { core := 0, ctx := 0, pass := 7 }] }
    s.soloHolder = none ∧ s.soloSeekersNow = [{ core := 0, ctx := 0, pass := 1 }, { core := 0, ctx := 0, pass := 0 }] ∧
    s.soloSeekersNow.find? s.firstOnCore = some { core := 0, ctx := 0, pass := 0 } := by decide +kernel

/-- A yield that has run out, and one that names no block. -/
theorem witness_Marshal_yield : ((waitLane 0 { waiting77 with yieldLeft := some (0, [4]) } []).thread? 77).map (fun t => (t.yieldLeft, t.place)) =
      some (some (0, [4]), .waiting 3 false) ∧
    ((waitLane 0 { waiting77 with yieldLeft := some (9, []) } []).thread? 77).map (·.yieldLeft) = some (some (9, [])) := by decide +kernel

/-- A window of RLWINDOW = 1024 cycles before its end; the ages just below AGE and 2 x AGE. -/
theorem witness_Marshal_clocks : (waitLane 0 waiting77 []).regs.rlwindow = 1024 ∧ (waitLane 0 waiting77 []).frozen = false ∧
    (waitLane 4095 waiting77 []).ageOf 3 < (waitLane 4095 waiting77 []).regs.age ∧
    (waitLane 8191 waiting77 []).regs.age ≤ (waitLane 8191 waiting77 []).ageOf 3 ∧
    (waitLane 8191 waiting77 []).ageOf 3 < 2 * (waitLane 8191 waiting77 []).regs.age ∧
    (waitLane 4095 waiting77 []).waitingCount launch0 3 = 1 := by decide +kernel

/-- A deferred effect of thread 77. -/
def deferred0 (k : DeferredKind) : Deferred := { id := 0, tidx := 77, idx := 0, kind := k, before := [] }

/-- A lane whose first deferred effect is as given, the only one of its core. -/
def deferLane (k : DeferredKind) : Lane := { waitLane 0 waiting77 [] with deferred := [deferred0 k] }

theorem witness_Marshal_register_writes : ((sLane (deferLane (.syswr 1 9))).headDeferred 0 0).map (·.kind) = some (.syswr 1 9) ∧
    (waitLane 0 waiting77 []).deferred = [] := by decide +kernel

/-- A command on a handle that is free, and on one that the running packet names. -/
theorem witness_Objects : (context0 []).objFree true 255 = true ∧ (context0 []).names 255 = false ∧
    (context0 [launch0]).objFree false 0 = true ∧ (context0 [launch0]).names 0 = true ∧
    (match (withContext [] State.reset).loadObject 0 0 (context0 []).page with
     | .bad _ cause => decide (cause = 0x082)
     | _ => false) = true := by decide +kernel

/-- A run that writes slot 7 of a thread with eight slots. -/
theorem witness_CommitUpdatesTheThread :
    ({ runOf [] with writes := [(7, 5)] } : Run).slotWrites (blockOf (wordO 0x01 0 0) []) = [(7, 5)] ∧ (runOf []).lvOp = none ∧
    thread77.lives.length = thread77.lvsn ∧ 7 < thread77.lvsn := by decide +kernel

/-- A GROW to 12 of a thread that has eight slots, for which its core has room; and runs that write two slots. -/
theorem witness_CommitUpdatesTheThread_grow :
    ((sLane (waitLane 0 thread77 [])).lane? 0 0).bind (fun l => l.thread? 77) = some thread77 ∧ thread77.lvsn < 12 ∧
    (match (sLane (waitLane 0 thread77 [])).roomFor 0 0 77 (12 - thread77.lvsn) false with
     | .ok u => decide (((u.lane? 0 0).bind (fun l => l.thread? 77)) = some thread77)
     | _ => false) = true ∧
    ((({ runOf [] with writes := [(7, 5), (6, 4)] } : Run).slotWrites (blockOf (wordO 0x01 0 0) [])).map (·.1)).Nodup ∧
    (thread77.commit (blockOf (wordO 0x01 0 0) []) (runOf [])).lvsn = 8 := by decide +kernel

/-- A pass that is over, with one drained run. -/
theorem witness_PassesEnd : ∃ l k, (sLane (waitLane 0 thread77 [passOf { runOf [] with sources := [] }])).lane? 0 0 = some l ∧
    ((sLane (waitLane 0 thread77 [passOf { runOf [] with sources := [] }])).ctx? 0).bind (·.kernelPacket?) = some k ∧
    (match l.over? with
     | some p => decide (l.pass? p.id = some p) && (l.block? p).isSome && p.scaled.isEmpty
     | none => false) = true := laneIn_spec (by decide +kernel)

/-- A pass in which thread 76, which has trapped, performed a returning atomic before one of thread 77 on the same word. -/
theorem witness_PassesEnd_tainted :
    let a := fun (id t : Nat) => ({ id := id, tidx := t, idx := 0, space := .device, addr := 0x100000, len := 8, key := 1
                                    kind := .returning (List.replicate 8 (1, 255)), before := [] } : Access)
    let p : Pass := { passOf (runOf []) with
      runs := [{ Run.empty 76 0 [] with causes := [{ idx := 0, gen := 0, cause := 0x140, info := none }] }, { runOf [] with sources := [] }]
      admission := [76, 77], accesses := [a 0 76, a 1 77] }
    p.tainted = true ∧ ({ p with accesses := [a 1 76, a 0 77] } : Pass).tainted = false ∧
    (sLane (waitLane 0 thread77 [{ p with admitted := 2 }])).lanes.map (fun l => l.over?.isSome) = [true] := by decide +kernel

/-- A chunk at the head of the queue of die 0, and one that has linearized. -/
def grantState : State :=
  let s := sLane (waitLane 0 thread77 [{ passOf (runOf []) with state := .submitted, need := [(0, true)], requested := true }])
  { s with arbiters := { queue := [.chunk { core := 0, ctx := 0, pass := 0 }], granted := [] } :: s.arbiters.drop 1 }

theorem witness_ArbiterGrant : let t := grantState.queueRequests 0
    (t.arbiters[0]?).map (·.queue) = some [.chunk { core := 0, ctx := 0, pass := 0 }] ∧
    (match t.passAt? { core := 0, ctx := 0, pass := 0 } with
     | some p => !t.meetsSolo { core := 0, ctx := 0, pass := 0 } p && p.got.isEmpty
     | none => false) = true ∧ t.unheard 0 { core := 0, ctx := 0, pass := 0 } = false := by decide +kernel

/-- The chunk writes the line that the solo pass of another lane has read; and the save of a context that is frozen asks at die 0. -/
theorem witness_ArbiterGrant_solo_and_engine :
    (let w : Access := { id := 0, tidx := 77, idx := 0, space := .device, addr := 0x100000, len := 8, key := 1,
                         kind := .store [] false, before := [] }
     let writer : Pass :=
       { passOf (runOf []) with state := .submitted, need := [(0, true)], requested := true, accesses := [w] }
     let s := sLane (waitLane 0 thread77 [writer])
     let solo : Lane := { Lane.reset 1 0 SysRegs.reset with
       passes := [{ passOf (runOf []) with solo := .holding, accesses := [{ w with kind := .load }] }] }
     let t : State := { s with
       lanes := s.lanes ++ [solo], soloHolder := some { core := 1, ctx := 0, pass := 0 }
       arbiters := { queue := [.chunk { core := 0, ctx := 0, pass := 0 }], granted := [] } :: s.arbiters.drop 1 }
     ((t.queueRequests 0).passAt? { core := 0, ctx := 0, pass := 0 }).any (fun p =>
       (t.queueRequests 0).meetsSolo { core := 0, ctx := 0, pass := 0 } p && p.got.isEmpty)) = true ∧
    (let s := sLane (waitLane 0 waiting77 [])
     let t : State := { s with
       contexts := s.contexts.map (fun (c : Context) => { c with preempt := true, frozen := true })
       arbiters := { queue := [.engine (.strip 0 17)], granted := [] } :: s.arbiters.drop 1 }
     (t.queueRequests 0).arbiters[0]? = some { queue := [.engine (.strip 0 17)], granted := [] }) := by decide +kernel

/-- A chunk with one grant to take: no broadcast is due to its core; and one of a line that it has read is. -/
theorem witness_ArbiterGrant_last :
    (let t := grantState.queueRequests 0
     (t.passAt? { core := 0, ctx := 0, pass := 0 }).any (fun p => !t.lastGrantWaits { core := 0, ctx := 0, pass := 0 } p)) = true ∧
    (let s := sLane (waitLane 0 thread77 [{ passOf (runOf []) with state := .submitted, need := [(0, true)], requested := true, accesses :=
        [{ id := 0, tidx := 77, idx := 0, space := .device, addr := 0x100000, len := 8, key := 1, kind := .load, before := [] }] }])
     let t : State := { s with
       arbiters := { queue := [.chunk { core := 0, ctx := 0, pass := 0 }], granted := [] } :: s.arbiters.drop 1
       broadcasts := [{ source := none, wlines := [(0x4000, 2 ^ 64 - 1)], clines := [], cores := [0], dies := [5] }] }
     ((t.queueRequests 0).passAt? { core := 0, ctx := 0, pass := 0 }).any (fun p =>
       (t.queueRequests 0).lastGrantWaits { core := 0, ctx := 0, pass := 0 } p &&
       !(t.queueRequests 0).meetsSolo { core := 0, ctx := 0, pass := 0 } p)) = true := by decide +kernel

theorem witness_ChunkCommit : ∃ l k, (sLane (waitLane 0 thread77 [{ passOf (runOf []) with state := .granted }])).lane? 0 0 = some l ∧
    ((sLane (waitLane 0 thread77 [{ passOf (runOf []) with state := .granted }])).ctx? 0).bind (·.kernelPacket?) = some k ∧
    (match l.passes with
     | p :: _ => decide (p.state = .granted) && (l.block? p).isSome && !p.grows && !(sLane l).refetchDue 0 && (match State.growAll 0 0 (byThread p.runs) (sLane l) with
         | (.ok _, _) => true
         | _ => false)
     | [] => false) = true := laneIn_spec (by decide +kernel)

theorem witness_Broadcast : (({ sLane (waitLane 0 waiting77 []) with
    broadcasts := [{ source := none, wlines := [(0x4000, 1)], clines := [], cores := [0], dies := [0] }] } : State).nextBroadcast 0).isSome =
      true := by decide +kernel

/-! #### Deferred effects and copies -/

/-- What holds of the value an engine read or wrote, and of the state it left. -/
def reached {α : Type} (x : Reach α × State) (q : α → State → Bool) : Bool :=
  match x with
  | (.ok v, t) => q v t
  | _ => false

/-- The state whose lane has one deferred effect. -/
def sDefer (k : DeferredKind) : State := sLane (deferLane k)

/-- Ring 15 of the lane, active with three of its four slots free; ring 0 idle. -/
def ringed (l : Lane) : Lane :=
  { l with rings := listSet l.rings 15 (fun (_ : Ring) => { state := .active, free := 3, slots := 4, tiles := 1 }) }

/-- An S store to device memory, a store and an addition at host port 0, whose links are up; a copy at the last dray. -/
theorem witness_DeferredEffects_stores :
    ((sDefer (.sStore 0x100000 0x100000 1 [(5, 255)] .core)).copyLocked 0x100000 = false ∧ State.reset.linkUp 0x100000 = true) ∧
    (sDefer (.hostStore 0x110008 0x1000000000008 [(5, 255)])).linkUp 0x1000000000008 = true ∧
    ((sDefer (.hostAdd 0x110008 0x1000000000008 8 1)).headDeferred 0 0).map (·.kind) = some (.hostAdd 0x110008 0x1000000000008 8 1) ∧
    ({ sDefer (.sStore (2 ^ 44) (2 ^ 44) 1 [(5, 255)] .core) with cxl := [] } : State).linkUp (2 ^ 44) = false ∧
    (sDefer (.copy copyWords 0x100 none)).drayFree 15 6 = true ∧ (sDefer (.copy copyWords 0x100 none)).drayFree 15 7 = false := by
  decide +kernel

/-- Credit for an active ring, which saturates at its slots, and for an idle one. -/
theorem witness_DeferredEffects_credit :
    ((sLane (ringed (deferLane (.credit 15 256)))).lane? 0 0).map (fun l => (l.rings[15]?, l.rings[0]?.map (·.state))) =
      some (some { state := .active, free := 3, slots := 4, tiles := 1 }, some .idle) ∧
    min 4 (3 + 256) = 4 := by decide +kernel

/-- A new thread in slots that are free; the packet runs. -/
theorem witness_DeferredEffects_spawn :
    let s := sDefer (.spawn 4 (some 1) none none 78)
    (decide (s.slotsUsed 0 + s.declared 0 ≤ 65536 ∧ (s.residents 0).length < 4096) && !s.needsBefore 0 &&
      (s.headDeferred 0 0).isSome && (match s.createThread 0 0 78 (s.declared 0) [some 1, none, none] (.waiting 4 false) with
       | .ok t => ((t.lane? 0 0).bind (fun l => l.thread? 78)).isSome
       | _ => false)) = true ∧
    ((sDefer (.cfginv false 0x200000 4096 (some 0))).ctx? 0).bind (·.kernelPacket?) = some launch0 := by decide +kernel

/-- An invalidation of the image's first page, whose translation answers. -/
theorem witness_DeferredEffects_cfginv :
    reached ((sDefer (.cfginv false 0x200000 4096 (some 0))).refreshImage 0 launch0 false 0x200000 4096) (fun _ _ => true) = true := by
  decide +kernel

/-- A read of index 0 on its way, and a gather not yet returned. -/
def onItsWay (r : Run) : Run :=
  { r with
    outstanding := [{ idx := 0, gen := 0, val := 9, deps := [], kind := 0, pa := 0x100008, va := 0x100008, also := [] }]
    gathers := [{ ticket := 0, idx := 0, gen := 0, val := 3, pa := 0x100000, va := 0x100000, returned := false, received := false, deps := [] }] }

theorem witness_DeferredEffects_returns : ∃ p, (sceneWith (wordO 0x78 0 0) [(.a, some 0x100008)] onItsWay id).spot? cur77 = some p ∧
    (decide ((sceneWith (wordO 0x78 0 0) [(.a, some 0x100008)] onItsWay id).lanes.map (·.passes) = [[p.pass]]) &&
      (p.run.outstanding.find? (fun o => o.idx = 0)).isSome && ((p.block.instr? 0).bind (·.fields?)).isSome &&
      decide (p.run.gathers.map (·.returned) = [false])) = true := by
  have h : ((sceneWith (wordO 0x78 0 0) [(.a, some 0x100008)] onItsWay id).spot? cur77).any (fun p =>
      decide ((sceneWith (wordO 0x78 0 0) [(.a, some 0x100008)] onItsWay id).lanes.map (·.passes) = [[p.pass]]) &&
      (p.run.outstanding.find? (fun o => o.idx = 0)).isSome && ((p.block.instr? 0).bind (·.fields?)).isSome &&
      decide (p.run.gathers.map (·.returned) = [false])) = true := by decide +kernel
  exact Option.any_eq_true _ _ |>.mp h

/-- A copy of thread 77 in a stage. -/
def copyOf (ws : List Word) (st : CopyStage) : Copy :=
  { id := 0, ctx := 0, core := 0, tidx := 77, words := ws, info := 0x100, flag := some 0, packet := none, die := 15, dray := 6
    stage := st, leaveWait := 4096, leave := false, tile := 0, published := 0, cause := 0, faultAddr := 0 }

/-- A state with one copy. -/
def sCopy (c : Copy) : State := { sLane (ringed (waitLane 0 waiting77 [])) with copies := [c] }

/-- A copy that waits for leave, as long as it may. -/
theorem witness_CopyEvents_leave : (sCopy (copyOf copyWords .waitingLeave)).copy? 0 = some (copyOf copyWords .waitingLeave) ∧
    (copyOf copyWords .waitingLeave).leaveWait = 4096 := by decide +kernel

/-- A copy whose ranges register: nothing else is locked. -/
theorem witness_CopyEvents_register :
    let c := copyOf copyWords .waitingLock
    (!(sCopy c).earlierCopy c && reached ((sCopy c).physRanges 0 .load (rowPieces 0x100000 0 1 64)) (fun src t =>
      reached (t.physRanges 0 .store (rowPieces 0x100800 0 1 64)) (fun dst u =>
        let ls : List RangeLock := [{ owner := .copy 0, ctx := 0, source := true, ranges := (deviceOnly src).map (·.2) },
          { owner := .copy 0, ctx := 0, source := false, ranges := (deviceOnly dst).map (·.2) }]
        decide (src.map (·.2.2) = [(0x100000, 64)] ∧ dst.map (·.2.2) = [(0x100800, 64)]) &&
          dst.all (fun d => !rangesMeet [d.2.2] (src.map (·.2.2))) && ls.all (fun x => u.locks.all (fun y => !x.conflicts y)) &&
          u.lockRoom ls && !u.lockWaitsSolo ls && (u.takeGrants (.copy 0) (ls.flatMap (·.dies))).1 &&
          -- a lock of the source as a destination is in the way
          ls.any (fun x => x.conflicts { owner := .copy 1, ctx := 0, source := false, ranges := [(0x100000, 64)] })))) = true ∧
    c.param.mode = 0 := by decide +kernel

/-- Two pages of one frame: the ranges share their bytes. -/
theorem witness_CopyEvents_shared :
    let c := copyOf [0x100000, 0x300000, 64, 0, 0, 0, 0, 0] .waitingLock
    let s : State := { sCopy c with mem := Memory.writeBytes tables0 0x90180 [0x33, 0, 0x10] }
    reached (s.physRanges 0 .load (rowPieces 0x100000 0 1 64)) (fun src t =>
      reached (t.physRanges 0 .store (rowPieces 0x300000 0 1 64)) (fun dst _ =>
        decide (dst.map (·.2) = [(0x300000, 0x100000, 64)]) && rangesMeet [(0x100000, 1)] (src.map (·.2.2)))) = true := by decide +kernel

/-- Source and destination rows of which the second destination row is the first that shares bytes, from its third byte on. -/
theorem witness_CopyEvents_shared_later :
    let src : List (Nat × Nat) := [(0x1042, 8)]
    rangesMeet [(0x1000, 64)] src = false ∧ rangesMeet [(0x1040, 64)] src = true ∧ rangesMeet [(0x1040 + 2, 1)] src = true ∧
    ∀ j, j < 2 → rangesMeet [(0x1040 + j, 1)] src = false := by decide

/-- A copy whose rows move. -/
theorem witness_CopyEvents_move :
    let c := copyOf copyWords .moving
    let m := State.moveRows ((sCopy c).copySight c) (sCopy c) 0 c.param (List.range 1)
    m.1.waits = false ∧ m.1.fault = none ∧ m.1.bytes = 64 ∧ (m.2.mayCommit (.copy 0) m.1.pieces).1 = true ∧
    (copyOf copyWords .moving).param.nrows = 1 := by decide +kernel

/-- A MODE 1 copy of two tiles of 64 bytes into ring 15 of two slots at bank 0. -/
def ringWords : List Word := [0x100000, 0, 0x100000040, 64, 0x100800, 7, 8, 0x3C000005]

theorem witness_CopyEvents_tile :
    let c := copyOf ringWords .moving
    copyFieldsOk ringWords = true ∧ c.param.mode = 1 ∧ c.param.tiles = 2 ∧ (sCopy c).ringOf c =
      some { state := .active, free := 3, slots := 4, tiles := 1 } ∧
    reached ((sCopy c).tileBytes c 0) (fun bytes t =>
      !t.soloReads ((scratchLines 0 0 bytes.length).map (·.1)) &&
        reached (t.writeWord (.copy 0) 0 0x100800 (7 + 1)) (fun _ _ => true)) = true := by decide +kernel

/-- A MODE 1 copy without a completion word whose tile begins 32 bytes before the page at 0x120000, which is not there. -/
def cutWords : List Word := [0x11FFE0, 0, 0x100000040, 64, 0, 0, 0, 0x3C000005]

/-- It faults 32 bytes into its tile, with credit or with none. -/
theorem witness_CopyEvents_tile_fault :
    let c := copyOf cutWords .moving
    c.param.mode = 1 ∧ c.param.cwaddr = 0 ∧ (sCopy c).mustStop c = false ∧
    ((sCopy c).ringOf c).map (·.free) = some 3 ∧
    (({ (sCopy c) with lanes := (sCopy c).lanes.map (fun (l : Lane) => l.updRing 15 (fun r => { r with free := 0 })) } : State).ringOf c).map
      (·.free) = some 0 ∧
    (match (sCopy c).tileRead c c.tile with
     | (.bad cause a, part, _) => decide (cause = 0x082 ∧ a = 0x120000 ∧ part.length = 32) &&
         !(sCopy c).soloReads ((scratchLines 0 0 part.length).map (·.1))
     | _ => false) = true ∧
    ((sCopy c).copyFault c).map (fun x => (x.tile.map (·.length), x.bytes)) = some (some 32, 32) ∧
    ((sCopy c).mayCommit (.copy 0) []).1 = true := by decide +kernel

/-- A MODE 2 copy into the FIFO of bank 1, of two entries, of which the FIFO has none. -/
def fifoWords : List Word := [0x100000, 1, 16, 0, 0, 0, 0, 2]

/-- The state with a copy, bank 1 in mode FIFO with room for one entry. -/
def sFifoCopy (c : Copy) : State :=
  { sCopy c with cores := (sCopy c).cores.map (fun (k : CoreState) => k.updBank 1 (fun (b : Bank) => { b with mode := .fifo, geom := 0 })) }

theorem witness_CopyEvents_entry :
    let c := copyOf fifoWords .moving
    copyFieldsOk fifoWords = true ∧ (sFifoCopy c).copyBanksOk 0 0 c.param = true ∧ c.param.mode = 2 ∧ c.param.total = 16 ∧
    ((sFifoCopy c).fifo? 0 (.bank 0 1)).map (fun x => decide (x.1.length < x.2)) = some true ∧ ((sFifoCopy c).acceptToken 0 0).isSome = true ∧
    reached ((sFifoCopy c).entryBytes c) (fun _ _ => true) = true := by decide +kernel

/-- A copy that writes its word; one whose source faults; one that has a record to append. -/
theorem witness_CopyEvents_word_fail_record :
    reached ((sCopy (copyOf ringWords .word)).writeWord (.copy 0) 0 0x100800 7) (fun _ _ => true) = true ∧
    ((sCopy (copyOf [0x120000, 0x100800, 64, 0, 0, 0, 0, 0] .moving)).copyFault (copyOf [0x120000, 0x100800, 64, 0, 0, 0, 0, 0] .moving)).map
      (fun x => (x.cause, x.addr, x.tile, x.bytes)) = some (0x082, 0x120000, none, 0) ∧
    ((sCopy (copyOf [0x120000, 0x100800, 64, 0, 0, 0, 0, 0] .moving)).mayCommit (.copy 0) []).1 = true ∧
    ((sCopy (copyOf copyWords .record)).appendRecord (.copy 0) 0 { kind := 0, cause := 0, bytes := 0, core := 0, tidx := 77, addr := 0 }).1 = true := by
  decide +kernel

/-! #### Shootdowns, migrations, links, accesses from outside, queues -/

/-- A shootdown of the page at 0x100000. -/
def shoot0 (b : Bool) (x : ShootStarter) : Shootdown :=
  { id := 0, ctx := 0, all := false, page := 16, pages := 1, starter := x, broadcast := b }

/-- A state with one shootdown, and a translation of its page and of the next. -/
def sShoot (d : Shootdown) : State :=
  { sLane (waitLane 0 waiting77 []) with
    shootdowns := [d]
    tlb := [{ ctx := 0, page := 16, level := 2, entry := 0 }, { ctx := 0, page := 17, level := 2, entry := 0 }] }

/-- An S store to page 16 that is still due. -/
def sDue : State :=
  { sShoot (shoot0 false .register) with
    lanes := [{ waitLane 0 waiting77 [] with deferred := [{ id := 0, tidx := 77, idx := 0, kind := .sStore 0x100000 0x100000 1 [(5, 255)] .core, before := [] }] }] }

/-- A shootdown that may start, and one that a store of its page keeps waiting. -/
theorem witness_Shootdowns_start :
    (let u := (sShoot (shoot0 false .register)).takeTlbinv 0 0
     u.soloUses (shoot0 false .register) = false ∧ u.storesDue (shoot0 false .register) = false ∧
     u.soloReads ((shoot0 false .register).mark.toList.map (· / 64)) = false ∧ (u.takeGrants (.shootdown 0) (List.range 16)).1 = true) ∧
    (sDue.takeTlbinv 0 0).storesDue (shoot0 false .register) = true := by decide +kernel

theorem witness_Shootdowns :
    (((sShoot (shoot0 false .register)).takeTlbinv 0 0).shootdowns.find? (fun d => d.ctx = 0 && !d.broadcast) = some (shoot0 false .register) ∧
      ((sShoot (shoot0 false .register)).takeTlbinv 0 0).soloUses (shoot0 false .register) = false) ∧
    (sShoot (shoot0 true (.thread 0 77 (some 0)))).drainsFor (shoot0 true (.thread 0 77 (some 0))) = false ∧
    ((sShoot (shoot0 false .register)).tlb.map (shoot0 false .register).meetsEntry) = [true, false] := by decide +kernel

/-- A page at 0x300000 behind CXL port 0, marked migrate-on-touch; the tables and three frames of the fast tier in the ranges. -/
def migContext : Context :=
  { context0 [launch0] with ranges := [rangeWord 4 4, rangeWord 8 2, rangeWord 0x30 1, rangeWord (2 ^ 28) 1] }

/-- A migration of that page. -/
def mig0 (dest : Option Nat) : Migration :=
  { id := 0, ctx := 0, va := 0x300000, oldPa := 2 ^ 44, big := false, dest := dest, locked := dest.isSome, parked := [(0, 77, 0, 0x300000)] }

/-- The state with that migration. -/
def sMig (dest : Option Nat) : State :=
  { sLane (waitLane 0 { thread77 with place := .migrating 3 0 } []) with
    contexts := [migContext]
    mem := Memory.writeBytes tables0 0x90180 [0x33, 0x01, 0, 0, 0, 0x10]
    integrity := [{ first := 0, count := 2 ^ 38, key := 1, version := 0, allot := 0, failing := false, uncorrectable := false }]
    migrations := [mig0 dest] }

/-- A page that is to migrate, for the loads and stores of a thread. -/
theorem witness_parks_on_a_migration :
    let s := { sceneMem (wordO 0x78 0 0) (ab 0x300008 5) with
      contexts := [migContext], mem := (sMig none).mem, integrity := (sMig none).integrity }
    (match (translate s 0 0x300008 .load).1, (translate s 0 0x300008 .store).1 with
     | .mot pa _, .mot pa' _ => decide (pa = 2 ^ 44 + 8 ∨ pa = 2 ^ 44) && decide (pa' = pa)
     | _, _ => false) = true := by decide +kernel

/-- A frame is picked, whatever the free choice, when none is in use. -/
theorem pickFrame_of_unused {s : State} {c : Context} {m : Migration} {n : Nat}
    (h : ((c.fastFrames m.size).map (·.2)).foldl (· + ·) 0 = n + 1)
    (hu : ∀ k < n + 1, s.frameUsed c (frameAt m.size (c.fastFrames m.size) k) m.size = false) :
    ∃ f, s.pickFrame c m = (some f, (s.choose (n + 1)).2) := by
  have hk := hu ((s.choose (n + 1)).1 % (n + 1)) (Nat.mod_lt _ (Nat.succ_pos n))
  refine ⟨frameAt m.size (c.fastFrames m.size) ((s.choose (n + 1)).1 % (n + 1)), ?_⟩
  · have hm : min (n + 1) ((s.leaves c).length * 8193 + s.migrations.length + 1) =
        min n ((s.leaves c).length * 8193 + s.migrations.length) + 1 := by omega
    unfold State.pickFrame
    simp only [h, Nat.succ_ne_zero, ↓reduceIte, hm, State.freeFrame, hk, Bool.false_eq_true]

/-- A request without a frame is given one, whatever the free choice. -/
theorem witness_MigrationStart_frame : ∃ frame, (sMig none).assignFrame (mig0 none) =
    ((sMig none).choose 7).2.updMigration 0 (fun m => { m with dest := some frame }) := by
  obtain ⟨f, hf⟩ := pickFrame_of_unused (s := sMig none) (c := migContext) (m := mig0 none) (n := 6) (by decide +kernel) (by decide +kernel)
  refine ⟨f, ?_⟩
  have hc : (sMig none).ctx? (mig0 none).ctx = some migContext := by rfl
  have hd : (mig0 none).dest = none := rfl
  unfold State.assignFrame
  simp only [hd, hc, hf]
  rfl

/-- A request that has its frame starts, at its die and with its lock. -/
theorem witness_MigrationStart :
    let m : Migration := { mig0 none with dest := some 0x300000 }
    let t := ({ sMig none with migrations := [m] } : State).assignFrames
    let lock : RangeLock := { owner := .migration 0, ctx := 0, source := true, ranges := [(2 ^ 44, 65536)] }
    t.migrations = [m] ∧ t.locks = [] ∧ t.underWay m = true ∧ t.lockRoom [lock] = true ∧ t.lockWaitsSolo [lock] = false ∧
    t.linkUp (2 ^ 44) = true ∧ m.lost = false ∧ (t.takeGrants (.migration 0) lock.dies).1 = true := by decide +kernel

/-- The source of a copy is in the way of the migration of its page (R258). -/
theorem witness_MigrationStart_waits :
    ({ owner := .migration 0, ctx := 0, source := true, ranges := [(2 ^ 44, 65536)] } : RangeLock).conflicts
      { owner := .copy 0, ctx := 0, source := true, ranges := [(2 ^ 44 + 64, 64)] } = true := by decide

theorem witness_MigrationCommit :
    ((sMig (some 0x300000)).migrationLeaf migContext (mig0 (some 0x300000))).map (fun l => (l.at_, l.level)) = some (0x90180, 2) ∧
    (sMig (some 0x300000)).pageFault (mig0 (some 0x300000)) 1 = none ∧ (sMig (some 0x300000)).storesTo (2 ^ 44) 65536 = false ∧
    (sMig (some 0x300000)).soloHolder = none ∧ ((sMig (some 0x300000)).takeGrants (.migration 0) (List.range 16)).1 = true ∧
    (State.migrationLeaf { sMig (some 0x300000) with mem := tables0 } migContext (mig0 (some 0x300000))) = none := by decide +kernel

/-- A request of a context without fast pages (reason 2), and a page whose link is lost (reason 7); a record can be appended. -/
theorem witness_MigrationFail :
    (State.migrationFails { sMig none with contexts := [{ migContext with ranges := [rangeWord (2 ^ 28) 1] }] } (mig0 none) 2) = true ∧
    (State.migrationFails { sMig none with cxl := [{ up := false, reported := 0, retrains := 0 }] } (mig0 none) 7) = true ∧
    ((sMig none).appendRecord (.migration 0) 0 { kind := 1, cause := 0x087, bytes := 0, core := 0, tidx := 0, addr := 0x300000 }).1 = true := by
  decide +kernel

/-! #### Links, accesses from outside, queues -/

/-- A link that is down with one retraining left, one with none left; ports that exist, up and down. -/
theorem witness_Links :
    State.reset.cxl[3]?.map (·.up) = some true ∧ State.reset.hosts[1]?.map (·.up) = some true ∧
    State.reset.couplers[15]?.map (·.up) = some true ∧ State.reset.sessions[15]?.isSome = true ∧
    (({ State.reset with cxl := List.replicate 4 { up := false, reported := 0, retrains := 2 } } : State).cxl[3]?).map (·.retrains) = some 2 ∧
    (({ State.reset with couplers := List.replicate 16 { up := false, retrains := 3 } } : State).couplers[15]?).map (·.retrains) = some 3 ∧
    (State.reset.taratAt 0).linkRetry = 3 ∧ (State.reset.taratAt 1).linkRetry = 3 := by decide +kernel

/-- A shootdown whose mark is still to be set keeps a link down; without one, and with no pages behind it, the link comes up. Session
links with a line sent again, and before their re-key. -/
theorem witness_Links_marks :
    (let s : State := { sMig none with cxl := [{ up := false, reported := 0, retrains := 0 }] }
     (∀ d ∈ s.shootdowns, d.mark = none ∨ d.broadcast = true) ∧ (s.cxl[0]?).map (·.missed) = some [] ∧
     (∀ c ∈ s.contexts, s.lateMarks { s with cxl := trainLink 3 0 s.cxl } 0 0 c = [])) ∧
    (let s : State := { sLane (waitLane 0 waiting77 []) with cxl := [{ up := false, reported := 0, retrains := 2, missed := [(0, 0)] }] }
     ∀ c ∈ s.contexts, s.lateMarks { s with cxl := trainLink 3 0 s.cxl } 0 0 c = []) ∧
    (∃ d ∈ (sShoot { shoot0 false .linkLoss with mark := some 0x90180 }).shootdowns, d.mark ≠ none ∧ d.broadcast = false) ∧
    (State.reset.sessions[15]?).map (·.counterWrite) = some 0 ∧
    ({ keyGen := 1, counterRead := 0, counterWrite := 0, kept := [(2, false)] } : SessionLink).resent = [0] := by decide +kernel

/-- Context 0 with an aperture open onto it, in the first function of port 0: address bits above 36 are 0. -/
def sOutside : State :=
  let s := sLane (waitLane 0 waiting77 [])
  { s with
    functions := listSet s.functions 0 (fun (f : Function) => { f with aps := [2 ^ 63, 0, 0, 0] })
    posted := [{ port := 16, ctx := some 0, pa := 0x100040, key := 1, bytes := List.replicate 64 (1, 255) }] }

theorem witness_OutsideAccesses :
    (sOutside.posted.find? (fun w => w.port = 16)).map (fun w => (sOutside.lockedFor w.pa true, sOutside.soloReads [w.pa / 64])) =
      some (false, false) ∧
    sOutside.hostReaches 0 0 = true ∧ sOutside.throughAperture 0 0 0 0x100000 = some (0, 0x100000) ∧
    sOutside.portWaits 16 = true ∧ ({ sOutside with posted := [] } : State).portWaits 16 = false ∧ sOutside.portWaits 0 = false ∧
    (sOutside.posted.map (fun w => (w.read.isNone, reached (sOutside.postedPlace w) (fun x _ => decide (x = (0x100040, 1, .device)))))) =
      [(true, true)] ∧ (sOutside.mayCommitLines (.port 16) [0x100040 / 64]).1 = true ∧
    sOutside.throughAperture 0 0 3 0 = none ∧ sOutside.throughAperture 1 0 0 0 = none ∧
    reached (sOutside.readVa 0 0x100000 8 .load true) (fun bs _ => decide (bs.length = 8)) = true ∧
    (match sOutside.writeVa 0 0x100000 (leBytes 8 5) .store false with
     | (.ok _, _, _) => true
     | _ => false) = true ∧
    (lineSpans 0x100000 64).all (fun x => !sOutside.lockedFor x.1 false && sOutside.devicePresent x.1 && sOutside.blockReadable x.1) = true ∧
    (sOutside.ctx? 0).map (fun c => (c.page.invBusy, c.func)) = some (false, 0) ∧ (sOutside.func? 1 31).isSome = true ∧
    (0x7FF8 : Nat) < 0x8000 ∧ 0x7FF8 % 8 = 0 ∧ (0xFFF8 : Nat) < 0x10000 := by decide +kernel

/-- Reads of IDENT, of CTXCMD and of a page whose context another function made. -/
theorem witness_OutsideAccesses_registers :
    (sOutside.func? 1 31).isSome = true ∧ sOutside.identity = State.reset.identity ∧
    (sOutside.ctx? 0).map (fun c => decide (c.func ≠ 32 * 1 + 31)) = some true ∧
    ({ sOutside with moves := [.registerRead 1 31 (0x10000 + 0x7FF8)] } : State).moves =
      .registerRead 1 31 (0x10000 + 0x8000 * 0 + 0x7FF8) :: [] := by decide +kernel

/-- Context 0 with queue 15 enabled at 0x100000, its last of 16 packets not yet taken, and the packets given. -/
def queueContext (ps : List Packet) : Context :=
  { context0 ps with visit := 15, queues := List.replicate 15 Queue.reset ++ [{ Queue.reset with
      qbase := 0x100000, en := true, log2sz := 4, qwptr := 16, qrptr := 15 }] }

/-- A state with that context; the packet at 0x1003C0 is a SIGNAL that stores 9 to 0x100800. -/
def sQueueOf (ps : List Packet) : State :=
  { sLane (waitLane 0 waiting77 []) with
    contexts := [queueContext ps]
    mem := Memory.writeBytes tables0 0x1003C0 (bytesOf [6, 0, 0, 0x100800, 9, 0, 0, 0]) }

/-- The words of a SIGNAL that stores 9. -/
def signalWords : List Word := [6, 0, 0, 0x100800, 9, 0, 0, 0]

/-- A taken packet of words. -/
def taken (ws : List Word) : Packet := Packet.fresh 15 15 0 ws

theorem witness_Queues_take :
    ((queueContext []).queues[15]?).map (fun k => decide (k.en = true ∧ k.err = false ∧ k.qrptr < k.qwptr ∧
      k.packetVa k.qrptr = 0x1003C0 ∧ k.qwptr ≤ k.qrptr + 16)) = some true ∧ (queueContext []).queueFree 15 = true ∧
    (queueContext []).visit = 15 ∧ (context0 []).visit ≠ 15 ∧
    reached (((sQueueOf []).updCtx 0 (fun c => { c with visit := (15 + 1) % 16 })).readVa 0 0x1003C0 64 .load false)
      (fun bs _ => decide (leWords 8 bs = signalWords)) = true ∧ (taken signalWords).type = 6 := by decide +kernel

/-- A MEASURE packet, open and closed, with no result ranges. -/
def measureWords : List Word := [7, 0, 0x100400, 0, 0, 0, 0, 0]

/-- What a packet has measured, at chain index 1. -/
def measured1 : Measured := { n := 1, codeHash := [], argHash := [], resHash := [], desc := List.replicate 16 0 }

/-- A packet in a stage. -/
def staged (p : Packet) (st : PacketStage) : Packet := { p with stage := st }

/-- The packet of a state's context. -/
def packetIn (s : State) (q : Packet → Bool) : Bool :=
  match s.ctx? 0 with
  | some c => c.packets.any q
  | none => false

theorem witness_Measurement :
    (taken measureWords).formatOk = true ∧ (sQueueOf [taken measureWords]).takenPacket 0 15 7 = some (taken measureWords) ∧
    (match (sQueueOf [taken measureWords]).openMeasured 0 (taken measureWords) { image := none, arg := none } with
     | .ok _ => true
     | _ => false) = true ∧
    (taken [7, 0, 0x100400, 1, 0, 0, 0, 0]).formatOk = false ∧
    reached ((sQueueOf [taken measureWords]).hashResults 0 (taken measureWords) measured1.ranges) (fun hs _ => decide (hs = [[], [], [], []])) = true ∧
    ({ taken measureWords with measured := some measured1, stage := .retired } : Packet).outcome = none ∧
    ({ taken measureWords with measured := some measured1, stage := .retired, cause := some 3 } : Packet).outcome ≠ none ∧
    (queueContext [{ taken measureWords with measured := some measured1, stage := .closed }]).chainNext =
      some ({ taken measureWords with measured := some measured1, stage := .closed }, measured1) ∧
    measured1.n = (queueContext []).page.mseq + 1 := by decide +kernel

/-- A MEASURE whose descriptor lies on a page that is not there; result ranges there; a packet that failed. -/
theorem witness_Measurement_fails :
    (taken [7, 0, 0x120000, 0, 0, 0, 0, 0]).formatOk = true ∧
    (match (sQueueOf [taken [7, 0, 0x120000, 0, 0, 0, 0, 0]]).openMeasured 0 (taken [7, 0, 0x120000, 0, 0, 0, 0, 0])
        { image := none, arg := none } with
     | .bad _ cause => decide (cause = 0x082)
     | _ => false) = true ∧
    (let m : Measured := { measured1 with desc := List.replicate 8 0 ++ [0x120000, 64] ++ List.replicate 6 0 }
     match ((sQueueOf [taken measureWords]).hashResults 0 (taken measureWords) m.ranges).1 with
     | .bad cause a => decide (cause = 0x082 ∧ a = 0x120000)
     | _ => false) = true := by decide +kernel

/-- A packet that wants a waybill, closed, failed or not; the descriptor names the page at 0x100000, or one that is not there. -/
def waybillPacket (cause : Option Nat) : Packet :=
  { taken [0x2007, 0, 0x100400, 0, 0, 0, 0, 0] with measured := some measured1, stage := .closed, cause := cause }

/-- A failure is reported to its queue once. -/
theorem witness_Measurement_reported :
    let p := waybillPacket (some 3)
    let s := sQueueOf [p]
    ((s.reportFailure 0 p).ctx? 0).map (fun c => (c.packets.map (·.reported), (c.queues[15]?).map (fun k => (k.err, k.cause)))) =
      some ([true], some (true, 3)) ∧ s.reportFailure 0 { p with reported := true } = s := by decide +kernel

/-- A waybill written, whatever its bytes: the host page takes 4096 of them, a device block 128, and another page none. -/
theorem witness_Measurement_waybill :
    (waybillPacket none).wantsWaybill = true ∧ (taken measureWords).wantsWaybill = false ∧
    (queueContext [waybillPacket (some 3)]).dying = none ∧
    (queueContext [waybillPacket (some 3)]).chainNext = some (waybillPacket (some 3), measured1) ∧
    reached ((sQueueOf [waybillPacket none]).writeChecked 0 0x110000 (List.replicate 4096 1)) (fun ps t =>
      decide (ps.length ≠ 0) && (t.mayCommit (.strip 0 15) ps).1) = true ∧
    reached ((sQueueOf [waybillPacket none]).writeChecked 0 0x100000 (List.replicate 128 1)) (fun ps t =>
      decide (ps.length ≠ 0) && (t.mayCommit (.strip 0 15) ps).1) = true ∧
    (match ((sQueueOf [waybillPacket none]).writeChecked 0 0x120000 (List.replicate 4096 1)).1 with
     | .bad cause a => decide (cause = 0x092 ∧ a = 0x120000)
     | _ => false) = true := by decide +kernel

/-! #### Packets, regions, pre-emption -/

/-- An object on handle 1 with one kernel. -/
def object1 : BoundObject :=
  { handle := 1, objVa := 0x200000, dataVa := 0, imageOff := 0, imageSize := 0x10000, native := none
    kernels := [{ slots := 8, kind := 0, psize := 0, stages := [{ offset := 0, nthr := 1, name := 0, run := 0 }], edges := [] }]
    runs := [[{ blk := 3, rank := 5, stores := 4, wait := 0 }]], hashEntry := [], mapBase := 0, mapCount := 0 }

/-- A LAUNCH of that kernel for one thread on a region of 1 by 1, and one of a handle that is free. -/
def launchWords (h : Word) : List Word := [0x601, 0, 0, 0x100000001, 1, 0, h, 0]

/-- A state with an object, the packets and the regions given. -/
def sPackets (ps : List Packet) (rs : List Region) : State :=
  { sQueueOf ps with contexts := [{ queueContext ps with objects := [object1] }], regions := rs }

/-- The region of context 0 on core 0, shared with another or not. -/
def region0 (b : Option Nat) : Region := { row := 0, col := 0, h := 1, w := 1, holder := 0, sharer := b, heldCycles := 2 ^ 26 }

/-- A lane of the second core of a region of two, at gate opening. -/
theorem witness_EveryThreadIsDealtOnce : (taken (launchWords 1)).type = 1 ∧
    positionOf (Lane.reset 1 0 SysRegs.reset).core ({ region0 none with w := 2 } : Region).cores < 1 * 2 := by decide +kernel

theorem witness_Packets_begin :
    (taken (launchWords 1)).formatOk = true ∧ (taken (launchWords 1)).isMeasured = false ∧ (taken (launchWords 1)).shape = (1, 1) ∧
    (match ({ queueContext [] with objects := [object1] } : Context).kernelOf (taken (launchWords 1)) with
     | .ok (_, k) => decide (k.psize = 0)
     | .error _ => false) = true ∧
    (match ({ queueContext [] with objects := [object1] } : Context).kernelOf (taken (launchWords 2)) with
     | .ok _ => false
     | .error _ => true) = true ∧
    (sPackets [taken (launchWords 1)] []).region? 0 = none ∧ (sPackets [] [region0 none]).region? 0 = some (region0 none) ∧
    (taken [1, 0, 0, 0x100000001, 1, 0, 1, 0]).formatOk = false ∧
    reached ((sPackets [taken (launchWords 1)] []).imageNow 0 object1) (fun x _ => decide (x.1 = [(0x200000, 0x10000)])) = true ∧
    (let p := ({ staged (taken (launchWords 1)) .loading with
        image := (0x200000, 0x10000), slots := 8, stages := [{ offset := 0, nthr := 1, name := 0, run := 0 }]
        runs := [[{ blk := 3, rank := 5, stores := 4, wait := 0 }]] } : Packet);
      decide (({ queueContext [p] with objects := [object1] } : Context).kernelPacket? = some p) &&
        ((sPackets [p] [region0 none]).openGates 0 (region0 none) p).1) = true := by decide +kernel

/-- A LAUNCH of a kernel with a parameter block of 64 bytes at 0x100000; one whose block is on a page that is not there; and one that
is measured, which waits for its opening, or fails in it. -/
theorem witness_Packets_begin_forms :
    (taken [0x601, 0, 0, 0x100000001, 1, 0x100000, 1, 0]).formatOk = true ∧
    reached ((sPackets [taken (launchWords 1)] []).translates 0 .load (pagePieces 0x100000 64)) (fun _ _ => true) = true ∧
    (match ((sPackets [taken (launchWords 1)] []).translates 0 .load (pagePieces 0x120000 64)).1 with
     | .bad cause _ => decide (cause = 0x082)
     | _ => false) = true ∧
    (let p := taken [0x2601, 0, 0x120000, 0x100000001, 1, 0, 1, 0]
     p.formatOk = true ∧ p.isMeasured = true ∧
     (match (sPackets [p] []).openMeasured 0 p { image := some (0x200000, 0x10000, []), arg := some (0, 0) } with
      | .bad _ cause => decide (cause = 0x082)
      | _ => false) = true) := by decide +kernel

/-- A dray is picked, whatever the free choice, when one is free. -/
theorem pickDray_of_free {s : State} (h : (((List.range 112).map (fun n => (n / 7, n % 7))).filter
    (fun d => s.drayFree d.1 d.2)).length ≠ 0) : ∃ d t, s.pickDray = (some d, t) := by
  have hlt := Nat.mod_lt (Config.freeChoice s.freeCtr) (Nat.pos_of_ne_zero h)
  have he : (((List.range 112).map (fun n => (n / 7, n % 7))).filter (fun d => s.drayFree d.1 d.2)).isEmpty = false := by
    cases hl : ((List.range 112).map (fun n => (n / 7, n % 7))).filter (fun d => s.drayFree d.1 d.2) with
    | nil => exact absurd (congrArg List.length hl) h
    | cons a l => rfl
  unfold State.pickDray
  simp only [he, Bool.false_eq_true, ↓reduceIte]
  exact ⟨_, _, Prod.ext (List.getElem?_eq_getElem hlt) rfl⟩

theorem witness_Packets_copy : (taken [0x603, 0, 0, 0x1003C0, 0, 0, 0, 0]).formatOk = true ∧
    reached (({ sQueueOf [] with mem := Memory.writeBytes tables0 0x1003C0 (bytesOf copyWords) } : State).readVa 0 0x1003C0 64 .load false)
      (fun bs _ => decide (leWords 8 bs = copyWords)) = true ∧ copyFieldsOk copyWords = true ∧ (CopyParam.ofWords copyWords).mode = 0 ∧
    ∃ d t, (sQueueOf []).pickDray = (some d, t) :=
  ⟨by decide +kernel, by decide +kernel, by decide +kernel, by decide +kernel, pickDray_of_free (by decide +kernel)⟩

/-- A BARRIER-AND on the signal at 0x100800; memory in which it is zero, 5, and aborted. -/
def barrierWords : List Word := [4, 0, 0, 0x100800, 0, 0, 0, 0]

/-- The reading of that signal. -/
def signalRead (v : Nat) : Reach (List Word × List Nat × Bool) × State :=
  ({ sQueueOf [] with mem := Memory.writeBytes tables0 0x100800 (leBytes 8 v) } : State).readSignals 0 (taken barrierWords).signals

theorem witness_Packets_barrier : (taken barrierWords).formatOk = true ∧
    reached (signalRead 0) (fun x _ => decide (x.1 = [0])) = true ∧ reached (signalRead 5) (fun x _ => decide (x.1 = [5])) = true ∧
    reached (signalRead (2 ^ 63)) (fun x _ => decide (x.1.find? (fun v => v.msb) = some (2 ^ 63))) = true ∧
    reached ((sQueueOf []).readSignals 0 (taken [5, 0, 0, 0, 0, 0, 0, 0]).signals) (fun x _ => decide (x.1 = [])) = true ∧
    (taken signalWords).formatOk = true ∧
    reached ((sQueueOf [taken signalWords]).updateSignal 0 15 0x100800 (.store 9)) (fun _ _ => true) = true := by decide +kernel

theorem witness_Packets_retire :
    ({ sPackets [staged (taken (launchWords 1)) .running] [region0 none] with lanes := [] } : State).kernelDone 0
      (staged (taken (launchWords 1)) .running) = true ∧
    (sPackets [staged (taken (launchWords 1)) .stopped] [region0 none]).engineWork 0 = false := by decide +kernel

/-- A request of a context that waits for its region, and of one whose packet was pre-empted. -/
def request (h w : Nat) (resume : Bool) : RegionReq := { ctx := 0, h := h, w := w, waited := 2 ^ 26, resume := resume }

/-- The state with that request, context 0 having the packet given, context 1 the region of core 0. -/
def sRegion (r : RegionReq) (p : Packet) (rs : List Region) : State :=
  { sPackets [p] rs with
    regionQueue := [r]
    contexts := [{ queueContext [p] with save := some { cores := [], h := 1, w := 1, areas := [] } },
      { context0 [] with num := 1, keys := [] }] }

/-- Context 1's region. -/
def region1 : Region := { region0 none with holder := 1 }

theorem witness_Regions_assign :
    let p := staged (taken (launchWords 1)) .wantRegion
    (sRegion (request 1 1 false) p [region1]).requestPacket? (request 1 1 false) = some p ∧
    (sRegion (request 1 1 false) p [region1]).freeRect 1 1 0 = some { region0 none with col := 1, heldCycles := 0 } ∧
    (sRegion (request 32 32 false) p [region1]).freeRect 32 32 0 = none ∧
    (sRegion (request 32 32 false) p [region1]).soundRect 32 32 0 = some { region0 none with h := 32, w := 32, heldCycles := 0 } := by decide +kernel

/-- All cores held by context 1, of the same domain, whose core 0 alone is looked at: its banks are in mode CACHE. -/
theorem witness_Regions_share :
    let p := staged (taken (launchWords 1)) .wantRegion
    let whole : Region := { region1 with row := 31, col := 31 }
    let rest : Region := { region1 with holder := 2, h := 31, w := 32 }
    let last : Region := { region1 with holder := 3, row := 31, w := 31 }
    let t := sRegion (request 1 1 false) p [rest, last, whole]
    let s : State := { t with cores := [CoreState.reset 1023], contexts := t.contexts.map (fun (c : Context) => { c with domain := 1 }) }
    s.freeRect 1 1 0 = none ∧ s.shareable (request 1 1 false) = some whole := by decide +kernel

theorem witness_Regions_handover :
    let p := staged (taken [0x601, 0, 0, 0x100000001, 0x100000001, 0, 1, 0]) .wantRegion
    (sRegion (request 1 1 false) p [region0 (some 1)]).region? 0 = some (region0 (some 1)) ∧ p.shape ≠ (1, 1) ∧
    2 ^ State.reset.tarat.quantum ≤ (request 1 1 false).waited ∧ (request 1 1 false).waited - 1 < 2 ^ State.reset.tarat.quantum := by
  decide +kernel

/-- A frozen context whose region has no core, so that its save writes nothing. -/
theorem witness_Regions_save :
    let p := staged (taken (launchWords 1)) .running
    let s := { sPackets [p] [{ region0 none with h := 0 }] with
      contexts := [{ queueContext [p] with preempt := true, frozen := true }] }
    (s.takeGrants (.strip 0 17) (List.range 16)).1 = true ∧
    (match s.ctx? 0, s.region? 0 with
     | some c, some r => s.maySave 0 r c && decide (c.kernelPacket? = some p) && (match (s.takeGrants (.strip 0 17) (List.range 16)).2.writeImages 0 1 c.regs (List.range r.cores.length) with
       | .ok _ _ => true
       | _ => false)
     | _, _ => false) = true ∧
    (sPackets [p] [region0 none]).quiescent 0 = false := by decide +kernel

/-- A saved packet whose images check, and one with an image that no page holds. -/
theorem witness_Regions_resume :
    let p := staged (taken (launchWords 1)) .preempted
    let s := { sRegion (request 1 1 true) p [region1] with lanes := [] }
    (match s.resumable 0, s.freeRect 1 1 0 with
     | some (_, _, sv), some rect => !s.saveTouched 0 && decide (s.checkImages (s.saveKey 0) 0 sv.areas = (some true, s)) &&
         ((s.popRegion.giveRegion rect).restore 0 p { sv with cores := [] }
           (State.loadImage (s.ctxRegs 0) (fun x => some (rect.coreAt (32 * x.dy + x.dx))))).1
     | _, _ => false) = true ∧
    (s.checkImages (s.saveKey 0) 0 [(0x120000, [1])]).1 = some false := by decide +kernel

/-- A save that an access has touched since it was made. -/
theorem witness_Regions_touched :
    let p := staged (taken (launchWords 1)) .preempted
    let s := sRegion (request 1 1 true) p [region1]
    let t : State := s.watch { ctx := 0, save := true, pa := 0x100000, len := 2 ^ 21, touched := false }
    t.saveTouched 0 = false ∧ (t.touchPhys 0x100040 1).saveTouched 0 = true ∧ (t.touchPhys 0x300000 1).saveTouched 0 = false ∧
    ((t.touchPhys 0x100040 1).resumable 0).isSome = true ∧ ((t.touchPhys 0x100040 1).freeRect 1 1 0).isSome = true := by
  decide +kernel

/-- A saved graph of 1024 stages: the whole grid is the one shape with cores enough. -/
theorem witness_Regions_relink :
    let p := ({ taken (launchWords 1) with
      words := [2], stage := .preempted, stages := List.replicate 1024 { offset := 0, nthr := 1, name := 0, run := 0 } } : Packet)
    (sRegion (request 1 1 true) p []).mayRelink p = true ∧ (sRegion (request 1 1 true) p []).relinkShapes p.stages.length 0 = [(32, 32)] ∧
    (sRegion (request 1 1 true) p []).freeRect 32 32 0 = some { region0 none with h := 32, w := 32, heldCycles := 0 } := by decide +kernel

/-- A region in which nothing has happened for 2^20 cycles. -/
theorem witness_Regions_quiescent :
    (({ sPackets [staged (taken (launchWords 1)) .running] [region0 none] with
      lanes := [{ waitLane 0 thread77 [passOf (runOf [(.b, some 1)])] with quiet := 2 ^ 20 }] } : State).quiescent 0) = true := by
  decide +kernel

/-! #### Objects, contexts, ownership -/

/-- A code object of 368 bytes (R61-R64): a NATIVE section of one kernel whose one block is an END, and its SHA-384, computed apart. -/
def objectCells : List Host.Cell :=
  [(0x0, 0x56), (0x1, 0x52), (0x2, 0x43), (0x3, 0x4F), (0x4, 0x1), (0x6, 0x2), (0x8, 0x70), (0x9, 0x1), (0x40, 0x1), (0x42, 0x1),
   (0x44, 0x1), (0x48, 0x80), (0x50, 0xA8), (0x60, 0x4), (0x68, 0x40), (0x69, 0x1), (0x70, 0x30), (0x80, 0x1), (0xC0, 0x80), (0xC8, 0x8),
   (0xCA, 0x1), (0x104, 0xA), (0x107, 0x10), (0x127, 0x15)]

/-- The hash of its image. -/
def objectHash : List Byte :=
  [0xB8, 0xD5, 0xC2, 0x48, 0x7D, 0xB0, 0xAE, 0xF4, 0xB5, 0x4D, 0x2A, 0x84, 0xF8, 0x81, 0xCE, 0xC0, 0x07, 0x29, 0x51, 0x4E, 0x96, 0xEC,
   0x52, 0x60, 0x45, 0x66, 0xF2, 0x84, 0xF7, 0xB5, 0xA0, 0x92, 0xDB, 0x1B, 0x0F, 0x5D, 0x61, 0x85, 0x51, 0x34, 0x6D, 0xFF, 0x7C, 0x65,
   0x5D, 0x31, 0x49, 0xD4]

/-- A state whose memory holds the object at 0x100000. -/
def sObject : State :=
  let s := withContext [] State.reset
  { s with mem := Memory.writeBytes (objectCells.foldl (fun m c => Memory.write m (0x100000 + c.1) c.2) s.mem) 0x100140 objectHash }

theorem witness_Objects_load :
    (match sObject.loadObject 0 255 { (context0 []).page with objVa := 0x100000 } with
     | .ok _ o => decide (o.kernels.map (·.slots) = [8] ∧ o.runs.map (fun r => r.map (·.blk)) = [[2]])
     | _ => false) = true := by decide +kernel

/-- The first PF, owned, whose record asks for a context of one key slot with its root table at 0x40000. -/
def sCreate : State :=
  { State.reset with
    firmware := { Firmware.reset with state := .owned, provision := false }
    functions := listSet State.reset.functions 0 (fun (f : Function) => { f with
      ctxrec := [0, 0x40000, 0, 0, 0, 0, 0, 0, BitVec.ofNat 64 (rangeWord 0 256), 0, 0, 0, 0, 0, 0, 0] }) }

theorem witness_ContextCommands_create :
    (sCreate.func? 0 0).map (fun f => sCreate.createStatus 0 0 f) = some 0 ∧ sCreate.freeNumber = some 0 ∧
    (sCreate.func? 0 0).map Function.busy = some false ∧ sCreate.commandRuns = false ∧ sCreate.commands = [] ∧
    (State.reset.func? 1 31).map (fun f => State.reset.createStatus 1 31 f) = some 7 ∧ State.reset.firmware.state ≠ .owned ∧
    (let s : State := { sCreate with firmware := { sCreate.firmware with provision := true } }
     (s.func? 0 0).map (fun f => s.createStatus 0 0 f) = some 7) := by
  decide +kernel

/-- A function whose command runs, and another function of the same module. -/
theorem witness_ContextCommands_waits :
    let s := sCreate.updFunc 0 0 (fun f => { f with ctxstat := 2 ^ 63 })
    (s.func? 0 0).map Function.busy = some true ∧ (s.func? 1 31).map Function.busy = some false ∧ s.commandRuns = true := by decide +kernel

theorem witness_ContextCommands_destroy : (withContext [] State.reset).mayDestroy 0 0 0 = true ∧
    (withContext [] State.reset).mayDestroy 0 1 0 = false ∧ (withContext [] State.reset).mayDestroy 1 0 63 = false := by decide +kernel

/-- A grant of one context and one key slot to VF 1, and one to VF 0. -/
def granting (vf : Word) : Function :=
  { Function.reset Partition.default 0 with ctxrec := [vf, 0x10001, 0, 0, 0, 0, 0, 0, 0, 0, 0, 0, 0, 0, 0, 0] }

theorem witness_ContextCommands_grant : State.reset.grantFaults 0 0 (granting 1) = [] ∧ State.reset.grantFaults 0 0 (granting 0) = [6] ∧
    State.reset.grantFaults 0 0 (granting 31) = [] ∧ (31 : Nat) ≠ 0 ∧ State.reset.grantFaults 0 31 (granting 0) = [8] := by decide +kernel

theorem witness_ContextCommands_die :
    (({ State.reset with sessions := List.replicate 16 { keyGen := 0, counterRead := 0, counterWrite := 3, kept := [(3, true)] } } : State).sessions[15]?).map
      (·.failures) = some 3 ∧ 15 ∉ State.reset.tarat.dieFail := by decide +kernel

/-- The PF of port 0 with an ownership record of a payload; its nonce is the one at reset. -/
def ownFunction (cmd len : Nat) (payload : List Byte) : Function :=
  { Function.reset Partition.default 0 with
    fwwin := Memory.writeBytes (Memory.writeBytes (Memory.writeBytes [] 0 (leBytes 2 cmd)) 4 (leBytes 4 len)) 64 payload }

/-- The module in a state of ownership, the next owner's hash as given. -/
def sOwn (st : OwnState) (h : List Byte) : State := { State.reset with firmware := { Firmware.reset with state := st, nextHash := h } }

/-- A command whose checks pass is refused by its signature alone, which only the signer's secret decides: a valid one is not
refused, another one is by SIGNATURE. -/
theorem ownFaults_of_ok {s : State} {port : Nat} {r : OwnRecord} {k : OwnCheck}
    (h : (decide (s.firmware.partition.ownPorts / 2 ^ port % 2 ≠ 0) && r.reserved && k.field && decide (r.nonce = s.firmware.nonce) && k.state &&
      k.hash && k.svn) = true) :
    (Config.recordSigned k.key r.signed r.sig = true → s.ownFaults port r k = []) ∧
    (Config.recordSigned k.key r.signed r.sig = false → s.ownFaults port r k = [1]) := by
  simp only [Bool.and_eq_true, decide_eq_true_eq] at h
  obtain ⟨⟨⟨⟨⟨⟨h1, h2⟩, h3⟩, h4⟩, h5⟩, h6⟩, h7⟩ := h
  constructor <;> intro hs <;> simp [State.ownFaults, h1, h2, h3, h4, h5, h6, h7, hs]

/-- A command in a state that does not list it: BADSTATE alone, whatever the signature (R359). -/
theorem ownFaults_of_state (r : OwnRecord) (k : OwnCheck) (h : k.state = false) : State.reset.ownFaults 1 r k = [2] := by
  simp [State.ownFaults, h, show State.reset.firmware.partition.ownPorts / 2 % 2 = 1 by decide]

/-- Whether every check of a command but the signature passes, for a record of PF 0. -/
def ownPasses (s : State) (f : Function) (cmd : Nat) (k : OwnRecord → OwnCheck) : Bool :=
  let r := f.ownRecord
  decide (f.command = cmd) && decide (field f.fwstat 63 1 = 0) && decide (s.firmware.waiting = none) && decide (s.firmware.partition.ownPorts / 2 ^ 0 % 2 ≠ 0) && r.reserved && (k r).field &&
    decide (r.nonce = s.firmware.nonce) && (k r).state && (k r).hash && (k r).svn

/-- A partition record that gives port 0 one key index and nothing else. -/
def partitionBytes : List Byte := [0x50, 0x41, 0x52, 0x54, 1, 0, 1, 0, 1, 2] ++ List.replicate 278 0

/-- A check in the state it needs. -/
def checking (field svn : Bool) : OwnCheck := { state := true, field := field, svn := svn, key := [], hash := true }

/-- Every command has a record that only its signature can refuse, at the bounds of its payload's length and value. -/
theorem witness_OwnershipCommands :
    ownPasses (sOwn .unowned []) (ownFunction 1 1952 []) 1 (fun r => checking (decide (1952 ≤ r.len)) true) = true ∧
    ownPasses (sOwn .owned []) (ownFunction 2 48 []) 2 (fun r => checking (decide (r.len = 48)) true) = true ∧
    ownPasses (sOwn .pending []) (ownFunction 4 0 []) 4 (fun _ => checking true true) = true ∧
    ownPasses (sOwn .owned []) (ownFunction 5 0 []) 5 (fun _ => checking true true) = true ∧
    ownPasses (sOwn .owned []) (ownFunction 6 16 (leBytes 8 (2 ^ 48))) 6 (fun r => checking (decide (r.len = 16) &&
      decide (natAt r.payload 0 8 + natAt r.payload 8 8 ≤ 2 ^ 48)) true) = true ∧
    ownPasses (sOwn .owned []) (ownFunction 7 1 [255]) 7 (fun r => checking (decide (0 < r.len) && decide (leNat r.payload < 256))
      (decide ((0 : Nat) ≤ leNat r.payload))) = true ∧
    ownPasses (sOwn .owned []) (ownFunction 8 288 partitionBytes) 8 (fun r => checking (partitionOk r.len r.payload) true) = true := by
  decide +kernel

/-- ACCEPT: the next owner's key is the one whose hash TRANSFER named. -/
theorem witness_OwnershipCommands_accept :
    let f := ownFunction 3 1952 []
    ownPasses (sOwn .pending (sha384 (f.ownRecord.payload.take 1952))) f 3 (fun r => checking (decide (1952 ≤ r.len)) true) = true ∧
    f.ownRecord.payload.length = 1952 ∧
    sha384 (f.ownRecord.payload.take 1952) = (sOwn .pending (sha384 (f.ownRecord.payload.take 1952))).firmware.nextHash :=
  ⟨by decide +kernel, by decide +kernel, rfl⟩

/-- A port that may not command ownership: DENIED alone, whatever the signature. -/
theorem witness_OwnershipCommands_denied (k : OwnCheck) :
    ({ State.reset with firmware := { Firmware.reset with partition := { Partition.default with ownPorts := 1 } } } : State).ownFaults 1
      (ownFunction 1 1952 []).ownRecord k = [6] := rfl

/-! #### The whole machine -/

/-- A null, and a predicate that does not match. -/
theorem witness_NullsAndPredicates : ((sceneOf (wordO 0x28 0 0) [(.a, some 1), (.b, none)]).spot? cur77).any (fun p =>
      (match operandSet p.block p.run 0 with
       | some (toks, _) => anyNull toks
       | none => false)) = true ∧
    ((sceneOf (wordOf 0x28 0 2 0 0 0b1000001000 0 0, 0) [(.a, some 1), (.b, some 2), (.p, some 0)]).spot? cur77).any (fun p =>
      (match operandSet p.block p.run 0 with
       | some (toks, _) => !anyNull toks && !predOk { fO with pm := .onTrue } toks
       | none => false)) = true ∧
    (Instr.add { fO with pm := .onTrue } .i32 false none).wellFormed = true := by decide +kernel

/-- An outcome is a next state. -/
def answers (o : Host.Outcome State Fault Refusal) : Bool :=
  match o with
  | .next _ => true
  | _ => false

/-- A step fires the word at the index of its move; the word decodes, and the firing answers a next state. -/
theorem witness_StepRunsTheDecodedInstruction :
    let u := sceneOf (wordO 0x01 0 0) [(.a, some 9)]
    ((u.spot? cur77).bind (fun p => p.block.words[0]?)) = some (wordO 0x01 0 0) ∧ decodeWord (wordO 0x01 0 0).1 0 = .ok (.mov fO) ∧
    answers (exec (.mov fO) { u with cur := cur77 }) = true ∧ answers (step { u with moves := [.fire 0 0 0 77 0] }) = true ∧
    answers (step { u with moves := [.event .moduleReset] }) = true ∧
    answers (step { u with moves := [.upset (.timeout 0) .moduleReset] }) = true ∧
    answers (step { u with moves := [.fire 0 0 0 77 0], mishap := some (.timeout 0) }) = true ∧
    answers (step { u with moves := [.upsetFire (.timeout 0) 0 0 0 77 0] }) = true ∧ u.moves = [] := by decide +kernel

theorem witness_MemoryStaysCanonical : State.reset.MemoryCanonical ∧ answers (step State.reset) = true :=
  ⟨rfl, by decide +kernel⟩

theorem witness_DecodeInvertsEncode : (Instr.mov fO).wellFormed = true ∧ (Instr.movx fO 5).wellFormed = true ∧ (0 : Nat) < 1024 := by decide

/-- A handler at block 3, none, and a thread that resumes to the block in which it trapped. -/
theorem witness_TrapsEnterTheHandler :
    let l := { waitLane 0 waiting77 [] with regs := { SysRegs.reset with handler := 0x2000C0 } }
    ((sLane l).handlerBlock 0 0 = some 3 ∧ waiting77.handler = none) ∧ (sLane (waitLane 0 waiting77 [])).handlerBlock 0 0 = none ∧
    (inHandler waiting77).handler ≠ none ∧ ((sLane l).ctx? 0).bind (·.kernelPacket?) = some launch0 ∧
    launch0.blockAt 0x200000 = some 0 ∧ launch0.blockAt 0x20FFC0 = some 1023 ∧ launch0.blockAt 0x210000 = none := by decide +kernel

/-! ### Well-formedness: each check refuses an ill-formed term -/

/-- Operands of class G, format RAW64. -/
def plainG : MemOps := { cls := .g, scope := .core, fmt := .raw64, cp := .normal, oe := false, disp := 0 }

/-- A predicate or a target where none may be (R300), an empty mask (R318, R319), a selector above 11 (R326). -/
theorem test_ill_formed_fields : (Instr.read { fO with pm := .onTrue } 0).wellFormed = false ∧ (Instr.write fO 0).wellFormed = false ∧
    (Instr.drop fO).wellFormed = false ∧ (Instr.endThread { fO with t0 := none, pm := .onFalse }).wellFormed = true ∧
    (Instr.test fO .any 0).wellFormed = false ∧ (Instr.setf fO 0).wellFormed = false ∧ (Instr.clrf fO 0).wellFormed = false ∧
    (Instr.sread fO 12).wellFormed = false ∧ (Instr.sread fO 11).wellFormed = true := by decide

/-- The restrictions of the memory layout (R51, R81, R195, R207, R210, R211, R214, R219, R225, R231). -/
theorem test_ill_formed_memory : (Instr.ld fO { plainG with scope := .die }).wellFormed = false ∧ (Instr.ld fO { plainG with fmt := .e2m1 }).wellFormed = false ∧
    (Instr.st fO { plainG with fmt := .i32 } .rtz).wellFormed = false ∧ (Instr.pref fO { plainG with cls := .p }).wellFormed = false ∧
    (Instr.evict fO { plainG with cp := .keep }).wellFormed = false ∧ (Instr.aadd fO { plainG with cls := .s }).wellFormed = false ∧
    (Instr.aadd fO { plainG with fmt := .fp32 }).wellFormed = false ∧ (Instr.acas fO { plainG with oe := true }).wellFormed = false ∧
    (Instr.aincw fO { plainG with fmt := .i32 }).wellFormed = false ∧ (Instr.afadd fO { plainG with fmt := .i32 } .rne).wellFormed = false ∧
    (Instr.gath fO plainG).wellFormed = false ∧ (Instr.red fO { plainG with fmt := .fp32 } .rne false .add).wellFormed = false ∧
    (Instr.red fO plainG .rtz false .add).wellFormed = false ∧ (Instr.red fO plainG .rne true .add).wellFormed = false ∧
    (Instr.waita fO .s .raw64 false .eq).wellFormed = false ∧ (Instr.waita fO .g .fp32 false .eq).wellFormed = false ∧
    (Instr.pop fO { edge := false, port := 32 } false).wellFormed = false := by decide

/-- The restrictions of the matrix, collective and copy instructions (R138, R141, R146, R151, R154, R249). -/
theorem test_ill_formed_engines : (Instr.mbld fO .g .core .e4m3 .normal false none).wellFormed = false ∧
    (Instr.mbld fO .p .die .e4m3 .normal false none).wellFormed = false ∧ (Instr.mbld fO .p .core .i32 .normal false none).wellFormed = false ∧
    (Instr.mma fO false (some 12)).wellFormed = false ∧ (Instr.mstore fO .p .core .i32 .normal false none 0 .rne).wellFormed = false ∧
    (Instr.reduce { fO with t0 := none } .fadd .n32 .rne 0).wellFormed = false ∧
    (Instr.reduce { fO with t0 := none } .add .i32 .rtz 0).wellFormed = false ∧ (Instr.copy fO .s false none).wellFormed = false ∧
    (Instr.regionAssign).wellFormed = false := by decide

/-! ### The assembler -/

/-- The word of a statement, when it has no extension word. -/
def statementWord (t : String) : Option Nat :=
  match stmtOf t.toList with
  | .ok s => some s.words.1
  | .error _ => none

/-- The worked encodings of spec/05, spec/07, spec/08 and spec/13. -/
theorem test_statements_of_the_spec :
    statementWord "n9:  MMA  F1, n7, -, n8  -> n12.c" = some 0xC1008C8000018800 ∧
    statementWord "n5:  ACAS.G.I32  n2, n3, n4  -> n8.a, n9.c" = some 0x9700882260180000 ∧
    statementWord "n4:  COPY.P  F2, n3, -, n2  -> n6.c" = some 0xD000868008019000 ∧
    statementWord "n4:  SYSWR  FILL, -, n2, n3  -> n7.c" = some 0xE300878000010010 ∧
    statementWord "n9:  HALT  0x145, -" = some 0xE700000000000345 := by decide +kernel

/-- A suffix out of order, a suffix the instruction does not take, and a format of too few bits for its value (R72, R433). -/
theorem test_statements_refused : statementWord "n5:  ACAS.I32.G  n2, n3, n4  -> n8.a" = none ∧ statementWord "n0:  END.G" = none ∧
    dataLine "I8 256".toList = .error .data ∧ dataLine "I8 255, -128".toList = .ok [255, 128] := by decide +kernel

/-- The worked kernel of R433. -/
def bumpSource : List String :=
  ["; add one to live value L0, then end", ".kernel  bumpk, slots=4, entry=bump", ".block   bump, rank=0, exits=(fin)",
   "n0:  READ     L0          -> n1.a", "n1:  ADD.I64  n0, #1      -> n2.a, n3.a", "n2:  WRITE    L0, n1",
   "n3:  EXIT     x0, n1", ".end", ".block   fin, rank=1", "n0:  END", ".end", ".end"]

/-- A source of lines read, and the NATIVE section of it. -/
def nativeOf (ls : List String) : List Byte :=
  match ls.foldlM (fun (s : AsmSource) (l : String) => s.line l.toList) ({ kernels := [], maps := [], data := [], open_ := [] } : AsmSource) with
  | .ok s => (match nativeSection s [] with
    | .ok bs => bs
    | .error _ => [])
  | .error _ => []

/-- The headers of the worked kernel of R433: the blocks stand at bytes 128 and 192. -/
theorem test_headers_of_bump : (nativeOf bumpSource).length = 256 ∧
    leNat ((nativeOf bumpSource).drop 128 |>.take 8) = 0x1062000004080000 ∧
    leNat ((nativeOf bumpSource).drop 136 |>.take 8) = 0x0000000000100000 ∧
    leNat ((nativeOf bumpSource).drop 192 |>.take 8) = 0x1000000200000000 := by decide +kernel

/-- Two fields of 8 bytes; a kernel without blocks and one with a block; a written size and alignment. -/
theorem witness_ArgumentFieldsArePlaced :
    let b : AsmBlock := { name := ['b'], params := [], stmts := [] }
    let k := fun (bs : List AsmBlock) => ({ graph := false, name := ['k'], params := [], fields := [(['p'], 8, 8)]
                                            stages := [{ name := ['k'], params := [], blocks := bs }], edges := [] } : AsmKernel)
    let ps : AsmParams := [(['S', 'I', 'Z', 'E'], ['4']), (['A', 'L', 'I', 'G', 'N'], ['4'])]
    (∀ f ∈ [((8 : Nat), (8 : Nat)), (4, 4), (8, 8)], 0 < f.2) ∧ placeFields 0 [(8, 8), (4, 4), (8, 8)] = ([0, 8, 16], 24) ∧
    placeFields 1 [(1, 1), (2, 4)] = ([1, 4], 6) ∧ (k []).psize = 8 ∧ ({ k [] with fields := [(['p'], 9, 1)] } : AsmKernel).psize = 16 ∧
    ps.get "SIZE" = some ['4'] ∧ ps.get "ALIGN" = some ['4'] ∧ needNat 0 (2 ^ 32 - 1) .parameter ['4'] = .ok 4 ∧
    needNat 1 (2 ^ 32 - 1) .parameter ['4'] = .ok 4 ∧ (∃ t ∈ (k [b]).stages, t.blocks ≠ []) ∧ (∀ t ∈ (k []).stages, t.blocks = []) ∧
    (∀ f ∈ (k []).fields, f.1 ≠ ['q']) ∧
    ({ kernels := [k []], maps := [], data := [], open_ := [.kernel] } : AsmSource).kernels.getLast? = some (k []) := by decide +kernel

end Sys2Proof.Tests
end

/-! Accesses from outside and the reset state (spec/00 R11, R12, spec/11 R328, R335): CTXCMD has a status of its own, and what a
module reset leaves. -/

namespace Sys2Proof.Machine

/-! ### A write to CTXCMD (R335) -/

/-- The function window of BAR0 holds nothing that a write stores at CTXCMD. -/
theorem Function.regWrite_ctxcmd (pf : Bool) (v : Nat) (f : Function) : f.regWrite pf 0x180 v = f := by
  simp [Function.regWrite]

/-- The status of a command that has ended stands in its function's CTXSTAT. -/
theorem State.func_commandStatus (s : State) (port fn st : Nat) :
    (s.commandStatus port fn st).func? port fn = (s.func? port fn).map (fun f => { f with ctxstat := statusWord st }) :=
  s.func_updFunc_same port fn _

/-- A command of an idle function runs at once while no other runs or waits. -/
theorem State.submit_idle {s : State} {port fn : Nat} {f : Function} (hf : s.func? port fn = some f) (hb : f.busy = false)
    (hr : s.commandRuns = false) (hc : s.commands = []) (cmd : Command) (run : State → State) : s.submit port fn cmd run = run s := by
  simp [State.submit, hf, hb, hr, hc]

/-- A value written to CTXCMD that names no command ends with FIELD. -/
theorem exec_registerWrite_ctxcmd_bad {s : State} {port fn v : Nat} {f : Function} (hf : s.func? port fn = some f)
    (hb : f.busy = false) (hr : s.commandRuns = false) (hc : s.commands = []) (hv : commandBad (v % 2 ^ 64) = true) :
    exec (.registerWrite port fn 0x180 v) s = .next (s.commandStatus port fn 6) := by
  show execRegisterWrite port fn 0x180 v s = _
  simp only [execRegisterWrite, hf, hv, State.submit_idle hf hb hr hc]
  rfl

/-- Refutes O43: its clause about the function window leaves out FWCMD (0x190) but not CTXCMD (0x180), a command register too. At
reset, a 0 written to CTXCMD of function 0 of port 0 names no command and ends with FIELD in CTXSTAT (R335), where the clause has the
function stay as `Function.regWrite` leaves it, with CTXSTAT 0. -/
theorem not_outsideAccessesAndRegisters : ¬ Obligations.OutsideAccessesAndRegisters := by
  intro h
  obtain ⟨-, -, -, -, -, -, -, -, hwrite, -⟩ := h 0 0 0 State.reset
  have hf : State.reset.func? 0 0 = some (Function.reset Partition.default 0) := rfl
  obtain ⟨t, hexec, hfunc⟩ := hwrite _ 0x180 0 hf (by decide) (by decide) (by decide) (by decide)
  rw [exec_registerWrite_ctxcmd_bad hf (by decide) (by decide) rfl (by decide)] at hexec
  cases hexec
  rw [Function.regWrite_ctxcmd, State.func_commandStatus, hf] at hfunc
  have hstat := congrArg (Option.map Function.ctxstat) hfunc
  exact absurd hstat (by decide)

/-! ### Reset (R12, R328, R353) -/

/-- With no block written, every read of device memory reports VERSION (R353). -/
theorem State.readFault_of_no_integrity {s : State} (h : s.integrity = []) (pa key : Nat) (k : AccKind) :
    s.readFault pa key k = some (intCause k 1) := by
  simp [State.readFault, State.blockFault, State.integrity?, h]

/-- The place of a function that is there. -/
theorem State.func_eq_some {s : State} {port fn : Nat} {f : Function} (h : s.func? port fn = some f) :
    port < 2 ∧ fn < 32 ∧ s.functions[funcIndex port fn]? = some f := by
  unfold State.func? at h
  split at h
  case isTrue hlt =>
    simp only [Bool.and_eq_true, decide_eq_true_eq] at hlt
    exact ⟨hlt.1, hlt.2, h⟩
  case isFalse => cases h

/-- A VF holds nothing of a partition (R333). -/
theorem Function.reset_vf (p : Partition) {port fn : Nat} (h0 : fn ≠ 0) (h : fn < 32) :
    (Function.reset p (funcIndex port fn)).quota = 0 ∧ (Function.reset p (funcIndex port fn)).ranges = List.replicate 16 0 := by
  have hvf : funcIndex port fn % 32 ≠ 0 := by unfold funcIndex; omega
  simp [Function.reset, hvf]

/-- The functions of the machine after reset. -/
theorem State.func_reset {port fn : Nat} {f : Function} (h : State.reset.func? port fn = some f) :
    fn < 32 ∧ f = Function.reset Partition.default (funcIndex port fn) := by
  obtain ⟨hp, hn, hget⟩ := State.func_eq_some h
  have hlt : funcIndex port fn < 64 := by unfold funcIndex; omega
  refine ⟨hn, ?_⟩
  have hreset : State.reset.functions[funcIndex port fn]? = some (Function.reset Partition.default (funcIndex port fn)) := by
    simp [State.reset, hlt]
  exact (Option.some.inj (hreset.symm.trans hget)).symm

/-- Whatever image runs after a module reset, the fused minimum SVN stays, and a partition that was submitted comes into force. -/
theorem Firmware.restart_minSvn_partition (f : Firmware) :
    f.restart.minSvn = f.minSvn ∧ f.restart.partition = f.nextPartition.getD f.partition := by
  unfold Firmware.restart
  dsimp only
  split
  case h_1 => split <;> exact ⟨rfl, rfl⟩
  case h_2 => exact ⟨rfl, rfl⟩

theorem Firmware.restart_running_unstaged {f : Firmware} (h : f.staged = none) : f.restart.running = f.running := by
  simp [Firmware.restart, h]

/-- When an image is accepted (R358), the owner's signature standing in for the PROVISION mark once there is an owner. -/
theorem Firmware.accepts_iff (f : Firmware) (image : List Byte) :
    f.accepts image = true ↔ Config.makerSigned image = true ∧ f.minSvn ≤ Config.imageSvn image ∧
      (if f.state = .unowned then Config.imageProvision image = true else Config.ownerSigned f.ownerKeys image = true) := by
  unfold Firmware.accepts
  cases f.state <;> simp [and_assoc]

/-- A staged image runs when it is accepted; a new partition has no part in that. -/
theorem Firmware.restart_running_staged {f : Firmware} {image : List Byte} (h : f.staged = some image) :
    f.restart.running = if f.accepts image = true then image else f.running := by
  simp only [Firmware.restart, h]
  exact apply_ite Firmware.running _ _ _

/-- Settles O51: the registers at reset by evaluation, those of a VF by its place, and the module reset by what `Firmware.restart`
keeps. -/
theorem resetState : Obligations.ResetState := by
  unfold Obligations.ResetState
  dsimp only
  have hfunctions : ∀ f ∈ State.reset.functions, f.aps = [0, 0, 0, 0] ∧ f.hostfault = 0 ∧ f.ctxstat = 0 ∧ f.fwstat = 0 ∧
      f.ctxrec = List.replicate 16 0 := by
    intro f hf
    obtain ⟨k, -, rfl⟩ := List.mem_map.mp hf
    exact ⟨rfl, rfl, rfl, rfl, rfl⟩
  have hvf : ∀ port fn f, State.reset.func? port fn = some f → fn ≠ 0 → f.quota = 0 ∧ f.ranges = List.replicate 16 0 := by
    intro port fn f hf h0
    obtain ⟨hlt, rfl⟩ := State.func_reset hf
    exact Function.reset_vf _ h0 hlt
  refine ⟨by decide, hfunctions, hvf, by decide, by decide, by decide, by decide, by decide, by decide, by decide, rfl, rfl, rfl, rfl,
    rfl, rfl, rfl, rfl, rfl, rfl, by decide, by decide, by decide, State.readFault_of_no_integrity rfl, fun u => ?_⟩
  obtain ⟨hsvn, hpartition⟩ := u.firmware.restart_minSvn_partition
  refine ⟨_, rfl, rfl, rfl, rfl, rfl, rfl, State.readFault_of_no_integrity rfl, rfl, hsvn, Firmware.restart_running_unstaged,
    fun image himage => ?_, by rw [← hpartition]⟩
  simp only [← Firmware.accepts_iff]
  exact Firmware.restart_running_staged himage

/-- Settles O54: memory lists nothing at reset. -/
theorem memoryCanonicalAtReset : Obligations.MemoryCanonicalAtReset :=
  show Memory.wf [] = true from rfl

end Sys2Proof.Machine

/-! Packets (spec/01 R32, spec/12 R372-R376, R379, spec/13 R399): what begins each kind of packet, said once per function of the
model, and from it where each packet goes. -/

namespace Sys2Proof.Machine

/-! ### A LAUNCH or GRAPH is begun (R372-R374) -/

/-- The events LAUNCH and GRAPH begin the taken packet of their type in one way. -/
theorem exec_kernelPacket {s : State} {ctx q : Nat} {p : Packet} {i : Instr}
    (h : (i = .launch ctx q ∧ s.takenPacket ctx q 1 = some p) ∨ (i = .graph ctx q ∧ s.takenPacket ctx q 2 = some p)) :
    exec i s = .next (s.beginKernel ctx p) := by
  obtain ⟨rfl, hp⟩ | ⟨rfl, hp⟩ := h
  · show execLaunch ctx q s = _
    simp only [execLaunch, hp]
  · show execGraph ctx q s = _
    simp only [execGraph, hp]

theorem State.beginKernel_of_badFormat {s : State} {p : Packet} (ctx : Nat) (hf : p.formatOk = false) :
    s.beginKernel ctx p = s.failBegin ctx p cPacketFormat := by
  simp [State.beginKernel, hf]

theorem State.beginKernel_of_badKernel {s : State} {ctx e : Nat} {c : Context} {p : Packet} (hc : s.ctx? ctx = some c)
    (hf : p.formatOk = true) (hk : c.kernelOf p = .error e) : s.beginKernel ctx p = s.failBegin ctx p e := by
  simp [State.beginKernel, hc, hf, hk]

/-- The packet marked as begun, with the context's seed (R38). -/
def State.seeded (s : State) (ctx : Nat) (p : Packet) : State :=
  s.updCtx ctx (fun c => c.updPacket p.q p.index (Packet.begin_ c.regs.hseed))

/-- The packet with the kernel, the image and the runs that its acquire has found. -/
def State.acquired (s : State) (ctx : Nat) (p : Packet) (o : BoundObject) (k : KernelRec)
    (old : List (Nat × Nat) × List Host.Cell) : State :=
  s.updCtx ctx (fun c => c.updPacket p.q p.index (fun p => s.withRuns ctx (p.withKernel o k old)))

/-- The translation of a packet's parameter block. -/
def State.reachArg (s : State) (ctx : Nat) (p : Packet) (k : KernelRec) : Reach Unit × State :=
  s.translates ctx .load (if k.psize = 0 then [] else pagePieces (p.word 5) k.psize)

/-- The measured opening of a packet on a kernel, over the image and the parameter block. -/
def State.openImage (s : State) (ctx : Nat) (p : Packet) (o : BoundObject) (k : KernelRec) : Opening :=
  s.openMeasured ctx p { image := some (o.objVa + o.imageOff, o.imageSize, o.hashEntry), arg := some (p.word 5, k.psize) }

/-- What follows the acquire: the opening of a measured packet, else the translation of the parameter block. `back` is the state
to which a wait for a page returns. -/
def State.openKernel (back s : State) (ctx : Nat) (p : Packet) (o : BoundObject) (k : KernelRec) : Opening :=
  if p.isMeasured then s.openImage ctx p o k
  else
    match s.reachArg ctx p k with
    | (.park _, v) => .wait (back.onlyMigrations v)
    | (.bad e _, v) => .bad v e
    | (.ok _, v) => .ok v

/-- Past its checks and its acquire, a packet goes where its opening sends it. -/
theorem State.beginKernel_of_image {s u : State} {ctx : Nat} {c : Context} {p : Packet} {o : BoundObject} {k : KernelRec}
    {old : List (Nat × Nat) × List Host.Cell} (hc : s.ctx? ctx = some c) (hf : p.formatOk = true)
    (hk : c.kernelOf p = .ok (o, k)) (hi : (s.seeded ctx p).imageNow ctx o = (.ok old, u)) :
    s.beginKernel ctx p =
      match (s.seeded ctx p).openKernel (u.acquired ctx p o k old) ctx p o k with
      | .wait v => v
      | .bad v e => v.failBegin ctx p e
      | .ok v => v.seekRegion ctx p := by
  unfold State.seeded at hi
  simp only [State.beginKernel, hc, hf, hk, hi, State.withOpening, State.openKernel, State.openImage, State.reachArg,
    State.acquired]
  cases p.isMeasured
  case true =>
    generalize State.openMeasured _ ctx p _ = opening
    cases opening <;> rfl
  case false =>
    generalize State.translates _ ctx .load _ = reached
    obtain ⟨_ | _ | _, v⟩ := reached <;> rfl

section
variable {back s v : State} {ctx e : Nat} {p : Packet} {o : BoundObject} {k : KernelRec}

theorem State.openKernel_ok (h : (p.isMeasured = false ∧ s.reachArg ctx p k = (.ok (), v)) ∨
    (p.isMeasured = true ∧ s.openImage ctx p o k = .ok v)) : back.openKernel s ctx p o k = .ok v := by
  obtain ⟨hm, harg⟩ | ⟨hm, hopen⟩ := h
  · simp [State.openKernel, hm, harg]
  · simp [State.openKernel, hm, hopen]

theorem State.openKernel_bad (h : (p.isMeasured = false ∧ ∃ a, s.reachArg ctx p k = (.bad e a, v)) ∨
    (p.isMeasured = true ∧ s.openImage ctx p o k = .bad v e)) : back.openKernel s ctx p o k = .bad v e := by
  obtain ⟨hm, a, harg⟩ | ⟨hm, hopen⟩ := h
  · simp [State.openKernel, hm, harg]
  · simp [State.openKernel, hm, hopen]

theorem State.openKernel_wait (hm : p.isMeasured = true) (h : s.openImage ctx p o k = .wait v) :
    back.openKernel s ctx p o k = .wait v := by
  simp [State.openKernel, hm, h]

end

/-! ### Its region (R339, R408) -/

section
variable {s : State} {ctx : Nat} {p : Packet} {r : Region}

theorem State.seekRegion_of_none (h : s.region? ctx = none) :
    s.seekRegion ctx p = (s.queueRegion ctx p.shape.1 p.shape.2 false).setStage ctx p .wantRegion := by
  simp [State.seekRegion, h]

theorem State.seekRegion_of_sameShape (h : s.region? ctx = some r) (hs : p.shape = (r.h, r.w)) :
    s.seekRegion ctx p = (s.acquireCores r).setStage ctx p .loading := by
  simp [State.seekRegion, h, hs]

theorem State.seekRegion_of_shared (h : s.region? ctx = some r) (hs : p.shape ≠ (r.h, r.w)) (hx : r.sharer ≠ none) :
    s.seekRegion ctx p = s.setStage ctx p .wantRegion := by
  simp [State.seekRegion, h, hs, Option.isSome_iff_ne_none.mpr hx]

theorem State.seekRegion_of_unshared (h : s.region? ctx = some r) (hs : p.shape ≠ (r.h, r.w)) (hx : r.sharer = none) :
    s.seekRegion ctx p = ((s.releaseRegion ctx).queueRegion ctx p.shape.1 p.shape.2 false).setStage ctx p .wantRegion := by
  simp [State.seekRegion, h, hs, hx]

end

/-! ### The gates, a COPY and a SIGNAL (R374-R376) -/

theorem exec_gateOpen_of_opened {s t : State} {ctx : Nat} {c : Context} {p : Packet} {r : Region} (hc : s.ctx? ctx = some c)
    (hr : s.region? ctx = some r) (hp : c.kernelPacket? = some p) (hl : p.stage = .loading) (hg : s.openGates ctx r p = (true, t)) :
    exec (.gateOpen ctx) s = .next t := by
  show execGateOpen ctx s = _
  simp [execGateOpen, hc, hr, hp, hl, hg]

/-- A COPY that is not measured has no opening. -/
theorem exec_copyPacket_of_unmeasured {s : State} {ctx q : Nat} {p : Packet} (hp : s.takenPacket ctx q 3 = some p)
    (hf : p.formatOk = true) (hm : p.isMeasured = false) : exec (.copyPacket ctx q) s = .next (s.startCopy ctx p) := by
  show execCopyPacket ctx q s = _
  simp [execCopyPacket, hp, hf, State.withOpening, hm]

/-- A sound parameter block is handed to the dray that has been picked. -/
theorem State.startCopy_of_dray {s t u : State} {ctx : Nat} {p : Packet} {bytes : List Byte} {d : Nat × Nat}
    (hb : s.readVa ctx (p.word 3) 64 .load false = (.ok bytes, t)) (hf : copyFieldsOk (leWords 8 bytes) = true)
    (hm : (CopyParam.ofWords (leWords 8 bytes)).mode = 0) (hd : t.pickDray = (some d, u)) :
    s.startCopy ctx p =
      (u.handOver 0 ctx 0 (leWords 8 bytes) (p.word 3) none (some (p.q, p.index)) d.1 d.2).setStage ctx p .copying := by
  simp [State.startCopy, hb, hf, hm, hd]

theorem State.takenPacket_type {s : State} {ctx q ty : Nat} {p : Packet} (h : s.takenPacket ctx q ty = some p) : p.type = ty := by
  obtain ⟨c, -, hp⟩ := Option.bind_eq_some_iff.mp h
  have hfound := List.find?_some hp
  simp only [Bool.and_eq_true, decide_eq_true_eq] at hfound
  exact hfound.2

/-- The operation of a SIGNAL is one bit (R376). -/
theorem Packet.signalOp_lt {p : Packet} (ht : p.type = 6) (hf : p.formatOk = true) : p.word 5 < 2 := by
  simp only [Packet.formatOk, ht, Bool.and_eq_true] at hf
  obtain ⟨⟨-, hsignal⟩, -⟩ := hf
  simp only [ne_eq, not_true_eq_false, decide_false, Bool.false_or, Bool.and_eq_true, decide_eq_true_eq] at hsignal
  obtain ⟨⟨⟨-, hop⟩, -⟩, -⟩ := hsignal
  exact hop

theorem exec_signalPacket_of_updated {s t u : State} {ctx q : Nat} {p : Packet} (hp : s.takenPacket ctx q 6 = some p)
    (hf : p.formatOk = true)
    (hu : s.updateSignal ctx q (p.word 3) (if p.word 5 = 1 then .add (p.words.getD 4 0) else .store (p.words.getD 4 0)) =
      (.ok t, u)) :
    exec (.signalPacket ctx q) s = .next ((t.setStage ctx p .retired).completeNow ctx p) := by
  have hop : p.word 5 % 2 = p.word 5 := Nat.mod_eq_of_lt (Packet.signalOp_lt (State.takenPacket_type hp) hf)
  show execSignalPacket ctx q s = _
  simp only [execSignalPacket, hp, hf, hop, hu, Bool.not_true, Bool.false_eq_true, if_false]

/-! ### Barriers (R379) -/

/-- The first reading of either barrier and each later one read the signals of the packet, under the rule of its type. -/
theorem exec_barrier {s : State} {ctx q ty : Nat} {c : Context} {p : Packet} {i : Instr} (hc : s.ctx? ctx = some c)
    (hf : p.formatOk = true)
    (h : (i = .barrierAnd ctx q ∧ ty = 4 ∧ s.takenPacket ctx q 4 = some p) ∨
      (i = .barrierOr ctx q ∧ ty = 5 ∧ s.takenPacket ctx q 5 = some p) ∨
      (i = .barrierReading ctx q ∧ ty = p.type ∧ (p.wake = true ∨ (p.pollable = true ∧ 4096 ≤ p.poll)) ∧
        c.packets.find? (fun p => p.q = q && p.stage = .waiting) = some p)) :
    ty = p.type ∧ exec i s = .next (s.readBarrier ctx p) := by
  obtain ⟨rfl, rfl, hp⟩ | ⟨rfl, rfl, hp⟩ | ⟨rfl, rfl, hready, hp⟩ := h
  · refine ⟨(State.takenPacket_type hp).symm, ?_⟩
    show execBarrierAnd ctx q s = _
    simp only [execBarrierAnd, hp, State.beginBarrier, hf, if_true]
  · refine ⟨(State.takenPacket_type hp).symm, ?_⟩
    show execBarrierOr ctx q s = _
    simp only [execBarrierOr, hp, State.beginBarrier, hf, if_true]
  · refine ⟨rfl, ?_⟩
    show execBarrierReading ctx q s = _
    simp only [execBarrierReading, hc, Option.bind_some, hp]
    rw [if_pos (by simpa using hready)]

theorem State.readBarrier_of_values {s t : State} {ctx : Nat} {p : Packet} {vs : List Word} {ls : List Nat} {outer : Bool}
    (h : s.readSignals ctx p.signals = (.ok (vs, ls, outer), t)) : s.readBarrier ctx p = t.decideBarrier ctx p vs ls outer := by
  simp only [State.readBarrier, h]

section
variable {s : State} {ctx : Nat} {p : Packet} {vs : List Word} {ls : List Nat} {outer : Bool}

theorem find_msb_eq_none (h : ∀ v ∈ vs, v.msb = false) : vs.find? (fun v => v.msb) = none :=
  List.find?_eq_none.mpr (fun v hv => by simp [h v hv])

theorem State.decideBarrier_aborted {v : Word} (h : vs.find? (fun v => v.msb) = some v) :
    s.decideBarrier ctx p vs ls outer = s.complete ctx { p with cause := some cBarrierAbort } (.store v) := by
  simp only [State.decideBarrier, h]

/-- When the values satisfy a barrier: all of them zero for BARRIER-AND, one of them for BARRIER-OR, and always when there is none. -/
theorem State.decideBarrier_satisfied (hn : ∀ v ∈ vs, v.msb = false)
    (h : vs = [] ∨ (p.type = 4 ∧ ∀ v ∈ vs, v = 0) ∨ (p.type ≠ 4 ∧ ∃ v ∈ vs, v = 0)) :
    s.decideBarrier ctx p vs ls outer = s.complete ctx p (completionUpdate none) := by
  simp only [State.decideBarrier, find_msb_eq_none hn]
  obtain rfl | ⟨ht, hall⟩ | ⟨ht, hany⟩ := h
  · simp
  · rw [if_pos (by simpa [ht] using .inr hall)]
  · have hzero : (0 : Word) ∈ vs := by simpa using hany
    rw [if_pos (by simpa [ht] using .inr hzero)]

theorem State.decideBarrier_waiting (hn : ∀ v ∈ vs, v.msb = false) (hne : vs ≠ [])
    (h : (p.type = 4 ∧ ∃ v ∈ vs, v ≠ 0) ∨ (p.type ≠ 4 ∧ ∀ v ∈ vs, v ≠ 0)) :
    s.decideBarrier ctx p vs ls outer = s.updCtx ctx (fun c => c.updPacket p.q p.index (fun x => { x with
      stage := .waiting, sigLines := ls, pollable := outer, wake := false, poll := 0 })) := by
  simp only [State.decideBarrier, find_msb_eq_none hn]
  obtain ⟨ht, hany⟩ | ⟨ht, hall⟩ := h
  · rw [if_neg (by simpa [ht, hne] using hany)]
  · have hzero : (0 : Word) ∉ vs := fun h0 => hall 0 h0 rfl
    rw [if_neg (by simpa [ht, hne] using hzero)]

end

/-! ### Retirement (R32, R399) -/

section
variable {s : State} {ctx q i : Nat} {c : Context} {p : Packet}

theorem exec_packetRetire_of_done (hc : s.ctx? ctx = some c) (hp : c.packet? q i = some p) (hs : p.stage = .running)
    (hd : s.kernelDone ctx p = true) : exec (.packetRetire ctx q i) s = .next (s.retireKernel ctx p .retired) := by
  show execPacketRetire ctx q i s = _
  simp [execPacketRetire, hc, hp, hs, hd]

theorem exec_packetRetire_of_stopped (hc : s.ctx? ctx = some c) (hp : c.packet? q i = some p) (hs : p.stage = .stopped)
    (hw : s.engineWork ctx = false) : exec (.packetRetire ctx q i) s = .next (s.retireKernel ctx p .closed) := by
  show execPacketRetire ctx q i s = _
  simp [execPacketRetire, hc, hp, hs, hw]

theorem exec_packetRetire_of_retired (hc : s.ctx? ctx = some c) (hp : c.packet? q i = some p) (hs : p.stage = .retired)
    (hm : p.measured = none) : exec (.packetRetire ctx q i) s = .next (s.completeNow ctx p) := by
  show execPacketRetire ctx q i s = _
  simp [execPacketRetire, hc, hp, hs, hm]

end

/-- Settles O46: each clause is what the event of its packet begins, through the opening and the region of a LAUNCH or GRAPH, the
copy handed to a dray, and the reading of a barrier. -/
theorem packetsBeginAndRetire : Obligations.PacketsBeginAndRetire := by
  intro ctx q s c hc
  refine ⟨?kernel, ?badKernel, ?badFormat, ?gates, ?copy, ?barrier, ?signal, ?retire⟩
  case kernel =>
    intro p o k i hi hf hk old u himage
    have hbegin := (exec_kernelPacket hi).trans (congrArg _ (State.beginKernel_of_image hc hf hk himage))
    refine ⟨fun v hopen => ?_, fun e v hopen => ?_, fun v hm hopen => ?_⟩
    · rw [State.openKernel_ok (s := u.acquired ctx p o k old) hopen] at hbegin
      exact ⟨fun hr => hbegin.trans (congrArg _ (State.seekRegion_of_none hr)),
        fun r hr hs => hbegin.trans (congrArg _ (State.seekRegion_of_sameShape hr hs)),
        fun r hr hs hx => hbegin.trans (congrArg _ (State.seekRegion_of_shared hr hs hx)),
        fun r hr hs hx => hbegin.trans (congrArg _ (State.seekRegion_of_unshared hr hs hx))⟩
    · rwa [State.openKernel_bad (s := u.acquired ctx p o k old) hopen] at hbegin
    · rwa [State.openKernel_wait (s := u.acquired ctx p o k old) hm hopen] at hbegin
  case badKernel =>
    intro p e i hi hf hk
    rw [exec_kernelPacket hi, State.beginKernel_of_badKernel hc hf hk]
  case badFormat =>
    intro p i hi hf
    rw [exec_kernelPacket hi, State.beginKernel_of_badFormat ctx hf]
    rfl
  case gates =>
    intro p r t hr hp hl hg
    exact exec_gateOpen_of_opened hc hr hp hl hg
  case copy =>
    intro p bytes t d u hp hf hm hb hfields hmode hd _
    rw [exec_copyPacket_of_unmeasured hp hf hm, State.startCopy_of_dray hb hfields hmode hd]
  case barrier =>
    intro p i ty vs ls outer t hi hf hread
    obtain ⟨rfl, hexec⟩ := exec_barrier hc hf hi
    rw [hexec, State.readBarrier_of_values hread]
    exact ⟨fun hn h => congrArg _ (State.decideBarrier_satisfied hn h),
      fun hn hne h => congrArg _ (State.decideBarrier_waiting hn hne h),
      fun v hv => congrArg _ (State.decideBarrier_aborted hv)⟩
  case signal =>
    intro p t u hp hf hu
    exact exec_signalPacket_of_updated hp hf hu
  case retire =>
    intro p i hp
    exact ⟨exec_packetRetire_of_done hc hp, exec_packetRetire_of_stopped hc hp, exec_packetRetire_of_retired hc hp⟩

end Sys2Proof.Machine

/-! Frames (spec/02 R53, R56): what no firing changes, as one projection of the state, and one equation for each operation that a
firing performs. -/

namespace Sys2Proof.Machine

/-! ### The part of the state that stays -/

/-- A lane without what a firing changes of it: its passes, the entries of its LINK buffers, its count of tokens. -/
def Lane.fixed (l : Lane) : Lane := { l with passes := [], links := [], rateTokens := 0 }

/-- A bank without its stream entries. -/
def Bank.fixed (b : Bank) : Bank := { b with fifo := [], pixels := [], dropped := 0 }

/-- A core without its copies of lines and the stream entries of its banks. -/
def CoreState.fixed (c : CoreState) : CoreState := { c with l1 := [], banks := c.banks.map Bank.fixed }

/-- The state without what a firing may change. -/
def State.fixed (s : State) : State :=
  { s with lanes := s.lanes.map Lane.fixed, cores := s.cores.map CoreState.fixed, tlb := [], migrations := [], nextMigration := 0
           freeCtr := 0, hostSent := none, guards := [] }

/-- Two states of one fixed part differ in nothing but what a firing may change. -/
theorem State.eq_of_fixed {s t : State} (h : t.fixed = s.fixed) :
    t = { s with lanes := t.lanes, cores := t.cores, tlb := t.tlb, migrations := t.migrations, nextMigration := t.nextMigration
                 freeCtr := t.freeCtr, hostSent := t.hostSent, guards := t.guards } := by
  cases s; cases t
  simp only [State.fixed, State.mk.injEq] at h ⊢
  simp only [h, and_self]

theorem State.mem_of_fixed {s t : State} (h : t.fixed = s.fixed) : t.mem = s.mem :=
  show t.fixed.mem = s.fixed.mem by rw [h]

theorem State.lanes_of_fixed {s t : State} (h : t.fixed = s.fixed) : t.lanes.map Lane.fixed = s.lanes.map Lane.fixed :=
  show t.fixed.lanes = s.fixed.lanes by rw [h]

theorem State.cores_of_fixed {s t : State} (h : t.fixed = s.fixed) : t.cores.map CoreState.fixed = s.cores.map CoreState.fixed :=
  show t.fixed.cores = s.fixed.cores by rw [h]

/-! ### Changes of a lane, a core and the other parts that may change -/

theorem State.fixed_updLane (s : State) (core ctx : Nat) {f : Lane → Lane} (h : ∀ l, (f l).fixed = l.fixed) :
    (s.updLane core ctx f).fixed = s.fixed := by
  have hl : (s.updLane core ctx f).lanes.map Lane.fixed = s.lanes.map Lane.fixed := by
    simp only [State.updLane, List.map_map]
    refine List.map_congr_left (fun l _ => ?_)
    simp only [Function.comp]
    split <;> simp [h]
  simp only [State.fixed, hl]
  rfl

theorem State.fixed_updCore (s : State) (core : Nat) {f : CoreState → CoreState} (h : ∀ c, (f c).fixed = c.fixed) :
    (s.updCore core f).fixed = s.fixed := by
  have hc : (s.updCore core f).cores.map CoreState.fixed = s.cores.map CoreState.fixed := by
    simp only [State.updCore, List.map_map]
    refine List.map_congr_left (fun c _ => ?_)
    simp only [Function.comp]
    split <;> simp [h]
  simp only [State.fixed, hc]
  rfl

@[simp] theorem State.fixed_updPass (s : State) (core ctx pass : Nat) (f : Pass → Pass) :
    (s.updPass core ctx pass f).fixed = s.fixed :=
  s.fixed_updLane core ctx (fun _ => rfl)

@[simp] theorem State.fixed_updRun (s : State) (x : Firing) (f : Run → Run) : (s.updRun x f).fixed = s.fixed :=
  s.fixed_updPass _ _ _ _

/-- A core whose copies alone change. -/
@[simp] theorem State.fixed_updCore_l1 (s : State) (core : Nat) (f : CoreState → List L1Line) :
    (s.updCore core (fun c => { c with l1 := f c })).fixed = s.fixed :=
  s.fixed_updCore core (fun _ => rfl)

theorem CoreState.fixed_updBank (c : CoreState) (b : Nat) {f : Bank → Bank} (h : ∀ k, (f k).fixed = k.fixed) :
    (c.updBank b f).fixed = c.fixed := by
  have hb : (c.updBank b f).banks.map Bank.fixed = c.banks.map Bank.fixed := by
    refine List.ext_getElem (by simp [CoreState.updBank, listSet]) (fun i _ _ => ?_)
    simp only [CoreState.updBank, listSet, List.getElem_map, List.getElem_mapIdx]
    split <;> simp [h]
  simp only [CoreState.fixed, hb]
  rfl

@[simp] theorem State.fixed_freeCtr (s : State) (n : Nat) : ({ s with freeCtr := n } : State).fixed = s.fixed := rfl
@[simp] theorem State.fixed_choose (s : State) (n : Nat) : (s.choose n).2.fixed = s.fixed := rfl
@[simp] theorem State.fixed_touchPhys (s : State) (pa n : Nat) : (s.touchPhys pa n).fixed = s.fixed := rfl

@[simp] theorem State.fixed_noteSent (s : State) (ctx pa len : Nat) (write : Bool) :
    (s.noteSent ctx pa len write).fixed = s.fixed := by
  unfold State.noteSent
  split <;> rfl

@[simp] theorem State.fixed_cacheEntry (s : State) (t : TlbEntry) : (s.cacheEntry t).fixed = s.fixed := by
  unfold State.cacheEntry
  split <;> rfl

@[simp] theorem State.fixed_unspecified (s : State) (free : Bool) (ctx : Nat) (bs : List Byte) :
    (s.unspecified free ctx bs).2.fixed = s.fixed := by
  cases free <;> rfl

/-! ### Translation and the checks of an address (R197, R242, R346) -/

@[simp] theorem fixed_translate (s : State) (ctx va : Nat) (k : AccKind) : (translate s ctx va k).2.fixed = s.fixed := by
  unfold translate
  split
  · rfl
  · dsimp only
    have hpick : ∀ os : List (Trans × Option TlbEntry),
        (if os.length ≤ 1 then (0, s) else s.choose os.length).2.fixed = s.fixed := by
      intro os
      split <;> simp
    split
    · rfl
    · split <;> simp [hpick]
    · exact hpick _

@[simp] theorem State.fixed_requestMigration (s : State) (ctx va pa : Nat) (big : Bool) :
    (s.requestMigration ctx va pa big).2.fixed = s.fixed := by
  unfold State.requestMigration
  dsimp only
  split <;> rfl

@[simp] theorem State.fixed_address (s : State) (core ctx : Nat) (cls : MemClass) (ea align : Nat) (k : AccKind) :
    (s.address core ctx cls ea align k).2.fixed = s.fixed := by
  have ht := fixed_translate s ctx ea k
  unfold State.address
  dsimp only
  split
  · split_ifs <;> rfl
  · split
    · rfl
    · split <;> next h =>
        simp only [h] at ht
        simp [ht, apply_ite Prod.snd, apply_ite State.fixed]

theorem State.fixed_of_address {s t : State} {core ctx : Nat} {cls : MemClass} {ea align : Nat} {k : AccKind} {a : Addr}
    (h : s.address core ctx cls ea align k = (a, t)) : t.fixed = s.fixed := by
  simpa [h] using s.fixed_address core ctx cls ea align k

/-! ### Accesses and their records (R159, R160, R196, R242) -/

@[simp] theorem State.fixed_trimL1 (s : State) (core : Nat) : (s.trimL1 core).fixed = s.fixed :=
  s.fixed_updCore core (fun _ => rfl)

@[simp] theorem State.fixed_access (s : State) (x : Site) (sp : Space) (addr len key va : Nat) (kind : AccessKind) :
    (s.access x sp addr len key va kind).fixed = s.fixed := by
  cases sp <;> cases kind <;> simp [State.access]

theorem State.fixed_countLines {s t : State} {x : Site} {keys : List Nat} (h : s.countLines x keys = some t) :
    t.fixed = s.fixed := by
  unfold State.countLines at h
  split at h
  · cases h
  · cases h
    exact s.fixed_updRun _ _

theorem State.fixed_foldl_touchPhys (s : State) (places : List (Nat × Nat)) :
    (places.foldl (fun s a => s.touchPhys a.1 2) s).fixed = s.fixed := by
  induction places generalizing s with
  | nil => rfl
  | cons a places ih => exact ih (s.touchPhys a.1 2)

@[simp] theorem State.fixed_awaitReturn (s : State) (x : Site) (v : Word) (deps : List Nat) (k : AccKind) (pa va : Nat)
    (also : List (Nat × Nat)) : (s.awaitReturn x v deps k pa va also).fixed = s.fixed := by
  simp [State.awaitReturn, State.fixed_foldl_touchPhys]

@[simp] theorem State.fixed_defer (s : State) (x : Firing) (deps : List Nat) (kind : Nat → DeferredKind) :
    (s.defer x deps kind).fixed = s.fixed :=
  s.fixed_updPass _ _ _ _

/-! ### The copies of lines (R236, R237) -/

@[simp] theorem State.fixed_allocateL1 (s : State) (core : Nat) (x : L1Line) : (s.allocateL1 core x).fixed = s.fixed := by
  unfold State.allocateL1
  split
  · rfl
  · dsimp only
    split_ifs <;> simp

@[simp] theorem State.fixed_refreshCopy (s : State) (core line : Nat) (byS : Bool) (cp : CachePol) :
    (s.refreshCopy core line byS cp).fixed = s.fixed := by
  unfold State.refreshCopy
  dsimp only
  split
  · simp
  · split <;> simp

@[simp] theorem State.fixed_fillCopy (s : State) (core line : Nat) (byS : Bool) (cp : CachePol) :
    (s.fillCopy core line byS cp).fixed = s.fixed := by
  unfold State.fillCopy
  split <;> simp

@[simp] theorem State.fixed_dropStreamCopies (s : State) (core : Nat) : (s.dropStreamCopies core).fixed = s.fixed :=
  s.fixed_updCore core (fun _ => rfl)

@[simp] theorem State.fixed_useCopy (s : State) (core line : Nat) : (s.useCopy core line).2.fixed = s.fixed := by
  unfold State.useCopy
  split
  · rfl
  · split <;> rfl

@[simp] theorem State.fixed_sight (s : State) (core line : Nat) (byS : Bool) (cp : CachePol) :
    (s.sight core line byS cp).2.fixed = s.fixed := by
  have hc := s.fixed_useCopy core line
  unfold State.sight
  split <;> next h =>
    simp only [h] at hc
    simp [hc]

@[simp] theorem State.fixed_sightOf (s : State) (x : Site) (sp : Space) (addr n : Nat) (cp : CachePol) :
    (s.sightOf x sp addr n cp).2.fixed = s.fixed := by
  unfold State.sightOf
  split
  · rfl
  · split <;> simp

/-! ### What a read finds (R196, R201) -/

/-- A load's bytes cost free choices alone. -/
theorem loadBytes_state (s : State) (l : Lane) (p : Pass) (tidx : Nat) (deps : List Nat) (sp : Space) (addr n : Nat) :
    ∃ ctr, (loadBytes s l p tidx deps sp addr n).2 = { s with freeCtr := ctr } := by
  induction n generalizing s addr with
  | zero => exact ⟨s.freeCtr, rfl⟩
  | succ n ih =>
    simp only [loadBytes]
    split
    · exact ih s (addr + 1)
    · exact ih (s.choose _).2 (addr + 1)

/-- What a read finds, with the fixed part of the state unchanged. -/
def Found.Keeps (s : State) : Found → Prop
  | .bad t _ => t.fixed = s.fixed
  | .park t _ => t.fixed = s.fixed
  | .wait => True
  | .got t _ _ _ => t.fixed = s.fixed

/-- What a firing does, with the fixed part of the state unchanged. -/
def Fired.Keeps (s : State) : Fired → Prop
  | .wait => True
  | .ok t _ _ => t.fixed = s.fixed
  | .bad t _ _ => t.fixed = s.fixed

section
variable {s t : State}

@[simp] theorem Found.keeps_bad {c : Nat} : (Found.bad t c).Keeps s ↔ t.fixed = s.fixed := Iff.rfl
@[simp] theorem Found.keeps_park {m : Nat} : (Found.park t m).Keeps s ↔ t.fixed = s.fixed := Iff.rfl
@[simp] theorem Found.keeps_wait : Found.wait.Keeps s := trivial
@[simp] theorem Found.keeps_got {bs : List Byte} {pa : Nat} {ids : List Nat} : (Found.got t bs pa ids).Keeps s ↔ t.fixed = s.fixed :=
  Iff.rfl

@[simp] theorem Fired.keeps_wait : Fired.wait.Keeps s := trivial
@[simp] theorem Fired.keeps_ok {out : List (Target × Option Word)} {deps : List Nat} :
    (Fired.ok t out deps).Keeps s ↔ t.fixed = s.fixed := Iff.rfl
@[simp] theorem Fired.keeps_bad {c : Nat} {info : Option Nat} : (Fired.bad t c info).Keeps s ↔ t.fixed = s.fixed := Iff.rfl

/-- What keeps a state keeps every state of its fixed part. -/
theorem Fired.keeps_congr {r : Fired} (ht : t.fixed = s.fixed) (h : r.Keeps t) : r.Keeps s := by
  cases r <;> simp_all

theorem Found.keeps_congr {r : Found} (ht : t.fixed = s.fixed) (h : r.Keeps t) : r.Keeps s := by
  cases r <;> simp_all

theorem Found.keeps_unspecified {r : Found} (h : r.Keeps s) (free : Bool) (ctx : Nat) : (r.unspecified free ctx).Keeps s := by
  cases r <;> simp_all [Found.unspecified]

end

theorem State.chunkRead_keeps (s : State) (x : Site) (sp : Space) (cp : CachePol) (addr n key va : Nat) (k : AccKind) :
    (s.chunkRead x sp cp addr n key va k).Keeps s := by
  unfold State.chunkRead
  dsimp only
  split
  · rfl
  · split
    · trivial
    · obtain ⟨ctr, hctr⟩ := loadBytes_state { (s.sightOf x sp addr n cp).2 with mem := (s.sightOf x sp addr n cp).1 } x.spot.lane
        x.spot.pass x.at_.tidx x.deps sp addr n
      simp only [hctr, Found.keeps_got, State.fixed_access]
      exact s.fixed_sightOf x sp addr n cp

theorem State.fixed_streamBytes (s : State) (x : Site) (pa n : Nat) (cp : CachePol) : (s.streamBytes x pa n cp).2.fixed = s.fixed :=
  s.fixed_sight _ _ _ _

theorem State.readAt_keeps (s : State) (x : Site) (cls : MemClass) (cp : CachePol) (ea n align : Nat) (k : AccKind) :
    (s.readAt x cls cp ea n align k).Keeps s := by
  unfold State.readAt
  dsimp only
  split
  · trivial
  rcases ha : s.address x.at_.core x.at_.ctx cls ea align k with ⟨a, t⟩
  refine Found.keeps_congr (State.fixed_of_address ha) ?_
  cases a with
  | bad c => rfl
  | park m => rfl
  | scratch a => exact t.chunkRead_keeps ..
  | outside pa => exact Found.keeps_unspecified (by simp) ..
  | device pa key =>
    dsimp only
    split
    · split
      · rfl
      · exact Found.keeps_unspecified (Found.keeps_got.mpr (t.fixed_streamBytes ..)) ..
    · exact Found.keeps_unspecified (t.chunkRead_keeps ..) ..

theorem State.fixed_of_readAt {s t : State} {x : Site} {cls : MemClass} {cp : CachePol} {ea n align pa : Nat} {k : AccKind}
    {bytes : List Byte} {ids : List Nat} (h : s.readAt x cls cp ea n align k = .got t bytes pa ids) : t.fixed = s.fixed := by
  simpa [h] using s.readAt_keeps x cls cp ea n align k

/-- The tokens of a read that returns. -/
theorem Found.await_keeps {r : Found} {s : State} (h : r.Keeps s) (x : Site) (f : Fields) (ea : Nat) (k : AccKind)
    (g : List Byte → Word) (also : List (Nat × Nat)) : (r.await x f ea k g also).Keeps s := by
  cases r <;> simp_all [Found.await, State.parkOn]

@[simp] theorem State.parkOn_keeps {s t : State} {x : Site} {mig : Nat} {k : AccKind} {va : Nat} {targets : List Target} :
    (t.parkOn x mig k va targets).Keeps s ↔ t.fixed = s.fixed := by
  simp [State.parkOn]

theorem State.readElement_keeps (s : State) (x : Site) (m : TMap) (va bit width : Nat) :
    (s.readElement x m va bit width).1.Keeps s := by
  have hlow := s.readAt_keeps x m.cls m.policy va 1 1 .load
  unfold State.readElement
  split
  · exact s.readAt_keeps ..
  · split
    · next t lo pa ids h =>
      simp only [h, Found.keeps_got] at hlow
      have hhigh := Found.keeps_congr hlow (t.readAt_keeps (x.after ids) m.cls m.policy (va + 1) 1 1 .load)
      split
      · exact hlow
      · split
        · next h' => simpa [h'] using hhigh
        · exact hhigh
    · exact hlow

/-! ### Stores and atomics (R201, R173, R174, R208) -/

theorem State.writeAt_keeps (s : State) (x : Site) (cls : MemClass) (scope : Scope) (cp : CachePol) (ea align : Nat)
    (bytes : List (Byte × Byte)) (reads : Bool) (targets : List Target) (out : List (Target × Option Word)) :
    (s.writeAt x cls scope cp ea align bytes reads targets out).Keeps s := by
  unfold State.writeAt
  dsimp only
  split
  · trivial
  rcases ha : s.address x.at_.core x.at_.ctx cls ea align .store with ⟨a, t⟩
  refine Fired.keeps_congr (State.fixed_of_address ha) ?_
  cases a with
  | bad c => rfl
  | park m => simp
  | outside pa => simp
  | scratch a =>
    dsimp only
    split
    · rfl
    · next h => simp [State.fixed_countLines h]
  | device pa key =>
    dsimp only
    split
    · simp
    · split
      · rfl
      · next h => simp [State.fixed_countLines h]

theorem State.fixed_of_writeAt {s t : State} {x : Site} {cls : MemClass} {scope : Scope} {cp : CachePol} {ea align : Nat}
    {bytes : List (Byte × Byte)} {reads : Bool} {targets : List Target} {sent out : List (Target × Option Word)} {deps : List Nat}
    (h : s.writeAt x cls scope cp ea align bytes reads targets sent = .ok t out deps) : t.fixed = s.fixed := by
  simpa [h] using s.writeAt_keeps x cls scope cp ea align bytes reads targets sent

theorem State.unitAtomic_keeps (s : State) (x : Site) (i : Instr) (m : MemOps) (rm : RMode) (sp : Space) (addr key ea : Nat) :
    (s.unitAtomic x i m rm sp addr key ea).Keeps s := by
  unfold State.unitAtomic
  dsimp only
  split
  · rfl
  · split
    · trivial
    · split
      · rfl
      · next h => simp [State.fixed_countLines h]

theorem State.recordUpdate_keeps (s : State) (x : Site) (i : Instr) (f : Fields) (m : MemOps) (rm : RMode) (sp : Space)
    (addr key ea : Nat) : (s.recordUpdate x i f m rm sp addr key ea).Keeps s := by
  unfold State.recordUpdate
  split
  · rfl
  · next h => simp [State.fixed_countLines h]

/-! ### Streams (R225-R230, R290, R340) -/

theorem State.throughPort_keeps {s t : State} {x : Site} {port : PortRef} {act : Fired} (ht : t.fixed = s.fixed)
    (h : act.Keeps s) : (t.throughPort x port act).Keeps s := by
  unfold State.throughPort
  split
  · exact ht
  · split
    · trivial
    · exact h

@[simp] theorem State.fixed_setFifo (s : State) (ctx : Nat) (loc : PortLoc) (es : List FifoEntry) :
    (s.setFifo ctx loc es).fixed = s.fixed := by
  cases loc with
  | bank c b => exact s.fixed_updCore c (fun k => k.fixed_updBank b (fun _ => rfl))
  | link c e => exact s.fixed_updLane c ctx (fun _ => rfl)

@[simp] theorem State.fixed_recordProducer (s : State) (x : Site) (prod : Option PassRef) (tidx : Nat) :
    (s.recordProducer x prod tidx).fixed = s.fixed := by
  unfold State.recordProducer
  split
  · rfl
  · split <;> simp

theorem State.fixed_sendAcross {s t : State} {x : Site} {core : Nat} (h : s.sendAcross x core = some t) : t.fixed = s.fixed := by
  unfold State.sendAcross State.acceptToken at h
  split at h
  · cases h; rfl
  · split at h
    · cases h; rfl
    · split_ifs at h
      · cases h; rfl
      · cases h; exact s.fixed_updLane _ _ (fun _ => rfl)

end Sys2Proof.Machine

/-! What an instruction does when it fires, said once for all of them (spec/02 R53-R55): it is tried through `State.fire` with an act that
keeps the fixed part of the state, and with the targets that a null or a trap sends nulls to. -/

namespace Sys2Proof.Machine

/-! ### The one way of firing -/

/-- The state after every outcome of a firing has the fixed part of the state before, where the act keeps it. -/
theorem State.fixed_fire {f : Fields} {ts : List Target} {act : Site → State → Fired} (h : ∀ x s, (act x s).Keeps s) (s : State) :
    (s.fire f ts act).fixed = s.fixed := by
  unfold State.fire
  dsimp only
  split
  · rfl
  · split
    · rfl
    · next p _ _ toks r _ =>
      have hact := h { at_ := s.cur, spot := p, toks := toks, gen := (p.run.idx s.cur.idx).fired }
        (s.updRun s.cur (fun _ => r.consumed s.cur.idx true))
      split_ifs
      · simp
      · simp
      · split <;> simp_all

/-- A null on a fed slot (R55). -/
theorem fire_null {s : State} {f : Fields} {ts act p toks r} (hp : s.spot? s.cur = some p)
    (ho : operandSet p.block p.run s.cur.idx = some (toks, r)) (hn : anyNull toks = true) :
    s.fire f ts act = s.updRun s.cur (fun _ => sendTokens p.block.occ s.cur.idx (p.run.idx s.cur.idx).fired (siteOf s p toks).deps
      (toAll ts none) (r.consumed s.cur.idx false)) := by
  simp [State.fire, hp, ho, hn, siteOf]

/-- A predicate that does not match (R54). -/
theorem fire_predicated {s : State} {f : Fields} {ts act p toks r} (hp : s.spot? s.cur = some p)
    (ho : operandSet p.block p.run s.cur.idx = some (toks, r)) (hn : anyNull toks = false) (hm : predOk f toks = false) :
    s.fire f ts act = s.updRun s.cur (fun _ => r.consumed s.cur.idx false) := by
  simp [State.fire, hp, ho, hn, hm]

/-- An instruction's meaning as a firing: under the predicate of `f`, nulls going to `ts`, by an act that keeps the fixed part. -/
def FiresTo (meaning : State → Host.Outcome State Fault Refusal) (f : Fields) (ts : List Target) : Prop :=
  ∃ act : Site → State → Fired, (∀ x s, (act x s).Keeps s) ∧ ∀ s, meaning s = .next (s.fire f ts act)

theorem firesTo_of_act {f : Fields} {ts : List Target} {act : Site → State → Fired} (h : ∀ x s, (act x s).Keeps s) :
    FiresTo (fun s => .next (s.fire f ts act)) f ts :=
  ⟨act, h, fun _ => rfl⟩

/-! ### The shared ways of firing -/

section
variable (f : Fields)

theorem firesTo_fireValue (g : Site → State → Except Nat Word) : FiresTo (fun s => .next (s.fireValue f g)) f (Fields.both f) :=
  firesTo_of_act (fun x s => by cases g x s <;> simp)

theorem firesTo_fireRecord (g : Site → Run → Run) : FiresTo (fun s => .next (s.fireRecord f g)) f (Fields.both f) :=
  firesTo_of_act (fun x s => by simp)

theorem firesTo_fireOnce {act : Site → State → Fired} (h : ∀ x s, (act x s).Keeps s) :
    FiresTo (fun s => .next (s.fireOnce f act)) f (Fields.both f) :=
  firesTo_of_act (fun x s => by
    split
    · rfl
    · exact h x s)

theorem firesTo_fireGroup (op : Site → GroupOp) : FiresTo (fun s => .next (s.fireGroup f op)) f (Fields.both f) :=
  firesTo_fireOnce f (fun x s => by simp)

theorem firesTo_fireExit (g : Site → State → Except Nat ExitRec) : FiresTo (fun s => .next (s.fireExit f g)) f [] :=
  firesTo_of_act (fun x s => by
    split
    · rfl
    · cases g x s <;> simp)

theorem firesTo_fireContribution (ls : Nat) (g : Site → Word) : FiresTo (fun s => .next (s.fireContribution f ls g)) f [] :=
  firesTo_of_act (fun x s => by split_ifs <;> simp)

/-- An instruction that defers an effect, whatever its kind, and sends done tokens. -/
theorem firesTo_defer (kind : Site → Nat → DeferredKind) :
    FiresTo (fun s => .next (s.fire f (Fields.both f) (fun x s =>
      .ok (s.defer x.at_ x.deps (kind x)) (doneBoth f) [x.nextId]))) f (Fields.both f) :=
  firesTo_of_act (fun x s => by simp)

/-- What a queued instruction's own checks find, with the fixed part unchanged. -/
def Checked.Keeps (s : State) : Checked → Prop
  | .wait => True
  | .bad t _ _ => t.fixed = s.fixed
  | .ok t _ => t.fixed = s.fixed

theorem firesTo_fireQueued (flag : Option (BitVec 4)) {check : Site → State → Checked} (h : ∀ x s, (check x s).Keeps s) :
    FiresTo (fun s => .next (s.fireQueued f flag check)) f (Fields.both f) :=
  firesTo_of_act (fun x s => by
    have hc := h x s
    split
    · rfl
    · cases hk : check x s with
      | wait => trivial
      | bad t cause info => simpa [hk, Checked.Keeps] using hc
      | ok t kind =>
        simp only [hk, Checked.Keeps] at hc
        dsimp only
        split <;> simpa using hc)

theorem firesTo_fireAtomic (i : Instr) (m : MemOps) (rm : RMode) :
    FiresTo (fun s => .next (s.fireAtomic i f m rm)) f (Fields.both f) := by
  unfold State.fireAtomic
  refine firesTo_of_act (fun x s => ?_)
  · dsimp only
    split
    · trivial
    rcases ha : s.address x.at_.core x.at_.ctx m.cls (effAddr x.a m.disp) (fmtBytes m.fmt) .rmw with ⟨a, t⟩
    refine Fired.keeps_congr (State.fixed_of_address ha) ?_
    cases a with
    | bad c =>
      have ht := fixed_translate t x.at_.ctx (effAddr x.a m.disp) .rmw
      dsimp only
      split
      · split <;> next h => simpa [h] using ht
      · rfl
    | park g => simp
    | outside pa => dsimp only; split <;> simp
    | scratch a =>
      dsimp only
      split
      · exact t.unitAtomic_keeps ..
      · exact t.recordUpdate_keeps ..
    | device pa key =>
      dsimp only
      split
      · exact t.unitAtomic_keeps ..
      · exact t.recordUpdate_keeps ..

end

/-! ### Loads, stores and the other accesses (R201-R219, R231, R249) -/

theorem firesTo_ld (f : Fields) (m : MemOps) : FiresTo (execLd f m) f (Fields.both f) :=
  firesTo_of_act (fun _ s => Found.await_keeps (s.readAt_keeps ..) ..)

theorem firesTo_st (f : Fields) (m : MemOps) (rm : RMode) : FiresTo (execSt f m rm) f (Fields.both f) :=
  firesTo_of_act (fun _ s => s.writeAt_keeps ..)

theorem firesTo_ldt (f : Fields) (map : BitVec 12) (oe : Bool) : FiresTo (execLdt f map oe) f (Fields.both f) :=
  firesTo_of_act (fun x s => by
    split
    · rfl
    next m _ =>
    dsimp only
    split
    · rfl
    have hr := s.readElement_keeps x m (m.base + (m.place (coords x.a)).1) (m.place (coords x.a)).2.1 (m.place (coords x.a)).2.2
    generalize s.readElement x m _ _ _ = read at hr ⊢
    obtain ⟨r, also⟩ := read
    cases r with
    | bad t c => exact Found.await_keeps hr ..
    | park t g => exact Found.await_keeps hr ..
    | wait => trivial
    | got t e pa ids =>
      dsimp only
      split
      · exact Found.await_keeps hr ..
      · have hscale := Found.keeps_congr hr (t.readAt_keeps (x.after ids) m.cls m.policy (m.scaleVa (coords x.a)) m.sw m.sw .load)
        split
        · next h => exact Found.await_keeps (by simpa [h] using hscale) ..
        · exact Found.await_keeps hscale ..)

theorem firesTo_stt (f : Fields) (map : BitVec 12) (oe : Bool) (rm : RMode) : FiresTo (execStt f map oe rm) f (Fields.both f) :=
  firesTo_of_act (fun x s => by
    split
    · rfl
    next m _ =>
    dsimp only
    split
    · rfl
    split
    · rcases ha : s.address x.at_.core x.at_.ctx m.cls (m.base + (m.place (coords x.a)).1) 1 .store with ⟨a, t⟩
      refine Fired.keeps_congr (State.fixed_of_address ha) ?_
      split
      · next h => cases h; rfl
      · next h => cases h; simp
      · next h =>
        cases h
        split
        · rfl
        · next hl => simp [State.fixed_countLines hl]
    split
    · exact s.writeAt_keeps ..
    split
    · split
      · next hlow =>
        refine Fired.keeps_congr (State.fixed_of_writeAt hlow) ?_
        split
        · next hhigh => exact State.fixed_of_writeAt hhigh
        · exact State.writeAt_keeps ..
      · exact s.writeAt_keeps ..
    · exact s.writeAt_keeps ..)

theorem State.fixed_lineOf (s : State) (x : Site) (ea : Nat) : (s.lineOf x ea).2.fixed = s.fixed := by
  unfold State.lineOf
  split
  · next h => exact State.fixed_of_address h
  · rfl

theorem firesTo_pref (f : Fields) (m : MemOps) : FiresTo (execPref f m) f (Fields.both f) :=
  firesTo_of_act (fun x s => by
    have hl := s.fixed_lineOf x (effAddr x.a m.disp)
    split <;> next h =>
      simp only [h] at hl
      simp [hl])

theorem firesTo_evict (f : Fields) (m : MemOps) : FiresTo (execEvict f m) f (Fields.both f) :=
  firesTo_of_act (fun x s => by
    have hl := s.fixed_lineOf x (effAddr x.a m.disp)
    split <;> next h =>
      simp only [h] at hl
      simp [hl])

theorem firesTo_acq (f : Fields) (scope : Scope) : FiresTo (execAcq f scope) f (Fields.both f) :=
  firesTo_of_act (fun x s => by split <;> simp)

theorem firesTo_fence (f : Fields) (scope : Scope) : FiresTo (execFence f scope) f (Fields.both f) :=
  firesTo_of_act (fun x s => by cases scope <;> simp)

theorem firesTo_waita (f : Fields) (cls : MemClass) (fmt : Fmt) (oe : Bool) (cond : WaitCond) :
    FiresTo (execWaita f cls fmt oe cond) f (Fields.both f) :=
  firesTo_of_act (fun x s => by
    dsimp only
    split
    · next h =>
      have ht := State.fixed_of_readAt h
      split
      · exact Found.await_keeps (Found.keeps_got.mpr ht) ..
      · simpa using ht
    · exact Found.await_keeps (s.readAt_keeps ..) ..)

theorem firesTo_gath (f : Fields) (m : MemOps) : FiresTo (execGath f m) f (Fields.both f) :=
  firesTo_of_act (fun x s => by
    have hr := s.readAt_keeps x .s m.cp (effAddr x.a m.disp) (fmtBytes m.fmt) (fmtBytes m.fmt) .load
    dsimp only
    split
    · trivial
    · split <;> next h =>
        simp only [h] at hr
        simp_all)

theorem firesTo_grecv (f : Fields) : FiresTo (execGrecv f) f (Fields.both f) :=
  firesTo_of_act (fun x s => by
    split
    · rfl
    · split <;> simp)

theorem firesTo_copy (f : Fields) (cls : MemClass) (oe : Bool) (flag : Option (BitVec 4)) :
    FiresTo (execCopy f cls oe flag) f (Fields.both f) :=
  firesTo_of_act (fun x s => by
    have hr := s.readAt_keeps x cls .normal x.a.toNat 64 64 .load
    dsimp only
    generalize s.readAt x cls .normal x.a.toNat 64 64 .load = found at hr ⊢
    cases found with
    | bad t c => exact hr
    | park t g => simpa using hr
    | wait => trivial
    | got t bytes pa ids =>
      rw [Found.keeps_got] at hr
      dsimp only
      split_ifs <;> simp [hr])

/-! ### Streams (R226-R230) -/

section
variable (f : Fields) (port : PortRef) (oe : Bool)

theorem firesTo_push : FiresTo (execPush f port oe) f (Fields.both f) :=
  firesTo_fireOnce f (fun x s => State.throughPort_keeps rfl (by
    split
    · rfl
    · split_ifs
      · rfl
      · trivial
      · split
        · next ht =>
          split
          · trivial
          · simp [State.fixed_sendAcross ht]
        · trivial))

theorem firesTo_pop : FiresTo (execPop f port oe) f (Fields.both f) :=
  firesTo_fireOnce f (fun x s => by
    split
    · trivial
    · split
      · rfl
      · split
        · trivial
        · split
          · trivial
          · split <;> simp)

theorem firesTo_peek : FiresTo (execPeek f port oe) f (Fields.both f) :=
  firesTo_fireOnce f (fun x s => by
    split
    · trivial
    · split
      · rfl
      · split
        · rfl
        · split
          · rfl
          · split
            · trivial
            · split <;> simp)

theorem firesTo_wfeed : FiresTo (execWfeed f port oe) f (Fields.both f) :=
  firesTo_fireOnce f (fun x s => State.throughPort_keeps rfl (by
    split
    · split
      · trivial
      · split
        · next t _ ht =>
          dsimp only
          split
          · trivial
          · refine Fired.keeps_congr (State.fixed_sendAcross ht) ?_
            exact t.fixed_updCore _ (fun y => CoreState.fixed_updBank y _ (fun _ => rfl))
        · trivial
    · rfl))

theorem firesTo_wemit : FiresTo (execWemit f port oe) f (Fields.both f) :=
  firesTo_fireOnce f (fun x s => by
    split
    · trivial
    · split
      · split
        · rfl
        · dsimp only
          split
          · rfl
          · split
            · trivial
            · split
              · trivial
              · split
                · trivial
                · split <;> simp
      · rfl)

end

/-! ### The matrix engine (R147-R152) -/

section
variable (f : Fields) (oe : Bool) (flag : Option (BitVec 4)) (tile : BitVec 2)

theorem firesTo_mbld (cls : MemClass) (scope : Scope) (fmt : Fmt) (cp : CachePol) :
    FiresTo (execMbld f cls scope fmt cp oe flag) f (Fields.both f) :=
  firesTo_fireQueued f flag (fun x s => by dsimp only; split_ifs <;> rfl)

theorem firesTo_mzero : FiresTo (execMzero f oe flag tile) f (Fields.both f) :=
  firesTo_fireQueued f flag (fun _ _ => rfl)

theorem firesTo_mstore (cls : MemClass) (scope : Scope) (fmt : Fmt) (cp : CachePol) (rm : RMode) :
    FiresTo (execMstore f cls scope fmt cp oe flag tile rm) f (Fields.both f) :=
  firesTo_fireQueued f flag (fun x s => by dsimp only; split_ifs <;> rfl)

theorem firesTo_mma : FiresTo (execMma f oe flag) f (Fields.both f) :=
  firesTo_fireQueued f flag (fun x s => by
    have hr := s.readAt_keeps x .p .normal x.a.toNat 64 64 .load
    generalize s.readAt x .p .normal x.a.toNat 64 64 .load = found at hr ⊢
    cases found with
    | bad t c => exact hr
    | park t g => exact hr
    | wait => trivial
    | got t bytes pa ids =>
      dsimp only
      split_ifs
      · trivial
      · exact hr
      · exact hr)

theorem firesTo_mread : FiresTo (execMread f oe tile) f (Fields.both f) :=
  firesTo_of_act (fun x s => by
    split_ifs
    · rfl
    · rfl
    · split
      · trivial
      · split <;> simp)

end

/-! ### What is left: live values, GROW and SHRINK, CREDIT and CSTAT, the system instructions (R256, R257, R307, R308, R325, R418-R425) -/

section
variable (f : Fields)

theorem firesTo_read (lk : BitVec 6) : FiresTo (execRead f lk) f (Fields.both f) :=
  firesTo_of_act (fun x s => by split <;> simp)

theorem firesTo_write (lk : BitVec 6) : FiresTo (execWrite f lk) f [] :=
  firesTo_of_act (fun x s => by split <;> simp)

theorem firesTo_fan (t2 t3 : Option Target) : FiresTo (execFan f t2 t3) f (Fields.both f ++ t2.toList ++ t3.toList) :=
  firesTo_of_act (fun _ _ => rfl)

/-- An instruction that sends tokens and does nothing else. -/
theorem firesTo_send (ts : List Target) (out : Site → List (Target × Option Word)) :
    FiresTo (fun s => .next (s.fire f ts (fun x s => .ok s (out x) []))) f ts :=
  firesTo_of_act (fun _ _ => rfl)

theorem firesTo_grow (imm : Option Imm) : FiresTo (execGrow f imm) f (Fields.both f) :=
  firesTo_fireOnce f (fun x s => by dsimp only; split <;> simp)

theorem firesTo_shrink (imm : Option Imm) : FiresTo (execShrink f imm) f (Fields.both f) :=
  firesTo_fireOnce f (fun x s => by dsimp only; split <;> simp)

theorem firesTo_yield : FiresTo (execYield f) f (Fields.both f) :=
  firesTo_fireOnce f (fun x s => by simp)

theorem firesTo_credit (oe : Bool) : FiresTo (execCredit f oe) f (Fields.both f) :=
  firesTo_of_act (fun x s => by dsimp only; split <;> simp)

theorem firesTo_cstat (oe : Bool) : FiresTo (execCstat f oe) f (Fields.both f) :=
  firesTo_of_act (fun x s => by dsimp only; split <;> simp)

theorem firesTo_trap (code : BitVec 6) : FiresTo (execTrap f code) f [] :=
  firesTo_of_act (fun _ _ => rfl)

theorem firesTo_brk (tag : BitVec 16) : FiresTo (execBrk f tag) f [] :=
  firesTo_of_act (fun _ _ => rfl)

theorem firesTo_tlbinv (all oe : Bool) (flag : Option (BitVec 4)) : FiresTo (execTlbinv f all oe flag) f (Fields.both f) :=
  firesTo_of_act (fun x s => by dsimp only; split_ifs <;> simp)

theorem firesTo_cfginv (all oe : Bool) (flag : Option (BitVec 4)) : FiresTo (execCfginv f all oe flag) f (Fields.both f) :=
  firesTo_of_act (fun x s => by dsimp only; split_ifs <;> simp)

end

/-! ### Every instruction -/

theorem filterMap_id_pair {α : Type} (a b : Option α) : [a, b].filterMap id = a.toList ++ b.toList := by
  cases a <;> cases b <;> rfl

theorem Fields.both_append_eq (f : Fields) (t2 t3 : Option Target) :
    Fields.both f ++ t2.toList ++ t3.toList = [f.t0, f.t1, t2, t3].filterMap id := by
  rw [show [f.t0, f.t1, t2, t3] = [f.t0, f.t1] ++ [t2, t3] from rfl, List.filterMap_append, filterMap_id_pair, filterMap_id_pair,
    List.append_assoc]
  rfl

/-- Fields that may name no target name none (R300). -/
theorem Fields.both_of_ok {f : Fields} {predOk : Bool} (h : f.ok predOk false = true) : Fields.both f = [] := by
  simp_all [Fields.ok, Fields.both]

/-- An instruction whose meaning is a firing; where its word is well formed, nulls go to all the targets it names. -/
def IsFiring (i : Instr) (f : Fields) : Prop :=
  ∃ ts, FiresTo (exec i) f ts ∧ (i.wellFormed = true → ts = i.targets)

theorem isFiring_both {i : Instr} {f : Fields} (h : FiresTo (exec i) f (Fields.both f))
    (ht : i.targets = [f.t0, f.t1].filterMap id) : IsFiring i f :=
  ⟨_, h, fun _ => (ht.trans (filterMap_id_pair _ _)).symm⟩

/-- An instruction that sends nothing, since its fields may name no target. -/
theorem isFiring_nowhere {i : Instr} {f : Fields} {predOk more : Bool} (h : FiresTo (exec i) f [])
    (ht : i.targets = [f.t0, f.t1].filterMap id) (hok : i.wellFormed = (f.ok predOk false && more)) : IsFiring i f :=
  ⟨_, h, fun hw => by
    rw [hok, Bool.and_eq_true] at hw
    exact (Fields.both_of_ok hw.1).symm.trans (ht.trans (filterMap_id_pair _ _)).symm⟩

/-- Every instruction but STEER, MERGE, CARRY and INVAR is a firing. -/
theorem isFiring_of_fields {i : Instr} {f : Fields} (hf : i.fields? = some f)
    (h : ∀ g, i ≠ .steer g ∧ i ≠ .merge g ∧ i ≠ .carry g ∧ i ≠ .invar g) : IsFiring i f := by
  cases i with
  | steer g => exact absurd rfl (h g).1
  | merge g => exact absurd rfl (h g).2.1
  | carry g => exact absurd rfl (h g).2.2.1
  | invar g => exact absurd rfl (h g).2.2.2
  | mov | movi | movx | sel | test | sread | ojoin | add | sub | mul | mulh | mad | div | rem | neg | abs | min | max | clamp | absd
  | adds | subs | cmp | and | or | xor | andn | not | shl | shr | sar | rol | ror | fsh | clz | ctz | popc | brev | bfx | bfi | ext
  | perm | lea | crc | fadd | fsub | fmul | fma | fnma | fdiv | fsqrt | frcp | frsq | fmin | fmax | fabs | fneg | fsgn | fcmp | fclass
  | frint | ftoi | itof | fscale | flogb | fmant | fexp2 | flog2 | fsin | fcos | ftanh | ferf | fclamp =>
    cases hf
    exact isFiring_both (firesTo_fireValue _ _) rfl
  | setf | clrf | bankmode => cases hf; exact isFiring_both (firesTo_fireRecord _ _) rfl
  | gnew | gfree | join | leave | barinit => cases hf; exact isFiring_both (firesTo_fireGroup _ _) rfl
  | aadd | amin | amax | aand | aor | axor | axchg | acas | aincw | adecw | afadd | afmin | afmax | red =>
    cases hf
    exact isFiring_both (firesTo_fireAtomic _ _ _ _) rfl
  | spawn | rel | syswr => cases hf; exact isFiring_both (firesTo_defer _ _) rfl
  | null | sysrd => cases hf; exact isFiring_both (firesTo_send _ _ _) rfl
  | drop | bar => cases hf; exact isFiring_nowhere (firesTo_send _ _ _) rfl (Bool.and_true _).symm
  | exit | call | ret | endThread | resume | halt => cases hf; exact isFiring_nowhere (firesTo_fireExit _ _) rfl (Bool.and_true _).symm
  | elect | vote | bcast => cases hf; exact isFiring_nowhere (firesTo_fireContribution _ _ _) rfl (Bool.and_true _).symm
  | reduce | scan => cases hf; exact isFiring_nowhere (firesTo_fireContribution _ _ _) rfl rfl
  | write => cases hf; exact isFiring_nowhere (firesTo_write _ _) rfl (Bool.and_true _).symm
  | trap => cases hf; exact isFiring_nowhere (firesTo_trap _ _) rfl (Bool.and_true _).symm
  | brk => cases hf; exact isFiring_nowhere (firesTo_brk _ _) rfl (Bool.and_true _).symm
  | fan g t2 t3 =>
    cases hf
    exact ⟨_, firesTo_fan f t2 t3, fun _ => Fields.both_append_eq f t2 t3⟩
  | read => cases hf; exact isFiring_both (firesTo_read _ _) rfl
  | grow => cases hf; exact isFiring_both (firesTo_grow _ _) rfl
  | shrink => cases hf; exact isFiring_both (firesTo_shrink _ _) rfl
  | yield => cases hf; exact isFiring_both (firesTo_yield _) rfl
  | ld => cases hf; exact isFiring_both (firesTo_ld _ _) rfl
  | st => cases hf; exact isFiring_both (firesTo_st _ _ _) rfl
  | ldt _ map oe => cases hf; exact isFiring_both (firesTo_ldt f map oe) rfl
  | stt _ map oe rm => cases hf; exact isFiring_both (firesTo_stt f map oe rm) rfl
  | pref => cases hf; exact isFiring_both (firesTo_pref _ _) rfl
  | evict => cases hf; exact isFiring_both (firesTo_evict _ _) rfl
  | acq _ scope => cases hf; exact isFiring_both (firesTo_acq f scope) rfl
  | fence => cases hf; exact isFiring_both (firesTo_fence _ _) rfl
  | waita _ cls fmt oe cond => cases hf; exact isFiring_both (firesTo_waita f cls fmt oe cond) rfl
  | push _ port oe => cases hf; exact isFiring_both (firesTo_push f port oe) rfl
  | pop _ port oe => cases hf; exact isFiring_both (firesTo_pop f port oe) rfl
  | peek _ port oe => cases hf; exact isFiring_both (firesTo_peek f port oe) rfl
  | wfeed _ port oe => cases hf; exact isFiring_both (firesTo_wfeed f port oe) rfl
  | wemit _ port oe => cases hf; exact isFiring_both (firesTo_wemit f port oe) rfl
  | gath => cases hf; exact isFiring_both (firesTo_gath _ _) rfl
  | grecv => cases hf; exact isFiring_both (firesTo_grecv _) rfl
  | mbld _ cls scope fmt cp oe flag => cases hf; exact isFiring_both (firesTo_mbld f oe flag cls scope fmt cp) rfl
  | mma _ oe flag => cases hf; exact isFiring_both (firesTo_mma f oe flag) rfl
  | mzero _ oe flag tile => cases hf; exact isFiring_both (firesTo_mzero f oe flag tile) rfl
  | mstore _ cls scope fmt cp oe flag tile rm => cases hf; exact isFiring_both (firesTo_mstore f oe flag tile cls scope fmt cp rm) rfl
  | mread _ oe tile => cases hf; exact isFiring_both (firesTo_mread f oe tile) rfl
  | copy _ cls oe flag => cases hf; exact isFiring_both (firesTo_copy f cls oe flag) rfl
  | credit _ oe => cases hf; exact isFiring_both (firesTo_credit f oe) rfl
  | cstat _ oe => cases hf; exact isFiring_both (firesTo_cstat f oe) rfl
  | tlbinv _ all oe flag => cases hf; exact isFiring_both (firesTo_tlbinv f all oe flag) rfl
  | cfginv _ all oe flag => cases hf; exact isFiring_both (firesTo_cfginv f all oe flag) rfl
  | _ => cases hf

/-! ### The instructions that take their operands in their own way (R309-R313) -/

theorem State.fixed_fireSteer (s : State) (f : Fields) : (s.fireSteer f).fixed = s.fixed := by
  unfold State.fireSteer
  dsimp only
  split
  · rfl
  · split
    · rfl
    · simp

theorem State.fixed_fireTaking (s : State) (take : Spot → Nat → Option Taken) : (s.fireTaking take).fixed = s.fixed := by
  unfold State.fireTaking
  dsimp only
  split
  · rfl
  · split
    · rfl
    · simp

/-- An instruction's firing keeps the fixed part of the state. -/
theorem State.fixed_of_exec {i : Instr} {s t : State} (hf : i.fields? ≠ none) (h : exec i s = .next t) : t.fixed = s.fixed := by
  obtain ⟨f, hf⟩ := Option.ne_none_iff_exists'.mp hf
  by_cases htaking : ∀ g, i ≠ .steer g ∧ i ≠ .merge g ∧ i ≠ .carry g ∧ i ≠ .invar g
  · obtain ⟨ts, ⟨act, hkeeps, hexec⟩, -⟩ := isFiring_of_fields hf htaking
    cases h.symm.trans (hexec s)
    exact State.fixed_fire hkeeps s
  · cases i with
    | steer g => cases h; exact s.fixed_fireSteer g
    | merge g => cases h; exact s.fixed_fireTaking (mergeTake g)
    | carry g => cases h; exact s.fixed_fireTaking (carryTake g)
    | invar g => cases h; exact s.fixed_fireTaking (invarTake g)
    | _ => exact absurd (by simp) htaking

/-- Settles O53: every firing keeps the fixed part of the state, which holds all that the statement names. -/
theorem firingsChangeOnlyTheirPass : Obligations.FiringsChangeOnlyTheirPass := by
  intro i s t hf h
  have hfixed := State.fixed_of_exec hf h
  exact ⟨State.eq_of_fixed hfixed, fun a => congrArg (Memory.read · a) (State.mem_of_fixed hfixed), State.lanes_of_fixed hfixed,
    State.cores_of_fixed hfixed⟩

/-- Settles O52: an instruction with the shared rule of operands is tried through `State.fire`, which answers a null and a predicate
that does not match before it acts. -/
theorem nullsAndPredicates : Obligations.NullsAndPredicates := by
  intro i f s p toks r hf hw htaking hp ho
  obtain ⟨ts, ⟨act, -, hexec⟩, htargets⟩ := isFiring_of_fields hf htaking
  rw [hexec, ← htargets hw]
  exact ⟨fun hn => congrArg _ (fire_null hp ho hn), fun hn hm => congrArg _ (fire_predicated hp ho hn hm)⟩

end Sys2Proof.Machine

/-! The encoding (spec/02 R42, R47-R52): the codes of the fields read back, the fields of a word read back from its bits, and one lemma
per layout of the encoding tables, which says that the layout's reader finds in the layout's words the instruction they were written
from. -/

namespace Sys2Proof

/-! ### Codes and their readings (R47-R51, R79, R82) -/

@[simp] theorem Slot.ofCode_code (x : Slot) : Slot.ofCode x.code = x := by cases x <;> rfl
@[simp] theorem IntTy.ofCode_code (x : IntTy) : IntTy.ofCode x.code = x := by cases x <;> rfl
@[simp] theorem RMode.ofCode_code (x : RMode) : RMode.ofCode? x.code = some x := by cases x <;> rfl
@[simp] theorem Fmt.ofCode_code (x : Fmt) : Fmt.ofCode? x.code = some x := by cases x <;> rfl
@[simp] theorem MemClass.ofCode_code (x : MemClass) : MemClass.ofCode? x.code = some x := by cases x <;> rfl
@[simp] theorem Scope.ofCode_code (x : Scope) : Scope.ofCode x.code = x := by cases x <;> rfl
@[simp] theorem CachePol.ofCode_code (x : CachePol) : CachePol.ofCode x.code = x := by cases x <;> rfl
@[simp] theorem Cond.ofCode_code (x : Cond) : Cond.ofCode x.code = x := by cases x <;> rfl
@[simp] theorem ExtWidth.ofCode_code (x : ExtWidth) : ExtWidth.ofCode? x.code = some x := by cases x <;> rfl
@[simp] theorem CrcPoly.ofCode_code (x : CrcPoly) : CrcPoly.ofCode x.code = x := by cases x <;> rfl
@[simp] theorem TestMode.ofCode_code (x : TestMode) : TestMode.ofCode? x.code = some x := by cases x <;> rfl
@[simp] theorem VoteOp.ofCode_code (x : VoteOp) : VoteOp.ofCode? x.code = some x := by cases x <;> rfl
@[simp] theorem FoldOp.ofCode_code (x : FoldOp) : FoldOp.ofCode? x.code = some x := by cases x <;> rfl
@[simp] theorem WaitCond.ofCode_code (x : WaitCond) : WaitCond.ofCode? x.code = some x := by cases x <;> rfl
@[simp] theorem boolCode_eq_one (x : Bool) : decide (boolCode x = 1) = x := by cases x <;> rfl

theorem Slot.code_lt (x : Slot) : x.code < 4 := by cases x <;> decide
theorem IntTy.code_lt (x : IntTy) : x.code < 4 := by cases x <;> decide
theorem RMode.code_lt (x : RMode) : x.code < 6 := by cases x <;> decide
theorem Fmt.code_lt (x : Fmt) : x.code < 17 := by cases x <;> decide
theorem MemClass.code_lt (x : MemClass) : x.code < 3 := by cases x <;> decide
theorem Scope.code_lt (x : Scope) : x.code < 4 := by cases x <;> decide
theorem CachePol.code_lt (x : CachePol) : x.code < 4 := by cases x <;> decide
theorem Cond.code_lt (x : Cond) : x.code < 4 := by cases x <;> decide
theorem ExtWidth.code_lt (x : ExtWidth) : x.code < 3 := by cases x <;> decide
theorem CrcPoly.code_lt (x : CrcPoly) : x.code < 4 := by cases x <;> decide
theorem TestMode.code_lt (x : TestMode) : x.code < 3 := by cases x <;> decide
theorem VoteOp.code_lt (x : VoteOp) : x.code < 3 := by cases x <;> decide
theorem FoldOp.code_lt (x : FoldOp) : x.code < 9 := by cases x <;> decide
theorem WaitCond.code_lt (x : WaitCond) : x.code < 6 := by cases x <;> decide
theorem Pred.code_lt (x : Pred) : x.code < 3 := by cases x <;> decide
theorem boolCode_lt (x : Bool) : boolCode x < 2 := by cases x <;> decide

/-! ### The words and their fields (R47) -/

/-- Every field of a word fits its bits. -/
structure Raw.Fits (r : Raw) : Prop where
  op : r.op < 2 ^ 8
  fn : r.fn < 2 ^ 4
  pm : r.pm < 2 ^ 2
  u : r.u < 2
  x : r.x < 2
  t0 : r.t0 < 2 ^ 10
  t1 : r.t1 < 2 ^ 10
  ops : r.ops < 2 ^ 28
  ext : r.ext < 2 ^ 64

theorem Raw.word_lt {r : Raw} (h : r.Fits) : r.word < 2 ^ 64 := by
  obtain ⟨hop, hfn, hpm, hu, hx, h0, h1, hops, -⟩ := h
  unfold Raw.word
  omega

/-- The fields read from a word are those it was written from. -/
theorem Raw.ofWord_word {r : Raw} (h : r.Fits) : Raw.ofWord r.word r.ext = r := by
  obtain ⟨hop, hfn, hpm, hu, hx, h0, h1, hops, -⟩ := h
  obtain ⟨op, fn, pm, u, x, t0, t1, ops, ext⟩ := r
  simp only [Raw.ofWord, Raw.word, field, Raw.mk.injEq] at *
  refine ⟨?_, ?_, ?_, ?_, ?_, ?_, ?_, ?_, trivial⟩ <;> omega

/-- An instruction is read back from its bits when it is read from the fields of its words. -/
theorem decodeTableWord_of_fits {i : Instr} (n : Nat) (h : (encodeRaw i).Fits) (hd : decodeRaw (encodeRaw i) = .ok i) :
    decodeTableWord n (encodeBits i) = some i := by
  have hlow : encodeBits i % 2 ^ 64 = (encodeRaw i).word :=
    (Nat.add_mul_mod_self_left ..).trans (Nat.mod_eq_of_lt (Raw.word_lt h))
  have hhigh : encodeBits i / 2 ^ 64 % 2 ^ 64 = (encodeRaw i).ext := by
    rw [encodeBits, Nat.add_mul_div_left _ _ (Nat.two_pow_pos 64), Nat.div_eq_of_lt (Raw.word_lt h), Nat.zero_add,
      Nat.mod_eq_of_lt h.ext]
  rw [decodeTableWord, hlow, hhigh, decodeWord, Raw.ofWord_word h, hd]

/-! ### The fields of every word -/

theorem putTarget_lt (t : Option Target) : putTarget t < 2 ^ 10 := by
  cases t with
  | none => decide
  | some t =>
    have := t.idx.isLt
    have := t.slot.code_lt
    simp only [putTarget]
    omega

@[simp] theorem getTarget_putTarget (t : Option Target) : getTarget (putTarget t) = .ok t := by
  cases t with
  | none => rfl
  | some t =>
    have hi := t.idx.isLt
    have hs := t.slot.code_lt
    have h0 : putTarget (some t) ≠ 0 := by simp only [putTarget]; omega
    have h1 : ¬putTarget (some t) < 512 := by simp only [putTarget]; omega
    have h2 : field (putTarget (some t)) 2 7 = t.idx.toNat := by simp only [putTarget, field]; omega
    have h3 : field (putTarget (some t)) 0 2 = t.slot.code := by simp only [putTarget, field]; omega
    simp [getTarget, h0, h1, h2, h3]

@[simp] theorem except_ok_bind {ε α β : Type} (a : α) (k : α → Except ε β) : (Except.ok a >>= k) = k a := rfl

@[simp] theorem except_pure {ε α : Type} (a : α) : (pure a : Except ε α) = .ok a := rfl

@[simp] theorem orFault_some {α : Type} (a : α) (e : LoadFault) : orFault (some a) e = .ok a := rfl

theorem require_of_true {c : Bool} (e : LoadFault) (h : c = true) : require c e = .ok () := by
  simp [require, h]

theorem getFields_of_ok {r : Raw} {f : Fields} {predOk targetsOk : Bool} (hpm : r.pm = f.pm.code) (hu : r.u = boolCode f.hot)
    (h0 : r.t0 = putTarget f.t0) (h1 : r.t1 = putTarget f.t1) (hf : f.ok predOk targetsOk = true) :
    getFields predOk targetsOk r = .ok f := by
  obtain ⟨pm, hot, t0, t1⟩ := f
  simp only [Fields.ok, Bool.and_eq_true, Bool.or_eq_true, decide_eq_true_eq] at hf
  obtain ⟨hp, ht⟩ := hf
  have hreq : require (targetsOk || (t0.isNone && t1.isNone)) .target = .ok () := require_of_true _ (by simpa using ht)
  simp only [getFields, hpm, hu, h0, h1, getTarget_putTarget, except_ok_bind, hreq, boolCode_eq_one]
  cases pm with
  | always => rfl
  | onTrue => simp_all [Pred.code]
  | onFalse => simp_all [Pred.code]

/-! ### What the readers find in the words of the encoder -/

section
variable {op fn ops ext n : Nat} {f : Fields}

@[simp] theorem rawOf_ops : (rawOf op fn f ops).ops = ops := rfl
@[simp] theorem rawExt_ops : (rawExt op fn f ops ext).ops = ops := rfl
@[simp] theorem rawOf_fn : (rawOf op fn f ops).fn = fn := rfl
@[simp] theorem rawExt_fn : (rawExt op fn f ops ext).fn = fn := rfl
@[simp] theorem rawExt_x : (rawExt op fn f ops ext).x = 1 := rfl
@[simp] theorem rawExt_ext : (rawExt op fn f ops ext).ext = ext := rfl

theorem getFields_rawOf {predOk targetsOk : Bool} (h : f.ok predOk targetsOk = true) :
    getFields predOk targetsOk (rawOf op fn f ops) = .ok f := getFields_of_ok rfl rfl rfl rfl h
theorem getFields_rawExt {predOk targetsOk : Bool} (h : f.ok predOk targetsOk = true) :
    getFields predOk targetsOk (rawExt op fn f ops ext) = .ok f := getFields_of_ok rfl rfl rfl rfl h

@[simp] theorem fnZero_rawOf : fnZero (rawOf op 0 f ops) = .ok () := rfl
@[simp] theorem fnZero_rawExt : fnZero (rawExt op 0 f ops ext) = .ok () := rfl
@[simp] theorem noExt_rawOf : noExt (rawOf op fn f ops) = .ok () := rfl
@[simp] theorem needExt_rawExt : needExt (rawExt op fn f ops ext) = .ok () := rfl
@[simp] theorem opsBelow_zero : opsBelow n (rawOf op fn f 0) = .ok () := require_of_true _ (by simp)
@[simp] theorem opsBelow_zero_ext : opsBelow n (rawExt op fn f 0 ext) = .ok () := require_of_true _ (by simp)

theorem opsBelow_rawOf (h : ops < 2 ^ n) : opsBelow n (rawOf op fn f ops) = .ok () :=
  require_of_true _ (decide_eq_true h)

@[simp] theorem getImm_rawOf (imm : Option Imm) : getImm (rawOf op fn f (putImm imm)) = .ok imm := by
  cases imm with
  | none => simp [getImm, putImm]
  | some v =>
    have hv := v.isLt
    have h1 : putImm (some v) / 2 ^ 27 = 1 := by simp only [putImm]; omega
    have h2 : putImm (some v) % 2 ^ 27 = v.toNat := by simp only [putImm]; omega
    simp only [getImm, rawOf_ops, h1, h2, if_true, BitVec.ofNat_toNat, BitVec.setWidth_eq]

@[simp] theorem getTy_rawOf (ty : IntTy) : getTy (rawOf op ty.code f ops) = .ok ty := by
  cases ty <;> simp [getTy, require, IntTy.code, IntTy.ofCode]

@[simp] theorem getTyChk_rawOf (ty : IntTy) (chk : Bool) : getTyChk (rawOf op (ty.code + 4 * boolCode chk) f ops) = .ok (ty, chk) := by
  cases ty <;> cases chk <;> simp [getTyChk, require, IntTy.code, IntTy.ofCode, boolCode]

@[simp] theorem getRm_rawOf (rm : RMode) : getRm (rawOf op rm.code f ops) = .ok rm := by
  simp [getRm]

@[simp] theorem getRm_rawExt (rm : RMode) : getRm (rawExt op rm.code f ops ext) = .ok rm := by
  simp [getRm]

@[simp] theorem getRmAlt_rawOf (rm : RMode) (alt : Bool) : getRmAlt (rawOf op (rm.code + 8 * boolCode alt) f ops) = .ok (rm, alt) := by
  cases rm <;> cases alt <;> simp [getRmAlt, RMode.code, RMode.ofCode?, boolCode]

/-- A type beside two more bits of FN (R105). -/
theorem fn_type_div (ty : IntTy) (n : Nat) : (ty.code + 4 * n) / 4 = n := by
  have := ty.code_lt
  omega

end

/-! ### One lemma per layout: its words fit, and its reader finds the instruction -/

/-- A reader finds an instruction in a word, each field of which fits its bits where the opcode does. -/
structure Reads (dec : Raw → Except LoadFault Instr) (r : Raw) (i : Instr) : Prop where
  fits : r.op < 2 ^ 8 → r.Fits
  reads : dec r = .ok i

theorem rawOf_fits {op fn ops : Nat} (f : Fields) (hfn : fn < 2 ^ 4) (hops : ops < 2 ^ 28) (hop : op < 2 ^ 8) :
    (rawOf op fn f ops).Fits :=
  ⟨hop, hfn, Nat.lt_trans f.pm.code_lt (by decide), boolCode_lt _, Nat.zero_lt_two, putTarget_lt _, putTarget_lt _, hops,
    Nat.two_pow_pos 64⟩

theorem rawExt_fits {op fn ops ext : Nat} (f : Fields) (hfn : fn < 2 ^ 4) (hops : ops < 2 ^ 28) (hext : ext < 2 ^ 64)
    (hop : op < 2 ^ 8) : (rawExt op fn f ops ext).Fits :=
  ⟨hop, hfn, Nat.lt_trans f.pm.code_lt (by decide), boolCode_lt _, Nat.one_lt_two, putTarget_lt _, putTarget_lt _, hops, hext⟩

theorem putImm_lt (imm : Option Imm) : putImm imm < 2 ^ 28 := by
  cases imm with
  | none => decide
  | some v =>
    have := v.isLt
    simp only [putImm]
    omega

section
variable {op : Nat} {f : Fields}

theorem reads_plain {k : Fields → Instr} {p t : Bool} (hf : f.ok p t = true) :
    Reads (decPlain k p t) (rawOf op 0 f 0) (k f) :=
  ⟨rawOf_fits f (by decide) (by decide), by simp [decPlain, getFields_rawOf hf]⟩

theorem reads_low {n : Nat} (hn : n ≤ 28) {k : Fields → BitVec n → Instr} {p t : Bool} {v : BitVec n} (hf : f.ok p t = true) :
    Reads (decLow n k p t) (rawOf op 0 f v.toNat) (k f v) :=
  ⟨rawOf_fits f (by decide) (Nat.lt_of_lt_of_le v.isLt (Nat.pow_le_pow_right Nat.two_pos hn)), by
    simp [decLow, getFields_rawOf hf, opsBelow_rawOf v.isLt]⟩

theorem reads_imm {k : Fields → Imm → Instr} {imm : Imm} (hf : f.ok true true = true) :
    Reads (decImm k) (rawOf op 0 f (2 ^ 27 + imm.toNat)) (k f imm) := by
  have h1 : (2 ^ 27 + imm.toNat) / 2 ^ 27 = 1 := by omega
  have h2 : (2 ^ 27 + imm.toNat) % 2 ^ 27 = imm.toNat := by omega
  exact ⟨rawOf_fits f (by decide) (putImm_lt (some imm)), by
    simp only [decImm, fnZero_rawOf, getFields_rawOf hf, rawOf_ops, h1, h2, require_of_true, decide_true, noExt_rawOf,
      except_ok_bind, except_pure, BitVec.ofNat_toNat, BitVec.setWidth_eq]⟩

theorem reads_ext64 {k : Fields → Word → Instr} {imm : Word} (hf : f.ok true true = true) :
    Reads (decExt64 k) (rawExt op 0 f 0 imm.toNat) (k f imm) :=
  ⟨rawExt_fits f (by decide) (by decide) imm.isLt, by simp [decExt64, getFields_rawExt hf]⟩

theorem reads_fan {k : Fields → Option Target → Option Target → Instr} {t2 t3 : Option Target} (hf : f.ok true true = true) :
    Reads (decFan k) (rawExt op 0 f 0 (putTarget t2 * 2 ^ 54 + putTarget t3 * 2 ^ 44)) (k f t2 t3) := by
  have h2 := putTarget_lt t2
  have h3 := putTarget_lt t3
  refine ⟨rawExt_fits f (by decide) (by decide) (by omega), ?_⟩
  generalize hext : putTarget t2 * 2 ^ 54 + putTarget t3 * 2 ^ 44 = ext
  have e2 : field ext 54 10 = putTarget t2 := by simp only [field]; omega
  have e3 : field ext 44 10 = putTarget t3 := by simp only [field]; omega
  have e0 : field ext 0 44 = 0 := by simp only [field]; omega
  simp [decFan, getFields_rawExt hf, e2, e3, e0, require]

theorem reads_optImm {k : Fields → Option Imm → Instr} {imm : Option Imm} (hf : f.ok true true = true) :
    Reads (decOptImm k) (rawOf op 0 f (putImm imm)) (k f imm) :=
  ⟨rawOf_fits f (by decide) (putImm_lt imm), by simp [decOptImm, getFields_rawOf hf]⟩

theorem reads_call {k : Fields → BitVec 6 → BitVec 3 → BitVec 3 → Instr} {lk : BitVec 6} {xr xn : BitVec 3}
    (hf : f.ok true false = true) :
    Reads (decCall k) (rawOf op 0 f (lk.toNat * 2 ^ 6 + xr.toNat * 2 ^ 3 + xn.toNat)) (k f lk xr xn) := by
  refine ⟨rawOf_fits f (by decide) (by omega), ?_⟩
  generalize hops : lk.toNat * 2 ^ 6 + xr.toNat * 2 ^ 3 + xn.toNat = ops
  have h6 : field ops 6 6 = lk.toNat := by simp only [field]; omega
  have h3 : field ops 3 3 = xr.toNat := by simp only [field]; omega
  have h0 : field ops 0 3 = xn.toNat := by simp only [field]; omega
  simp [decCall, getFields_rawOf hf, opsBelow_rawOf (show ops < 2 ^ 12 by omega), h6, h3, h0]

end
end Sys2Proof

namespace Sys2Proof

/-! ### The control layouts with fields of their own in OPS (R154, R318, R319, R324, R326) -/

section
variable {op : Nat} {f : Fields}

theorem reads_test {k : Fields → TestMode → BitVec 12 → Instr} {mode : TestMode} {mask : BitVec 12}
    (hw : (f.ok true true && decide (mask ≠ 0)) = true) :
    Reads (decTest k) (rawOf op 0 f (mode.code * 2 ^ 12 + mask.toNat)) (k f mode mask) := by
  simp only [Bool.and_eq_true, decide_eq_true_eq] at hw
  obtain ⟨hf, hm⟩ := hw
  have hmode := mode.code_lt
  have hne : mask.toNat ≠ 0 := fun h => hm (BitVec.eq_of_toNat_eq h)
  refine ⟨rawOf_fits f (by decide) (by omega), ?_⟩
  generalize hops : mode.code * 2 ^ 12 + mask.toNat = ops
  have h12 : field ops 12 2 = mode.code := by simp only [field]; omega
  have h0 : field ops 0 12 = mask.toNat := by simp only [field]; omega
  simp [decTest, getFields_rawOf hf, opsBelow_rawOf (show ops < 2 ^ 14 by omega), require, h12, h0, hne]

theorem reads_mask {k : Fields → BitVec 12 → Instr} {mask : BitVec 12} (hw : (f.ok true true && decide (mask ≠ 0)) = true) :
    Reads (decMask k) (rawOf op 0 f mask.toNat) (k f mask) := by
  simp only [Bool.and_eq_true, decide_eq_true_eq] at hw
  obtain ⟨hf, hm⟩ := hw
  have hne : mask.toNat ≠ 0 := fun h => hm (BitVec.eq_of_toNat_eq h)
  exact ⟨rawOf_fits f (by decide) (by omega), by
    simp [decMask, getFields_rawOf hf, opsBelow_rawOf mask.isLt, require, hne]⟩

theorem reads_ls {k : Fields → BitVec 6 → Instr} {ls : BitVec 6} (hf : f.ok true false = true) :
    Reads (decLs k) (rawOf op 0 f (ls.toNat * 2 ^ 12)) (k f ls) := by
  refine ⟨rawOf_fits f (by decide) (by omega), ?_⟩
  generalize hops : ls.toNat * 2 ^ 12 = ops
  have hlt : ops < 2 ^ 18 := by omega
  have h12 : field ops 12 6 = ls.toNat := by simp only [field]; omega
  have h0 : field ops 0 12 = 0 := by simp only [field]; omega
  simp [-Nat.reducePow, decLs, getFields_rawOf hf, require, hlt, h12, h0]

theorem reads_vote {k : Fields → VoteOp → BitVec 6 → Instr} {opk : VoteOp} {ls : BitVec 6} (hf : f.ok true false = true) :
    Reads (decVote k) (rawOf op 0 f (opk.code * 2 ^ 23 + ls.toNat * 2 ^ 12)) (k f opk ls) := by
  have hopk := opk.code_lt
  refine ⟨rawOf_fits f (by decide) (by omega), ?_⟩
  generalize hops : opk.code * 2 ^ 23 + ls.toNat * 2 ^ 12 = ops
  have hlt : ops < 2 ^ 27 := by omega
  have h23 : field ops 23 4 = opk.code := by simp only [field]; omega
  have h18 : field ops 18 5 = 0 := by simp only [field]; omega
  have h12 : field ops 12 6 = ls.toNat := by simp only [field]; omega
  have h0 : field ops 0 12 = 0 := by simp only [field]; omega
  simp [-Nat.reducePow, decVote, getFields_rawOf hf, require, hlt, h23, h18, h12, h0]

theorem reads_sread {k : Fields → BitVec 4 → Instr} {which : BitVec 4} (hw : (f.ok true true && decide (which.toNat ≤ 11)) = true) :
    Reads (decSread k) (rawOf op 0 f which.toNat) (k f which) := by
  simp only [Bool.and_eq_true, decide_eq_true_eq] at hw
  obtain ⟨hf, hle⟩ := hw
  exact ⟨rawOf_fits f (by decide) (by omega), by simp [decSread, getFields_rawOf hf, require, hle]⟩

end

/-! ### The integer and the W-float layouts (R105, R122) -/

section
variable {op : Nat} {f : Fields}

theorem fn_type_lt (ty : IntTy) {n : Nat} (h : n < 4) : ty.code + 4 * n < 2 ^ 4 := by
  have := ty.code_lt
  omega

theorem reads_intChkImm {k : Fields → IntTy → Bool → Option Imm → Instr} {ty : IntTy} {chk : Bool} {imm : Option Imm}
    (hf : f.ok true true = true) :
    Reads (decIntChkImm k) (rawOf op (ty.code + 4 * boolCode chk) f (putImm imm)) (k f ty chk imm) :=
  ⟨rawOf_fits f (fn_type_lt ty (Nat.lt_trans (boolCode_lt chk) (by decide))) (putImm_lt imm), by
    simp [decIntChkImm, getFields_rawOf hf]⟩

theorem reads_intImm {k : Fields → IntTy → Option Imm → Instr} {ty : IntTy} {imm : Option Imm} (hf : f.ok true true = true) :
    Reads (decIntImm k) (rawOf op ty.code f (putImm imm)) (k f ty imm) :=
  ⟨rawOf_fits f (Nat.lt_trans ty.code_lt (by decide)) (putImm_lt imm), by simp [decIntImm, getFields_rawOf hf]⟩

theorem reads_intChk {k : Fields → IntTy → Bool → Instr} {ty : IntTy} {chk : Bool} (hf : f.ok true true = true) :
    Reads (decIntChk k) (rawOf op (ty.code + 4 * boolCode chk) f 0) (k f ty chk) :=
  ⟨rawOf_fits f (fn_type_lt ty (Nat.lt_trans (boolCode_lt chk) (by decide))) (by decide), by
    simp [decIntChk, getFields_rawOf hf]⟩

theorem reads_int {k : Fields → IntTy → Instr} {ty : IntTy} (hf : f.ok true true = true) :
    Reads (decInt k) (rawOf op ty.code f 0) (k f ty) :=
  ⟨rawOf_fits f (Nat.lt_trans ty.code_lt (by decide)) (by decide), by simp [decInt, getFields_rawOf hf]⟩

theorem reads_intCond {k : Fields → IntTy → Cond → Option Imm → Instr} {ty : IntTy} {cond : Cond} {imm : Option Imm}
    (hf : f.ok true true = true) :
    Reads (decIntCond k) (rawOf op (ty.code + 4 * cond.code) f (putImm imm)) (k f ty cond imm) :=
  ⟨rawOf_fits f (fn_type_lt ty cond.code_lt) (putImm_lt imm), by
    simp [decIntCond, getFields_rawOf hf, Nat.mod_eq_of_lt ty.code_lt, fn_type_div]⟩

theorem reads_intDir {k : Fields → IntTy → Bool → Option Imm → Instr} {ty : IntTy} {right : Bool} {imm : Option Imm}
    (hf : f.ok true true = true) :
    Reads (decIntDir k) (rawOf op (ty.code + 4 * boolCode right) f (putImm imm)) (k f ty right imm) :=
  ⟨rawOf_fits f (fn_type_lt ty (Nat.lt_trans (boolCode_lt right) (by decide))) (putImm_lt imm), by
    simp [decIntDir, getFields_rawOf hf]⟩

theorem reads_intWidth {k : Fields → IntTy → ExtWidth → Instr} {ty : IntTy} {width : ExtWidth} (hf : f.ok true true = true) :
    Reads (decIntWidth k) (rawOf op (ty.code + 4 * width.code) f 0) (k f ty width) :=
  ⟨rawOf_fits f (fn_type_lt ty (Nat.lt_trans width.code_lt (by decide))) (by decide), by
    simp [decIntWidth, getFields_rawOf hf, Nat.mod_eq_of_lt ty.code_lt, fn_type_div]⟩

theorem reads_intScale {k : Fields → IntTy → BitVec 2 → Option Imm → Instr} {ty : IntTy} {scale : BitVec 2} {imm : Option Imm}
    (hf : f.ok true true = true) :
    Reads (decIntScale k) (rawOf op (ty.code + 4 * scale.toNat) f (putImm imm)) (k f ty scale imm) :=
  ⟨rawOf_fits f (fn_type_lt ty scale.isLt) (putImm_lt imm), by
    simp [decIntScale, getFields_rawOf hf, Nat.mod_eq_of_lt ty.code_lt, fn_type_div]⟩

theorem reads_intPoly {k : Fields → IntTy → CrcPoly → Option Imm → Instr} {ty : IntTy} {poly : CrcPoly} {imm : Option Imm}
    (hf : f.ok true true = true) :
    Reads (decIntPoly k) (rawOf op (ty.code + 4 * poly.code) f (putImm imm)) (k f ty poly imm) :=
  ⟨rawOf_fits f (fn_type_lt ty poly.code_lt) (putImm_lt imm), by
    simp [decIntPoly, getFields_rawOf hf, Nat.mod_eq_of_lt ty.code_lt, fn_type_div]⟩

theorem fn_mode_lt (rm : RMode) : rm.code < 2 ^ 4 := Nat.lt_trans rm.code_lt (by decide)

theorem reads_fltImm {k : Fields → RMode → Option Imm → Instr} {rm : RMode} {imm : Option Imm} (hf : f.ok true true = true) :
    Reads (decFltImm k) (rawOf op rm.code f (putImm imm)) (k f rm imm) :=
  ⟨rawOf_fits f (fn_mode_lt rm) (putImm_lt imm), by simp [decFltImm, getFields_rawOf hf]⟩

theorem reads_flt {k : Fields → RMode → Instr} {rm : RMode} (hf : f.ok true true = true) :
    Reads (decFlt k) (rawOf op rm.code f 0) (k f rm) :=
  ⟨rawOf_fits f (fn_mode_lt rm) (by decide), by simp [decFlt, getFields_rawOf hf]⟩

theorem reads_fltModImm {k : Fields → RMode → Bool → Option Imm → Instr} {rm : RMode} {alt : Bool} {imm : Option Imm}
    (hf : f.ok true true = true) :
    Reads (decFltModImm k) (rawOf op (rm.code + 8 * boolCode alt) f (putImm imm)) (k f rm alt imm) := by
  have hrm := rm.code_lt
  have halt := boolCode_lt alt
  exact ⟨rawOf_fits f (by omega) (putImm_lt imm), by simp [decFltModImm, getFields_rawOf hf]⟩

theorem reads_fltTy {k : Fields → RMode → IntTy → Instr} {rm : RMode} {ty : IntTy} (hf : f.ok true true = true) :
    Reads (decFltTy k) (rawOf op rm.code f ty.code) (k f rm ty) :=
  ⟨rawOf_fits f (fn_mode_lt rm) (Nat.lt_trans ty.code_lt (by decide)), by
    simp [decFltTy, getFields_rawOf hf, opsBelow_rawOf (n := 2) ty.code_lt]⟩

end

/-! ### The memory layouts (R51, R195, R205, R214, R215, R219) -/

section
variable {op : Nat} {f : Fields}

theorem putMem_lt (m : MemOps) : putMem m < 2 ^ 28 := by
  have := m.cls.code_lt
  have := m.scope.code_lt
  have := m.fmt.code_lt
  have := m.cp.code_lt
  have := boolCode_lt m.oe
  have := m.disp.isLt
  simp only [putMem]
  omega

/-- The fields of the memory layout, read from the bits they were put in. -/
theorem field_putMem (m : MemOps) :
    field (putMem m) 26 2 = m.cls.code ∧ field (putMem m) 24 2 = m.scope.code ∧ field (putMem m) 19 5 = m.fmt.code ∧
      field (putMem m) 17 2 = m.cp.code ∧ field (putMem m) 16 1 = boolCode m.oe ∧ field (putMem m) 0 16 = m.disp.toNat := by
  have := m.cls.code_lt
  have := m.scope.code_lt
  have := m.fmt.code_lt
  have := m.cp.code_lt
  have := boolCode_lt m.oe
  have := m.disp.isLt
  simp only [putMem, field]
  omega

theorem getMem_rawOf {s : MemSet} {m : MemOps} {fn : Nat} (h : s.ok m = true) : getMem s (rawOf op fn f (putMem m)) = .ok m := by
  obtain ⟨hcls, hscope, hfmt, hcp, hoe, hdisp⟩ := field_putMem m
  simp [getMem, hcls, hscope, hfmt, hcp, hoe, hdisp, require, h]

theorem reads_mem {s : MemSet} {k : Fields → MemOps → Instr} {m : MemOps} (hw : (f.ok true true && s.ok m) = true) :
    Reads (decMem s k) (rawOf op 0 f (putMem m)) (k f m) := by
  obtain ⟨hf, hm⟩ := Bool.and_eq_true_iff.1 hw
  exact ⟨rawOf_fits f (by decide) (putMem_lt m), by simp [decMem, getFields_rawOf hf, getMem_rawOf hm]⟩

theorem Fmt.rmOk_iff (fmt : Fmt) (rm : RMode) : fmt.rmOk rm = true ↔ 6 < fmt.code ∨ rm = .rne := by
  cases fmt <;> cases rm <;> decide

theorem reads_memRm {s : MemSet} {k : Fields → MemOps → RMode → Instr} {m : MemOps} {rm : RMode}
    (hw : (f.ok true true && s.ok m && m.fmt.rmOk rm) = true) :
    Reads (decMemRm s k) (rawOf op rm.code f (putMem m)) (k f m rm) := by
  simp only [Bool.and_eq_true] at hw
  obtain ⟨⟨hf, hm⟩, hrm⟩ := hw
  obtain ⟨-, -, hfmt, -⟩ := field_putMem m
  rw [Fmt.rmOk_iff] at hrm
  refine ⟨rawOf_fits f (fn_mode_lt rm) (putMem_lt m), ?_⟩
  rcases hrm with h | rfl
  · simp [decMemRm, getFields_rawOf hf, getMem_rawOf hm, require, hfmt, h]
  · simp [decMemRm, getFields_rawOf hf, getMem_rawOf hm, require, getRm, RMode.ofCode?, RMode.code]

theorem reads_memFlt {s : MemSet} {k : Fields → MemOps → RMode → Instr} {m : MemOps} {rm : RMode}
    (hw : (f.ok true true && s.ok m) = true) :
    Reads (decMemFlt s k) (rawOf op rm.code f (putMem m)) (k f m rm) := by
  obtain ⟨hf, hm⟩ := Bool.and_eq_true_iff.1 hw
  exact ⟨rawOf_fits f (fn_mode_lt rm) (putMem_lt m), by simp [decMemFlt, getFields_rawOf hf, getMem_rawOf hm]⟩

/-- OE and a map, as LDT and STT write them (R205). -/
theorem field_map (oe : Bool) (map : BitVec 12) :
    boolCode oe * 2 ^ 16 + map.toNat < 2 ^ 17 ∧ field (boolCode oe * 2 ^ 16 + map.toNat) 12 4 = 0 ∧
      field (boolCode oe * 2 ^ 16 + map.toNat) 0 12 = map.toNat ∧ field (boolCode oe * 2 ^ 16 + map.toNat) 16 1 = boolCode oe := by
  have := boolCode_lt oe
  simp only [field]
  omega

theorem reads_map {k : Fields → BitVec 12 → Bool → Instr} {map : BitVec 12} {oe : Bool} (hf : f.ok true true = true) :
    Reads (decMap k) (rawOf op 0 f (boolCode oe * 2 ^ 16 + map.toNat)) (k f map oe) := by
  obtain ⟨hlt, h12, h0, h16⟩ := field_map oe map
  exact ⟨rawOf_fits f (by decide) (by omega), by simp [-Nat.reducePow, decMap, getFields_rawOf hf, require, hlt, h12, h0, h16]⟩

theorem reads_mapRm {k : Fields → BitVec 12 → Bool → RMode → Instr} {map : BitVec 12} {oe : Bool} {rm : RMode}
    (hf : f.ok true true = true) :
    Reads (decMapRm k) (rawOf op rm.code f (boolCode oe * 2 ^ 16 + map.toNat)) (k f map oe rm) := by
  obtain ⟨hlt, h12, h0, h16⟩ := field_map oe map
  exact ⟨rawOf_fits f (fn_mode_lt rm) (by omega), by
    simp [-Nat.reducePow, decMapRm, getFields_rawOf hf, require, hlt, h12, h0, h16]⟩

theorem redRmOk_iff (opk : FoldOp) (rm : RMode) : redRmOk opk rm = true ↔ 6 ≤ opk.code ∨ rm = .rne := by
  cases opk <;> cases rm <;> decide

/-- What a RED's operands say of its memory layout alone. -/
theorem redOk_mem {m : MemOps} {nu : Bool} {opk : FoldOp} (h : redOk m nu opk = true) :
    (m.scopeOk && decide (m.cls ≠ .s) && (m.fmt.atomicInt || m.fmt.atomicFloat)) = true := by
  simp only [redOk, Bool.and_eq_true, Bool.or_eq_true] at h ⊢
  obtain ⟨⟨hsc, hfmt⟩, -⟩ := h
  refine ⟨hsc, ?_⟩
  split at hfmt
  · exact .inr hfmt
  · exact .inl hfmt

theorem reads_red {k : Fields → MemOps → RMode → Bool → FoldOp → Instr} {m : MemOps} {rm : RMode} {nu : Bool} {opk : FoldOp}
    (hw : (f.ok true true && redOk m nu opk && redRmOk opk rm) = true) :
    Reads (decRed k) (rawExt op rm.code f (putMem m) (boolCode nu * 2 ^ 4 + opk.code)) (k f m rm nu opk) := by
  simp only [Bool.and_eq_true] at hw
  obtain ⟨⟨hf, hred⟩, hrm⟩ := hw
  have hnu := boolCode_lt nu
  have hopk := opk.code_lt
  refine ⟨rawExt_fits f (fn_mode_lt rm) (putMem_lt m) (by omega), ?_⟩
  generalize hext : boolCode nu * 2 ^ 4 + opk.code = ext
  have h0 : field ext 0 4 = opk.code := by simp only [field]; omega
  have h4 : field ext 4 1 = boolCode nu := by simp only [field]; omega
  have h5 : field ext 5 59 = 0 := by simp only [field]; omega
  obtain ⟨hcls, hscope, hfmt, hcp, hoe, hdisp⟩ := field_putMem m
  rw [redRmOk_iff] at hrm
  have hmem := redOk_mem hred
  simp only [Bool.and_eq_true, Bool.or_eq_true, decide_eq_true_eq] at hmem
  rcases hrm with h | rfl
  · simp [decRed, getFields_rawExt hf, require, h0, h4, h5, hcls, hscope, hfmt, hcp, hoe, hdisp, hred, hmem, h]
  · simp [decRed, getFields_rawExt hf, require, h0, h4, h5, hcls, hscope, hfmt, hcp, hoe, hdisp, hred, hmem, getRm,
      RMode.ofCode?, RMode.code]

theorem reads_scope {k : Fields → Scope → Instr} {scope : Scope} (hf : f.ok true true = true) :
    Reads (decScope k) (rawOf op 0 f (scope.code * 2 ^ 24)) (k f scope) := by
  have hscope := scope.code_lt
  refine ⟨rawOf_fits f (by decide) (by omega), ?_⟩
  generalize hops : scope.code * 2 ^ 24 = ops
  have hlt : ops < 2 ^ 26 := by omega
  have h24 : field ops 24 2 = scope.code := by simp only [field]; omega
  have h0 : field ops 0 24 = 0 := by simp only [field]; omega
  simp [-Nat.reducePow, decScope, getFields_rawOf hf, require, hlt, h24, h0]

theorem reads_waita {k : Fields → MemClass → Fmt → Bool → WaitCond → Instr} {cls : MemClass} {fmt : Fmt} {oe : Bool}
    {cond : WaitCond} (hw : (f.ok true true && decide (cls ≠ .s) && fmt.atomicInt) = true) :
    Reads (decWaita k) (rawOf op 0 f (cls.code * 2 ^ 26 + fmt.code * 2 ^ 19 + boolCode oe * 2 ^ 16 + cond.code * 2 ^ 13))
      (k f cls fmt oe cond) := by
  simp only [Bool.and_eq_true, decide_eq_true_eq] at hw
  obtain ⟨⟨hf, hcls⟩, hfmt⟩ := hw
  have hc := cls.code_lt
  have hm := fmt.code_lt
  have ho := boolCode_lt oe
  have hd := cond.code_lt
  refine ⟨rawOf_fits f (by decide) (by omega), ?_⟩
  generalize hops : cls.code * 2 ^ 26 + fmt.code * 2 ^ 19 + boolCode oe * 2 ^ 16 + cond.code * 2 ^ 13 = ops
  have h26 : field ops 26 2 = cls.code := by simp only [field]; omega
  have h24 : field ops 24 2 = 0 := by simp only [field]; omega
  have h19 : field ops 19 5 = fmt.code := by simp only [field]; omega
  have h17 : field ops 17 2 = 0 := by simp only [field]; omega
  have h16 : field ops 16 1 = boolCode oe := by simp only [field]; omega
  have h13 : field ops 13 3 = cond.code := by simp only [field]; omega
  have h0 : field ops 0 13 = 0 := by simp only [field]; omega
  simp [decWaita, getFields_rawOf hf, require, hcls, hfmt, h26, h24, h19, h17, h16, h13, h0]

theorem reads_oe {k : Fields → Bool → Instr} {oe : Bool} (hf : f.ok true true = true) :
    Reads (decOe k) (rawOf op 0 f (boolCode oe * 2 ^ 16)) (k f oe) := by
  have ho := boolCode_lt oe
  refine ⟨rawOf_fits f (by decide) (by omega), ?_⟩
  generalize hops : boolCode oe * 2 ^ 16 = ops
  have hlt : ops < 2 ^ 17 := by omega
  have h16 : field ops 16 1 = boolCode oe := by simp only [field]; omega
  have h0 : field ops 0 16 = 0 := by simp only [field]; omega
  simp [-Nat.reducePow, decOe, getFields_rawOf hf, require, hlt, h16, h0]

theorem reads_port {k : Fields → PortRef → Bool → Instr} {port : PortRef} {oe : Bool}
    (hw : (f.ok true true && (port.edge || decide (port.port.toNat < 32))) = true) :
    Reads (decPort k) (rawOf op 0 f (boolCode port.edge * 2 ^ 27 + port.port.toNat * 2 ^ 21 + boolCode oe * 2 ^ 16))
      (k f port oe) := by
  obtain ⟨hf, hport⟩ := Bool.and_eq_true_iff.1 hw
  have he := boolCode_lt port.edge
  have ho := boolCode_lt oe
  refine ⟨rawOf_fits f (by decide) (by omega), ?_⟩
  generalize hops : boolCode port.edge * 2 ^ 27 + port.port.toNat * 2 ^ 21 + boolCode oe * 2 ^ 16 = ops
  have h27 : field ops 27 1 = boolCode port.edge := by simp only [field]; omega
  have h21 : field ops 21 6 = port.port.toNat := by simp only [field]; omega
  have h17 : field ops 17 4 = 0 := by simp only [field]; omega
  have h16 : field ops 16 1 = boolCode oe := by simp only [field]; omega
  have h0 : field ops 0 16 = 0 := by simp only [field]; omega
  simp only [decPort, fnZero_rawOf, getFields_rawOf hf, rawOf_ops, h27, h21, h17, h16, h0, boolCode_eq_one, hport, noExt_rawOf,
    decide_true, Bool.and_self, require_of_true, BitVec.ofNat_toNat, BitVec.setWidth_eq, except_ok_bind, except_pure]

end
end Sys2Proof

namespace Sys2Proof

/-! ### The layouts of the engines (R146, R154, R249, R418) -/

/-- FV and FLAG beside each other (R146). -/
theorem putFlag_eq (flag : Option (BitVec 4)) : putFlag flag = boolCode flag.isSome * 2 ^ 15 + (flag.getD 0).toNat * 2 ^ 11 := by
  cases flag <;> simp [putFlag, boolCode]

section
variable {op fn ops : Nat} {f : Fields} {flag : Option (BitVec 4)}

theorem getFlag_rawOf (hok : flagOk flag = true) (h15 : field ops 15 1 = boolCode flag.isSome)
    (h11 : field ops 11 4 = (flag.getD 0).toNat) : getFlag (rawOf op fn f ops) = .ok flag := by
  cases flag with
  | none => simp [getFlag, h15, h11, boolCode]
  | some k =>
    have hk : k.toNat ≤ 11 := of_decide_eq_true hok
    simp [getFlag, h15, h11, boolCode, hk]

theorem flagZero_rawOf (h15 : field ops 15 1 = boolCode flag.isSome) (h11 : field ops 11 4 = (flag.getD 0).toNat) :
    flagZero (rawOf op fn f ops) = .ok () := by
  cases flag <;> simp [flagZero, require, h15, h11, boolCode]

end

section
variable {op : Nat} {f : Fields}

theorem reads_mbld {k : Fields → MemClass → Scope → Fmt → CachePol → Bool → Option (BitVec 4) → Instr} {cls : MemClass}
    {scope : Scope} {fmt : Fmt} {cp : CachePol} {oe : Bool} {flag : Option (BitVec 4)}
    (hw : (f.ok true true && matrixClassOk cls scope && fmt.matrixOperand && flagOk flag) = true) :
    Reads (decMbld k)
      (rawOf op 0 f (cls.code * 2 ^ 26 + scope.code * 2 ^ 24 + fmt.code * 2 ^ 19 + cp.code * 2 ^ 17 + boolCode oe * 2 ^ 16
        + putFlag flag)) (k f cls scope fmt cp oe flag) := by
  simp only [Bool.and_eq_true] at hw
  obtain ⟨⟨⟨hf, hcls⟩, hfmt⟩, hflag⟩ := hw
  have hc := cls.code_lt
  have hs := scope.code_lt
  have hm := fmt.code_lt
  have hp := cp.code_lt
  have ho := boolCode_lt oe
  have hv := boolCode_lt flag.isSome
  rw [putFlag_eq]
  refine ⟨rawOf_fits f (by decide) (by omega), ?_⟩
  generalize hops : cls.code * 2 ^ 26 + scope.code * 2 ^ 24 + fmt.code * 2 ^ 19 + cp.code * 2 ^ 17 + boolCode oe * 2 ^ 16
    + (boolCode flag.isSome * 2 ^ 15 + (flag.getD 0).toNat * 2 ^ 11) = ops
  have h26 : field ops 26 2 = cls.code := by simp only [field]; omega
  have h24 : field ops 24 2 = scope.code := by simp only [field]; omega
  have h19 : field ops 19 5 = fmt.code := by simp only [field]; omega
  have h17 : field ops 17 2 = cp.code := by simp only [field]; omega
  have h16 : field ops 16 1 = boolCode oe := by simp only [field]; omega
  have h15 : field ops 15 1 = boolCode flag.isSome := by simp only [field]; omega
  have h11 : field ops 11 4 = (flag.getD 0).toNat := by simp only [field]; omega
  have h0 : field ops 0 11 = 0 := by simp only [field]; omega
  simp [decMbld, getFlag_rawOf hflag h15 h11, flagZero_rawOf h15 h11, getFields_rawOf hf, require, hcls, hfmt, h26, h24,
    h19, h17, h16, h0]

theorem reads_mma {k : Fields → Bool → Option (BitVec 4) → Instr} {oe : Bool} {flag : Option (BitVec 4)}
    (hw : (f.ok true true && flagOk flag) = true) :
    Reads (decMma k) (rawOf op 0 f (boolCode oe * 2 ^ 16 + putFlag flag)) (k f oe flag) := by
  obtain ⟨hf, hflag⟩ := Bool.and_eq_true_iff.1 hw
  have ho := boolCode_lt oe
  have hv := boolCode_lt flag.isSome
  rw [putFlag_eq]
  refine ⟨rawOf_fits f (by decide) (by omega), ?_⟩
  generalize hops : boolCode oe * 2 ^ 16 + (boolCode flag.isSome * 2 ^ 15 + (flag.getD 0).toNat * 2 ^ 11) = ops
  have hlt : ops < 2 ^ 17 := by omega
  have h16 : field ops 16 1 = boolCode oe := by simp only [field]; omega
  have h15 : field ops 15 1 = boolCode flag.isSome := by simp only [field]; omega
  have h11 : field ops 11 4 = (flag.getD 0).toNat := by simp only [field]; omega
  have h0 : field ops 0 11 = 0 := by simp only [field]; omega
  simp [-Nat.reducePow, decMma, getFlag_rawOf hflag h15 h11, flagZero_rawOf h15 h11, getFields_rawOf hf, require, hlt,
    h16, h0]

theorem reads_mzero {k : Fields → Bool → Option (BitVec 4) → BitVec 2 → Instr} {oe : Bool} {flag : Option (BitVec 4)}
    {tile : BitVec 2} (hw : (f.ok true true && flagOk flag) = true) :
    Reads (decMzero k) (rawOf op 0 f (boolCode oe * 2 ^ 16 + putFlag flag + tile.toNat * 2 ^ 9)) (k f oe flag tile) := by
  obtain ⟨hf, hflag⟩ := Bool.and_eq_true_iff.1 hw
  have ho := boolCode_lt oe
  have hv := boolCode_lt flag.isSome
  rw [putFlag_eq]
  refine ⟨rawOf_fits f (by decide) (by omega), ?_⟩
  generalize hops :
    boolCode oe * 2 ^ 16 + (boolCode flag.isSome * 2 ^ 15 + (flag.getD 0).toNat * 2 ^ 11) + tile.toNat * 2 ^ 9 = ops
  have hlt : ops < 2 ^ 17 := by omega
  have h16 : field ops 16 1 = boolCode oe := by simp only [field]; omega
  have h15 : field ops 15 1 = boolCode flag.isSome := by simp only [field]; omega
  have h11 : field ops 11 4 = (flag.getD 0).toNat := by simp only [field]; omega
  have h9 : field ops 9 2 = tile.toNat := by simp only [field]; omega
  have h0 : field ops 0 9 = 0 := by simp only [field]; omega
  simp [-Nat.reducePow, decMzero, getFlag_rawOf hflag h15 h11, flagZero_rawOf h15 h11, getFields_rawOf hf, require, hlt,
    h16, h9, h0]

theorem reads_mstore
    {k : Fields → MemClass → Scope → Fmt → CachePol → Bool → Option (BitVec 4) → BitVec 2 → RMode → Instr} {cls : MemClass}
    {scope : Scope} {fmt : Fmt} {cp : CachePol} {oe : Bool} {flag : Option (BitVec 4)} {tile : BitVec 2} {rm : RMode}
    (hw : (f.ok true true && matrixClassOk cls scope && fmt.matrixStore && flagOk flag) = true) :
    Reads (decMstore k)
      (rawOf op rm.code f (cls.code * 2 ^ 26 + scope.code * 2 ^ 24 + fmt.code * 2 ^ 19 + cp.code * 2 ^ 17 + boolCode oe * 2 ^ 16
        + putFlag flag + tile.toNat * 2 ^ 9)) (k f cls scope fmt cp oe flag tile rm) := by
  simp only [Bool.and_eq_true] at hw
  obtain ⟨⟨⟨hf, hcls⟩, hfmt⟩, hflag⟩ := hw
  have hc := cls.code_lt
  have hs := scope.code_lt
  have hm := fmt.code_lt
  have hp := cp.code_lt
  have ho := boolCode_lt oe
  have hv := boolCode_lt flag.isSome
  rw [putFlag_eq]
  refine ⟨rawOf_fits f (fn_mode_lt rm) (by omega), ?_⟩
  generalize hops : cls.code * 2 ^ 26 + scope.code * 2 ^ 24 + fmt.code * 2 ^ 19 + cp.code * 2 ^ 17 + boolCode oe * 2 ^ 16
    + (boolCode flag.isSome * 2 ^ 15 + (flag.getD 0).toNat * 2 ^ 11) + tile.toNat * 2 ^ 9 = ops
  have h26 : field ops 26 2 = cls.code := by simp only [field]; omega
  have h24 : field ops 24 2 = scope.code := by simp only [field]; omega
  have h19 : field ops 19 5 = fmt.code := by simp only [field]; omega
  have h17 : field ops 17 2 = cp.code := by simp only [field]; omega
  have h16 : field ops 16 1 = boolCode oe := by simp only [field]; omega
  have h15 : field ops 15 1 = boolCode flag.isSome := by simp only [field]; omega
  have h11 : field ops 11 4 = (flag.getD 0).toNat := by simp only [field]; omega
  have h9 : field ops 9 2 = tile.toNat := by simp only [field]; omega
  have h0 : field ops 0 9 = 0 := by simp only [field]; omega
  simp [decMstore, getFlag_rawOf hflag h15 h11, flagZero_rawOf h15 h11, getFields_rawOf hf, require, hcls, hfmt, h26,
    h24, h19, h17, h16, h9, h0]

theorem reads_mread {k : Fields → Bool → BitVec 2 → Instr} {oe : Bool} {tile : BitVec 2} (hf : f.ok true true = true) :
    Reads (decMread k) (rawOf op 0 f (boolCode oe * 2 ^ 16 + tile.toNat * 2 ^ 9)) (k f oe tile) := by
  have ho := boolCode_lt oe
  refine ⟨rawOf_fits f (by decide) (by omega), ?_⟩
  generalize hops : boolCode oe * 2 ^ 16 + tile.toNat * 2 ^ 9 = ops
  have hlt : ops < 2 ^ 17 := by omega
  have h16 : field ops 16 1 = boolCode oe := by simp only [field]; omega
  have hflag : field ops 11 4 = 0 := by simp only [field]; omega
  have h11 : field ops 11 5 = 0 := by simp only [field]; omega
  have h9 : field ops 9 2 = tile.toNat := by simp only [field]; omega
  have h0 : field ops 0 9 = 0 := by simp only [field]; omega
  simp [-Nat.reducePow, decMread, getFields_rawOf hf, require, hlt, h16, hflag, h11, h9, h0]

theorem reads_reduce {k : Fields → FoldOp → IntTy → RMode → BitVec 6 → Instr} {opk : FoldOp} {ty : IntTy} {rm : RMode}
    {ls : BitVec 6} (hw : (f.ok true false && foldOk opk ty rm) = true) :
    Reads (decReduce k) (rawOf op 0 f (opk.code * 2 ^ 23 + ty.code * 2 ^ 21 + rm.code * 2 ^ 18 + ls.toNat * 2 ^ 12))
      (k f opk ty rm ls) := by
  obtain ⟨hf, hfold⟩ := Bool.and_eq_true_iff.1 hw
  have hk := opk.code_lt
  have ht := ty.code_lt
  have hr := rm.code_lt
  refine ⟨rawOf_fits f (by decide) (by omega), ?_⟩
  generalize hops : opk.code * 2 ^ 23 + ty.code * 2 ^ 21 + rm.code * 2 ^ 18 + ls.toNat * 2 ^ 12 = ops
  have hlt : ops < 2 ^ 27 := by omega
  have h23 : field ops 23 4 = opk.code := by simp only [field]; omega
  have h21 : field ops 21 2 = ty.code := by simp only [field]; omega
  have h18 : field ops 18 3 = rm.code := by simp only [field]; omega
  have h12 : field ops 12 6 = ls.toNat := by simp only [field]; omega
  have h0 : field ops 0 12 = 0 := by simp only [field]; omega
  simp [-Nat.reducePow, decReduce, getFields_rawOf hf, require, hlt, hr, hfold, h23, h21, h18, h12, h0]

theorem reads_scan {k : Fields → FoldOp → IntTy → RMode → BitVec 6 → Bool → Instr} {opk : FoldOp} {ty : IntTy} {rm : RMode}
    {ls : BitVec 6} {exclusive : Bool} (hw : (f.ok true false && foldOk opk ty rm) = true) :
    Reads (decScan k)
      (rawOf op 0 f (opk.code * 2 ^ 23 + ty.code * 2 ^ 21 + rm.code * 2 ^ 18 + ls.toNat * 2 ^ 12 + boolCode exclusive * 2 ^ 11))
      (k f opk ty rm ls exclusive) := by
  obtain ⟨hf, hfold⟩ := Bool.and_eq_true_iff.1 hw
  have hk := opk.code_lt
  have ht := ty.code_lt
  have hr := rm.code_lt
  have hx := boolCode_lt exclusive
  refine ⟨rawOf_fits f (by decide) (by omega), ?_⟩
  generalize hops :
    opk.code * 2 ^ 23 + ty.code * 2 ^ 21 + rm.code * 2 ^ 18 + ls.toNat * 2 ^ 12 + boolCode exclusive * 2 ^ 11 = ops
  have hlt : ops < 2 ^ 27 := by omega
  have h23 : field ops 23 4 = opk.code := by simp only [field]; omega
  have h21 : field ops 21 2 = ty.code := by simp only [field]; omega
  have h18 : field ops 18 3 = rm.code := by simp only [field]; omega
  have h12 : field ops 12 6 = ls.toNat := by simp only [field]; omega
  have h11 : field ops 11 1 = boolCode exclusive := by simp only [field]; omega
  have h0 : field ops 0 11 = 0 := by simp only [field]; omega
  simp [-Nat.reducePow, decScan, getFields_rawOf hf, require, hlt, hr, hfold, h23, h21, h18, h12, h11, h0]

theorem reads_copy {k : Fields → MemClass → Bool → Option (BitVec 4) → Instr} {cls : MemClass} {oe : Bool}
    {flag : Option (BitVec 4)} (hw : (f.ok true true && decide (cls ≠ .s) && flagOk flag) = true) :
    Reads (decCopy k) (rawOf op 0 f (cls.code * 2 ^ 26 + boolCode oe * 2 ^ 16 + putFlag flag)) (k f cls oe flag) := by
  simp only [Bool.and_eq_true, decide_eq_true_eq] at hw
  obtain ⟨⟨hf, hcls⟩, hflag⟩ := hw
  have hc := cls.code_lt
  have ho := boolCode_lt oe
  have hv := boolCode_lt flag.isSome
  rw [putFlag_eq]
  refine ⟨rawOf_fits f (by decide) (by omega), ?_⟩
  generalize hops :
    cls.code * 2 ^ 26 + boolCode oe * 2 ^ 16 + (boolCode flag.isSome * 2 ^ 15 + (flag.getD 0).toNat * 2 ^ 11) = ops
  have h26 : field ops 26 2 = cls.code := by simp only [field]; omega
  have h17 : field ops 17 9 = 0 := by simp only [field]; omega
  have h16 : field ops 16 1 = boolCode oe := by simp only [field]; omega
  have h15 : field ops 15 1 = boolCode flag.isSome := by simp only [field]; omega
  have h11 : field ops 11 4 = (flag.getD 0).toNat := by simp only [field]; omega
  have h0 : field ops 0 11 = 0 := by simp only [field]; omega
  simp [decCopy, getFlag_rawOf hflag h15 h11, flagZero_rawOf h15 h11, getFields_rawOf hf, require, hcls, h26, h17, h16, h0]

theorem reads_sys {k : Fields → Bool → BitVec 8 → Instr} {oe : Bool} {num : BitVec 8} (hf : f.ok true true = true) :
    Reads (decSys k) (rawOf op 0 f (boolCode oe * 2 ^ 16 + num.toNat)) (k f oe num) := by
  have ho := boolCode_lt oe
  refine ⟨rawOf_fits f (by decide) (by omega), ?_⟩
  generalize hops : boolCode oe * 2 ^ 16 + num.toNat = ops
  have hlt : ops < 2 ^ 17 := by omega
  have h16 : field ops 16 1 = boolCode oe := by simp only [field]; omega
  have h8 : field ops 8 8 = 0 := by simp only [field]; omega
  have h0 : field ops 0 8 = num.toNat := by simp only [field]; omega
  simp [-Nat.reducePow, decSys, getFields_rawOf hf, require, hlt, h16, h8, h0]

theorem reads_inv {k : Fields → Bool → Bool → Option (BitVec 4) → Instr} {all oe : Bool} {flag : Option (BitVec 4)}
    (hw : (f.ok true true && flagOk flag) = true) :
    Reads (decInv k) (rawOf op 0 f (boolCode all * 2 ^ 27 + boolCode oe * 2 ^ 16 + putFlag flag)) (k f all oe flag) := by
  obtain ⟨hf, hflag⟩ := Bool.and_eq_true_iff.1 hw
  have ha := boolCode_lt all
  have ho := boolCode_lt oe
  have hv := boolCode_lt flag.isSome
  rw [putFlag_eq]
  refine ⟨rawOf_fits f (by decide) (by omega), ?_⟩
  generalize hops :
    boolCode all * 2 ^ 27 + boolCode oe * 2 ^ 16 + (boolCode flag.isSome * 2 ^ 15 + (flag.getD 0).toNat * 2 ^ 11) = ops
  have h27 : field ops 27 1 = boolCode all := by simp only [field]; omega
  have h17 : field ops 17 10 = 0 := by simp only [field]; omega
  have h16 : field ops 16 1 = boolCode oe := by simp only [field]; omega
  have h15 : field ops 15 1 = boolCode flag.isSome := by simp only [field]; omega
  have h11 : field ops 11 4 = (flag.getD 0).toNat := by simp only [field]; omega
  have h0 : field ops 0 11 = 0 := by simp only [field]; omega
  simp [decInv, getFlag_rawOf hflag h15 h11, flagZero_rawOf h15 h11, getFields_rawOf hf, require, h27, h17, h16, h0]

theorem reads_resume {k : Fields → Bool → Instr} {link : Bool} (hf : f.ok true false = true) :
    Reads (decResume k) (rawOf op 0 f (boolCode link)) (k f link) := by
  have hl := boolCode_lt link
  exact ⟨rawOf_fits f (by decide) (by omega), by
    cases link <;> simp [decResume, getFields_rawOf hf, opsBelow, require, boolCode]⟩

theorem reads_halt {k : Fields → Bool → BitVec 9 → Instr} {ic : Bool} {cause : BitVec 9} (hf : f.ok true false = true) :
    Reads (decHalt k) (rawOf op 0 f (boolCode ic * 2 ^ 9 + cause.toNat)) (k f ic cause) := by
  have hi := boolCode_lt ic
  refine ⟨rawOf_fits f (by decide) (by omega), ?_⟩
  generalize hops : boolCode ic * 2 ^ 9 + cause.toNat = ops
  have h9 : field ops 9 1 = boolCode ic := by simp only [field]; omega
  have h0 : field ops 0 9 = cause.toNat := by simp only [field]; omega
  simp [decHalt, getFields_rawOf hf, opsBelow_rawOf (show ops < 2 ^ 10 by omega), h9, h0]

end
end Sys2Proof

namespace Sys2Proof

/-! ### Every instruction -/

/-- What the reader of an opcode finds, the decoder finds in the bits of the instruction. -/
theorem decode_of_reads {dec : Raw → Except LoadFault Instr} {r : Raw} {i : Instr} (n : Nat) (hr : Reads dec r i)
    (he : encodeRaw i = r) (hop : r.op.ble 255 = true) (hd : decodeRaw r = dec r) : decodeTableWord n (encodeBits i) = some i := by
  subst he
  exact decodeTableWord_of_fits n (hr.fits (Nat.lt_succ_of_le (Nat.le_of_ble_eq_true hop))) (hd.trans hr.reads)

end Sys2Proof

namespace Sys2Proof.Machine

/-- Settles O57: each instruction by the lemma of its layout, and the opcode map by computation. The opcode map also says which operands
the memory layout takes, so the premise about them is elaborated after it. -/
theorem decodeInvertsEncode : Obligations.DecodeInvertsEncode := by
  intro n i hw
  cases i with
  | mov | null | steer | merge | carry | invar | ret | drop | endThread | gnew | gfree | join | leave | bar | barinit
  | yield | ojoin | grecv =>
    exact decode_of_reads n (reads_plain hw) rfl rfl rfl
  | movi =>
    exact decode_of_reads n (reads_imm hw) rfl rfl rfl
  | movx =>
    exact decode_of_reads n (reads_ext64 hw) rfl rfl rfl
  | fan =>
    exact decode_of_reads n (reads_fan hw) rfl rfl rfl
  | read | write | exit | spawn | trap | brk =>
    exact decode_of_reads n (reads_low (by decide) hw) rfl rfl rfl
  | sel | grow | shrink =>
    exact decode_of_reads n (reads_optImm hw) rfl rfl rfl
  | call =>
    exact decode_of_reads n (reads_call hw) rfl rfl rfl
  | test =>
    exact decode_of_reads n (reads_test hw) rfl rfl rfl
  | elect | bcast =>
    exact decode_of_reads n (reads_ls hw) rfl rfl rfl
  | vote =>
    exact decode_of_reads n (reads_vote hw) rfl rfl rfl
  | setf | clrf =>
    exact decode_of_reads n (reads_mask hw) rfl rfl rfl
  | sread =>
    exact decode_of_reads n (reads_sread hw) rfl rfl rfl
  | add | sub | mul | mad | div | rem | absd =>
    exact decode_of_reads n (reads_intChkImm hw) rfl rfl rfl
  | mulh | min | max | clamp | adds | subs | and | or | xor | andn | shl | shr | sar | rol | ror | bfx | bfi | perm =>
    exact decode_of_reads n (reads_intImm hw) rfl rfl rfl
  | neg | abs =>
    exact decode_of_reads n (reads_intChk hw) rfl rfl rfl
  | cmp =>
    exact decode_of_reads n (reads_intCond hw) rfl rfl rfl
  | not | clz | ctz | popc | brev =>
    exact decode_of_reads n (reads_int hw) rfl rfl rfl
  | fsh =>
    exact decode_of_reads n (reads_intDir hw) rfl rfl rfl
  | ext =>
    exact decode_of_reads n (reads_intWidth hw) rfl rfl rfl
  | lea =>
    exact decode_of_reads n (reads_intScale hw) rfl rfl rfl
  | crc =>
    exact decode_of_reads n (reads_intPoly hw) rfl rfl rfl
  | fadd | fsub | fmul | fma | fnma | fdiv | fclamp =>
    exact decode_of_reads n (reads_fltImm hw) rfl rfl rfl
  | fsqrt | frcp | frsq | fabs | fneg | fclass | frint | fscale | flogb | fmant | fexp2 | flog2 | fsin | fcos | ftanh
  | ferf =>
    exact decode_of_reads n (reads_flt hw) rfl rfl rfl
  | fmin | fmax | fsgn | fcmp =>
    exact decode_of_reads n (reads_fltModImm hw) rfl rfl rfl
  | ftoi | itof =>
    exact decode_of_reads n (reads_fltTy hw) rfl rfl rfl
  | ld | pref | evict | aadd | amin | amax | aand | aor | axor | axchg | acas | aincw | adecw | gath =>
    exact decode_of_reads n (reads_mem (by exact hw)) rfl rfl rfl
  | st =>
    exact decode_of_reads n (reads_memRm (s := .ld) hw) rfl rfl rfl
  | ldt =>
    exact decode_of_reads n (reads_map hw) rfl rfl rfl
  | stt =>
    exact decode_of_reads n (reads_mapRm hw) rfl rfl rfl
  | afadd | afmin | afmax =>
    exact decode_of_reads n (reads_memFlt (s := .atomicF) hw) rfl rfl rfl
  | red =>
    exact decode_of_reads n (reads_red hw) rfl rfl rfl
  | rel | acq | fence =>
    exact decode_of_reads n (reads_scope hw) rfl rfl rfl
  | waita =>
    exact decode_of_reads n (reads_waita hw) rfl rfl rfl
  | bankmode | credit | cstat =>
    exact decode_of_reads n (reads_oe hw) rfl rfl rfl
  | push | pop | peek | wfeed | wemit =>
    exact decode_of_reads n (reads_port hw) rfl rfl rfl
  | mbld =>
    exact decode_of_reads n (reads_mbld hw) rfl rfl rfl
  | mma =>
    exact decode_of_reads n (reads_mma hw) rfl rfl rfl
  | mzero =>
    exact decode_of_reads n (reads_mzero hw) rfl rfl rfl
  | mstore =>
    exact decode_of_reads n (reads_mstore hw) rfl rfl rfl
  | mread =>
    exact decode_of_reads n (reads_mread hw) rfl rfl rfl
  | reduce =>
    exact decode_of_reads n (reads_reduce hw) rfl rfl rfl
  | scan =>
    exact decode_of_reads n (reads_scan hw) rfl rfl rfl
  | copy =>
    exact decode_of_reads n (reads_copy hw) rfl rfl rfl
  | sysrd | syswr =>
    exact decode_of_reads n (reads_sys hw) rfl rfl rfl
  | tlbinv | cfginv =>
    exact decode_of_reads n (reads_inv hw) rfl rfl rfl
  | resume =>
    exact decode_of_reads n (reads_resume hw) rfl rfl rfl
  | halt =>
    exact decode_of_reads n (reads_halt hw) rfl rfl rfl
  | _ => cases hw

end Sys2Proof.Machine

namespace Sys2Proof.Machine

/-! ### Words of the opcode map (R58) -/

/-- No arm of the opcode map reads a reserved opcode, so only its last one is left. -/
theorem decodeRaw_reserved (r : Raw) (h : r.op = 0 ∨ r.op ∈ [0x12, 0x13] ∨ (0x24 ≤ r.op ∧ r.op ≤ 0x27) ∨
      (0x4D ≤ r.op ∧ r.op ≤ 0x4F) ∨ (0x6D ≤ r.op ∧ r.op ≤ 0x77) ∨ (0x7E ≤ r.op ∧ r.op ≤ 0x8F) ∨
      (0xA3 ≤ r.op ∧ r.op ≤ 0xAF) ∨ (0xB8 ≤ r.op ∧ r.op ≤ 0xBF) ∨ (0xC8 ≤ r.op ∧ r.op ≤ 0xCF) ∨
      (0xD3 ≤ r.op ∧ r.op ≤ 0xDF) ∨ (0xE8 ≤ r.op ∧ r.op ≤ 0xFF)) : decodeRaw r = .error .opcode := by
  unfold decodeRaw
  split
  case h_152 => rfl
  all_goals
    rename_i hop
    rw [hop] at h
    exact absurd h (by decide)

/-- Settles O58: the words by computation, the reserved opcodes by the opcode map. -/
theorem wordsOfTheSpecDecode : Obligations.WordsOfTheSpecDecode :=
  ⟨rfl, rfl, rfl, rfl, rfl, decodeRaw_reserved⟩

end Sys2Proof.Machine

namespace Sys2Proof.Machine

/-! ### A step by the head of the schedule -/

theorem State.fetch_eq_bind (s : State) (x : Firing) : s.fetch x = (s.spot? x).bind (fun p => p.block.words[x.idx]?) := by
  unfold State.fetch
  cases s.spot? x <;> rfl

theorem step_of_moves {s : State} {m : Move} {ms : List Move} (h : s.moves = m :: ms) :
    step s = runMove m { s with moves := ms } := by
  unfold step
  rw [h]

theorem step_of_no_moves {s : State} (h : s.moves = []) : step s = .next s := by
  unfold step
  rw [h]

/-- A firing runs the instruction its word decodes to, then notes whether the operands were taken (R42, R59). -/
theorem runFire_of_exec {s t : State} {x : Firing} {w : Nat × Nat} {i : Instr} (hw : s.fetch x = some w)
    (hd : decodeWord w.1 w.2 = .ok i) (he : exec i { s with cur := x } = .next t) : runFire x s = .next (s.noteFiring t x) := by
  simp only [runFire, hw, hd, he]

theorem withMishap_of_next {m : Mishap} {f : State → Host.Outcome State Fault Refusal} {s t : State}
    (h : f { s with mishap := some m } = .next t) : withMishap m f s = .next { t with mishap := none } := by
  simp only [withMishap, h]

/-- Settles O56, by the kind of the first move. -/
theorem stepRunsTheDecodedInstruction : Obligations.StepRunsTheDecodedInstruction := by
  intro s ms
  refine ⟨?_, ?_, ?_, ?_, step_of_no_moves⟩
  · intro core ctx pass tidx idx w i t hm x u hw hd he
    exact (step_of_moves hm).trans (runFire_of_exec ((u.fetch_eq_bind x).trans hw) hd he)
  · intro e core ctx pass tidx idx t hm hs
    rw [step_of_moves rfl] at hs
    exact (step_of_moves hm).trans (withMishap_of_next hs)
  · intro i hm
    exact step_of_moves hm
  · intro m i t hm he
    exact (step_of_moves hm).trans (withMishap_of_next he)

end Sys2Proof.Machine

/-! Rounding (spec/03 R77, R79): what the grid gives in each mode, said once as a quotient, and the bounds that a mode leaves there and
in the words of the normal range. -/

namespace Sys2Proof.Machine

/-! ### The bits of a number -/

theorem lt_two_pow_nbits (m : Nat) : m < 2 ^ nbits m := by
  unfold nbits
  split
  · omega
  · exact Nat.lt_log2_self

theorem two_pow_le_of_nbits {m : Nat} (h : m ≠ 0) : 2 ^ (nbits m - 1) ≤ m := by
  simpa [nbits, h] using Nat.log2_self_le h

/-! ### Which neighbour a mode takes (R79) -/

theorem roundUp_exact (mode : RMode) (u : Nat) (neg odd : Bool) (k : Nat) : roundUp mode u neg odd 0 k false = false := rfl

theorem roundUp_rtz (u : Nat) (neg odd : Bool) (r k : Nat) : roundUp .rtz u neg odd r k false = false := by
  simp [roundUp]

theorem roundUp_rup (u : Nat) (neg odd : Bool) (r k : Nat) : roundUp .rup u neg odd r k false = (decide (r ≠ 0) && !neg) := by
  by_cases h : r = 0 <;> simp [roundUp, h]

theorem roundUp_rdn (u : Nat) (neg odd : Bool) (r k : Nat) : roundUp .rdn u neg odd r k false = (decide (r ≠ 0) && neg) := by
  by_cases h : r = 0 <;> simp [roundUp, h]

theorem roundUp_rna (u : Nat) (neg odd : Bool) (r k : Nat) : roundUp .rna u neg odd r k false = decide (2 ^ k ≤ 2 * r) := by
  by_cases h : r = 0 <;> simp [roundUp, h]

theorem roundUp_rne (u : Nat) (neg odd : Bool) (r k : Nat) :
    roundUp .rne u neg odd r k false = (decide (2 ^ k < 2 * r) || decide (2 ^ k = 2 * r) && odd) := by
  by_cases h : r = 0 <;> simp [roundUp, h]

theorem roundUp_hsr (u : Nat) (neg odd : Bool) (r k : Nat) :
    roundUp .hsr u neg odd r k false = decide (u < r * 2 ^ 32 / 2 ^ k) := by
  by_cases h : r = 0 <;> simp [roundUp, h]

/-- A magnitude far below the grid is rounded from 0 as the grid's own rule has it: the shortcut of `roundGrid` gives the same. -/
theorem roundUp_far {m k : Nat} (h : nbits m + 64 < k) (mode : RMode) (u : Nat) (neg : Bool) :
    (roundUp mode u neg false 1 64 true && decide (m ≠ 0) && decide (mode ≠ .hsr)) = roundUp mode u neg false m k false := by
  have hm : m * 2 ^ 32 < 2 ^ k := by
    calc m * 2 ^ 32 < 2 ^ nbits m * 2 ^ 32 := by have := lt_two_pow_nbits m; omega
      _ = 2 ^ (nbits m + 32) := (pow_add ..).symm
      _ ≤ 2 ^ k := Nat.pow_le_pow_right (by norm_num) (by omega)
  cases mode with
  | rne => rw [roundUp_rne]; simp [roundUp]; omega
  | rtz => rw [roundUp_rtz]; simp [roundUp]
  | rup => rw [roundUp_rup]; simp [roundUp, Bool.and_comm]
  | rdn => rw [roundUp_rdn]; simp [roundUp, Bool.and_comm]
  | rna => rw [roundUp_rna]; simp [roundUp]; omega
  | hsr => rw [roundUp_hsr]; simp only [Nat.div_eq_of_lt hm]; simp

/-! ### The grid (R79) -/

/-- A grid at or below the magnitude's own unit holds it. -/
theorem roundGrid_of_le {e g : Int} (h : g ≤ e) (mode : RMode) (u : Nat) (neg : Bool) (m : Nat) :
    roundGrid mode u neg m e g false = m * 2 ^ (e - g).toNat := if_pos h

/-- On a coarser grid the magnitude lies at or above the multiple below it, and the mode takes that or the next. -/
theorem roundGrid_of_lt {e g : Int} (h : e < g) (mode : RMode) (u : Nat) (neg : Bool) (m : Nat) :
    roundGrid mode u neg m e g false = m / 2 ^ (g - e).toNat +
      (roundUp mode u neg (m / 2 ^ (g - e).toNat % 2 = 1) (m % 2 ^ (g - e).toNat) (g - e).toNat false).toNat := by
  unfold roundGrid
  rw [if_neg (not_le.mpr h)]
  generalize (g - e).toNat = k
  dsimp only
  split
  · next hk =>
    have hm : m < 2 ^ k := (lt_two_pow_nbits m).trans_le (Nat.pow_le_pow_right (by norm_num) (by omega))
    rw [roundUp_far hk, Nat.div_eq_of_lt hm, Nat.mod_eq_of_lt hm]
    simp [Bool.toNat, Bool.cond_eq_ite]
  · split <;> next hu => simp [hu]

/-- A division that rounds up. -/
theorem ceil_div_eq {m d : Nat} (hd : 0 < d) : (m + d - 1) / d = m / d + (decide (m % d ≠ 0)).toNat := by
  have hlt := Nat.mod_lt m hd
  have hm := Nat.div_add_mod' m d
  rw [Nat.div_eq_iff hd, Nat.add_mul]
  generalize m / d * d = low at hm ⊢
  by_cases h0 : m % d = 0
  · simp [h0]; omega
  · simp [h0]; omega

section
variable {e g : Int} (h : e < g) (u : Nat) (neg : Bool) (m : Nat)
include h

theorem roundGrid_rtz : roundGrid .rtz u neg m e g false = m / 2 ^ (g - e).toNat := by
  simp [roundGrid_of_lt h, roundUp_rtz]

theorem roundGrid_rup : roundGrid .rup u neg m e g false =
    if neg then m / 2 ^ (g - e).toNat else (m + 2 ^ (g - e).toNat - 1) / 2 ^ (g - e).toNat := by
  rw [roundGrid_of_lt h, roundUp_rup, ceil_div_eq (by positivity)]
  cases neg <;> simp

theorem roundGrid_rdn : roundGrid .rdn u neg m e g false =
    if neg then (m + 2 ^ (g - e).toNat - 1) / 2 ^ (g - e).toNat else m / 2 ^ (g - e).toNat := by
  rw [roundGrid_of_lt h, roundUp_rdn, ceil_div_eq (by positivity)]
  cases neg <;> simp

/-- HSR takes either neighbour of a magnitude that is not on the grid. -/
theorem roundGrid_hsr : roundGrid .hsr u neg m e g false = m / 2 ^ (g - e).toNat ∨
    (m % 2 ^ (g - e).toNat ≠ 0 ∧ roundGrid .hsr u neg m e g false = m / 2 ^ (g - e).toNat + 1) := by
  rw [roundGrid_of_lt h]
  by_cases h0 : m % 2 ^ (g - e).toNat = 0
  · simp [h0, roundUp_exact]
  · cases roundUp .hsr u neg _ _ _ false <;> simp [h0]

/-- A nearest mode leaves at most half a step. -/
theorem roundGrid_rne : 2 * m ≤ 2 * (roundGrid .rne u neg m e g false * 2 ^ (g - e).toNat) + 2 ^ (g - e).toNat ∧
    2 * (roundGrid .rne u neg m e g false * 2 ^ (g - e).toNat) ≤ 2 * m + 2 ^ (g - e).toNat := by
  have hm := Nat.div_add_mod' m (2 ^ (g - e).toNat)
  have hlt := Nat.mod_lt m (Nat.two_pow_pos (g - e).toNat)
  rw [roundGrid_of_lt h, Nat.add_mul]
  generalize m / 2 ^ (g - e).toNat * 2 ^ (g - e).toNat = low at hm ⊢
  cases hu : roundUp .rne u neg _ _ _ false <;> (simp [roundUp_rne] at hu ⊢; omega)

/-- Half a step is left above the rounded magnitude only, since RNA takes a tie upward. -/
theorem roundGrid_rna : 2 * m < 2 * (roundGrid .rna u neg m e g false * 2 ^ (g - e).toNat) + 2 ^ (g - e).toNat ∧
    2 * (roundGrid .rna u neg m e g false * 2 ^ (g - e).toNat) ≤ 2 * m + 2 ^ (g - e).toNat := by
  have hm := Nat.div_add_mod' m (2 ^ (g - e).toNat)
  have hlt := Nat.mod_lt m (Nat.two_pow_pos (g - e).toNat)
  rw [roundGrid_of_lt h, roundUp_rna, Nat.add_mul]
  generalize m / 2 ^ (g - e).toNat * 2 ^ (g - e).toNat = low at hm ⊢
  by_cases hu : 2 ^ (g - e).toNat ≤ 2 * (m % 2 ^ (g - e).toNat)
  · simp [hu]; omega
  · simp [hu]; omega

end

/-! ### The bounds of each mode (R77, R79) -/

/-- How far a value rounded by a mode lies from the exact one, on a grid of the given step. -/
def RoundsWithin (mode : RMode) (neg : Bool) (x y step : ℚ) : Prop :=
  (mode = .rtz ∨ (mode = .rup ∧ neg = true) ∨ (mode = .rdn ∧ neg = false) → y ≤ x ∧ x < y + step) ∧
  ((mode = .rup ∧ neg = false) ∨ (mode = .rdn ∧ neg = true) → x ≤ y ∧ y < x + step) ∧
  (mode = .rne ∨ mode = .rna → 2 * |x - y| ≤ step) ∧ (mode = .hsr → |x - y| < step)

theorem roundsWithin_self (mode : RMode) (neg : Bool) (x : ℚ) {step : ℚ} (h : 0 < step) : RoundsWithin mode neg x x step := by
  simp [RoundsWithin, h, h.le]

theorem RoundsWithin.scale {mode : RMode} {neg : Bool} {x y step : ℚ} (h : RoundsWithin mode neg x y step) {c : ℚ} (hc : 0 < c) :
    RoundsWithin mode neg (x * c) (y * c) (step * c) := by
  have habs : |x * c - y * c| = |x - y| * c := by rw [← sub_mul, abs_mul, abs_of_pos hc]
  obtain ⟨hdown, hup, hnear, hhsr⟩ := h
  simp only [RoundsWithin, habs, ← add_mul, ← mul_assoc, mul_le_mul_iff_left₀ hc, mul_lt_mul_iff_left₀ hc]
  exact ⟨hdown, hup, hnear, hhsr⟩

theorem RoundsWithin.mono {mode : RMode} {neg : Bool} {x y step step' : ℚ} (h : RoundsWithin mode neg x y step) (hs : step ≤ step') :
    RoundsWithin mode neg x y step' := by
  obtain ⟨hdown, hup, hnear, hhsr⟩ := h
  exact ⟨fun hm => ⟨(hdown hm).1, by linarith [(hdown hm).2]⟩, fun hm => ⟨(hup hm).1, by linarith [(hup hm).2]⟩,
    fun hm => (hnear hm).trans hs, fun hm => (hhsr hm).trans_le hs⟩

/-- No mode leaves a whole step. -/
theorem RoundsWithin.abs_sub_lt_step {mode : RMode} {neg : Bool} {x y step : ℚ} (h : RoundsWithin mode neg x y step) (hs : 0 < step) :
    |x - y| < step := by
  obtain ⟨hdown, hup, hnear, hhsr⟩ := h
  have of_down : y ≤ x ∧ x < y + step → |x - y| < step := fun hb => abs_lt.mpr ⟨by linarith, by linarith⟩
  have of_up : x ≤ y ∧ y < x + step → |x - y| < step := fun hb => abs_lt.mpr ⟨by linarith, by linarith⟩
  cases mode with
  | rne => linarith [hnear (.inl rfl), abs_nonneg (x - y)]
  | rna => linarith [hnear (.inr rfl), abs_nonneg (x - y)]
  | rtz => exact of_down (hdown (.inl rfl))
  | rup => cases neg <;> simp_all
  | rdn => cases neg <;> simp_all
  | hsr => exact hhsr rfl

/-- The bounds between natural numbers, without a difference. -/
theorem roundsWithin_of_nat {mode : RMode} {neg : Bool} {m y d : Nat}
    (hdown : mode = .rtz ∨ (mode = .rup ∧ neg = true) ∨ (mode = .rdn ∧ neg = false) → y ≤ m ∧ m < y + d)
    (hup : (mode = .rup ∧ neg = false) ∨ (mode = .rdn ∧ neg = true) → m ≤ y ∧ y < m + d)
    (hnear : mode = .rne ∨ mode = .rna → 2 * m ≤ 2 * y + d ∧ 2 * y ≤ 2 * m + d)
    (hhsr : mode = .hsr → m < y + d ∧ y < m + d) : RoundsWithin mode neg m y d := by
  refine ⟨fun h => by exact_mod_cast hdown h, fun h => by exact_mod_cast hup h, fun h => ?_, fun h => ?_⟩
  · obtain ⟨hlow, hhigh⟩ : 2 * (m : ℚ) ≤ 2 * y + d ∧ 2 * (y : ℚ) ≤ 2 * m + d := by exact_mod_cast hnear h
    rw [← le_div_iff₀' two_pos, abs_sub_le_iff]
    constructor <;> linarith
  · obtain ⟨hlow, hhigh⟩ : (m : ℚ) < y + d ∧ (y : ℚ) < m + d := by exact_mod_cast hhsr h
    rw [abs_sub_lt_iff]
    constructor <;> linarith

/-- What a mode leaves of a natural number rounded to a grid above the units. -/
theorem roundGrid_within_units {e g : Int} (h : e < g) (mode : RMode) (u : Nat) (neg : Bool) (m : Nat) :
    RoundsWithin mode neg m (roundGrid mode u neg m e g false * 2 ^ (g - e).toNat : Nat) (2 ^ (g - e).toNat : Nat) := by
  have hpos := Nat.two_pow_pos (g - e).toNat
  have hfloor := Nat.div_mul_le_self m (2 ^ (g - e).toNat)
  have hfloor' := Nat.lt_div_mul_add (a := m) hpos
  have hceil := Nat.div_mul_le_self (m + 2 ^ (g - e).toNat - 1) (2 ^ (g - e).toNat)
  have hceil' := Nat.lt_div_mul_add (a := m + 2 ^ (g - e).toNat - 1) hpos
  cases mode with
  | rtz => rw [roundGrid_rtz h]; apply roundsWithin_of_nat <;> simp; omega
  | rup =>
    rw [roundGrid_rup h]
    cases neg
    · apply roundsWithin_of_nat <;> simp; omega
    · apply roundsWithin_of_nat <;> simp; omega
  | rdn =>
    rw [roundGrid_rdn h]
    cases neg
    · apply roundsWithin_of_nat <;> simp; omega
    · apply roundsWithin_of_nat <;> simp; omega
  | rne => have := roundGrid_rne h u neg m; apply roundsWithin_of_nat <;> simp; omega
  | rna => have := roundGrid_rna h u neg m; apply roundsWithin_of_nat <;> simp; omega
  | hsr =>
    refine roundsWithin_of_nat (by simp) (by simp) (by simp) (fun _ => ?_)
    have hm := Nat.div_add_mod' m (2 ^ (g - e).toNat)
    rcases roundGrid_hsr h u neg m with hq | ⟨hr, hq⟩
    · rw [hq]; omega
    · rw [hq, Nat.add_mul]; omega

theorem two_pow_mul_zpow {a b : Nat} {c d : Int} (h : a + c = b + d) : (2 : ℚ) ^ a * 2 ^ c = 2 ^ b * 2 ^ d := by
  rw [← zpow_natCast, ← zpow_natCast, ← zpow_add₀ two_ne_zero, ← zpow_add₀ two_ne_zero, h]

/-- What a mode leaves of a magnitude `m x 2^e` rounded to a multiple of `2^g` (R79). -/
theorem roundGrid_within (mode : RMode) (u : Nat) (neg : Bool) (m : Nat) (e g : Int) :
    RoundsWithin mode neg (m * 2 ^ e) (roundGrid mode u neg m e g false * 2 ^ g) (2 ^ g) := by
  rcases le_or_gt g e with h | h
  · rw [roundGrid_of_le h]
    have hpow : (2 : ℚ) ^ e = 2 ^ (e - g).toNat * 2 ^ g := by
      simpa using two_pow_mul_zpow (show ((0 : Nat) : Int) + e = (e - g).toNat + g by omega)
    push_cast
    rw [hpow, mul_assoc]
    exact roundsWithin_self mode neg _ (by positivity)
  · have hpow : (2 : ℚ) ^ g = 2 ^ (g - e).toNat * 2 ^ e := by
      rw [← zpow_natCast, ← zpow_add₀ two_ne_zero, Int.toNat_of_nonneg (by omega), sub_add_cancel]
    have hunits := (roundGrid_within_units h mode u neg m).scale (c := 2 ^ e) (by positivity)
    push_cast at hunits
    rwa [mul_assoc, ← hpow] at hunits

/-! ### Normal words (R74, R77) -/

theorem wPack_toNat (neg : Bool) {q : Nat} {g : Int} (hq : q < 2 ^ 50) (hg : g ≤ 4046) :
    (wPack neg q g).toNat = (if neg then 2 ^ 63 else 0) + (g + 4144).toNat * 2 ^ 50 + q := by
  have hE : (g + 4144).toNat ≤ 8190 := by omega
  rw [wPack, BitVec.toNat_ofNat, Nat.mod_eq_of_lt hq]
  split <;> omega

/-- A normal word reads as what it was packed from. -/
theorem wRead_wPack (neg : Bool) {q : Nat} {g : Int} (hlow : 2 ^ 49 ≤ q) (hhigh : q < 2 ^ 50) (hmin : -4143 ≤ g) (hmax : g ≤ 4046) :
    wRead (wPack neg q g) = .fin neg q g := by
  have hbits : 49 < nbits q := by
    by_contra hle
    have := Nat.pow_le_pow_right two_pos (not_lt.mp hle)
    have := lt_two_pow_nbits q
    omega
  have hx := wPack_toNat neg hhigh hmax
  have hE : (wPack neg q g).toNat / 2 ^ 50 % 2 ^ 13 = (g + 4144).toNat := by rw [hx]; split <;> omega
  have hM : (wPack neg q g).toNat % 2 ^ 50 = q := by rw [hx]; split <;> omega
  have hs : decide (2 ^ 63 ≤ (wPack neg q g).toNat) = neg := by rw [hx]; cases neg <;> simp <;> omega
  unfold wRead
  simp only [hE, hM, hs]
  rw [if_neg (by omega), if_neg (by simp; omega), if_neg (by omega)]
  congr 1
  omega

section
variable {mode : RMode} {u : Nat} {neg : Bool} {m : Nat} {e : Int}

/-- Rounding within the range of the normal words packs what the grid gives, where it has 50 bits. -/
theorem roundW_of_grid {g : Int} (hg : g = e + (nbits m : Int) - 50) (hq : roundGrid mode u neg m e g false ≠ 2 ^ 50)
    (hmin : -4143 ≤ g) (hmax : g ≤ 4046) : roundW mode u neg m e false = wPack neg (roundGrid mode u neg m e g false) g := by
  subst hg
  simp only [roundW, if_neg hq]
  rw [if_neg (by omega), if_neg (by omega)]

/-- A carry out of the 50 bits takes the next exponent. -/
theorem roundW_of_carry {g : Int} (hg : g = e + (nbits m : Int) - 50) (hq : roundGrid mode u neg m e g false = 2 ^ 50)
    (hmin : -4144 ≤ g) (hmax : g ≤ 4045) : roundW mode u neg m e false = wPack neg (2 ^ 49) (g + 1) := by
  subst hg
  simp only [roundW, if_pos hq]
  rw [if_neg (by omega), if_neg (by omega)]

/-- The exponent of the 50 leading bits of a magnitude bounds it. -/
theorem magnitude_bounds (hm : m ≠ 0) {g : Int} (hg : g = e + (nbits m : Int) - 50) :
    (2 : ℚ) ^ 49 * 2 ^ g ≤ m * 2 ^ e ∧ m * 2 ^ e < (2 : ℚ) ^ 50 * 2 ^ g := by
  have hn : nbits m ≠ 0 := by simp [nbits, hm]
  have hlow : (2 : ℚ) ^ 49 * 2 ^ g = (2 ^ (nbits m - 1) : Nat) * 2 ^ e := by
    push_cast
    exact two_pow_mul_zpow (by omega)
  have hhigh : (2 : ℚ) ^ 50 * 2 ^ g = (2 ^ nbits m : Nat) * 2 ^ e := by
    push_cast
    exact two_pow_mul_zpow (by omega)
  rw [hlow, hhigh]
  exact ⟨by gcongr; exact two_pow_le_of_nbits hm, by gcongr; exact lt_two_pow_nbits m⟩

/-- A magnitude of 50 leading bits is rounded to at least the least and at most the next power of two of 50 bits (R77). -/
theorem roundGrid_significand (hm : m ≠ 0) {g : Int} (hg : g = e + (nbits m : Int) - 50) :
    2 ^ 49 ≤ roundGrid mode u neg m e g false ∧ roundGrid mode u neg m e g false ≤ 2 ^ 50 := by
  have hstep : (0 : ℚ) < 2 ^ g := by positivity
  obtain ⟨hlow, hhigh⟩ := magnitude_bounds hm hg
  obtain ⟨habove, hbelow⟩ := abs_lt.mp ((roundGrid_within mode u neg m e g).abs_sub_lt_step hstep)
  generalize roundGrid mode u neg m e g false = q at *
  have hlt : ((2 ^ 49 : Nat) : ℚ) < (q + 1 : Nat) := lt_of_mul_lt_mul_right (a := (2 : ℚ) ^ g) (by push_cast; linarith) hstep.le
  have hgt : (q : ℚ) < (2 ^ 50 + 1 : Nat) := lt_of_mul_lt_mul_right (a := (2 : ℚ) ^ g) (by push_cast; linarith) hstep.le
  exact ⟨Nat.lt_succ_iff.mp (by exact_mod_cast hlt), Nat.lt_succ_iff.mp (by exact_mod_cast hgt)⟩

/-- A magnitude of the normal range has its 50 leading bits in the range of the normal words, before and after a carry. -/
theorem normal_exponent (hm : m ≠ 0) {g : Int} (hg : g = e + (nbits m : Int) - 50) (hmin : (2 : ℚ) ^ (-4094 : Int) ≤ m * 2 ^ e)
    (hmax : m * 2 ^ e ≤ (2 ^ 50 - 1) * (2 : ℚ) ^ (4046 : Int)) :
    -4143 ≤ g ∧ g ≤ 4046 ∧ (roundGrid mode u neg m e g false = 2 ^ 50 → g ≤ 4045) := by
  obtain ⟨hlow, hhigh⟩ := magnitude_bounds hm hg
  have hleast : (2 : ℚ) ^ (-4094 : Int) < 2 ^ (50 + g) := by
    rw [zpow_add₀ two_ne_zero]
    exact hmin.trans_lt (by exact_mod_cast hhigh)
  have hgreatest : (2 : ℚ) ^ (49 + g) < 2 ^ (4096 : Int) := by
    rw [zpow_add₀ two_ne_zero, show (4096 : Int) = 50 + 4046 by norm_num, zpow_add₀ two_ne_zero]
    calc (2 : ℚ) ^ (49 : Int) * 2 ^ g ≤ m * 2 ^ e := by exact_mod_cast hlow
      _ ≤ (2 ^ 50 - 1) * 2 ^ (4046 : Int) := hmax
      _ < 2 ^ (50 : Int) * 2 ^ (4046 : Int) := by gcongr; norm_num
  rw [zpow_lt_zpow_iff_right₀ one_lt_two] at hleast hgreatest
  refine ⟨by omega, by omega, fun hq => ?_⟩
  by_contra hg'
  obtain rfl : g = 4046 := by omega
  have habs := (roundGrid_within mode u neg m e 4046).abs_sub_lt_step (by positivity)
  rw [hq] at habs
  have := (abs_lt.mp habs).1
  generalize (2 : ℚ) ^ (4046 : Int) = top at hmax this
  push_cast at this
  linarith

/-- A magnitude between the least normal and the greatest finite one is rounded to a normal word, within the step of its mode (R77). -/
theorem roundW_normal (hmin : (2 : ℚ) ^ (-4094 : Int) ≤ m * 2 ^ e) (hmax : m * 2 ^ e ≤ (2 ^ 50 - 1) * (2 : ℚ) ^ (4046 : Int)) :
    ∃ (q : Nat) (g : Int), wRead (roundW mode u neg m e false) = .fin neg q g ∧ 2 ^ 49 ≤ q ∧ q < 2 ^ 50 ∧
      RoundsWithin mode neg (m * 2 ^ e) (q * 2 ^ g) (2 ^ g) := by
  have hm : m ≠ 0 := by
    rintro rfl
    rw [Nat.cast_zero, zero_mul] at hmin
    exact absurd hmin (not_le.mpr (by positivity))
  obtain ⟨g, hg⟩ : ∃ g, g = e + (nbits m : Int) - 50 := ⟨_, rfl⟩
  obtain ⟨hgmin, hgmax, hcarry⟩ := normal_exponent (mode := mode) (u := u) (neg := neg) hm hg hmin hmax
  obtain ⟨hqmin, hqmax⟩ := roundGrid_significand (mode := mode) (u := u) (neg := neg) hm hg
  have hwithin := roundGrid_within mode u neg m e g
  by_cases hq : roundGrid mode u neg m e g false = 2 ^ 50
  · refine ⟨2 ^ 49, g + 1, ?_, le_rfl, by norm_num, ?_⟩
    · rw [roundW_of_carry hg hq (by omega) (hcarry hq), wRead_wPack neg le_rfl (by norm_num) (by omega) (by have := hcarry hq; omega)]
    · have hstep : (2 : ℚ) ^ (g + 1) = 2 * 2 ^ g := by rw [zpow_add_one₀ two_ne_zero, mul_comm]
      rw [hq] at hwithin
      convert hwithin.mono (step' := 2 ^ (g + 1)) (by rw [hstep]; linarith [show (0 : ℚ) < 2 ^ g by positivity]) using 1
      rw [hstep]; push_cast; ring
  · refine ⟨_, g, ?_, hqmin, by omega, hwithin⟩
    rw [roundW_of_grid hg hq hgmin hgmax, wRead_wPack neg hqmin (by omega) hgmin hgmax]

end

/-- Settles O10: what `roundGrid` gives on a grid above the magnitude's unit is a quotient by the step, and the neighbour above
where `roundUp` says so; the words by the bounds of the grid, scaled. -/
theorem roundingGoesToTheNeighbour : Obligations.RoundingGoesToTheNeighbour := by
  refine ⟨fun mode u m neg e hmin hmax => roundW_normal hmin hmax, fun u m neg e g h => ?_⟩
  have hpos := Nat.two_pow_pos (g - e).toNat
  dsimp only
  rw [roundGrid_rtz h, roundGrid_rup h, roundGrid_rdn h]
  refine ⟨⟨Nat.div_mul_le_self _ _, Nat.lt_div_mul_add hpos⟩, by split <;> rfl, by split <;> rfl, roundGrid_rne h u neg m,
    roundGrid_rna h u neg m, ?_⟩
  rw [← Nat.succ_mul]
  exact (roundGrid_hsr h u neg m).imp (congrArg (· * _)) (fun ⟨_, hq⟩ => congrArg (· * _) hq)

end Sys2Proof.Machine

/-! Tensor maps (spec/07 R202-R206): where an element stands, what a read of its bytes finds, and one lemma per outcome of LDT and STT. -/

namespace Sys2Proof.Machine

/-! ### The place of an element (R203) -/

/-- A format other than E2M1 and T6 has its elements at whole bytes, one after the other. -/
theorem TMap.place_of_bytes {m : TMap} (c : List Nat) (h4 : m.fmt ≠ .e2m1) (h6 : m.fmt ≠ .t6) :
    m.place c = (c.getD 1 0 * m.stride1 + c.getD 2 0 * m.stride2 + c.getD 0 0 * fmtBytes m.fmt, 0, fmtBits m.fmt) := by
  unfold TMap.place
  split
  · contradiction
  · contradiction
  · rfl

theorem fmtBits_mod {fmt : Fmt} (h4 : fmt ≠ .e2m1) (h6 : fmt ≠ .t6) : fmtBits fmt % 8 = 0 := by
  cases fmt <;> simp_all [fmtBits]

/-- An element that is not whole bytes has at most eight bits, as the packed formats E2M1 and T6 do. -/
theorem TMap.place_width_le {m : TMap} {c : List Nat} {off bit w : Nat} (hpl : m.place c = (off, bit, w))
    (hw : ¬(bit = 0 ∧ w % 8 = 0)) : w ≤ 8 := by
  unfold TMap.place at hpl
  split at hpl
  · cases hpl; decide
  · cases hpl; decide
  · cases hpl
    exact absurd ⟨rfl, fmtBits_mod (by assumption) (by assumption)⟩ hw

theorem fmtBytes_ne_zero {fmt : Fmt} (h4 : fmt ≠ .e2m1) (h6 : fmt ≠ .t6) : fmtBytes fmt ≠ 0 := by
  cases fmt <;> simp_all [fmtBytes, fmtBits]

theorem TMap.cls_of_stream {m : TMap} (h : m.stream = true) : m.cls = .s := if_pos h

theorem TMap.cls_of_chunked {m : TMap} (h : m.stream = false) : m.cls = .g := by simp [TMap.cls, h]

theorem TMap.cls_ne_p (m : TMap) : m.cls ≠ .p := by unfold TMap.cls; split <;> decide

/-- Consuming operands leaves the random words of the stores (R80). -/
@[simp] theorem State.took_storeRnd (s : State) (r : Run) (ctx va bit : Nat) :
    (s.took r).storeRnd ctx va bit = s.storeRnd ctx va bit := rfl

/-- A chunked store to a device page, whose line STORES admits. -/
theorem writeAt_device_counted {s t u : State} {x : Site} {scope cp ea align bytes reads ts out pa key} (h1 : ea % align = 0)
    (h2 : ea < 2 ^ 57) (ht : translate s x.at_.ctx ea .store = (.ok pa key .device, t)) (hl : t.lockedFor pa true = false)
    (hu : t.countLines x [lineKey x.at_.core .device pa] = some u) :
    s.writeAt x .g scope cp ea align bytes reads ts out =
      .ok ((u.fillCopy x.at_.core (pa / 64) false cp).access x .device pa bytes.length key ea (.store bytes reads)) out [x.nextId] := by
  rw [writeAt_device h1 h2 ht hl, hu]

/-! ### Reading an element (R205) -/

section
variable {s t : State} {x : Site} {m : TMap} {va bit w pa : Nat} {ids : List Nat} {lo : List Byte}

theorem readElement_whole (hw : bit = 0 ∧ w % 8 = 0) :
    s.readElement x m va bit w = (s.readAt x m.cls m.policy va (w / 8) (w / 8) .load, []) := by
  simp [State.readElement, hw]

theorem readElement_byte (hw : ¬(bit = 0 ∧ w % 8 = 0)) (hb : bit + w ≤ 8)
    (hlo : s.readAt x m.cls m.policy va 1 1 .load = .got t lo pa ids) :
    s.readElement x m va bit w = (.got t (leBytes 1 (leNat lo / 2 ^ bit % 2 ^ w)) pa ids, []) := by
  simp [State.readElement, hw, hb, hlo]

theorem readElement_bytes {u : State} {hi : List Byte} {q : Nat} {js : List Nat} (hw : ¬(bit = 0 ∧ w % 8 = 0)) (hb : 8 < bit + w)
    (hlo : s.readAt x m.cls m.policy va 1 1 .load = .got t lo pa ids)
    (hhi : t.readAt (x.after ids) m.cls m.policy (va + 1) 1 1 .load = .got u hi q js) :
    s.readElement x m va bit w =
      (.got u (leBytes 1 ((leNat lo + 256 * leNat hi) / 2 ^ bit % 2 ^ w)) pa (ids ++ js), [(q, va + 1)]) := by
  simp [State.readElement, hw, hb.not_ge, hlo, hhi]

theorem readElement_bytes_bad {u : State} {cause : Nat} (hw : ¬(bit = 0 ∧ w % 8 = 0)) (hb : 8 < bit + w)
    (hlo : s.readAt x m.cls m.policy va 1 1 .load = .got t lo pa ids)
    (hhi : t.readAt (x.after ids) m.cls m.policy (va + 1) 1 1 .load = .bad u cause) :
    s.readElement x m va bit w = (.bad u cause, [(0, va + 1)]) := by
  simp [State.readElement, hw, hb.not_ge, hlo, hhi]

end

/-- The bits of a packed element fit a byte. -/
theorem leNat_packed {w : Nat} (hw : w ≤ 8) (v : Nat) : leNat (leBytes 1 (v % 2 ^ w)) = v % 2 ^ w := by
  rw [leNat_leBytes]
  exact Nat.mod_eq_of_lt ((Nat.mod_lt _ (Nat.two_pow_pos w)).trans_le (Nat.pow_le_pow_right two_pos hw))

/-! ### LDT and STT, one lemma per outcome (R205, R206) -/

section
variable {f : Fields} {map : BitVec 12} {oe : Bool} {rm : RMode} {s t : State} {p : Spot} {toks : List Token} {r : Run} {m : TMap}
  (hr : Ready s f p toks r) (hm : p.block.map? map.toNat = some m)
include hr hm

theorem exec_ldt_outside (ho : m.outside (coords (siteOf s p toks).a) = true) : exec (.ldt f map oe) s =
    .next (s.trapped p toks r (Fields.both f) (memCause .load reasonBounds) (some (siteOf s p toks).a.toNat)) :=
  congrArg _ (fire_trap hr (by simp [hm, ho]))

theorem exec_stt_outside (ho : m.outside (coords (siteOf s p toks).a) = true) : exec (.stt f map oe rm) s =
    .next (s.trapped p toks r (Fields.both f) (memCause .store reasonBounds) (some (siteOf s p toks).a.toNat)) :=
  congrArg _ (fire_trap hr (by simp [hm, ho]))

variable {off bit w : Nat} (ho : m.outside (coords (siteOf s p toks).a) = false)
  (hpl : m.place (coords (siteOf s p toks).a) = (off, bit, w))
include ho hpl

/-- An LDT whose element was read: of a map without a scale its value, of one with a scale the value times the scale read after it
(R92). -/
theorem exec_ldt_of_element {elem : List Byte} {pa e : Nat} {ids : List Nat} {also : List (Nat × Nat)}
    (hread : (s.took r).readElement (siteOf s p toks) m (m.base + off) bit w = (.got t elem pa ids, also)) (he : leNat elem = e) :
    (m.sfmt = 0 → exec (.ldt f map oe) s = .next ((t.awaitReturn (siteOf s p toks) (fmtDecode m.fmt e)
      ((siteOf s p toks).deps ++ ids).dedup .load pa (m.base + off) also).sending s p toks [] [])) ∧
    (m.sfmt ≠ 0 → ∀ u sc q js, t.readAt ((siteOf s p toks).after ids) m.cls m.policy (m.scaleVa (coords (siteOf s p toks).a))
        m.sw m.sw .load = .got u sc q js →
      exec (.ldt f map oe) s = .next ((u.awaitReturn (siteOf s p toks)
        (wWrite (scaledVal (fmtVal m.fmt e) (if m.sfmt = 15 then s12Decode (leNat sc) else e8m0Decode (leNat sc))))
        ((siteOf s p toks).deps ++ (ids ++ js)).dedup .load pa (m.base + off)
        (also ++ [(q, m.scaleVa (coords (siteOf s p toks).a))])).sending s p toks [] [])) := by
  subst he
  refine ⟨fun hz => congrArg _ (fire_ok hr ?_), fun hz u sc q js hsc => congrArg _ (fire_ok hr ?_)⟩
  · simp [hm, ho, hpl, hread, hz, Found.await, mapValue]
  · simp [hm, ho, hpl, hread, hz, hsc, Found.await, mapValue]

/-- An LDT whose element could not be read traps with the place of the byte that failed: a second byte's, where that is named. -/
theorem exec_ldt_of_bad {cause failed : Nat} {also : List (Nat × Nat)}
    (hread : (s.took r).readElement (siteOf s p toks) m (m.base + off) bit w = (.bad t cause, also))
    (hfailed : (also.map (·.2)).headD (m.base + off) = failed) :
    exec (.ldt f map oe) s = .next (t.trapping s p toks (Fields.both f) cause (some failed)) :=
  congrArg _ (fire_bad hr (by simp [hm, ho, hpl, hread, Found.await, ← hfailed]))

/-- An STT of whole bytes, of a map without a scale. -/
theorem exec_stt_of_whole {out : List (Target × Option Word)} {ids : List Nat} (hz : m.sfmt = 0) (hw : bit = 0 ∧ w % 8 = 0)
    (hst : (s.took r).writeAt (siteOf s p toks) m.cls m.scopeOf m.policy (m.base + off) (fmtBytes m.fmt)
      (fullBytes (fmtBytes m.fmt) (fmtEncode m.fmt rm (s.storeRnd s.cur.ctx (m.base + off) bit) m.sat ((siteOf s p toks).b none)))
      false (Fields.both f) (doneBoth f) = .ok t out ids) :
    exec (.stt f map oe rm) s = .next (t.sending s p toks ids out) := by
  obtain ⟨rfl, hw⟩ := hw
  exact congrArg _ (fire_ok hr (by simp [hm, ho, hpl, hz, hw, hst]))

/-- An STT of an element within one byte, of a map without a scale. -/
theorem exec_stt_of_byte {out : List (Target × Option Word)} {ids : List Nat} {bits : Nat} (hz : m.sfmt = 0)
    (hw : ¬(bit = 0 ∧ w % 8 = 0)) (hb : bit + w ≤ 8)
    (hbits : bits = fmtEncode m.fmt rm (s.storeRnd s.cur.ctx (m.base + off) bit) m.sat ((siteOf s p toks).b none))
    (hst : (s.took r).writeAt (siteOf s p toks) m.cls m.scopeOf m.policy (m.base + off) 1
      [(BitVec.ofNat 8 (bits * 2 ^ bit), BitVec.ofNat 8 ((2 ^ w - 1) * 2 ^ bit))] true (Fields.both f) (doneBoth f) = .ok t out ids) :
    exec (.stt f map oe rm) s = .next (t.sending s p toks ids out) := by
  subst hbits
  exact congrArg _ (fire_ok hr (by simp [hm, ho, hpl, hz, hw, packedBytes, hb, hst]))

/-- An STT of an element in two bytes, of a map without a scale: the second byte is stored in the state that the first has left. -/
theorem exec_stt_of_bytes {u : State} {out : List (Target × Option Word)} {ids js : List Nat} {bits : Nat} (hz : m.sfmt = 0)
    (hw : ¬(bit = 0 ∧ w % 8 = 0)) (hb : 8 < bit + w)
    (hbits : bits = fmtEncode m.fmt rm (s.storeRnd s.cur.ctx (m.base + off) bit) m.sat ((siteOf s p toks).b none))
    (hlo : (s.took r).writeAt (siteOf s p toks) m.cls m.scopeOf m.policy (m.base + off) 1
      [(BitVec.ofNat 8 (bits * 2 ^ bit), BitVec.ofNat 8 ((2 ^ w - 1) * 2 ^ bit))] true (Fields.both f) [] = .ok t [] ids)
    (hhi : t.writeAt { siteOf s p toks with spot := { p with
        pass := { p.pass with nextId := p.pass.nextId + ids.length }
        run := ((t.spot? s.cur).map (·.run)).getD p.run } } m.cls m.scopeOf m.policy (m.base + off + 1) 1
      [(BitVec.ofNat 8 (bits * 2 ^ bit / 256), BitVec.ofNat 8 ((2 ^ w - 1) * 2 ^ bit / 256))] true (Fields.both f) (doneBoth f) =
      .ok u out js) :
    exec (.stt f map oe rm) s = .next (u.sending s p toks (ids ++ js) out) := by
  subst hbits
  refine congrArg _ (fire_ok hr ?_)
  cases hs : t.spot? s.cur <;>
    (simp only [hs, siteOf_at, siteOf_toks, siteOf_gen, Option.map_none, Option.map_some, Option.getD_none, Option.getD_some] at hhi
     simp [hm, ho, hpl, hz, hw, packedBytes, hb.not_ge, hlo, hs, Site.after, hhi])

/-- An STT of a map with a scale leaves its element for the end of the pass (R206). -/
theorem exec_stt_of_scaled {u : State} {pa key : Nat} (hz : m.sfmt ≠ 0)
    (ha : (s.took r).address s.cur.core s.cur.ctx m.cls (m.base + off) 1 .store = (.device pa key, t))
    (hu : t.countLines (siteOf s p toks) (if m.stream then [] else [lineKey s.cur.core .device pa]) = some u) :
    exec (.stt f map oe rm) s = .next ((u.updPass s.cur.core s.cur.ctx s.cur.pass (fun q => { q with
      nextId := q.nextId + 1
      scaled := q.scaled ++ [{ id := q.nextId, tidx := s.cur.tidx, idx := s.cur.idx, map := map.toNat
                               coord := coords (siteOf s p toks).a, rm := rm, val := (siteOf s p toks).b none
                               before := (siteOf s p toks).deps }] })).sending s p toks [p.pass.nextId] (doneBoth f)) :=
  congrArg _ (fire_ok hr (by simp [hm, ho, hpl, hz, ha, hu]))

end

/-- Settles O23: each clause is the outcome of its read or write at the element's place, by the lemmas of LDT and STT. -/
theorem tensorMapAccesses : Obligations.TensorMapAccesses := by
  intro f map oe rm s p toks r m hr hm x c n va bytes
  have hpl : m.place c = ((m.place c).1, (m.place c).2.1, (m.place c).2.2) := rfl
  refine ⟨fun ho => ⟨exec_ldt_outside hr hm ho, exec_stt_outside hr hm ho⟩, fun ho hz h4 h6 hstream hal hva => ?_, ?_⟩
  · have hplace := TMap.place_of_bytes c h4 h6
    have hwhole : 0 = 0 ∧ fmtBits m.fmt % 8 = 0 := ⟨rfl, fmtBits_mod h4 h6⟩
    have hat : va = m.base + (c.getD 1 0 * m.stride1 + c.getD 2 0 * m.stride2 + c.getD 0 0 * fmtBytes m.fmt) := by
      simp only [va, n]; omega
    clear_value va
    subst hat
    constructor
    · intro pa key t ht hl hf hc hrc found
      have hread := readAt_device (x := x) (cp := m.policy) hrc hal hva ht hl (fmtBytes_ne_zero h4 h6) hf hc
      rw [found_unspecified_got, ← TMap.cls_of_chunked hstream] at hread
      exact (exec_ldt_of_element hr hm ho hplace ((readElement_whole hwhole).trans (congrArg (·, _) hread)) rfl).1 hz
    · intro pa key t u ht hl hu
      refine exec_stt_of_whole hr hm ho hplace hz hwhole ?_
      rw [TMap.cls_of_chunked hstream]
      exact writeAt_device_counted hal hva ht hl hu
  · intro pl at_ bit w whole rows after reads ends takes bits packed
    refine ⟨?_, ?_, fun ho => ⟨?_, ?_, ?_, ?_, ?_, ?_, ?_⟩⟩
    · intro h4
      simp [pl, TMap.place, h4, rows]
    · intro h6
      simp [pl, TMap.place, h6, rows]
    · intro t b pa ids hw hread
      exact exec_ldt_of_element hr hm ho hpl ((readElement_whole hw).trans (congrArg (·, _) hread)) rfl
    · intro t b pa ids hw hb hread
      exact exec_ldt_of_element hr hm ho hpl (readElement_byte hw hb hread) (leNat_packed (TMap.place_width_le hpl hw) _)
    · intro t b pa ids u d q js hw hb hlo hhi
      exact exec_ldt_of_element hr hm ho hpl (readElement_bytes hw hb hlo hhi) (leNat_packed (TMap.place_width_le hpl hw) _)
    · intro t b pa ids u cause hw hb hlo hhi
      exact exec_ldt_of_bad hr hm ho hpl (readElement_bytes_bad hw hb hlo hhi) rfl
    · intro t cause hw hread
      exact exec_ldt_of_bad hr hm ho hpl ((readElement_whole hw).trans (congrArg (·, _) hread)) rfl
    · intro t ids u out js hz hw hb hlo hhi
      exact exec_stt_of_bytes hr hm ho hpl hz hw hb rfl hlo hhi
    · intro hva pa key t ht hl
      refine ⟨fun hz hstream hw hal => ?_, fun hz hstream hw hb => ?_, fun u hz hstream hw hb hu => ?_, fun u hz hu => ?_⟩
      · refine exec_stt_of_whole hr hm ho hpl hz hw ?_
        rw [TMap.cls_of_stream hstream]
        exact writeAt_stream hal hva ht hl
      · refine exec_stt_of_byte hr hm ho hpl hz hw hb rfl ?_
        rw [TMap.cls_of_stream hstream]
        exact writeAt_stream (Nat.mod_one _) hva ht hl
      · refine exec_stt_of_byte hr hm ho hpl hz hw hb rfl ?_
        rw [TMap.cls_of_chunked hstream]
        exact writeAt_device_counted (Nat.mod_one _) hva ht hl hu
      · refine exec_stt_of_scaled hr hm ho hpl hz (pa := pa) (key := key) ?_ hu
        exact (address_device m.cls_ne_p (Nat.mod_one _) hva ht).trans (by simp [hl])

end Sys2Proof.Machine

/-! The bits of an integer result (spec/04 R103, R115-R118): what `put` makes of a number, said once by bits, and the bits of the
counts, the fields and the selected bytes. -/

namespace Sys2Proof.Machine

/-! ### Reading and writing at the width of a type (R103) -/

theorem tyWidth_eq (ty : IntTy) : tyWidth ty = 32 ∨ tyWidth ty = 64 := by cases ty <;> simp [tyWidth]

theorem testBit_low (ty : IntTy) (a : Word) (j : Nat) : (low ty a).testBit j = (decide (j < tyWidth ty) && a.getLsbD j) := by
  rw [low, Nat.testBit_mod_two_pow, BitVec.testBit_toNat]

theorem low_lt (ty : IntTy) (a : Word) : low ty a < 2 ^ tyWidth ty := Nat.mod_lt _ (Nat.two_pow_pos _)

/-- Below the width, `put` gives the bits of the integer. -/
theorem getLsbD_put_low (ty : IntTy) (v : Int) {j : Nat} (h : j < tyWidth ty) :
    (put ty v).getLsbD j = (BitVec.ofInt (tyWidth ty) v).getLsbD j := by
  cases ty with
  | i32 => simp only [tyWidth] at h ⊢; simp [put, BitVec.getLsbD_signExtend, h]; omega
  | n32 => simp only [tyWidth] at h ⊢; simp [put]; omega
  | i64 => rfl
  | n64 => rfl

/-- At and above the width, `put` repeats the sign bit of a signed type, and gives zeros for another. -/
theorem getLsbD_put_high (ty : IntTy) (v : Int) {j : Nat} (h : tyWidth ty ≤ j) (hj : j < 64) :
    (put ty v).getLsbD j = (tySigned ty && (put ty v).getLsbD (tyWidth ty - 1)) := by
  cases ty with
  | i32 => 
    simp only [tyWidth] at h ⊢
    simp only [put, tySigned, BitVec.getLsbD_signExtend, BitVec.msb_eq_getLsbD_last]
    simp [hj, h.not_gt]
  | n32 => simp only [tyWidth] at h; simp [put, tySigned, BitVec.getLsbD_of_ge, h]
  | i64 => exact absurd hj (not_lt.mpr h)
  | n64 => exact absurd hj (not_lt.mpr h)

theorem getLsbD_put_natCast (ty : IntTy) (v : Nat) {j : Nat} (h : j < tyWidth ty) : (put ty v).getLsbD j = v.testBit j := by
  rw [getLsbD_put_low ty _ h, BitVec.ofInt_natCast, BitVec.getLsbD_ofNat, decide_eq_true h, Bool.true_and]

/-- A signed field keeps its bits and is extended by its highest. -/
theorem getLsbD_put_toInt (ty : IntTy) {n : Nat} (x : BitVec n) {j : Nat} (h : j < tyWidth ty) :
    (put ty x.toInt).getLsbD j = if j < n then x.getLsbD j else x.msb := by
  rw [getLsbD_put_low ty _ h]
  exact (BitVec.getLsbD_signExtend x).trans (by rw [decide_eq_true h, Bool.true_and])

/-! ### Bit counts (R115) -/

theorem testBit_nbits_pred {m : Nat} (h : m ≠ 0) : m.testBit (nbits m - 1) = true := by
  simpa [nbits, h] using Nat.testBit_log2 h

theorem nbits_le {m n : Nat} (h : m < 2 ^ n) : nbits m ≤ n := by
  unfold nbits
  split
  · exact Nat.zero_le n
  · next h0 => exact (Nat.log2_lt h0).mpr h

theorem trailing_le (fuel n : Nat) : trailing fuel n ≤ fuel := by
  induction fuel generalizing n with
  | zero => exact le_rfl
  | succ fuel ih =>
    unfold trailing
    split
    · exact Nat.zero_le _
    · exact Nat.succ_le_succ (ih _)

/-- The bits below the lowest 1 are zeros. -/
theorem testBit_of_lt_trailing (fuel n : Nat) {k : Nat} (h : k < trailing fuel n) : n.testBit k = false := by
  induction fuel generalizing n k with
  | zero => exact absurd h (Nat.not_lt_zero k)
  | succ fuel ih =>
    unfold trailing at h
    split at h
    · exact absurd h (Nat.not_lt_zero k)
    · next h0 =>
      cases k with
      | zero => simp [h0]
      | succ k => rw [Nat.testBit_succ]; exact ih _ (Nat.lt_of_succ_lt_succ h)

/-- The bit after them is a 1, where they do not reach the end. -/
theorem testBit_trailing (fuel n : Nat) (h : trailing fuel n < fuel) : n.testBit (trailing fuel n) = true := by
  induction fuel generalizing n with
  | zero => exact absurd h (Nat.not_lt_zero _)
  | succ fuel ih =>
    unfold trailing at h ⊢
    split
    · next h1 => simp [h1]
    · next h1 =>
      rw [if_neg h1] at h
      rw [Nat.testBit_succ]
      exact ih _ (Nat.lt_of_succ_lt_succ h)

theorem popCount_eq (fuel n : Nat) : popCount fuel n = ((List.range fuel).filter n.testBit).length := by
  induction fuel generalizing n with
  | zero => rfl
  | succ fuel ih =>
    have hshift : n.testBit ∘ Nat.succ = (n / 2).testBit := funext fun k => Nat.testBit_succ n k
    rw [popCount, ih, List.range_succ_eq_map, List.filter_cons, List.filter_map, hshift]
    rcases Nat.mod_two_eq_zero_or_one n with h | h <;> simp [h, Nat.add_comm]

theorem bitRev_lt (fuel n : Nat) : bitRev fuel n < 2 ^ fuel := by
  induction fuel generalizing n with
  | zero => exact Nat.one_pos
  | succ fuel ih =>
    have := ih (n / 2)
    rw [bitRev, pow_succ]
    rcases Nat.mod_two_eq_zero_or_one n with h | h <;> rw [h] <;> omega

theorem testBit_bitRev (fuel n : Nat) {j : Nat} (h : j < fuel) : (bitRev fuel n).testBit j = n.testBit (fuel - 1 - j) := by
  induction fuel generalizing n j with
  | zero => exact absurd h (Nat.not_lt_zero j)
  | succ fuel ih =>
    rw [bitRev, mul_comm, Nat.testBit_two_pow_mul_add _ (bitRev_lt fuel _)]
    by_cases hj : j < fuel
    · rw [if_pos hj, ih _ hj, show fuel + 1 - 1 - j = (fuel - 1 - j) + 1 by omega, Nat.testBit_succ]
    · obtain rfl : j = fuel := by omega
      simp [Nat.testBit_zero]

/-- Settles O6: each count by the recursion of its function, on the low bits of the operand. -/
theorem bitCountsCountBits : Obligations.BitCountsCountBits := by
  intro ty a w
  have hbit : ∀ {j}, j < w → a.getLsbD j = (low ty a).testBit j := fun hj => by
    rw [testBit_low, decide_eq_true hj, Bool.true_and]
  have hw : 0 < w := by rcases tyWidth_eq ty with h | h <;> simp [w, h]
  have hlen : nbits (low ty a) ≤ w := nbits_le (low_lt ty a)
  refine ⟨⟨w - nbits (low ty a), rfl, Nat.sub_le _ _, fun k hk => ?_, fun hn => ?_⟩,
    ⟨_, rfl, trailing_le _ _, fun k hk => ?_, fun hn => ?_⟩, ?_, fun j hj => ?_⟩
  · rw [hbit (by omega)]
    exact Nat.testBit_lt_two_pow ((lt_two_pow_nbits _).trans_le (Nat.pow_le_pow_right two_pos (by omega)))
  · rw [hbit (by omega), show w - 1 - (w - nbits (low ty a)) = nbits (low ty a) - 1 by omega]
    exact testBit_nbits_pred (by rintro h; simp [h, nbits] at hn)
  · rw [hbit (hk.trans_le (trailing_le _ _))]
    exact testBit_of_lt_trailing _ _ hk
  · rw [hbit hn]
    exact testBit_trailing _ _ hn
  · rw [resPopc, popCount_eq, List.filter_congr fun k hk => (hbit (List.mem_range.mp hk)).symm]
  · rw [resBrev, getLsbD_put_natCast ty _ hj, testBit_bitRev _ _ hj, hbit (by omega)]

/-! ### Fields (R116, R117) -/

/-- The integer that a field of bits stands for in a type. -/
def fieldValue (ty : IntTy) {n : Nat} (x : BitVec n) : Int := if tySigned ty then x.toInt else x.toNat

/-- A field written to a type is extended by its highest bit, or by zeros. -/
theorem getLsbD_put_fieldValue (ty : IntTy) {n : Nat} (x : BitVec n) {j : Nat} (h : j < tyWidth ty) :
    (put ty (fieldValue ty x)).getLsbD j = if j < n then x.getLsbD j else tySigned ty && x.msb := by
  unfold fieldValue
  cases tySigned ty
  · rw [if_neg Bool.false_ne_true, getLsbD_put_natCast ty _ h, BitVec.testBit_toNat, Bool.false_and]
    split
    · rfl
    · next hj => exact BitVec.getLsbD_of_ge _ _ (not_lt.mp hj)
  · rw [if_pos rfl, getLsbD_put_toInt ty x h, Bool.true_and]

/-- The subtraction by which the model extends a field. -/
theorem fieldValue_eq (ty : IntTy) {n : Nat} (x : BitVec n) :
    (if tySigned ty && decide (2 ^ (n - 1) ≤ x.toNat) then put ty ((x.toNat : Int) - 2 ^ n) else put ty x.toNat) =
      put ty (fieldValue ty x) := by
  rw [fieldValue, BitVec.toInt_eq_msb_cond, BitVec.msb_eq_decide]
  push_cast
  cases tySigned ty
  · simp
  · by_cases h : 2 ^ (n - 1) ≤ x.toNat <;> simp [h]

theorem resBfx_eq (ty : IntTy) (a b : Word) :
    resBfx ty a b = put ty (fieldValue ty (BitVec.ofNat (fieldSpec ty b).2 (low ty a / 2 ^ (fieldSpec ty b).1))) := by
  rw [← fieldValue_eq, BitVec.toNat_ofNat]
  unfold resBfx
  cases h : (fieldSpec ty b).2 with
  | zero => simp [Nat.mod_one]
  | succ n => simp

theorem resExt_eq (ty : IntTy) (width : ExtWidth) (a : Word) :
    resExt ty width a = put ty (fieldValue ty (a.setWidth (extBits width))) := by
  rw [← fieldValue_eq, BitVec.toNat_setWidth]
  rfl

theorem extBits_pos (width : ExtWidth) : 0 < extBits width := by cases width <;> decide

/-! ### Insertion and the selected bytes (R116, R118) -/

/-- BFI replaces the bits of the field alone. -/
theorem getLsbD_resBfi (ty : IntTy) (a b c : Word) {j : Nat} (h : j < tyWidth ty) :
    (resBfi ty a b c).getLsbD j = if (fieldSpec ty c).1 ≤ j ∧ j < (fieldSpec ty c).1 + (fieldSpec ty c).2
      then b.getLsbD (j - (fieldSpec ty c).1) else a.getLsbD j := by
  unfold resBfi
  generalize (fieldSpec ty c).1 = pos
  generalize (fieldSpec ty c).2 = len
  have hmask : ((2 ^ len - 1) * 2 ^ pos % 2 ^ tyWidth ty).testBit j = decide (pos ≤ j ∧ j < pos + len) := by
    rw [Nat.testBit_mod_two_pow, mul_comm, Nat.testBit_two_pow_mul, Nat.testBit_two_pow_sub_one]
    by_cases hp : pos ≤ j <;> simp [h, hp]; omega
  have hrest := Nat.testBit_two_pow_sub_succ (Nat.mod_lt ((2 ^ len - 1) * 2 ^ pos) (Nat.two_pow_pos (tyWidth ty))) j
  rw [Nat.sub_add_eq, Nat.sub_right_comm] at hrest
  dsimp only
  rw [getLsbD_put_natCast ty _ h, Nat.testBit_or, Nat.testBit_and, Nat.testBit_and, hrest, hmask, testBit_low, mul_comm b.toNat,
    Nat.testBit_two_pow_mul, BitVec.testBit_toNat]
  by_cases hf : pos ≤ j ∧ j < pos + len <;> simp [h, hf]

theorem sum_bytes_lt (f : Nat → Nat) (hf : ∀ i, f i < 256) (n : Nat) :
    ((List.range n).map (fun i => f i * 256 ^ i)).sum < 256 ^ n := by
  induction n with
  | zero => exact Nat.one_pos
  | succ n ih =>
    rw [List.range_succ, List.map_append, List.sum_append, List.map_singleton, List.sum_singleton, pow_succ]
    have := Nat.mul_le_mul_right (256 ^ n) (Nat.le_of_lt_succ (hf n))
    omega

/-- A number written by its bytes has their bits. -/
theorem testBit_sum_bytes (f : Nat → Nat) (hf : ∀ i, f i < 256) (n : Nat) {i k : Nat} (hi : i < n) (hk : k < 8) :
    ((List.range n).map (fun i => f i * 256 ^ i)).sum.testBit (8 * i + k) = (f i).testBit k := by
  induction n with
  | zero => exact absurd hi (Nat.not_lt_zero i)
  | succ n ih =>
    have hlt := sum_bytes_lt f hf n
    have hpow : 256 ^ n = 2 ^ (8 * n) := (pow_mul 2 8 n).symm
    rw [List.range_succ, List.map_append, List.sum_append, List.map_singleton, List.sum_singleton, Nat.add_comm, mul_comm, hpow]
    rw [hpow] at hlt
    rw [Nat.testBit_two_pow_mul_add _ hlt]
    by_cases h : i < n
    · rw [if_pos (by omega), ih h]
    · obtain rfl : i = n := by omega
      rw [if_neg (by omega), Nat.add_sub_cancel_left]

theorem permByte_lt (a b i : Nat) : permByte a b i < 256 := by
  unfold permByte
  dsimp only
  split <;> omega

/-- A selected byte: zeros by the highest bit of its selector, else the byte of `a` named by the three others. -/
theorem testBit_permByte (a b : Word) (i : Nat) {k : Nat} (hk : k < 8) : (permByte a.toNat b.toNat i).testBit k =
    (!b.getLsbD (4 * i + 3) && a.getLsbD (8 * (b.toNat / 16 ^ i % 8) + k)) := by
  have htop : b.getLsbD (4 * i + 3) = decide (8 ≤ b.toNat / 16 ^ i % 16) := by
    rw [← BitVec.testBit_toNat, Nat.testBit_eq_decide_div_mod_eq, pow_add, pow_mul, ← Nat.div_div_eq_div_mul]
    norm_num
    omega
  rw [htop]
  unfold permByte
  dsimp only
  by_cases h : 8 ≤ b.toNat / 16 ^ i % 16
  · simp [h]
  · have hsel : b.toNat / 16 ^ i % 16 = b.toNat / 16 ^ i % 8 := by omega
    have hbyte : a.toNat / 256 ^ (b.toNat / 16 ^ i % 8) = a.toNat / 2 ^ (8 * (b.toNat / 16 ^ i % 8)) :=
      congrArg _ (pow_mul 2 8 _).symm
    rw [if_neg h, decide_eq_false h, hsel, hbyte, show 256 = 2 ^ 8 from rfl, Nat.testBit_mod_two_pow, Nat.testBit_div_two_pow,
      BitVec.testBit_toNat, Nat.add_comm k]
    simp [hk]

/-- Settles O7: BFX and EXT write fields of bits, BFI by its mask, PERM by its bytes. -/
theorem fieldsTakeTheirBits : Obligations.FieldsTakeTheirBits := by
  intro ty width a b c w pos len
  have hlen : (fieldSpec ty b).2 = len b := rfl
  have hpos : (fieldSpec ty b).1 = pos b := rfl
  have hfield : ∀ j, (BitVec.ofNat (len b) (low ty a / 2 ^ pos b)).getLsbD j =
      (decide (j < len b) && (decide (pos b + j < w) && a.getLsbD (pos b + j))) := fun j => by
    rw [BitVec.getLsbD_ofNat, Nat.testBit_div_two_pow, testBit_low, Nat.add_comm j]
  refine ⟨fun j hj hl => ?_, fun j hj hl => ?_, fun v hv j hj hj' => ?_, fun j hj => getLsbD_resBfi ty a b c hj, fun j hj hn => ?_,
    fun j hj hn => ?_, fun i k hi hk => ?_⟩
  · rw [resBfx_eq, getLsbD_put_fieldValue ty _ hj, hlen, hpos, if_pos hl, hfield, decide_eq_true hl, Bool.true_and]
  · rw [resBfx_eq, getLsbD_put_fieldValue ty _ hj, hlen, hpos, if_neg hl.not_gt, BitVec.msb_eq_getLsbD_last, hfield]
    by_cases h0 : 0 < len b
    · have hend : pos b + (len b - 1) = pos b + len b - 1 := by omega
      have hle : pos b + len b - 1 < w ↔ pos b + len b ≤ w := by omega
      simp [h0, hend, hle, Bool.and_assoc]
    · simp [h0]
  · obtain ⟨z, rfl⟩ : ∃ z, v = put ty z := by
      simp only [List.mem_cons, List.not_mem_nil, or_false] at hv
      rcases hv with rfl | rfl | rfl | rfl
      · exact ⟨_, resBfx_eq ty a b⟩
      · exact ⟨_, rfl⟩
      · exact ⟨_, resExt_eq ty width a⟩
      · exact ⟨_, rfl⟩
    exact getLsbD_put_high ty z hj hj'
  · rw [resExt_eq, getLsbD_put_fieldValue ty _ hj, if_pos hn, BitVec.getLsbD_setWidth, decide_eq_true hn, Bool.true_and]
  · rw [resExt_eq, getLsbD_put_fieldValue ty _ hj, if_neg hn.not_gt, BitVec.msb_eq_getLsbD_last, BitVec.getLsbD_setWidth]
    simp [extBits_pos width]
  · rw [resPerm, getLsbD_put_natCast ty _ (by rcases tyWidth_eq ty with h | h <;> omega),
      testBit_sum_bytes _ (permByte_lt _ _) _ hi hk, testBit_permByte a b i hk]

end Sys2Proof.Machine

/-! The integer instructions (spec/04 R103-R120): an exact result narrowed to its type, the cases of a division, and the checksum as
a register that takes one bit at a time. -/

namespace Sys2Proof.Machine

section
variable {s : State} {f : Fields} {p : Spot} {toks : List Token} {r : Run} {g : Site → State → Except Nat Word}
  (hr : Ready s f p toks r)
include hr

/-! ### The ways of sending a value (R104, R106) -/

/-- An instruction whose value cannot trap sends it. -/
theorem exec_of_value {i : Instr} {v w : Word} (hi : exec i s = .next (s.fireValue f g))
    (hg : g (siteOf s p toks) (s.took r) = .ok v) (hv : v = w) :
    exec i s = .next (s.sent p toks r (toAll (Fields.both f) (some w))) := by
  rw [hi, fireValue_ok hr hg, hv]

/-- A value narrowed to its type is sent, or is a cause under .CHK where the type does not hold it. -/
theorem fireValue_narrow {ty : IntTy} {chk : Bool} {v : Int} (hg : g (siteOf s p toks) (s.took r) = narrow ty chk v) :
    s.fireValue f g = if chk = true ∧ ¬(tyLo ty ≤ v ∧ v ≤ tyHi ty)
      then s.trapped p toks r (Fields.both f) 0x000 (some s.cur.idx)
      else s.sent p toks r (toAll (Fields.both f) (some (put ty v))) := by
  have hout : (chk && (decide (v < tyLo ty) || decide (tyHi ty < v))) = true ↔
      chk = true ∧ ¬(tyLo ty ≤ v ∧ v ≤ tyHi ty) := by
    simp only [Bool.and_eq_true, Bool.or_eq_true, decide_eq_true_eq, and_congr_right_iff]
    omega
  unfold narrow at hg
  simp only [hout] at hg
  split_ifs at hg ⊢
  · exact fireValue_bad hr hg
  · exact fireValue_ok hr hg

end

/-- Settles O1: each instruction narrows its exact integer. -/
theorem integerArithmetic : Obligations.IntegerArithmetic := by
  intro f ty chk imm s p toks r hr x a b c gives
  refine ⟨congrArg _ (fireValue_narrow hr rfl), congrArg _ (fireValue_narrow hr rfl), congrArg _ (fireValue_narrow hr rfl),
    congrArg _ (fireValue_narrow hr rfl), congrArg _ (fireValue_narrow hr rfl), congrArg _ (fireValue_narrow hr ?_),
    congrArg _ (fireValue_narrow hr ?_)⟩
  · exact congrArg (narrow ty chk) (Int.natCast_natAbs _)
  · exact congrArg (narrow ty chk) (Int.natCast_natAbs _)

/-! ### Division (R109) -/

section
variable {ty : IntTy} {chk : Bool} {a b : Word}

theorem divRem_truncated (h0 : val ty b ≠ 0) (hlo : ¬(tySigned ty = true ∧ val ty a = tyLo ty ∧ val ty b = -1)) :
    divRem ty chk a b = .ok ((val ty a).tdiv (val ty b), val ty a - val ty b * (val ty a).tdiv (val ty b)) := by
  unfold divRem
  rw [if_neg h0, if_neg (by simpa [and_assoc] using hlo), mul_comm]

theorem divRem_zero (h0 : val ty b = 0) : divRem ty chk a b =
    if chk then .error 0x001 else .ok (if tySigned ty then -1 else 2 ^ tyWidth ty - 1, val ty a) := if_pos h0

theorem divRem_overflow (hs : tySigned ty = true) (hlo : val ty a = tyLo ty) (hb : val ty b = -1) : divRem ty chk a b =
    if chk then .error 0x000 else .ok (tyLo ty, 0) := by
  simp [divRem, hs, hlo, hb, causeIntOverflow]

end

section
variable {f : Fields} {ty : IntTy} {chk : Bool} {imm : Option Imm} {s : State} {p : Spot} {toks : List Token} {r : Run}
  (hr : Ready s f p toks r)
include hr

/-- DIV and REM send the two parts of one division. -/
theorem exec_div_rem_of_ok {q m : Int} (h : divRem ty chk (siteOf s p toks).a ((siteOf s p toks).b imm) = .ok (q, m)) :
    exec (.div f ty chk imm) s = .next (s.sent p toks r (toAll (Fields.both f) (some (put ty q)))) ∧
    exec (.rem f ty chk imm) s = .next (s.sent p toks r (toAll (Fields.both f) (some (put ty m)))) :=
  ⟨congrArg _ (fireValue_ok hr (by simp only [resDiv, h])), congrArg _ (fireValue_ok hr (by simp only [resRem, h]))⟩

theorem exec_div_rem_of_error {cause : Nat} (h : divRem ty chk (siteOf s p toks).a ((siteOf s p toks).b imm) = .error cause) :
    exec (.div f ty chk imm) s = .next (s.trapped p toks r (Fields.both f) cause (some s.cur.idx)) ∧
    exec (.rem f ty chk imm) s = .next (s.trapped p toks r (Fields.both f) cause (some s.cur.idx)) :=
  ⟨congrArg _ (fireValue_bad hr (by simp only [resDiv, h])), congrArg _ (fireValue_bad hr (by simp only [resRem, h]))⟩

end

/-- Settles O2, by the cases of the division. -/
theorem divisionAndRemainder : Obligations.DivisionAndRemainder := by
  intro f ty chk imm s p toks r hr x n d sends traps
  refine ⟨fun h0 hlo => exec_div_rem_of_ok hr (divRem_truncated h0 hlo), fun h0 hc => ?_, fun h0 hc => ?_, fun hs hlo hd hc => ?_,
    fun hs hlo hd hc => ?_⟩
  · exact exec_div_rem_of_ok hr ((divRem_zero h0).trans (by rw [hc]; rfl))
  · exact exec_div_rem_of_error hr ((divRem_zero h0).trans (by rw [hc]; rfl))
  · exact exec_div_rem_of_ok hr ((divRem_overflow hs hlo hd).trans (by rw [hc]; rfl))
  · exact exec_div_rem_of_error hr ((divRem_overflow hs hlo hd).trans (by rw [hc]; rfl))

/-- Settles O3: each instruction sends the value named; MULH divides by a positive number, where both divisions are one. -/
theorem saturationOrderAndAddress : Obligations.SaturationOrderAndAddress := by
  intro f ty imm scale s p toks r hr x a b c sends truth
  have hmulh : resMulh ty x.a (x.b imm) = put ty (a * b / 2 ^ tyWidth ty) :=
    congrArg (put ty) (Int.fdiv_eq_ediv_of_nonneg _ (by positivity))
  refine ⟨?_, ?_, exec_of_value hr rfl rfl hmulh, ?_, ?_, ?_, ?_, ?_, ?_, ?_, ?_⟩ <;> exact exec_of_value hr rfl rfl rfl

/-! ### Shifts and rotates (R113, R114) -/

theorem put_zero (ty : IntTy) : put ty 0 = 0 := by cases ty <;> rfl

theorem resShl_eq (ty : IntTy) (a b : Word) :
    resShl ty a b = put ty (if tyWidth ty ≤ low ty b then 0 else low ty a * 2 ^ low ty b) := by
  unfold resShl
  split
  · exact (put_zero ty).symm
  · push_cast; rfl

theorem resShr_eq (ty : IntTy) (a b : Word) :
    resShr ty a b = put ty (if tyWidth ty ≤ low ty b then 0 else low ty a / 2 ^ low ty b) := by
  unfold resShr
  split
  · exact (put_zero ty).symm
  · push_cast; rfl

theorem resSar_eq (ty : IntTy) (a b : Word) : resSar ty a b =
    put ty (if tyWidth ty ≤ low ty b then (if lowSigned ty a < 0 then -1 else 0) else lowSigned ty a / 2 ^ low ty b) := by
  unfold resSar
  split_ifs
  · rfl
  · exact (put_zero ty).symm
  · rw [Int.fdiv_eq_ediv_of_nonneg _ (by positivity)]

/-- A rotation to the left by the rest of the width is one to the right. -/
theorem rotl_rest {w x n : Nat} (hx : x < 2 ^ w) (hn : n < w) :
    rotl w x ((w - n) % w) = x / 2 ^ n + x * 2 ^ (w - n) % 2 ^ w := by
  rcases Nat.eq_zero_or_pos n with rfl | h0
  · simp [rotl, Nat.mod_eq_of_lt hx, Nat.div_eq_of_lt hx]
  · rw [rotl, Nat.mod_eq_of_lt (show w - n < w by omega), Nat.sub_sub_self hn.le, Nat.add_comm]

theorem resRor_eq (ty : IntTy) (a b : Word) : resRor ty a b = put ty ((low ty a / 2 ^ (low ty b % tyWidth ty) +
    low ty a * 2 ^ (tyWidth ty - low ty b % tyWidth ty) % 2 ^ tyWidth ty : Nat)) := by
  have hw : 0 < tyWidth ty := by rcases tyWidth_eq ty with h | h <;> omega
  rw [resRor, rotl_rest (low_lt ty a) (Nat.mod_lt _ hw)]

/-- Settles O4: the amounts at or above the width give `put` of 0, and ROR is a rotation to the left by the rest of the width. -/
theorem logicShiftsAndRotates : Obligations.LogicShiftsAndRotates := by
  intro f ty imm s p toks r hr x a b w n sends
  refine ⟨?_, ?_, ?_, ?_, ?_, exec_of_value hr rfl rfl (resShl_eq ty _ _), exec_of_value hr rfl rfl (resShr_eq ty _ _),
    exec_of_value hr rfl rfl (resSar_eq ty _ _), ?_, exec_of_value hr rfl rfl (resRor_eq ty _ _), ?_, ?_⟩ <;>
    exact exec_of_value hr rfl rfl rfl

/-! ### The checksum (R120) -/

/-- One bit taken by the register of the checksum. -/
def crcStep (taps c : BitVec 32) (bit : Bool) : BitVec 32 := (c >>> 1) ^^^ (if c.getLsbD 0 ^^ bit then taps else 0)

/-- The register after the first bits of a message. -/
def crcReg (taps c : BitVec 32) (bit : Nat → Bool) : Nat → BitVec 32
  | 0 => c
  | k + 1 => crcStep taps (crcReg taps c bit k) (bit k)

theorem getLsbD_crcStep (taps c : BitVec 32) (bit : Bool) (j : Nat) :
    (crcStep taps c bit).getLsbD j = (c.getLsbD (j + 1) ^^ ((c.getLsbD 0 ^^ bit) && taps.getLsbD j)) := by
  rw [crcStep, BitVec.getLsbD_xor, BitVec.getLsbD_ushiftRight, Nat.add_comm 1]
  cases c.getLsbD 0 ^^ bit <;> simp

/-- The model's step on the register with the message bits added to it. -/
theorem crcBits_succ (poly n c : Nat) : crcBits poly (n + 1) c =
    if crcBits poly n c % 2 = 1 then (crcBits poly n c / 2) ^^^ poly else crcBits poly n c / 2 := by
  induction n generalizing c with
  | zero => rfl
  | succ n ih => rw [crcBits, ih, crcBits]

/-- Message bits added to the register beforehand act as bits taken one by one: those left after a step are added to it still. -/
theorem crcBits_xor (taps c : BitVec 32) (m k : Nat) :
    crcBits taps.toNat k (c.toNat ^^^ m) = (crcReg taps c m.testBit k).toNat ^^^ (m / 2 ^ k) := by
  induction k with
  | zero => simp [crcBits, crcReg]
  | succ k ih =>
    rw [crcBits_succ, ih, crcReg, crcStep]
    generalize crcReg taps c m.testBit k = d
    have hbit : (d.toNat ^^^ m / 2 ^ k) % 2 = 1 ↔ (d.getLsbD 0 ^^ m.testBit k) = true := by
      rw [← BitVec.testBit_toNat, Nat.testBit_eq_decide_div_mod_eq (x := m), ← Nat.testBit_zero (m / 2 ^ k), ← Nat.testBit_xor]
      simp only [Nat.testBit_zero, decide_eq_true_eq]
    simp only [hbit, Nat.xor_div_two, Nat.div_div_eq_div_mul, ← pow_succ]
    split
    · simp [Nat.shiftRight_eq_div_pow, Nat.xor_comm, Nat.xor_left_comm]
    · simp [Nat.shiftRight_eq_div_pow]

/-- A message taken in parts. -/
theorem crcReg_add (taps c : BitVec 32) (bit : Nat → Bool) (n k : Nat) :
    crcReg taps c bit (n + k) = crcReg taps (crcReg taps c bit n) (fun i => bit (n + i)) k := by
  induction k with
  | zero => rfl
  | succ k ih => rw [← Nat.add_assoc, crcReg, ih, crcReg]

/-- The register depends on the bits taken alone. -/
theorem crcReg_congr (taps c : BitVec 32) {bit bit' : Nat → Bool} {k : Nat} (h : ∀ i, i < k → bit i = bit' i) :
    crcReg taps c bit k = crcReg taps c bit' k := by
  induction k with
  | zero => rfl
  | succ k ih => rw [crcReg, crcReg, ih fun i hi => h i (by omega), h k (by omega)]

/-- The model's checksum of `n` bytes is the register after their bits. -/
theorem foldl_crcBits (taps c : BitVec 32) (b : Word) (n : Nat) :
    (List.range n).foldl (fun crc i => crcBits taps.toNat 8 (crc ^^^ (b.toNat / 256 ^ i % 256))) c.toNat =
      (crcReg taps c b.getLsbD (8 * n)).toNat := by
  induction n with
  | zero => rfl
  | succ n ih =>
    have hbyte : ∀ i, i < 8 → (b.toNat / 256 ^ n % 256).testBit i = b.getLsbD (8 * n + i) := fun i hi => by
      rw [show 256 ^ n = 2 ^ (8 * n) from (pow_mul 2 8 n).symm, show 256 = 2 ^ 8 from rfl, Nat.testBit_mod_two_pow,
        Nat.testBit_div_two_pow, BitVec.testBit_toNat, decide_eq_true hi, Bool.true_and, Nat.add_comm]
    have hrest : b.toNat / 256 ^ n % 256 / 2 ^ 8 = 0 := by omega
    rw [List.range_succ, List.foldl_append, ih, List.foldl_cons, List.foldl_nil, crcBits_xor, hrest, Nat.xor_zero, mul_add,
      crcReg_add, crcReg_congr taps _ hbyte]

theorem resCrc_eq (ty : IntTy) (poly : CrcPoly) (a b : Word) : resCrc ty poly a b =
    put ty (crcReg (BitVec.ofNat 32 (crcPoly poly)) (a.setWidth 32) b.getLsbD (8 * crcCount ty poly)).toNat := by
  have htaps : (BitVec.ofNat 32 (crcPoly poly)).toNat = crcPoly poly := by cases poly <;> rfl
  rw [← foldl_crcBits, htaps, BitVec.toNat_setWidth]
  rfl

/-- Settles O5: the register of the checksum takes the message bits in the order in which the model adds its bytes. -/
theorem bitFieldsAndChecksums : Obligations.BitFieldsAndChecksums := by
  refine ⟨fun ty poly a b => ⟨crcReg (BitVec.ofNat 32 (crcPoly poly)) (a.setWidth 32) b.getLsbD, ?_⟩, ?_⟩
  · intro taps bits
    have htaps : taps = BitVec.ofNat 32 (crcPoly poly) := by cases poly <;> rfl
    have hbits : bits = 8 * crcCount ty poly := by cases poly <;> cases ty <;> rfl
    refine ⟨rfl, fun k j _ _ => ?_, ?_⟩
    · rw [htaps]
      exact getLsbD_crcStep _ _ _ j
    · rw [hbits]
      exact resCrc_eq ty poly a b
  · intro f ty imm width poly s p toks r hr x a b sends
    refine ⟨?_, ?_, ?_, ?_, ?_, ?_, ?_, ?_, ?_⟩ <;>
      exact exec_of_value hr rfl rfl rfl

end Sys2Proof.Machine

/-! The W-float results (spec/04 R121-R135): the rational numbers that finite values stand for, what the sum and the product of two
are, the integer that FTOI rounds to, and the exact cases of the elementary functions (R126). -/

namespace Sys2Proof.Machine

/-! ### Finite values as rational numbers (R74, R123) -/

/-- The number that a sign, a magnitude and an exponent stand for. -/
def finValue (n : Bool) (m : Nat) (e : Int) : ℚ := (if n then -1 else 1 : ℚ) * m * 2 ^ e

@[simp] theorem finValue_zero (n : Bool) (e : Int) : finValue n 0 e = 0 := by simp [finValue]

/-- A signed integer of units as a sign and a magnitude. -/
theorem finValue_natAbs (v e : Int) : finValue (decide (v < 0)) v.natAbs e = v * 2 ^ e := by
  rw [finValue, Nat.cast_natAbs]
  by_cases h : v < 0
  · simp [h, abs_of_neg h]
  · simp [h, abs_of_nonneg (not_lt.mp h)]

/-- A finite value in units of a smaller power of two. -/
theorem finValue_units (n : Bool) (m : Nat) {e g : Int} (h : g ≤ e) :
    ((if n then -((m * 2 ^ (e - g).toNat : Nat) : Int) else ((m * 2 ^ (e - g).toNat : Nat) : Int) : Int) : ℚ) * 2 ^ g =
      finValue n m e := by
  have hpow : (2 : ℚ) ^ (e - g).toNat * 2 ^ g = 2 ^ e := by
    simpa using two_pow_mul_zpow (show (e - g).toNat + g = ((0 : Nat) : Int) + e by omega)
  rw [finValue, ← hpow]
  cases n <;> (simp only [Bool.false_eq_true, if_true, if_false]; push_cast; ring)

theorem exactSum_eq (an bn : Bool) (am bm : Nat) (ae be : Int) :
    ((exactSum an am ae bn bm be).1 : ℚ) * 2 ^ (exactSum an am ae bn bm be).2 = finValue an am ae + finValue bn bm be := by
  rw [← finValue_units an am (min_le_left ae be), ← finValue_units bn bm (min_le_right ae be), ← add_mul]
  exact congrArg (· * _) (Int.cast_add _ _)

/-- The sum of finite values is the exact one rounded once; a zero sum has a sign of its own (R78, R124). -/
theorem wAdd_fin (rm : RMode) (u : Nat) (an bn : Bool) (am bm : Nat) (ae be : Int) :
    ∃ n m e, wAdd rm u (.fin an am ae) (.fin bn bm be) = (if m = 0 then wZero n else roundW rm u n m e false) ∧
      finValue n m e = finValue an am ae + finValue bn bm be ∧
      (m = 0 → n = if am = 0 ∧ bm = 0 ∧ an = bn then an else decide (rm = .rdn)) := by
  by_cases ha : am = 0
  · subst ha
    by_cases hb : bm = 0
    · subst hb
      exact ⟨if an = bn then an else decide (rm = .rdn), 0, 0, by simp [wAdd], by simp, by simp⟩
    · exact ⟨bn, bm, be, by simp [wAdd, hb], by simp, fun h => absurd h hb⟩
  · by_cases hb : bm = 0
    · subst hb
      exact ⟨an, am, ae, by simp [wAdd, ha], by simp, fun h => absurd h ha⟩
    · have hsum := exactSum_eq an bn am bm ae be
      have hadd : wAdd rm u (.fin an am ae) (.fin bn bm be) = roundExact rm u (decide (rm = .rdn))
          (decide ((exactSum an am ae bn bm be).1 < 0)) (exactSum an am ae bn bm be).1.natAbs (exactSum an am ae bn bm be).2 := by
        simp [wAdd, ha, hb]
      rw [hadd, ← hsum]
      generalize exactSum an am ae bn bm be = z
      by_cases hz : z.1.natAbs = 0
      · exact ⟨decide (rm = .rdn), 0, 0, by simp [roundExact, hz], by simp [Int.natAbs_eq_zero.mp hz], by simp [ha]⟩
      · exact ⟨_, _, z.2, if_neg hz |>.trans (if_neg hz).symm, finValue_natAbs z.1 z.2, fun h => absurd h hz⟩

theorem wProduct_fin (an bn : Bool) (am bm : Nat) (ae be : Int) :
    ∃ n m e, wProduct (.fin an am ae) (.fin bn bm be) = .fin n m e ∧ finValue n m e = finValue an am ae * finValue bn bm be := by
  refine ⟨_, _, _, rfl, ?_⟩
  have hsign : (if an != bn then -1 else 1 : ℚ) = (if an then -1 else 1) * (if bn then -1 else 1) := by
    cases an <;> cases bn <;> simp
  rw [finValue, finValue, finValue, zpow_add₀ two_ne_zero, hsign]
  push_cast
  ring

/-! ### FTOI (R133) -/

/-- A word that reads as finite has a significand of 50 bits, and reads zeros in one way. -/
theorem wRead_fin_bounds {x : Word} {n : Bool} {m : Nat} {e : Int} (h : wRead x = .fin n m e) : m < 2 ^ 50 ∧ (m = 0 → e = 0) := by
  unfold wRead at h
  dsimp only at h
  split_ifs at h with h1 h2 h3 h4
  · obtain ⟨-, rfl, rfl⟩ := WVal.fin.inj h
    simp
  · obtain ⟨-, rfl, rfl⟩ := WVal.fin.inj h
    simp
  · obtain ⟨-, rfl, rfl⟩ := WVal.fin.inj h
    simp only [Bool.or_eq_true, decide_eq_true_eq, not_or] at h3
    exact ⟨Nat.mod_lt _ (by norm_num), fun h0 => absurd h0 h3.2⟩

/-- Every type holds less than 2^64. -/
theorem saturate_of_large (ty : IntTy) (n : Bool) {y : Nat} (h : 2 ^ 64 ≤ y) :
    saturate ty (if n then -(y : Int) else y) = put ty (if n then tyLo ty else tyHi ty) := by
  have hlo : -(2 ^ 64) ≤ tyLo ty := by cases ty <;> decide
  have hhi : tyHi ty ≤ 2 ^ 64 := by cases ty <;> decide
  have hle : tyLo ty ≤ tyHi ty := by cases ty <;> decide
  refine congrArg (put ty) ?_
  cases n
  · exact (min_eq_right (le_max_of_le_left (by simp only [Bool.false_eq_true, if_false]; omega)))
  · rw [if_pos rfl, if_pos rfl, max_eq_right (by omega), min_eq_left hle]

/-- The length of a significand bounds its magnitude from below. -/
theorem two_pow_le_of_length {m : Nat} (hm : m ≠ 0) {e : Int} {k : Nat} (h : k + 1 ≤ (nbits m : Int) + e) :
    2 ^ k * 2 ^ (-e).toNat ≤ m * 2 ^ e.toNat := by
  have hn : nbits m ≠ 0 := by simp [nbits, hm]
  calc 2 ^ k * 2 ^ (-e).toNat = 2 ^ (k + (-e).toNat) := (pow_add ..).symm
    _ ≤ 2 ^ (nbits m - 1 + e.toNat) := Nat.pow_le_pow_right two_pos (by omega)
    _ = 2 ^ (nbits m - 1) * 2 ^ e.toNat := pow_add ..
    _ ≤ m * 2 ^ e.toNat := Nat.mul_le_mul_right _ (two_pow_le_of_nbits hm)

/-- The length of a significand bounds its magnitude from above. -/
theorem lt_two_pow_of_length {m : Nat} {e : Int} {k : Nat} (h : (nbits m : Int) + e ≤ k) :
    m * 2 ^ e.toNat < 2 ^ k * 2 ^ (-e).toNat := by
  calc m * 2 ^ e.toNat < 2 ^ nbits m * 2 ^ e.toNat := Nat.mul_lt_mul_of_pos_right (lt_two_pow_nbits m) (Nat.two_pow_pos _)
    _ = 2 ^ (nbits m + e.toNat) := (pow_add ..).symm
    _ ≤ 2 ^ (k + (-e).toNat) := Nat.pow_le_pow_right two_pos (by omega)
    _ = 2 ^ k * 2 ^ (-e).toNat := pow_add ..

/-- FTOI saturates the magnitude rounded to an integer. -/
theorem resFtoi_fin {x : Word} {n : Bool} {m : Nat} {e : Int} (h : wRead x = .fin n m e) (rm : RMode) (u : Nat) (ty : IntTy) :
    ∃ y : Nat, resFtoi rm u ty (.fin n m e) = saturate ty (if n then -(y : Int) else y) ∧ RoundsWithin rm n (m * 2 ^ e) y 1 := by
  obtain ⟨hm, hzero⟩ := wRead_fin_bounds h
  by_cases hlarge : 64 < (nbits m : Int) + e
  · have hlen := nbits_le hm
    have h0 : m ≠ 0 := fun h0 => by simp [h0, nbits, hzero h0] at hlarge
    have hy : 2 ^ 64 ≤ m * 2 ^ e.toNat := by
      simpa [show (-e).toNat = 0 by omega] using two_pow_le_of_length h0 (k := 64) hlarge
    have hexact : (m : ℚ) * 2 ^ e = (m * 2 ^ e.toNat : Nat) := by
      push_cast
      rw [← zpow_natCast, Int.toNat_of_nonneg (by omega)]
    refine ⟨m * 2 ^ e.toNat, ?_, ?_⟩
    · rw [resFtoi, if_pos hlarge, saturate_of_large ty n (by norm_num), saturate_of_large ty n hy]
    · rw [hexact]
      exact roundsWithin_self rm n _ one_pos
  · refine ⟨roundGrid rm u n m e 0 false, by rw [resFtoi, if_neg hlarge], ?_⟩
    simpa using roundGrid_within rm u n m e 0

/-- The bounds of a mode on a magnitude, for the signed numbers. -/
theorem RoundsWithin.signed {rm : RMode} {n : Bool} {x y : ℚ} (h : RoundsWithin rm n x y 1) (hx : 0 ≤ x) (hy : 0 ≤ y) {v z : ℚ}
    (hv : v = if n then -y else y) (hz : z = if n then -x else x) :
    (rm = .rtz → |v| ≤ |z| ∧ |z| < |v| + 1 ∧ 0 ≤ v * z) ∧ (rm = .rup → z ≤ v ∧ v < z + 1) ∧ (rm = .rdn → v ≤ z ∧ z < v + 1) ∧
      (rm = .rne ∨ rm = .rna → 2 * |v - z| ≤ 1) ∧ (rm = .hsr → |v - z| < 1) := by
  have habsv : |v| = y := by rw [hv]; cases n <;> simp [abs_of_nonneg hy]
  have habsz : |z| = x := by rw [hz]; cases n <;> simp [abs_of_nonneg hx]
  have hdist : |v - z| = |x - y| := by
    rw [hv, hz]
    cases n
    · exact abs_sub_comm y x
    · simp [neg_add_eq_sub]
  have hprod : v * z = y * x := by rw [hv, hz]; cases n <;> simp
  obtain ⟨hdown, hup, hnear, hhsr⟩ := h
  rw [habsv, habsz, hdist, hprod]
  refine ⟨fun hr => ⟨(hdown (.inl hr)).1, (hdown (.inl hr)).2, mul_nonneg hy hx⟩, fun hr => ?_, fun hr => ?_, hnear, hhsr⟩
  · rw [hv, hz]
    cases n
    · exact hup (.inl ⟨hr, rfl⟩)
    · obtain ⟨hle, hlt⟩ := hdown (.inr (.inl ⟨hr, rfl⟩))
      exact ⟨neg_le_neg hle, by simp only [if_true]; linarith⟩
  · rw [hv, hz]
    cases n
    · exact hdown (.inr (.inr ⟨hr, rfl⟩))
    · obtain ⟨hle, hlt⟩ := hup (.inr ⟨hr, rfl⟩)
      exact ⟨neg_le_neg hle, by simp only [if_true]; linarith⟩

/-- Settles O8: the exact sum, product and rounded integer by the lemmas above, and each instruction by its value. -/
theorem floatResults : Obligations.FloatResults := by
  refine ⟨?_, ?_⟩
  · intro real rm u an bn am bm ae be
    refine ⟨wAdd_fin rm u an bn am bm ae be, wProduct_fin an bn am bm ae be, fun ty x h => ?_⟩
    obtain ⟨y, hy, hround⟩ := resFtoi_fin h rm u ty
    refine ⟨if an then -(y : Int) else y, by rw [h, hy]; rfl, hround.signed (by positivity) (by positivity) ?_ ?_⟩
    · cases an <;> simp
    · cases an <;> simp [real]
  · intro f rm alt ty imm s p toks r hr x a b c u sends
    refine ⟨?_, ?_, ?_, ?_, ?_, ?_, ?_, ?_, ?_, ?_, ?_, ?_, ?_, ?_, ?_, ?_, ?_, ?_, ?_, ?_, ?_, ?_, ?_⟩ <;>
      exact exec_of_value hr rfl rfl rfl

/-! ### The elementary functions (R126) -/

/-- A magnitude above 2^40 is outside the domain of FSIN and FCOS. -/
theorem beyondTrig_of_lt {m : Nat} {e : Int} (h : 2 ^ 40 * 2 ^ (-e).toNat < m * 2 ^ e.toNat) : beyondTrig m e = true := by
  have hm : m ≠ 0 := by rintro rfl; simp at h
  have hn : nbits m ≠ 0 := by simp [nbits, hm]
  have hbits : 41 ≤ (nbits m : Int) + e := by
    by_contra hlt
    exact lt_asymm h (lt_two_pow_of_length (k := 40) (by omega))
  have hexp : 40 ≤ wExp m e := by unfold wExp; omega
  rw [beyondTrig, Bool.or_eq_true, Bool.and_eq_true, decide_eq_true_iff, decide_eq_true_iff, decide_eq_true_iff]
  rcases hexp.lt_or_eq with htop | htop
  · exact .inl htop
  · refine .inr ⟨htop.symm, fun hpow => ?_⟩
    unfold wExp at htop
    rw [hpow, ← pow_add, ← pow_add, show nbits m - 1 + e.toNat = 40 + (-e).toNat by omega] at h
    exact lt_irrefl _ h

/-- A power of two in the range of W is exact in every mode. -/
theorem roundW_one (mode : RMode) (u : Nat) (neg : Bool) {k : Int} (hlow : -4094 ≤ k) (hhigh : k ≤ 4095) :
    roundW mode u neg 1 k false = wPack neg (2 ^ 49) (k - 49) := by
  have hg : k - 49 = k + (nbits 1 : Int) - 50 := by rw [show nbits 1 = 1 from rfl]; omega
  have hgrid : roundGrid mode u neg 1 k (k - 49) false = 2 ^ 49 := by
    rw [roundGrid_of_le (by omega), sub_sub_cancel]
    rfl
  rw [roundW_of_grid hg (by rw [hgrid]; norm_num) (by omega) (by omega), hgrid]

/-- FEXP2 of an integer whose power W holds. -/
theorem resFexp2_integer {mode : RMode} {u : Nat} {a : Word} {neg : Bool} {m n : Nat} {e : Int} (h : wRead a = .fin neg m e)
    (hm : m ≠ 0) (heq : m * 2 ^ e.toNat = n * 2 ^ (-e).toNat) (hn : n ≤ if neg then 4094 else 4095) :
    resFexp2 mode u a = wWrite (.fin false 1 (if neg then -(n : Int) else n)) := by
  have hn' : n ≤ 4095 := hn.trans (by split <;> omega)
  have hsmall : ¬14 ≤ wExp m e := fun hlarge => by
    have := two_pow_le_of_length hm (k := 14) (e := e) (by unfold wExp at hlarge; omega)
    rw [heq] at this
    have := Nat.le_of_mul_le_mul_right this (Nat.two_pow_pos _)
    omega
  have hint : isInteger m e = true := by
    have h0 : n ≠ 0 := by rintro rfl; simp at heq; omega
    unfold isInteger
    split
    · rfl
    · next he =>
      rw [show e.toNat = 0 by omega, pow_zero, mul_one] at heq
      have hlt : 2 ^ (-e).toNat < 2 ^ 50 :=
        (Nat.le_mul_of_pos_left _ (Nat.pos_of_ne_zero h0)).trans_lt (heq ▸ (wRead_fin_bounds h).1)
      have := (Nat.pow_lt_pow_iff_right one_lt_two).mp hlt
      simp [heq]
      omega
  have hdiv : m * 2 ^ e.toNat / 2 ^ (-e).toNat = n := by rw [heq, Nat.mul_div_cancel _ (Nat.two_pow_pos _)]
  have hlow : -4094 ≤ (if neg then -(n : Int) else n) := by
    cases neg <;> (simp only [if_true, Bool.false_eq_true, if_false] at hn ⊢; omega)
  have hhigh : (if neg then -(n : Int) else n) ≤ 4095 := by split <;> omega
  rw [wWrite, roundExact, if_neg one_ne_zero, roundW_one _ _ _ hlow hhigh, ← roundW_one mode u _ hlow hhigh, resFexp2, h]
  simp only [if_neg hm, if_pos hint, if_neg hsmall, hdiv]

/-- FLOG2 of a power of two. -/
theorem resFlog2_two_pow {mode : RMode} {u : Nat} {a : Word} {k : Nat} {e : Int} (h : wRead a = .fin false (2 ^ k) e) :
    resFlog2 mode u a = wWrite (wOfInt (k + e)) := by
  have hbits : nbits (2 ^ k) = k + 1 := by simp [nbits]
  have hexp : wExp (2 ^ k) e = k + e := by rw [wExp, hbits]; push_cast; ring
  simp [resFlog2, h, hbits, hexp]

/-- Settles O9: the table by the cases of each function. -/
theorem elementaryFunctions : Obligations.ElementaryFunctions := by
  intro f rm s p toks r hr x u sends
  have hexp : exec (.fexp2 f rm) s = .next (sends (resFexp2 rm u x.a)) := exec_of_value hr rfl rfl rfl
  have hlog : exec (.flog2 f rm) s = .next (sends (resFlog2 rm u x.a)) := exec_of_value hr rfl rfl rfl
  have hsin : exec (.fsin f rm) s = .next (sends (resFsin rm u x.a)) := exec_of_value hr rfl rfl rfl
  have hcos : exec (.fcos f rm) s = .next (sends (resFcos rm u x.a)) := exec_of_value hr rfl rfl rfl
  have htanh : exec (.ftanh f rm) s = .next (sends (resFtanh rm u x.a)) := exec_of_value hr rfl rfl rfl
  have herf : exec (.ferf f rm) s = .next (sends (resFerf rm u x.a)) := exec_of_value hr rfl rfl rfl
  rw [hexp, hlog, hsin, hcos, htanh, herf]
  refine ⟨by simp only [and_self], fun h => ?_, fun neg h => ?_, fun neg e h => ?_, fun m e h hm => ?_, fun neg m e h hlt => ?_,
    fun neg m e n h hm heq hn => ?_, fun e k h => ?_⟩
  · simp [resFexp2, resFlog2, resFsin, resFcos, resFtanh, resFerf, h]
  · simp [resFexp2, resFlog2, resFsin, resFcos, resFtanh, resFerf, h, wZero]
  · simp [resFexp2, resFlog2, resFsin, resFcos, resFtanh, resFerf, h]
  · simp [resFlog2, h, hm]
  · have hm : m ≠ 0 := by rintro rfl; simp at hlt
    simp [resFsin, resFcos, h, hm, beyondTrig_of_lt hlt]
  · rw [resFexp2_integer h hm heq hn]
  · rw [resFlog2_two_pow h]

end Sys2Proof.Machine

/-! The group collectives (spec/05 R154-R156, spec/10 R324): the folds over the contributions of a generation, and the contributions
of the instructions. -/

namespace Sys2Proof.Machine

/-! ### Sums at the width of a type (R103) -/

theorem setWidth_put (ty : IntTy) (v : Int) : (put ty v).setWidth (tyWidth ty) = BitVec.ofInt (tyWidth ty) v :=
  BitVec.eq_of_getLsbD_eq (fun j hj => by rw [BitVec.getLsbD_setWidth, decide_eq_true hj, Bool.true_and, getLsbD_put_low ty v hj])

theorem ofInt_val (ty : IntTy) (x : Word) : BitVec.ofInt (tyWidth ty) (val ty x) = x.setWidth (tyWidth ty) := by
  cases ty with
  | i32 => exact BitVec.ofInt_toInt
  | n32 => exact (BitVec.ofInt_natCast ..).trans ((BitVec.ofNat_toNat ..).trans (BitVec.setWidth_eq _))
  | i64 => exact BitVec.ofInt_toInt.trans (BitVec.setWidth_eq x).symm
  | n64 => exact (BitVec.ofInt_natCast ..).trans (BitVec.ofNat_toNat ..)

theorem put_congr (ty : IntTy) {u v : Int} (h : BitVec.ofInt (tyWidth ty) u = BitVec.ofInt (tyWidth ty) v) : put ty u = put ty v := by
  cases ty with
  | i32 => exact congrArg (BitVec.signExtend 64) h
  | n32 => exact congrArg (BitVec.setWidth 64) h
  | i64 => exact h
  | n64 => exact h

/-- A sum may be wrapped before its last summand is added. -/
theorem put_val_put_add (ty : IntTy) (u v : Int) : put ty (val ty (put ty u) + v) = put ty (u + v) :=
  put_congr ty (by rw [BitVec.ofInt_add, ofInt_val, setWidth_put, BitVec.ofInt_add])

/-! ### Running folds (R156) -/

/-- The exact sum of contributions at a type. -/
def contribSum (ty : IntTy) (cs : List (Nat × Word)) : Int := (cs.map (fun d => val ty d.2)).sum

@[simp] theorem contribSum_nil (ty : IntTy) : contribSum ty [] = 0 := rfl

@[simp] theorem contribSum_cons (ty : IntTy) (c : Nat × Word) (cs : List (Nat × Word)) :
    contribSum ty (c :: cs) = val ty c.2 + contribSum ty cs := rfl

/-- The running folds of ADD from `acc` are, as a fold writes them, the wrapped sums of `acc` and the contributions so far. -/
theorem foldNormal_prefixFolds_add (ty : IntTy) (rm : RMode) (rnd : Nat → Nat) (cs : List (Nat × Word)) (acc : Option Word) {k : Nat}
    (hk : k < cs.length) :
    ((prefixFolds (fun t acc x => foldStep .add ty rm (rnd t) acc x) acc cs).map (fun d => foldNormal .add ty d.2))[k]? =
      some (put ty (acc.elim 0 (val ty) + contribSum ty (cs.take (k + 1)))) := by
  induction cs generalizing acc k with
  | nil => cases hk
  | cons c cs ih =>
    rw [List.take_succ_cons, contribSum_cons, ← add_assoc]
    cases acc with
    | none =>
      cases k with
      | zero => simp [prefixFolds, foldNormal]
      | succ k => exact (ih (some c.2) (Nat.lt_of_succ_lt_succ hk)).trans (by rw [Option.elim, Option.elim, zero_add])
    | some a =>
      cases k with
      | zero => simpa [prefixFolds, foldNormal, foldStep] using put_val_put_add ty (val ty a + val ty c.2) 0
      | succ k => exact (ih _ (Nat.lt_of_succ_lt_succ hk)).trans (congrArg some (put_val_put_add ty _ _))

/-- An inclusive scan of ADD: the wrapped sums of the contributions so far. -/
theorem inclusive_prefixFolds_add (ty : IntTy) (rm : RMode) (rnd : Nat → Nat) (cs : List (Nat × Word)) {k : Nat} (hk : k < cs.length) :
    ((prefixFolds (fun t acc x => foldStep .add ty rm (rnd t) acc x) none cs).map (fun d => foldNormal .add ty d.2))[k]? =
      some (put ty (contribSum ty (cs.take (k + 1)))) :=
  (foldNormal_prefixFolds_add ty rm rnd cs none hk).trans (by rw [Option.elim, zero_add])

/-- An exclusive scan of ADD: the wrapped sums of the contributions before. -/
theorem exclusive_prefixFolds_add (ty : IntTy) (rm : RMode) (rnd : Nat → Nat) (cs : List (Nat × Word)) {k : Nat} (hk : k < cs.length) :
    (foldNormal .add ty (foldIdentity .add ty) ::
      (prefixFolds (fun t acc x => foldStep .add ty rm (rnd t) acc x) none cs).map (fun d => foldNormal .add ty d.2))[k]? =
      some (put ty (contribSum ty (cs.take k))) := by
  cases k with
  | zero => cases ty <;> rfl
  | succ k => exact inclusive_prefixFolds_add ty rm rnd cs (Nat.lt_of_succ_lt hk)

theorem prefixFolds_length (step : Nat → Word → Word → Word) (acc : Option Word) (cs : List (Nat × Word)) :
    (prefixFolds step acc cs).length = cs.length := by
  induction cs generalizing acc with
  | nil => rfl
  | cons c cs ih => cases acc <;> exact congrArg (· + 1) (ih _)

/-! ### What the folds write (R156, R324) -/

section
variable {cs : List (Nat × Word)} {k : Nat} {c : Nat × Word} (hc : cs[k]? = some c) (f : Fields) (ls : BitVec 6) (rnd : Nat → Nat)
include hc

/-- One result for all: the k-th result is the k-th contributor's. -/
theorem getElem_contributors (v : Word) : (cs.map (fun d => (d.1, ls.toNat, v)))[k]? = some (c.1, ls.toNat, v) := by
  rw [List.getElem?_map, hc]; rfl

theorem collectResults_bcast :
    (collectResults (.bcast f ls) rnd cs)[k]? = some (c.1, ls.toNat, (cs.head?.map (·.2)).getD 0) := by
  cases cs with
  | nil => cases hc
  | cons d ds => exact getElem_contributors hc ls d.2

theorem collectResults_elect : (collectResults (.elect f ls) rnd cs)[k]? = some (c.1, ls.toNat, if k = 0 then 1 else 0) := by
  rw [collectResults, List.getElem?_mapIdx, hc]; rfl

/-- REDUCE of ADD takes the last running fold, the sum of all contributions. -/
theorem collectResults_reduce_add (ty : IntTy) (rm : RMode) :
    (collectResults (.reduce f .add ty rm ls) rnd cs)[k]? = some (c.1, ls.toNat, put ty (contribSum ty cs)) := by
  have hk : k < cs.length := (List.getElem?_eq_some_iff.mp hc).1
  have hlast := inclusive_prefixFolds_add ty rm rnd cs (Nat.sub_one_lt (Nat.ne_zero_of_lt hk))
  rw [Nat.sub_one_add_one (Nat.ne_zero_of_lt hk), List.take_length, List.getElem?_map, ← prefixFolds_length _ none cs,
    ← List.getLast?_eq_getElem?] at hlast
  obtain ⟨r, hr, hv⟩ := Option.map_eq_some_iff.mp hlast
  simp only [collectResults, hr, hv]
  exact getElem_contributors hc ls _

/-- SCAN writes to each contributor the value that stands at its place. -/
theorem getElem_scanned {out : List Word} {v : Word} (hv : out[k]? = some v) :
    ((cs.zip out).map (fun p => (p.1.1, ls.toNat, p.2)))[k]? = some (c.1, ls.toNat, v) := by
  have hpair : (cs.zip out)[k]? = some (c, v) := List.getElem?_zip_eq_some.mpr ⟨hc, hv⟩
  rw [List.getElem?_map, hpair]; rfl

end

/-- Settles O15: each fold by its own lemma; the sums are the running folds of ADD. -/
theorem collectiveFolds : Obligations.CollectiveFolds := by
  intro f ty rm ls rnd cs k c hc n sum
  have hk : k < cs.length := (List.getElem?_eq_some_iff.mp hc).1
  refine ⟨collectResults_bcast hc f ls rnd, collectResults_elect hc f ls rnd, ?_, getElem_contributors hc ls _,
    getElem_contributors hc ls _, collectResults_reduce_add hc f ls rnd ty rm, ?_, ?_⟩
  · have hany : (if n = 0 then (0 : Word) else 1) = if 0 < n then 1 else 0 := by simp only [Nat.pos_iff_ne_zero, ne_eq, ite_not]
    rw [← hany]
    exact getElem_contributors hc ls _
  · exact getElem_scanned hc ls (inclusive_prefixFolds_add ty rm rnd cs hk)
  · exact getElem_scanned hc ls (exclusive_prefixFolds_add ty rm rnd cs hk)

/-! ### Contributions (R155) -/

/-- What a contribution does: the first of a thread, to a slot that it was granted, is taken; another traps. -/
theorem fireContribution_cases {f : Fields} {ls : Nat} {g : Site → Word} {s : State} {p : Spot} {toks : List Token} {r : Run}
    (hr : Ready s f p toks r) :
    (FirstFiring s p → ls < p.thread.lvsn → s.fireContribution f ls g =
      s.recorded p toks r (fun r => { r with contribs := r.contribs ++ [(s.cur.idx, g (siteOf s p toks))] }) []) ∧
    (FirstFiring s p → p.thread.lvsn ≤ ls → s.fireContribution f ls g = s.trapped p toks r [] cLiveSlot none) ∧
    (¬FirstFiring s p → s.fireContribution f ls g = s.trapped p toks r [] cMultiExit none) := by
  have hfirst : FirstFiring s p → ¬0 < (siteOf s p toks).gen := fun h1 => Nat.not_lt.mpr (Nat.le_zero.mpr h1)
  exact ⟨fun h1 hls => fire_rec _ (fun _ => rfl) hr ((if_neg (hfirst h1)).trans (if_neg hls.not_ge)),
    fun h1 hls => fire_trap hr ((if_neg (hfirst h1)).trans (if_pos hls)), fun h1 => fire_trap hr (if_pos (Nat.pos_of_ne_zero h1))⟩

/-- Settles O14: the five instructions contribute in one way. -/
theorem collectivesContribute : Obligations.CollectivesContribute := by
  intro f opk vop ty rm ls exclusive s p toks r hr contributes i hi
  have hexec : exec i s = .next (s.fireContribution f ls.toNat (fun x => x.a)) := by
    simp only [List.mem_cons, List.not_mem_nil, or_false] at hi
    rcases hi with rfl | rfl | rfl | rfl | rfl <;> rfl
  obtain ⟨hfirst, hslot, hagain⟩ := fireContribution_cases (ls := ls.toNat) (g := fun x => x.a) hr
  rw [hexec]
  exact ⟨fun h1 hls => congrArg _ (hfirst h1 hls), fun h1 hls => congrArg _ (hslot h1 hls), fun h1 => congrArg _ (hagain h1)⟩

end Sys2Proof.Machine

/-! The instructions of the matrix engine and COPY (spec/05 R139-R141, R147-R152, spec/08 R249, R250): what a queued instruction does
with what its own checks find, and what a parameter block makes of MMA and COPY. -/

namespace Sys2Proof.Machine

/-! ### A queued instruction (R139, R141) -/

/-- A run with one more matrix entry of a firing. -/
def Run.queued (x : Site) (kind : MatrixKind) (flag : Option (BitVec 4)) (r : Run) : Run :=
  { r with matrix := r.matrix ++ [{ tidx := x.at_.tidx, idx := x.at_.idx, gen := x.gen, kind := kind, flag := flag.map (·.toNat) }] }

@[simp] theorem State.took_ownsEngine (s : State) (r : Run) (ctx : Nat) : (s.took r).ownsEngine ctx = s.ownsEngine ctx := rfl

section
variable {s t : State} {f : Fields} {p : Spot} {toks : List Token} {r : Run} {flag : Option (BitVec 4)} {check : Site → State → Checked}
  {kind : MatrixKind} {cause : Nat} {info : Option Nat} (hr : Ready s f p toks r)
include hr

theorem fireQueued_unowned (ho : s.ownsEngine s.cur.ctx = false) :
    s.fireQueued f flag check = s.trapped p toks r (Fields.both f) cMatrixNotOwned none :=
  fire_trap hr (by simp [ho])

variable (ho : s.ownsEngine s.cur.ctx = true)
include ho

theorem fireQueued_wait (hc : check (siteOf s p toks) (s.took r) = .wait) : s.fireQueued f flag check = s :=
  fire_wait hr (by simp [ho, hc])

theorem fireQueued_bad (hc : check (siteOf s p toks) (s.took r) = .bad t cause info) :
    s.fireQueued f flag check = t.trapping s p toks (Fields.both f) cause info :=
  fire_bad hr (by simp [ho, hc])

theorem fireQueued_ok (hc : check (siteOf s p toks) (s.took r) = .ok t kind) (hroom : (siteOf s p toks).flagRoom flag = true) :
    s.fireQueued f flag check = (t.updRun s.cur (Run.queued (siteOf s p toks) kind flag)).sending s p toks [] (doneBoth f) :=
  fire_ok hr (by simp only [siteOf_at, State.took_ownsEngine, ho, hc, hroom]; rfl)

theorem fireQueued_full (hc : check (siteOf s p toks) (s.took r) = .ok t kind) (hroom : (siteOf s p toks).flagRoom flag = false) :
    s.fireQueued f flag check = t.trapping s p toks (Fields.both f) cFlagOverflow none :=
  fire_bad hr (by simp [ho, hc, hroom])

/-- Checks that leave the state alone and find a cause. -/
theorem fireQueued_trap (hc : check (siteOf s p toks) (s.took r) = .bad (s.took r) cause info) :
    s.fireQueued f flag check = s.trapped p toks r (Fields.both f) cause info :=
  (fireQueued_bad hr ho hc).trans (took_trapped hr _ _ _)

/-- Checks that leave the state alone and find an entry. -/
theorem fireQueued_entry (hc : check (siteOf s p toks) (s.took r) = .ok (s.took r) kind)
    (hroom : (siteOf s p toks).flagRoom flag = true) :
    s.fireQueued f flag check = s.recorded p toks r (Run.queued (siteOf s p toks) kind flag) (doneBoth f) :=
  (fireQueued_ok hr ho hc hroom).trans (took_recorded hr (Run.queued _ kind flag) (fun _ => rfl) _)

end

/-! ### MBLD, MZERO and MSTORE (R147, R150, R151) -/

theorem field_low (n len : Nat) : field n 0 len = n % 2 ^ len := by rw [field, pow_zero, Nat.div_one]

section
variable {s : State} {f : Fields} {p : Spot} {toks : List Token} {r : Run} {cls : MemClass} {scope : Scope} {fmt : Fmt} {cp : CachePol}
  {oe : Bool} {flag : Option (BitVec 4)} {tile : BitVec 2} {rm : RMode} {a b : Nat} (hr : Ready s f p toks r)
  (ho : s.ownsEngine s.cur.ctx = true) (ha : (siteOf s p toks).a.toNat = a) (hb : ((siteOf s p toks).b none).toNat = b)
include hr ho ha

theorem exec_mbld_misaligned (h : a % 16 ≠ 0) :
    exec (.mbld f cls scope fmt cp oe flag) s = .next (s.trapped p toks r (Fields.both f) 0x083 (some a)) :=
  congrArg _ (fireQueued_trap hr ho (by simp only [ha]; exact if_pos h))

theorem exec_mstore_misaligned (h : a % 16 ≠ 0) :
    exec (.mstore f cls scope fmt cp oe flag tile rm) s = .next (s.trapped p toks r (Fields.both f) 0x093 (some a)) :=
  congrArg _ (fireQueued_trap hr ho (by simp only [ha]; exact if_pos h))

variable (h16 : a % 16 = 0)
include hb h16

/-- A stride that is no multiple of 16 (R147, R151). -/
theorem exec_mbld_bad_stride (h : b % 16 ≠ 0) :
    exec (.mbld f cls scope fmt cp oe flag) s = .next (s.trapped p toks r (Fields.both f) 0x102 none) :=
  congrArg _ (fireQueued_trap hr ho (by simp [ha, hb, h16, field_low, h]; rfl))

theorem exec_mstore_bad_stride (h : b % 16 ≠ 0) :
    exec (.mstore f cls scope fmt cp oe flag tile rm) s = .next (s.trapped p toks r (Fields.both f) 0x102 none) :=
  congrArg _ (fireQueued_trap hr ho (by simp [ha, hb, h16, field_low, h]; rfl))

variable (hroom : (siteOf s p toks).flagRoom flag = true) {stride : Nat} (hst : b % 2 ^ 32 = stride) (hs16 : stride % 16 = 0)
  (hrow : rowBytes fmt 128 ≤ stride)
include hroom hst hs16 hrow

theorem exec_mbld_entry (hd : b / 2 ^ 32 < depthLimit fmt) (h4 : b / 2 ^ 32 < 16) :
    exec (.mbld f cls scope fmt cp oe flag) s = .next (s.recorded p toks r
      (Run.queued (siteOf s p toks) (.mbld cls fmt cp a stride (b / 2 ^ 32)) flag) (doneBoth f)) := by
  have hlow : field b 0 32 = stride := (field_low b 32).trans hst
  have hkb : field b 32 4 = b / 2 ^ 32 := Nat.mod_eq_of_lt h4
  have hrest : field b 36 28 = 0 := by rw [field]; omega
  refine congrArg _ (fireQueued_entry hr ho ?_ hroom)
  simp only [ha, hb, h16, hlow, hkb, hrest, hs16, hrow.not_gt, hd.not_ge]
  rfl

theorem exec_mstore_entry (hz : b / 2 ^ 32 = 0) :
    exec (.mstore f cls scope fmt cp oe flag tile rm) s = .next (s.recorded p toks r
      (Run.queued (siteOf s p toks) (.mstore cls scope fmt cp rm tile.toNat a stride) flag) (doneBoth f)) := by
  have hlow : field b 0 32 = stride := (field_low b 32).trans hst
  have hrest : field b 32 32 = 0 := by rw [field, hz, Nat.zero_mod]
  refine congrArg _ (fireQueued_entry hr ho ?_ hroom)
  simp only [ha, hb, h16, hlow, hrest, hs16, hrow.not_gt]
  rfl

end

/-- Settles O31: each instruction queues, or traps, by what its own checks find of its operands. -/
theorem matrixEntriesAreQueued : Obligations.MatrixEntriesAreQueued := by
  intro f cls scope fmt cp oe flag tile rm s p toks r hr x a b queues traps
  refine ⟨fun ho i hi => ?_, fun ho => ⟨fun hroom => congrArg _ (fireQueued_entry hr ho rfl hroom), fun hroom => ?_, fun h => ?_,
    fun h16 hroom hs16 hrow => ⟨fun hd h4 => exec_mbld_entry hr ho rfl rfl h16 hroom rfl hs16 hrow hd h4,
      fun hz => exec_mstore_entry hr ho rfl rfl h16 hroom rfl hs16 hrow hz⟩, fun h16 h => ?_⟩⟩
  · have hqueued : ∀ check, s.fireQueued f flag check = traps 0x100 none := fun _ => fireQueued_unowned hr ho
    simp only [List.mem_cons, List.not_mem_nil, or_false] at hi
    rcases hi with rfl | rfl | rfl | rfl | rfl
    · exact congrArg _ (hqueued _)
    · exact congrArg _ (hqueued _)
    · exact congrArg _ (hqueued _)
    · exact congrArg _ (hqueued _)
    · exact congrArg _ (fire_trap hr (by simp [ho]; rfl))
  · exact congrArg _ ((fireQueued_full hr ho rfl hroom).trans (took_trapped hr _ _ _))
  · exact ⟨exec_mbld_misaligned hr ho rfl h, exec_mstore_misaligned hr ho rfl h⟩
  · exact ⟨exec_mbld_bad_stride hr ho rfl rfl h16 h, exec_mstore_bad_stride hr ho rfl rfl h16 h⟩
end Sys2Proof.Machine

/-! Parameter blocks (spec/05 R148, R149, R152, spec/08 R249, R250): the banks that a firing leaves as they are, what a parameter block
makes of MMA and COPY, and MREAD. -/

namespace Sys2Proof.Machine

/-! ### Banks of one fixed part (R197, R250) -/

section
variable {s t : State} (h : t.fixed = s.fixed)
include h

theorem State.core_map_fixed (core : Nat) : (t.core? core).map CoreState.fixed = (s.core? core).map CoreState.fixed := by
  have hfind : ∀ cs : List CoreState, (cs.map CoreState.fixed).find? (fun c => c.core = core) =
      (cs.find? (fun c => c.core = core)).map CoreState.fixed := fun cs => List.find?_map
  rw [State.core?, State.core?, ← hfind, ← hfind, State.cores_of_fixed h]

/-- A bank stays, but for its stream entries. -/
theorem State.bank_map_fixed (core b : Nat) : (t.bank? core b).map Bank.fixed = (s.bank? core b).map Bank.fixed := by
  have hbank : ∀ u : State, (u.bank? core b).map Bank.fixed = ((u.core? core).map CoreState.fixed).bind (fun c => c.banks[b]?) := by
    intro u
    rw [State.bank?]
    cases u.core? core with
    | none => rfl
    | some c => exact List.getElem?_map.symm
  rw [hbank, hbank, State.core_map_fixed h]

/-- The two banks of one place are both missing, or agree in their mode, their owner and what is bound to them. -/
theorem State.bank_cases (core b : Nat) : (t.bank? core b = none ∧ s.bank? core b = none) ∨
    ∃ x y, t.bank? core b = some x ∧ s.bank? core b = some y ∧ x.mode = y.mode ∧ x.owner = y.owner ∧ x.binding = y.binding := by
  have hmap := State.bank_map_fixed h core b
  cases hx : t.bank? core b <;> cases hy : s.bank? core b <;> rw [hx, hy] at hmap
  case none.none => exact .inl ⟨rfl, rfl⟩
  case none.some => cases hmap
  case some.none => cases hmap
  case some.some x y =>
    have hb : x.fixed = y.fixed := Option.some.inj hmap
    exact .inr ⟨x, y, rfl, rfl, congrArg (·.mode) hb, congrArg (·.owner) hb, congrArg (·.binding) hb⟩

theorem State.scratchBank_of_fixed (core ctx bank : Nat) : t.scratchBank core ctx bank = s.scratchBank core ctx bank := by
  have hdef : ∀ u : State, u.scratchBank core ctx bank =
      ((u.bank? core bank).map (fun b => decide (b.mode = .scratch) && decide (b.owner = ctx))).getD false := by
    intro u
    rw [State.scratchBank, ← State.bank?]
    cases u.bank? core bank <;> rfl
  rw [hdef, hdef]
  rcases State.bank_cases h core bank with ⟨hx, hy⟩ | ⟨x, y, hx, hy, hmode, howner, _⟩
  · rw [hx, hy]
  · simp only [hx, hy, Option.map_some, hmode, howner]

theorem State.scratchSpan_of_fixed (core ctx addr n : Nat) : t.scratchSpan core ctx addr n = s.scratchSpan core ctx addr n := by
  simp only [State.scratchSpan, State.scratchBank_of_fixed h]

theorem State.mmaSpanFault_of_fixed (core ctx : Nat) (p : MmaParam) : t.mmaSpanFault core ctx p = s.mmaSpanFault core ctx p := by
  simp only [State.mmaSpanFault, State.scratchSpan_of_fixed h]

theorem State.copyBanksOk_of_fixed (core ctx : Nat) (p : CopyParam) : t.copyBanksOk core ctx p = s.copyBanksOk core ctx p := by
  unfold State.copyBanksOk
  rcases State.bank_cases h core p.dst with ⟨hx, hy⟩ | ⟨x, y, hx, hy, hmode, howner, hbinding⟩
  · simp only [State.scratchSpan_of_fixed h, hx, hy]
  · simp only [State.scratchSpan_of_fixed h, hx, hy, hmode, howner, hbinding]

end

/-! ### COPY (R249, R250) -/

/-- No bank is about to change its mode. -/
def SettledBanks (x : Site) : Prop := ∀ b, x.bankWaits b = false

theorem SettledBanks.bankWaits {x : Site} (h : SettledBanks x) (b : Nat) : x.bankWaits b = false := h b

theorem SettledBanks.any_eq_false {x : Site} (h : SettledBanks x) (bs : List Nat) : bs.any x.bankWaits = false :=
  List.any_eq_false.mpr (fun b _ => Bool.not_eq_true _ ▸ h b)

section
variable {s t : State} {f : Fields} {p : Spot} {toks : List Token} {r : Run} {cls : MemClass} {oe : Bool} {flag : Option (BitVec 4)}
  {bytes : List Byte} {ea pa id cause : Nat} {x : Site} (hr : Ready s f p toks r) (hx : siteOf s p toks = x) (hea : x.a.toNat = ea)
include hr hx hea

theorem exec_copy_wait (hread : (s.took r).readAt x cls .normal ea 64 64 .load = .wait) : exec (.copy f cls oe flag) s = .next s :=
  congrArg _ (fire_wait hr (by simp only [hx, hea, hread]))

theorem exec_copy_bad (hread : (s.took r).readAt x cls .normal ea 64 64 .load = .bad t cause) :
    exec (.copy f cls oe flag) s = .next (t.trapping s p toks (Fields.both f) cause (some ea)) :=
  congrArg _ (fire_bad hr (by simp only [hx, hea, hread]))

variable {ws : List Word} (hread : (s.took r).readAt x cls .normal ea 64 64 .load = .got t bytes pa [id]) (hws : leWords 8 bytes = ws)
  (hsettled : SettledBanks x)
include hread hws hsettled

theorem exec_copy_param (h : copyFieldsOk ws = false ∨ t.copyBanksOk s.cur.core s.cur.ctx (CopyParam.ofWords ws) = false) :
    exec (.copy f cls oe flag) s = .next (t.trapping s p toks (Fields.both f) cCopyParam (some ea)) := by
  have hbad : (!copyFieldsOk ws || !t.copyBanksOk s.cur.core s.cur.ctx (CopyParam.ofWords ws)) = true := by simpa using h
  refine congrArg _ (fire_bad hr ?_)
  rw [← siteOf_at s p toks, hx] at hbad
  simp only [hx, hea, hread, hws, hsettled.any_eq_false, hbad]
  rfl

variable (hf : copyFieldsOk ws = true) (hb : t.copyBanksOk s.cur.core s.cur.ctx (CopyParam.ofWords ws) = true)
include hf hb

theorem exec_copy_deferred (hroom : x.flagRoom flag = true) :
    exec (.copy f cls oe flag) s = .next ((t.defer s.cur x.deps (fun _ => .copy ws ea (flag.map (·.toNat)))).sending
      s p toks [p.pass.nextId + 1] (doneBoth f)) := by
  subst hx
  exact congrArg _ (fire_ok hr (by simp [hea, hread, hws, hsettled.any_eq_false, hf, hb, hroom]))

theorem exec_copy_full (hroom : x.flagRoom flag = false) :
    exec (.copy f cls oe flag) s = .next (t.trapping s p toks (Fields.both f) cFlagOverflow none) := by
  subst hx
  exact congrArg _ (fire_bad hr (by simp [hea, hread, hws, hsettled.any_eq_false, hf, hb, hroom]))

end

/-! ### MMA (R148, R149) -/

section
variable {s t : State} {f : Fields} {p : Spot} {toks : List Token} {r : Run} {oe : Bool} {flag : Option (BitVec 4)}
  {bytes : List Byte} {ea pa cause : Nat} {ids : List Nat} {x : Site} (hr : Ready s f p toks r) (hx : siteOf s p toks = x)
  (hea : x.a.toNat = ea) (ho : s.ownsEngine s.cur.ctx = true)
include hr hx hea ho

theorem exec_mma_wait (hread : (s.took r).readAt x .p .normal ea 64 64 .load = .wait) : exec (.mma f oe flag) s = .next s :=
  congrArg _ (fireQueued_wait hr ho (by simp only [hx, hea, hread]))

theorem exec_mma_bad (hread : (s.took r).readAt x .p .normal ea 64 64 .load = .bad t cause) :
    exec (.mma f oe flag) s = .next (t.trapping s p toks (Fields.both f) cause (some ea)) :=
  congrArg _ (fireQueued_bad hr ho (by simp only [hx, hea, hread]))

variable {ws : List Word} (hread : (s.took r).readAt x .p .normal ea 64 64 .load = .got t bytes pa ids) (hws : leWords 8 bytes = ws)
  (hsettled : SettledBanks x)
include hread hws hsettled

theorem exec_mma_param (h : mmaFieldsOk ws = false ∨ t.mmaSpanFault s.cur.core s.cur.ctx (MmaParam.ofWords ws) ≠ none) :
    exec (.mma f oe flag) s = .next (t.trapping s p toks (Fields.both f) cMatrixParam none) := by
  subst hx
  have hbad : (!mmaFieldsOk ws || (t.mmaSpanFault s.cur.core s.cur.ctx (MmaParam.ofWords ws)).isSome) = true := by
    simpa [Option.isSome_iff_ne_none] using h
  exact congrArg _ (fireQueued_bad hr ho (by simp [hea, hread, hws, hsettled.bankWaits, hbad]))

variable (hf : mmaFieldsOk ws = true) (hb : t.mmaSpanFault s.cur.core s.cur.ctx (MmaParam.ofWords ws) = none)
include hf hb

theorem exec_mma_entry (hroom : x.flagRoom flag = true) :
    exec (.mma f oe flag) s =
      .next ((t.updRun s.cur (Run.queued x (.mma ws) flag)).sending s p toks [] (doneBoth f)) := by
  subst hx
  exact congrArg _ (fireQueued_ok hr ho
    (by simp [hea, hread, hws, hsettled.bankWaits, hf, hb]) hroom)

theorem exec_mma_full (hroom : x.flagRoom flag = false) :
    exec (.mma f oe flag) s = .next (t.trapping s p toks (Fields.both f) cFlagOverflow none) := by
  subst hx
  exact congrArg _ (fireQueued_full (kind := .mma ws) hr ho
    (by simp [hea, hread, hws, hsettled.bankWaits, hf, hb]) hroom)

end
/-! ### MREAD (R152) -/

section
variable {s : State} {f : Fields} {p : Spot} {toks : List Token} {r : Run} {oe : Bool} {tile : BitVec 2} {c : CoreState} {n : Nat}
  (hr : Ready s f p toks r) (ho : s.ownsEngine s.cur.ctx = true) (hn : (siteOf s p toks).a.toNat = n)
include hr ho hn

theorem exec_mread_outside (h : 2 ^ 13 ≤ n) :
    exec (.mread f oe tile) s = .next (s.trapped p toks r (Fields.both f) cMatrixParam none) :=
  congrArg _ (fire_trap hr (by simp only [siteOf_at, State.took_ownsEngine, ho, hn]; exact if_pos h))

variable (h : n < 2 ^ 13) (hc : s.core? s.cur.core = some c)
include h hc

/-- An entry of the queue that writes the tile is waited for. -/
theorem exec_mread_waits (hw : ∃ e ∈ c.queue, e.record.kind.writes tile.toNat = true) : exec (.mread f oe tile) s = .next s := by
  have hcore : (s.took r).core? s.cur.core = some c := hc
  have hany : c.queue.any (fun e => e.record.kind.writes tile.toNat) = true := List.any_eq_true.mpr hw
  exact congrArg _ (fire_wait hr (by simp only [siteOf_at, State.took_ownsEngine, ho, hn, h.not_ge, hcore, hany]; rfl))

theorem exec_mread_sends (hw : ∀ e ∈ c.queue, e.record.kind.writes tile.toNat = false) :
    exec (.mread f oe tile) s = .next (s.sent p toks r (valueDone f (tileElem (c.tiles.getD tile.toNat []) n))) := by
  have hcore : (s.took r).core? s.cur.core = some c := hc
  have hany : c.queue.any (fun e => e.record.kind.writes tile.toNat) = false :=
    List.any_eq_false.mpr (fun e he => Bool.not_eq_true _ ▸ hw e he)
  exact congrArg _ (fire_send hr (by simp only [siteOf_at, State.took_ownsEngine, ho, hn, h.not_ge, hcore, hany]; rfl))

end

/-- A read of the scratchpad waits while the mode of its bank is about to change. -/
theorem readAt_scratch_waits {s : State} {x : Site} {ea n align cp k} (h : x.bankWaits (ea / 32768) = true) :
    s.readAt x .p cp ea n align k = .wait := if_pos h

/-- Settles O32: what the read of the parameter block finds, at an address of each kind, decides between the outcomes of MMA and COPY. -/
theorem parameterBlocksAreRead : Obligations.ParameterBlocksAreRead := by
  intro f oe flag tile s p toks r hr x ea ws read copies
  have hcopies : ∀ {cls : MemClass} {t : State} {bytes : List Byte} {pa : Nat}, (∀ b, x.bankWaits b = false) →
      (s.took r).readAt x cls .normal ea 64 64 .load = .got t bytes pa [p.pass.nextId] →
      copies cls t (leWords 8 bytes) (t.copyBanksOk s.cur.core s.cur.ctx (CopyParam.ofWords (leWords 8 bytes))) :=
    fun hsettled hread => ⟨fun hf hb hroom => exec_copy_deferred hr rfl rfl hread rfl hsettled hf hb hroom,
      fun hf hb hroom => exec_copy_full hr rfl rfl hread rfl hsettled hf hb hroom,
      fun h => exec_copy_param hr rfl rfl hread rfl hsettled h⟩
  refine ⟨fun hw => ?_, fun h64 hb => ?_, fun h64 h20 hbank hrc hsettled => ?_, fun pa key t ht h57 h64 hl hf hc hrc hsettled => ?_,
    fun ho => ⟨exec_mread_outside hr ho rfl, fun c h hc => ⟨exec_mread_sends hr ho rfl h hc, exec_mread_waits hr ho rfl h hc⟩⟩⟩
  · exact ⟨fun ho => exec_mma_wait hr rfl rfl ho (readAt_scratch_waits hw), exec_copy_wait hr rfl rfl (readAt_scratch_waits hw)⟩
  · have hread := readAt_scratch_misaligned (s := s.took r) (n := 64) (cp := .normal) (k := .load) hb h64
    exact ⟨fun ho => (exec_mma_bad hr rfl rfl ho hread).trans (congrArg _ (took_trapped hr _ _ _)),
      (exec_copy_bad hr rfl rfl hread).trans (congrArg _ (took_trapped hr _ _ _))⟩
  · have hread := readAt_scratch (s := s.took r) (n := 64) (cp := .normal) (k := .load) hrc (spot_lane_core hr.1) (hsettled _) h64 h20 hbank
    have hfixed : read.fixed = s.fixed := by simp [read, State.took]
    have hspan := State.mmaSpanFault_of_fixed hfixed s.cur.core s.cur.ctx (MmaParam.ofWords ws)
    have hbanks := State.copyBanksOk_of_fixed hfixed s.cur.core s.cur.ctx (CopyParam.ofWords ws)
    refine ⟨fun ho hf hb => ⟨exec_mma_entry hr rfl rfl ho hread rfl hsettled hf (hspan.trans hb),
      exec_mma_full hr rfl rfl ho hread rfl hsettled hf (hspan.trans hb)⟩, fun ho h => ?_, hbanks ▸ hcopies hsettled hread⟩
    exact exec_mma_param hr rfl rfl ho hread rfl hsettled (hspan ▸ h)
  · intro found block
    have hread := readAt_device (x := x) (n := 64) (cp := .normal) hrc h64 h57 ht hl (by decide) hf hc
    rw [found_unspecified_got] at hread
    have hfixed : found.2.fixed = t.fixed := by simp [found]
    exact State.copyBanksOk_of_fixed hfixed s.cur.core s.cur.ctx (CopyParam.ofWords block) ▸ hcopies hsettled hread

end Sys2Proof.Machine

/-! The entries of the matrix queue (spec/05 R139, R141, R142, R144, R147-R151): one lemma per outcome of the event that runs the head
entry, and what a finished entry leaves. -/

namespace Sys2Proof.Machine

/-! ### The head entry runs (R147, R148, R150) -/

section
variable {s t : State} {core : Nat} {c : CoreState} {e : MatrixEntry} (hc : s.core? core = some c) (he : c.head? = some e)
include hc he

section
variable {cls : MemClass} {fmt : Fmt} {cp : CachePol} {addr stride kb : Nat} (hk : e.record.kind = .mbld cls fmt cp addr stride kb)
include hk

theorem exec_mbldEntryRun_of_rows {rows : List (List Byte)}
    (hrows : s.readRows core e.ctx cls cp addr stride (rowBytes fmt 128) (List.range (32 * (kb + 1))) = (.ok rows, t)) :
    exec (.mbldEntryRun core) s =
      .next (t.updCore core (fun c => ({ c with bfmt := fmt.code, bdepth := kb + 1, brows := rows }).ran none)) := by
  show execMbldEntryRun core s = _
  simp only [execMbldEntryRun, hc, Option.bind_some, he, hk, hrows]

theorem exec_mbldEntryRun_of_bad {cause a : Nat}
    (hrows : s.readRows core e.ctx cls cp addr stride (rowBytes fmt 128) (List.range (32 * (kb + 1))) = (.bad cause a, t)) :
    exec (.mbldEntryRun core) s =
      .next (t.updCore core (fun c => ({ c with bfmt := fmt.code, bdepth := 0, brows := [] }).ran (some (cause, a)))) := by
  show execMbldEntryRun core s = _
  simp only [execMbldEntryRun, hc, Option.bind_some, he, hk, hrows]

end

section
variable {ws : List Word} {p : MmaParam} (hk : e.record.kind = .mma ws) (hp : MmaParam.ofWords ws = p) (hl : e.leave = true)
include hk hp hl

theorem exec_mmaEntryStart_of_shape (hshape : c.bdepth < p.kb + 1 ∨ (c.bfmt = 9 ∧ p.bsfmt ≠ 0)) :
    exec (.mmaEntryStart core) s = .next (s.updCore core (·.ran (some (cMatrixShape, 0)))) := by
  have hbad : (decide (c.bdepth < p.kb + 1) || decide (c.bfmt = 9) && decide (p.bsfmt ≠ 0)) = true := by simpa using hshape
  show execMmaEntryStart core s = _
  simp only [execMmaEntryStart, hc, he, hk, hp, hl, hbad]
  rfl

theorem exec_mmaEntryStart_of_spans (hdepth : p.kb + 1 ≤ c.bdepth) (hscale : c.bfmt ≠ 9 ∨ p.bsfmt = 0)
    (hspan : s.mmaSpanFault core e.ctx p = none) :
    exec (.mmaEntryStart core) s = .next (s.updCore core (fun x => (x.setTile p.acc
      (s.mmaTile core p ((Fmt.ofCode? c.bfmt).getD .raw64) c.brows (c.tiles.getD p.acc []))).ran none)) := by
  have hshape : (decide (c.bdepth < p.kb + 1) || decide (c.bfmt = 9) && decide (p.bsfmt ≠ 0)) = false := by
    simp only [Bool.or_eq_false_iff, Bool.and_eq_false_iff, decide_eq_false_iff_not]
    omega
  show execMmaEntryStart core s = _
  simp only [execMmaEntryStart, hc, he, hk, hp, hl, hshape, hspan]
  rfl

end

theorem exec_mzeroEntryRun {tile : Nat} (hk : e.record.kind = .mzero tile) :
    exec (.mzeroEntryRun core) s = .next (s.updCore core (fun c => (c.setTile tile []).ran none)) := by
  show execMzeroEntryRun core s = _
  simp only [execMzeroEntryRun, hc, Option.bind_some, he, hk]

end

/-! ### Tiles of unspecified elements (R34, R142) -/

theorem liveWord_eq_zero_or_mem (pool : List Word) (ctr : Nat) : liveWord pool ctr = 0 ∨ liveWord pool ctr ∈ pool := by
  have hlt : Config.freeChoice ctr % (pool.length + 1) < (0 :: pool).length := Nat.mod_lt _ (Nat.succ_pos _)
  have hmem : liveWord pool ctr ∈ 0 :: pool := by
    rw [liveWord, List.getD_eq_getElem _ _ hlt]
    exact List.getElem_mem hlt
  exact List.mem_cons.mp hmem

theorem freeTile_values {pool : List Word} {ctr : Nat} {x : Nat × Word} (hx : x ∈ freeTile pool ctr) : x.2 = 0 ∨ x.2 ∈ pool := by
  obtain ⟨n, -, hn⟩ := List.mem_filterMap.mp hx
  split at hn
  · cases hn
  · cases hn
    exact liveWord_eq_zero_or_mem pool (ctr + n)

/-! ### MSTORE (R142, R151) -/

theorem takeWhile_append_cons {α : Type} {q : α → Bool} {good rest : List α} {r : α} (hgood : ∀ x ∈ good, q x = true) (hr : q r = false) :
    (good ++ r :: rest).takeWhile q = good := by
  rw [List.takeWhile_append_of_pos hgood, List.takeWhile_cons_of_neg (by simp [hr]), List.append_nil]

section
variable {s u : State} {core : Nat} {c : CoreState} {e : MatrixEntry} (hc : s.core? core = some c) (he : c.head? = some e)
  {cls : MemClass} {scope : Scope} {fmt : Fmt} {cp : CachePol} {rm : RMode} {tile addr stride : Nat}
  (hk : e.record.kind = .mstore cls scope fmt cp rm tile addr stride) {rows : List (Nat × List Byte)}
  (hrows : s.tileRows e.ctx fmt rm addr stride (c.tiles.getD tile []) = rows)
include hc he hk hrows

theorem exec_mstoreEntryRun_of_spans (hp : cls = .p) (hspan : ∀ r ∈ rows, s.scratchSpan core e.ctx r.1 r.2.length = true) :
    exec (.mstoreEntryRun core) s = .next ((rows.foldl (fun s r => s.scratchWrite core r.1 r.2) s).updCore core (·.ran none)) := by
  have hgood : rows.takeWhile (fun r => s.scratchSpan core e.ctx r.1 r.2.length) = rows := List.takeWhile_eq_self_iff.mpr hspan
  show execMstoreEntryRun core s = _
  simp only [execMstoreEntryRun, hc, he, hk, hrows, hp, if_true, hgood, List.drop_length]

theorem exec_mstoreEntryRun_of_pieces (hp : cls ≠ .p) {ps qs : List Piece} (hps : s.storeRows e.ctx rows = (.ok ps, qs, u)) :
    exec (.mstoreEntryRun core) s = .next ((u.streamPieces core e.ctx e.record.tidx scope cp ps).updCore core (·.ran none)) := by
  show execMstoreEntryRun core s = _
  simp only [execMstoreEntryRun, hc, he, hk, hrows, hp, if_false, hps]

/-- A free number of the rows before the first that lies in no SCRATCH bank are written, and free values over the rest. -/
theorem exec_mstoreEntryRun_of_outside (hp : cls = .p) {good rest : List (Nat × List Byte)} {r : Nat × List Byte}
    (happ : rows = good ++ r :: rest) (hspan : ∀ x ∈ good, s.scratchSpan core e.ctx x.1 x.2.length = true)
    (hr : s.scratchSpan core e.ctx r.1 r.2.length = false) :
    exec (.mstoreEntryRun core) s =
      .next ((({ s with freeCtr := s.freeCtr + 1 + 8192 } : State).scratchAbandoned core e.ctx (good.take (s.choose (good.length + 1)).1)
        (s.tileRows e.ctx fmt rm addr stride (freeTile (s.livePool e.ctx) (s.freeCtr + 1)))).updCore core
          (·.ran (some (memCause .store reasonBounds, r.1)))) := by
  have hgood : rows.takeWhile (fun r => s.scratchSpan core e.ctx r.1 r.2.length) = good := by
    rw [happ]; exact takeWhile_append_cons hspan hr
  have hdrop : rows.drop good.length = r :: rest := by rw [happ, List.drop_left]
  show execMstoreEntryRun core s = _
  simp only [execMstoreEntryRun, hc, he, hk, hrows, hp, if_true, hgood, hdrop]
  rfl

/-- A free number of the pieces before the first failure are written, and free values over the rest. -/
theorem exec_mstoreEntryRun_of_bad (hp : cls ≠ .p) {ps : List Piece} {cause a : Nat}
    (hps : s.storeRows e.ctx rows = (.bad cause a, ps, u)) :
    exec (.mstoreEntryRun core) s =
      .next ((({ u with freeCtr := u.freeCtr + 1 + 8192 } : State).streamAbandoned core e scope cp (ps.take (u.choose (ps.length + 1)).1)
        (s.tileRows e.ctx fmt rm addr stride (freeTile (s.livePool e.ctx) (u.freeCtr + 1)))).updCore core (·.ran (some (cause, a)))) := by
  show execMstoreEntryRun core s = _
  simp only [execMstoreEntryRun, hc, he, hk, hrows, hp, if_false, hps]
  rfl

end

/-! ### The pieces of a streamed MSTORE (R151) -/

/-- Taking a line into the CACHE banks changes no lane. -/
@[simp] theorem State.allocateL1_lanes (s : State) (core : Nat) (x : L1Line) : (s.allocateL1 core x).lanes = s.lanes := by
  unfold State.allocateL1
  split
  · rfl
  · dsimp only
    split_ifs <;> rfl

@[simp] theorem State.refreshCopy_lanes (s : State) (core line : Nat) (byS : Bool) (cp : CachePol) :
    (s.refreshCopy core line byS cp).lanes = s.lanes := by
  unfold State.refreshCopy
  split
  · rfl
  · split
    · exact State.allocateL1_lanes _ _ _
    · rfl

@[simp] theorem State.fillCopy_lanes (s : State) (core line : Nat) (byS : Bool) (cp : CachePol) :
    (s.fillCopy core line byS cp).lanes = s.lanes := by
  unfold State.fillCopy
  split <;> simp

/-- Taking the lines of some pieces changes neither memory nor a lane. -/
theorem foldl_fillCopy (core : Nat) (byS : Bool) (cp : CachePol) (ps : List Piece) (s : State) :
    (ps.foldl (fun s p => s.fillCopy core (p.pa / 64) byS cp) s).mem = s.mem ∧
    (ps.foldl (fun s p => s.fillCopy core (p.pa / 64) byS cp) s).lanes = s.lanes := by
  induction ps generalizing s with
  | nil => exact ⟨rfl, rfl⟩
  | cons p ps ih => simpa using ih (s.fillCopy core (p.pa / 64) byS cp)

section
variable (s : State) (core ctx tidx : Nat) (scope : Scope) (cp : CachePol) (ps : List Piece)

theorem State.streamPieces_mem : (s.streamPieces core ctx tidx scope cp ps).mem = s.mem :=
  (foldl_fillCopy core false cp _ s).1

/-- The pieces of an MSTORE, as effects that its lane defers under one place in the commit order. -/
def storeEffects (tidx : Nat) (scope : Scope) (seq : Nat) (ps : List Piece) : List Deferred :=
  ps.map (fun y =>
    let bytes := y.bytes.map (fun b => (b, (0xFF : Byte)))
    { id := 0, tidx := tidx, idx := 0, before := [], seq := seq
      kind := if y.device then .sStore y.va y.pa y.key bytes scope else .hostStore y.va y.pa bytes })

theorem State.lane_streamPieces {l : Lane} (hl : s.lane? core ctx = some l) : ∃ seq,
    (s.streamPieces core ctx tidx scope cp ps).lane? core ctx =
      some { l with deferred := l.deferred ++ storeEffects tidx scope seq ps } := by
  have hlane : ((ps.filter (·.device)).foldl (fun s p => s.fillCopy core (p.pa / 64) false cp) s).lane? core ctx = some l := by
    rw [State.lane?, (foldl_fillCopy core false cp _ s).2]; exact hl
  rw [State.streamPieces, State.lane_updLane_same, hlane]
  · exact ⟨_, rfl⟩
  · exact fun _ => ⟨rfl, rfl⟩

end

/-! ### Leave, and the end of an entry (R141, R142, R144) -/

section
variable {s : State} {core : Nat} {c : CoreState} {e : MatrixEntry} {rest : List MatrixEntry} (hc : s.core? core = some c)
  (hq : c.queue = e :: rest)
include hc hq

theorem core_giveLeave {ws : List Word} {ok : Nat → Bool} (hk : e.record.kind = .mma ws) (hcore : core < 1024)
    (hok : ok e.leaveWait = true) :
    (s.giveLeave core ok).core? core = some { c with queue := { e with leave := true } :: rest } := by
  rw [State.giveLeave, if_pos hcore, State.core_updCore_same, hc]
  · simp only [Option.map_some, hq, hk, hok, if_true]
  · exact fun _ => rfl

/-- The state without the head entry of a core, whose flag has counted down. -/
def State.leftBy (s : State) (core : Nat) (e : MatrixEntry) (rest : List MatrixEntry) : State :=
  (s.updCore core (fun c => { c with queue := rest })).updLane core e.ctx (·.clearFlag e.record.tidx e.record.flag)

theorem exec_matrixEntryFinish_of_done (hst : e.stage = .ran none) :
    exec (.matrixEntryFinish core) s = .next (s.leftBy core e rest) := by
  show execMatrixEntryFinish core s = _
  simp only [execMatrixEntryFinish, hc, hq, hst]
  rfl

variable {fail : Nat × Nat} (hst : e.stage = .ran (some fail))
include hst

theorem exec_matrixEntryFinish_of_thread {l : Lane} {t : Thread}
    (hl : ((s.leftBy core e rest).blemish e.ctx fail.1).lane? core e.ctx = some l) (ht : l.thread? e.record.tidx = some t) :
    exec (.matrixEntryFinish core) s = .next (((s.leftBy core e rest).blemish e.ctx fail.1).updLane core e.ctx (fun l =>
      l.updThread e.record.tidx (fun t => { t with matrixFail := match t.matrixFail with
        | some q => some q
        | none => some fail }))) := by
  rw [State.leftBy] at hl
  show execMatrixEntryFinish core s = _
  simp only [execMatrixEntryFinish, hc, hq, hst, hl, ht, Option.isSome_some, if_true]
  rfl

theorem exec_matrixEntryFinish_of_ended
    (hl : (((s.leftBy core e rest).blemish e.ctx fail.1).lane? core e.ctx).bind (fun l => l.thread? e.record.tidx) = none) :
    exec (.matrixEntryFinish core) s = .next (((s.leftBy core e rest).blemish e.ctx fail.1).failPacket e.ctx fail.1) := by
  rw [State.leftBy] at hl
  show execMatrixEntryFinish core s = _
  cases hlane : (((s.updCore core (fun c => { c with queue := rest })).updLane core e.ctx
    (·.clearFlag e.record.tidx e.record.flag)).blemish e.ctx fail.1).lane? core e.ctx with
  | none => simp only [execMatrixEntryFinish, hc, hq, hst, hlane]; rfl
  | some l =>
    have hnone : l.thread? e.record.tidx = none := by simpa [hlane] using hl
    simp only [execMatrixEntryFinish, hc, hq, hst, hlane, hnone]
    rfl

end

/-- Settles O40: each event by the lemma of its outcome. -/
theorem matrixEntriesRun : Obligations.MatrixEntriesRun := by
  intro core s c hc
  refine ⟨fun e he => ⟨?_, ?_, ?_, ?_, ?_⟩, fun e rest ws hq hk hcore => ⟨?_, fun hwait => ?_⟩, fun e rest hq => ?_⟩
  · exact fun cls fmt cp addr stride kb rows t hk => exec_mbldEntryRun_of_rows hc he hk
  · exact fun cls fmt cp addr stride kb cause a t hk => exec_mbldEntryRun_of_bad hc he hk
  · exact fun ws hk hl => ⟨exec_mmaEntryStart_of_shape hc he hk rfl hl, exec_mmaEntryStart_of_spans hc he hk rfl hl⟩
  · exact fun tile => exec_mzeroEntryRun hc he
  · intro cls scope fmt cp rm tile addr stride hk rows
    refine ⟨exec_mstoreEntryRun_of_spans hc he hk rfl, fun ps qs u hp hps => ⟨exec_mstoreEntryRun_of_pieces hc he hk rfl hp hps,
      u.streamPieces_mem .., fun l hl => u.lane_streamPieces _ _ _ _ _ _ hl⟩, fun good r rest hp happ hspan hr => ?_,
      fun cause a ps u hp hps => ?_⟩
    · exact ⟨_, _, _, Nat.lt_succ_iff.mp (Nat.mod_lt _ (Nat.succ_pos _)), rfl, fun x => freeTile_values,
        exec_mstoreEntryRun_of_outside hc he hk rfl hp happ hspan hr⟩
    · exact ⟨_, _, _, Nat.lt_succ_iff.mp (Nat.mod_lt _ (Nat.succ_pos _)), rfl, fun x => freeTile_values,
        exec_mstoreEntryRun_of_bad hc he hk rfl hp hps⟩
  · exact ⟨_, rfl, core_giveLeave hc hq hk hcore rfl⟩
  · exact ⟨_, rfl, core_giveLeave hc hq hk hcore (decide_eq_true hwait)⟩
  · exact ⟨exec_matrixEntryFinish_of_done hc hq, fun f l t hst hl ht => exec_matrixEntryFinish_of_thread hc hq hst hl ht,
      fun f hst hl => exec_matrixEntryFinish_of_ended hc hq hst hl⟩

end Sys2Proof.Machine

/-! A copy that stops (spec/06 R163, spec/08 R251, R253): where it waits for the solo pass. -/

namespace Sys2Proof.Machine

/-- The fault recorded for a copy is the stop it comes to. -/
theorem State.copyFault_of_cause {s : State} {c : Copy} (h : c.cause ≠ 0) : s.copyFault c =
    some { cause := c.cause, addr := c.faultAddr, pieces := [], tile := none, bytes := c.published } := if_pos h

/-- A copy stays as it is while a solo pass reads the lines of its slot. -/
theorem exec_copyFail_of_waits {s : State} {id : Nat} {c : Copy} {stop : CopyStop} (hc : s.copy? id = some c)
    (hstop : s.copyFault c = some stop) (hw : s.stopWaits c stop = true) : exec (.copyFail id) s = .next s := by
  show execCopyFail id s = _
  simp only [execCopyFail, hc, hstop, hw, Bool.or_true, if_true]

/-- A MODE 2 copy into the FIFO of bank 1 (R251) whose source has faulted. -/
def faultedFifoCopy : Copy :=
  { id := 0, ctx := 0, core := 0, tidx := 0, words := [0x100000, 1, 16, 0, 0, 0, 0, 2], info := 0, flag := none, packet := none, die := 0
    dray := 0, stage := .moving, leaveWait := 0, leave := false, tile := 0, published := 8, cause := memCause .load reasonNotPresent
    faultAddr := 0x100008 }

/-- The pass with the solo ticket, which has read a word at address 0 of the scratchpad. -/
def soloReader : Pass :=
  { Pass.single [] [] with
    solo := .holding
    accesses := [{ id := 0, tidx := 0, idx := 0, space := .scratch, addr := 0, len := 8, key := 0, kind := .load, before := [] }] }

/-- The faulted copy beside the solo pass, on one core. -/
def faultedBesideSolo : State :=
  { State.reset with
    copies := [faultedFifoCopy]
    lanes := [{ Lane.reset 0 0 SysRegs.reset with passes := [soloReader] }]
    soloHolder := some { core := 0, ctx := 0, pass := soloReader.id } }

/-- Refutes O39: its clause about a copy that fails outside a tile has it fail as soon as it may commit, but COPY_FAIL also looks at
the solo pass, for the lines of a part of no bytes at the copy's slot; where DST lies within a line there is one. In MODE 2, DST names a
FIFO bank, here bank 1, and is taken for byte 1 of the scratchpad: the solo pass has read its line, and the faulted copy stays in its
stage. -/
theorem not_copyEventsTakeEffect : ¬ Obligations.CopyEventsTakeEffect := by
  intro h
  have hcopy : faultedBesideSolo.copy? 0 = some faultedFifoCopy := rfl
  have hstop := faultedBesideSolo.copyFault_of_cause (c := faultedFifoCopy) (by decide)
  have hmay : faultedBesideSolo.mayCommit (.copy 0) [] = (true, faultedBesideSolo) := rfl
  obtain ⟨-, -, -, -, -, -, -, hfail, -⟩ := h 0 faultedBesideSolo faultedFifoCopy hcopy
  have hexec := hfail _ _ hstop (by decide) rfl hmay (by decide) (by decide)
  rw [exec_copyFail_of_waits hcopy hstop (by decide)] at hexec
  have hstages := congrArg (fun t : State => t.copies.map (·.stage)) (Host.Outcome.next.inj hexec)
  exact absurd hstages (by decide)

end Sys2Proof.Machine

/-! Effects that a firing defers (spec/06 R180, spec/07 R216, R218, spec/08 R256, spec/10 R317, spec/13 R421-R423): recorded by CREDIT
and the invalidations only where their parameters are in range and the flag has room. -/

namespace Sys2Proof.Machine

/-- The checks of TLBINV and CFGINV, the range before the flag, and the effect that they defer. -/
def invalidation (f : Fields) (flag : Option (BitVec 4)) (outside : Site → Bool) (kind : Site → DeferredKind) (x : Site) (s : State) :
    Fired :=
  if outside x then .bad s cInvParam none
  else if !x.flagRoom flag then .bad s cFlagOverflow none
  else .ok (s.defer x.at_ x.deps (fun _ => kind x)) (doneBoth f) [x.nextId]

/-- A range that TLBINV rejects: an address that is no first byte of a page or beyond 2^57, or 2^41 pages and more (R422). -/
def tlbinvOutside (all : Bool) (x : Site) : Bool :=
  !all && (x.a.toNat % 65536 ≠ 0 || 2 ^ 57 ≤ x.a.toNat || 2 ^ 41 ≤ (x.b none).toNat)

/-- A range that CFGINV rejects: an address beyond 2^57, or more than 2^32 bytes (R423). -/
def cfginvOutside (all : Bool) (x : Site) : Bool := !all && (2 ^ 57 ≤ x.a.toNat || 2 ^ 32 ≤ (x.b none).toNat)

theorem exec_tlbinv_eq (f : Fields) (all oe : Bool) (flag : Option (BitVec 4)) (s : State) :
    exec (.tlbinv f all oe flag) s = .next (s.fire f (Fields.both f) (invalidation f flag (tlbinvOutside all)
      (fun x => .tlbinv all x.a.toNat ((x.b none).toNat + 1) (flag.map (·.toNat))))) := rfl

theorem exec_cfginv_eq (f : Fields) (all oe : Bool) (flag : Option (BitVec 4)) (s : State) :
    exec (.cfginv f all oe flag) s = .next (s.fire f (Fields.both f) (invalidation f flag (cfginvOutside all)
      (fun x => .cfginv all x.a.toNat ((x.b none).toNat + 1) (flag.map (·.toNat))))) := rfl

section
variable {s : State} {f : Fields} {p : Spot} {toks : List Token} {r : Run} {flag : Option (BitVec 4)} {outside : Site → Bool}
  {kind : Site → DeferredKind} (hr : Ready s f p toks r)
include hr

theorem fire_invalidation_outside (ho : outside (siteOf s p toks) = true) :
    s.fire f (Fields.both f) (invalidation f flag outside kind) = s.trapped p toks r (Fields.both f) cInvParam none :=
  fire_trap hr (if_pos ho)

theorem fire_invalidation_full (ho : outside (siteOf s p toks) = false) (hroom : (siteOf s p toks).flagRoom flag = false) :
    s.fire f (Fields.both f) (invalidation f flag outside kind) = s.trapped p toks r (Fields.both f) cFlagOverflow none :=
  fire_trap hr (by simp [invalidation, ho, hroom])

theorem fire_invalidation_deferred (ho : outside (siteOf s p toks) = false) (hroom : (siteOf s p toks).flagRoom flag = true) :
    s.fire f (Fields.both f) (invalidation f flag outside kind) = s.deferring p toks r (kind (siteOf s p toks)) (doneBoth f) :=
  fire_defer _ hr (by simp [invalidation, ho, hroom])

/-- With room in the flag the range alone decides. -/
theorem fire_invalidation_room {inRange : Prop} [Decidable inRange] (h : outside (siteOf s p toks) = true ↔ ¬inRange)
    (hroom : (siteOf s p toks).flagRoom flag = true) :
    s.fire f (Fields.both f) (invalidation f flag outside kind) =
      if inRange then s.deferring p toks r (kind (siteOf s p toks)) (doneBoth f)
      else s.trapped p toks r (Fields.both f) cInvParam none := by
  split_ifs with hin
  · exact fire_invalidation_deferred hr (Bool.eq_false_iff.mpr (fun ho => h.mp ho hin)) hroom
  · exact fire_invalidation_outside hr (h.mpr hin)

/-- Slot a of CREDIT holds its ring and its count less one in twelve bits (R256). -/
theorem exec_credit_eq (oe : Bool) : exec (.credit f oe) s = .next (
    if (siteOf s p toks).a.toNat < 2 ^ 12 then
      s.deferring p toks r (.credit ((siteOf s p toks).a.toNat % 16) ((siteOf s p toks).a.toNat / 16 + 1)) (doneBoth f)
    else s.trapped p toks r (Fields.both f) cCopyParam none) := by
  split_ifs with h
  · exact congrArg _ (fire_defer _ hr (if_neg h.not_ge))
  · exact congrArg _ (fire_trap hr (if_pos (Nat.le_of_not_lt h)))

end

/-- Settles O18: each instruction by the effect that it defers, or by the check that fails. -/
theorem effectsAreDeferred : Obligations.EffectsAreDeferred := by
  intro f oe xn num flag scope s p toks r hr x a b defers traps
  have htlb : tlbinvOutside false x = true ↔ ¬(a % 65536 = 0 ∧ a < 2 ^ 57 ∧ b < 2 ^ 41) := by
    simp only [tlbinvOutside, Bool.not_false, Bool.true_and, Bool.or_eq_true, decide_eq_true_eq, a, b]
    omega
  have hcfg : cfginvOutside false x = true ↔ ¬(a < 2 ^ 57 ∧ b < 2 ^ 32) := by
    simp only [cfginvOutside, Bool.not_false, Bool.true_and, Bool.or_eq_true, decide_eq_true_eq, a, b]
    omega
  refine ⟨congrArg _ (fire_defer _ hr rfl), exec_credit_eq hr oe, congrArg _ (fire_defer _ hr rfl), congrArg _ (fire_defer _ hr rfl),
    fun hscope => congrArg _ (fire_defer _ hr (by rw [if_pos hscope]; rfl)), fun hroom => ⟨?_, ?_, ?_, ?_⟩, fun hfull => ⟨?_, ?_⟩⟩
  · exact congrArg _ (fire_invalidation_deferred hr rfl hroom)
  · exact congrArg _ (fire_invalidation_deferred hr rfl hroom)
  · exact congrArg _ (fire_invalidation_room hr htlb hroom)
  · exact congrArg _ (fire_invalidation_room hr hcfg hroom)
  · exact congrArg _ (fire_invalidation_full hr rfl hfull)
  · exact congrArg _ (fire_invalidation_full hr rfl hfull)

end Sys2Proof.Machine

/-! Copies in the CACHE banks (spec/06 R185, spec/07 R207, R216-R218): what PREF, EVICT, ACQ and FENCE leave of them. -/

namespace Sys2Proof.Machine

/-! ### Taking a copy (R207, R237) -/

theorem State.fillCopy_taken {s : State} {core line : Nat} {cp : CachePol} (byS : Bool) (hcp : cp = .normal ∨ cp = .keep)
    (hnone : s.copyOf core line = none) : s.fillCopy core line byS cp =
      s.allocateL1 core { line := line, bytes := s.bytesAt (line * 64) 64, byS := byS, keep := decide (cp = .keep) } := by
  simp [State.fillCopy, State.refreshCopy, hnone, hcp]

theorem State.fillCopy_unchanged {s : State} {core line : Nat} {cp : CachePol} (byS : Bool)
    (h : ¬(cp = .normal ∨ cp = .keep) ∨ s.copyOf core line ≠ none) : s.fillCopy core line byS cp = s := by
  cases hcopy : s.copyOf core line with
  | some c => simp [State.fillCopy, hcopy]
  | none => simp [State.fillCopy, State.refreshCopy, hcopy, h.resolve_right (not_not.mpr hcopy)]

/-! ### PREF, EVICT, ACQ and FENCE -/

section
variable {s t : State} {f : Fields} {m : MemOps} {p : Spot} {toks : List Token} {r : Run} {line : Nat} (hr : Ready s f p toks r)
include hr

theorem exec_pref_of_line
    (hl : (s.took r).lineOf (siteOf s p toks) (effAddr (siteOf s p toks).a m.disp) = (some line, t)) :
    exec (.pref f m) s = .next ((t.fillCopy s.cur.core line false m.cp).sending s p toks [] (doneBoth f)) :=
  congrArg _ (fire_ok hr (by simp only [hl]; rfl))

theorem exec_pref_of_no_line (hl : (s.took r).lineOf (siteOf s p toks) (effAddr (siteOf s p toks).a m.disp) = (none, t)) :
    exec (.pref f m) s = .next (t.sending s p toks [] (doneBoth f)) :=
  congrArg _ (fire_ok hr (by simp only [hl]))

theorem exec_evict_of_line
    (hl : (s.took r).lineOf (siteOf s p toks) (effAddr (siteOf s p toks).a m.disp) = (some line, t)) :
    exec (.evict f m) s = .next ((t.updCore s.cur.core (fun c => { c with l1 := c.l1.filter (fun y => y.line ≠ line) })).sending
      s p toks [] (doneBoth f)) :=
  congrArg _ (fire_ok hr (by simp only [hl]; rfl))

theorem exec_evict_of_no_line (hl : (s.took r).lineOf (siteOf s p toks) (effAddr (siteOf s p toks).a m.disp) = (none, t)) :
    exec (.evict f m) s = .next (t.sending s p toks [] (doneBoth f)) :=
  congrArg _ (fire_ok hr (by simp only [hl]))

theorem exec_acq_drops (scope : Scope) (hd : (s.took r).releaseDue s.cur.core (p.pass.solo = .holding) = false) :
    exec (.acq f scope) s = .next (((s.took r).dropStreamCopies s.cur.core).sending s p toks [] (valueDone f (siteOf s p toks).a)) :=
  congrArg _ (fire_ok hr (if_neg (Bool.eq_false_iff.mp hd)))

theorem exec_acq_waits (scope : Scope) (hd : (s.took r).releaseDue s.cur.core (p.pass.solo = .holding) = true) :
    exec (.acq f scope) s = .next s :=
  congrArg _ (fire_wait hr (if_pos hd))

theorem exec_fence_drops {scope : Scope} (hscope : scope ≠ .core) :
    exec (.fence f scope) s = .next ((((s.took r).dropStreamCopies s.cur.core).defer s.cur (siteOf s p toks).deps
      (fun _ => .fence scope)).sending s p toks [p.pass.nextId] (doneBoth f)) :=
  congrArg _ (fire_ok hr (by rw [if_neg hscope]; rfl))

theorem exec_fence_core : exec (.fence f .core) s = .next (s.deferring p toks r (.fence .core) (doneBoth f)) :=
  congrArg _ (fire_defer _ hr rfl)

end

/-! ### The stores that an ACQ waits for (R185, R217) -/

/-- A store that stands on another core before a mark whose scope holds the acquiring one is on its way to it. -/
theorem State.releaseDue_of_mark {s : State} {core : Nat} {l : Lane} {mark store : Deferred × Bool} {scope : Scope} (hl : l ∈ s.lanes)
    (hcore : l.core ≠ core) (hm : mark ∈ l.unpublished) (hd : store ∈ l.unpublished) (hmark : mark.1.kind.mark? = some scope)
    (hscope : scopeHolds scope l.core core = true) (hstore : store.1.kind.isStore = true) (hpub : store.2 = false)
    (hseq : store.1.seq ≤ mark.1.seq) : s.releaseDue core false = true := by
  have hmem : ∀ d ∈ l.unpublished, d ∈ ((s.lanes.filter (fun m => m.core = l.core)).flatMap (·.unpublished)).filter
      (fun d => decide (l.core ≠ core) || d.2) := fun d hd =>
    List.mem_filter.mpr ⟨List.mem_flatMap.mpr ⟨l, List.mem_filter.mpr ⟨hl, decide_eq_true rfl⟩, hd⟩, by simp [hcore]⟩
  refine List.any_eq_true.mpr ⟨l.core, List.mem_dedup.mpr (List.mem_map_of_mem hl), ?_⟩
  have hstands : (store.1.kind.isStore && (mark.2 || (!store.2 && decide (store.1.seq ≤ mark.1.seq)))) = true := by
    simp [hstore, hpub, hseq]
  have hholds : mark.1.kind.mark?.any (fun sc => scopeHolds sc l.core core) = true := by rw [hmark]; exact hscope
  exact Bool.and_eq_true_iff.mpr ⟨rfl, List.any_eq_true.mpr ⟨mark, hmem mark hm, Bool.and_eq_true_iff.mpr
    ⟨hholds, List.any_eq_true.mpr ⟨store, hmem store hd, hstands⟩⟩⟩⟩

/-- A REL or FENCE of package scope is a mark that holds every core. -/
theorem mark_of_pkg {k : DeferredKind} (h : k = .release .pkg ∨ k = .fence .pkg) : k.mark? = some .pkg := by
  rcases h with rfl | rfl <;> rfl

/-- Settles O24: each instruction by what it leaves of the copies, and the stores of another core by their mark. -/
theorem copiesAreTakenAndDropped : Obligations.CopiesAreTakenAndDropped := by
  intro f m scope s p toks r hr x core
  refine ⟨fun line t hl => ⟨fun hcp hnone => ?_, fun h => ?_, exec_evict_of_line hr hl⟩,
    fun t hl => ⟨exec_pref_of_no_line hr hl, exec_evict_of_no_line hr hl⟩, ⟨exec_acq_drops hr scope, exec_acq_waits hr scope, ?_,
      exec_fence_drops hr⟩, exec_fence_core hr⟩
  · rw [exec_pref_of_line hr hl, State.fillCopy_taken false hcp hnone]
  · rw [exec_pref_of_line hr hl, State.fillCopy_unchanged false h]
  · intro l mark store hl hcore hsolo hm hd hkind hstore _ hpub hseq
    rw [decide_eq_false hsolo]
    exact State.releaseDue_of_mark hl hcore hm hd (mark_of_pkg hkind) rfl hstore hpub hseq

end Sys2Proof.Machine

/-! Deferred effects at their events (spec/06 R183, R184, R190, spec/07 R231, spec/08 R244, R251, R256, spec/09 R262, R263, R281,
spec/13 R423): the first deferred effect of a core leaves its lane and acts; a read on its way returns its value. -/

namespace Sys2Proof.Machine

section
variable {s : State} {core ctx : Nat} {d : Deferred} (hd : s.headDeferred core ctx = some d)
include hd

/-! ### Stores (R183, R184, R190, R244) -/

section
variable {va pa key : Nat} {bytes : List (Byte × Byte)} {scope : Scope} (hk : d.kind = .sStore va pa key bytes scope)
  (hlock : s.copyLocked pa = false)
include hk hlock

theorem exec_sStorePublish_of_up (hup : s.linkUp pa = true) : exec (.sStorePublish core ctx) s = .next
    ((((s.popHead core ctx).commitBytes ((s.popHead core ctx).maskedBytes pa key bytes)).updateCopy core (pa / 64)).touchPhys pa
      bytes.length) := by
  show execSStorePublish core ctx s = _
  simp [execSStorePublish, hd, hk, hlock, hup]

theorem exec_sStorePublish_of_down (hup : s.linkUp pa = false) : exec (.sStorePublish core ctx) s = .next (s.popHead core ctx) := by
  show execSStorePublish core ctx s = _
  simp [execSStorePublish, hd, hk, hlock, hup]

end

theorem exec_hostPeerStoreSend_of_store {va pa : Nat} {bytes : List (Byte × Byte)} (hk : d.kind = .hostStore va pa bytes)
    (hup : s.linkUp pa = true) : exec (.hostPeerStoreSend core ctx) s = .next
      { ((s.popHead core ctx).noteSent ctx pa bytes.length true).touchPhys pa bytes.length with mem := writeMasked s.mem pa bytes } := by
  show execHostPeerStoreSend core ctx s = _
  simp only [execHostPeerStoreSend, hd, hk, hup]
  rfl

theorem exec_hostPeerStoreSend_of_add {va pa n : Nat} {b : Word} (hk : d.kind = .hostAdd va pa n b) (hup : s.linkUp pa = true) :
    exec (.hostPeerStoreSend core ctx) s = .next { ((s.popHead core ctx).noteSent ctx pa n true).touchPhys pa n with
      mem := Memory.writeBytes s.mem pa (leBytes n (leNat (s.bytesAt pa n) + b.toNat)) } := by
  show execHostPeerStoreSend core ctx s = _
  simp only [execHostPeerStoreSend, hd, hk, hup]
  rfl

/-! ### A copy and a new thread (R251, R262, R263, R281) -/

theorem exec_copyHandover_of_free {words : List Word} {info : Nat} {flag : Option Nat} {die dray : Nat}
    (hk : d.kind = .copy words info flag) (hfree : s.drayFree die dray = true) : exec (.copyHandover core ctx die dray) s = .next
      ((s.popHead core ctx).handOver core ctx d.tidx words info flag none die dray) := by
  show execCopyHandover core ctx die dray s = _
  simp only [execCopyHandover, hd, hk, hfree]
  rfl

theorem exec_spawnPlace_of_room {t : State} {blk n : Nat} {l0 l1 l2 : Option Word} (hk : d.kind = .spawn blk l0 l1 l2 n)
    (hneeds : s.needsBefore core = false) (hslots : s.slotsUsed core + s.declared ctx ≤ 65536)
    (hthreads : (s.residents core).length < 4096)
    (hcreate : s.createThread core ctx n (s.declared ctx) [l0, l1, l2] (.waiting blk false) = .ok t) :
    exec (.spawnPlace core ctx) s = .next ((t.popHead core ctx).active core ctx) := by
  show execSpawnPlace core ctx s = _
  simp [execSpawnPlace, hd, hk, hneeds, hslots, hthreads, hcreate]

/-! ### Credits (R256) -/

/-- What credits leave of a ring: an active one counts them, up to its slots. -/
def Ring.credited (n : Nat) (r : Ring) : Ring := if r.state = .active then { r with free := min r.slots (r.free + n) } else r

theorem exec_creditApply_of_credit {rid n : Nat} (hk : d.kind = .credit rid n) : exec (.creditApply core ctx) s = .next
    (s.updLane core ctx (fun l => l.popDeferred.updRing rid (Ring.credited n))) := by
  show execCreditApply core ctx s = _
  simp only [execCreditApply, hd, hk]
  rfl

/-- The credit has left its lane, and its ring alone counts it. -/
theorem lane_of_creditApply {l : Lane} (hl : s.lane? core ctx = some l) {rid n : Nat} (hk : d.kind = .credit rid n) :
    ∃ t u, exec (.creditApply core ctx) s = .next t ∧ t.lane? core ctx = some u ∧ u.deferred = l.deferred.drop 1 ∧
      u.rings[rid]? = l.rings[rid]?.map (Ring.credited n) ∧ ∀ j, j ≠ rid → u.rings[j]? = l.rings[j]? := by
  refine ⟨_, l.popDeferred.updRing rid (Ring.credited n), exec_creditApply_of_credit hd hk, ?_, rfl, listSet_same _ _ _,
    fun j hj => listSet_other _ _ hj⟩
  rw [State.lane_updLane_same, hl]
  · rfl
  · exact fun _ => ⟨rfl, rfl⟩

/-! ### The mark of a CFGINV (R423) -/

theorem exec_cfginvMark_of_image {all : Bool} {va n : Nat} {flag : Option Nat} {k : Packet} {t : State}
    (hk : d.kind = .cfginv all va n flag) (hp : (s.ctx? ctx).bind (·.kernelPacket?) = some k)
    (himage : s.refreshImage ctx k all va n = (.ok (), t)) : exec (.cfginvMark core ctx) s = .next
      (((t.popHead core ctx).updLanes ctx (fun l =>
        { l with slots := l.slots.map (CfgSlot.mark (k.marksAll all va n) k.mapBase va n) })).updLane core ctx
          (·.clearFlag d.tidx flag)) := by
  show execCfginvMark core ctx s = _
  simp only [execCfginvMark, hd, hk, hp, himage]

end

/-! ### A read on its way (R57) -/

theorem exec_loadDataReturn_of_pass {s : State} {core ctx tidx idx : Nat} {l : Lane} {p : Pass} {sp : Spot} {o : Outstanding} {i : Instr}
    {f : Fields} (hl : s.lane? core ctx = some l) (hp : l.passes = [p])
    (hsp : s.spot? { core := core, ctx := ctx, pass := p.id, tidx := tidx, idx := idx } = some sp)
    (ho : sp.run.outstanding.find? (fun o => o.idx = idx) = some o) (hi : sp.block.instr? idx = some i) (hf : i.fields? = some f) :
    exec (.loadDataReturn core ctx tidx idx) s = .next
      (s.updRun { core := core, ctx := ctx, pass := p.id, tidx := tidx, idx := idx } (fun r =>
        sendTokens sp.block.occ idx o.gen o.deps (valueDone f o.val) { r with outstanding := r.outstanding.erase o })) := by
  show execLoadDataReturn core ctx tidx idx s = _
  simp only [execLoadDataReturn, hl, hp, List.foldl_cons, List.foldl_nil, hsp, ho, hi, hf]

/-- Settles O38: each event by the lemma of its outcome. -/
theorem deferredEffectsTakeEffect : Obligations.DeferredEffectsTakeEffect := by
  intro core ctx tidx idx s l hl
  refine ⟨fun d hd => ⟨?_, ?_, ?_, ?_, ?_, ?_, ?_, ?_, ?_⟩, ?_, fun _ => rfl⟩
  · exact fun va pa key bytes scope hk => exec_sStorePublish_of_up hd hk
  · exact fun va pa bytes => exec_hostPeerStoreSend_of_store hd
  · exact fun va pa n b => exec_hostPeerStoreSend_of_add hd
  · exact fun va pa key bytes scope hk => exec_sStorePublish_of_down hd hk
  · exact fun words info flag die dray => exec_copyHandover_of_free hd
  · intro rid n r hk hring hactive
    obtain ⟨t, u, hexec, hlane, hdeferred, hsame, hother⟩ := lane_of_creditApply hd hl hk
    refine ⟨t, u, hexec, hlane, hdeferred, ?_, hother⟩
    rw [hsame, hring, Option.map_some, Ring.credited, if_pos hactive]
  · intro rid n r hk hring hidle
    obtain ⟨t, u, hexec, hlane, hdeferred, hsame, hother⟩ := lane_of_creditApply hd hl hk
    refine ⟨t, u, hexec, hlane, hdeferred, fun j => ?_⟩
    by_cases hj : j = rid
    · rw [hj, hsame, hring, Option.map_some, Ring.credited, if_neg hidle]
    · exact hother j hj
  · exact fun blk l0 l1 l2 n t => exec_spawnPlace_of_room hd
  · exact fun all va n flag k t => exec_cfginvMark_of_image hd
  · exact fun p sp o i f hp => exec_loadDataReturn_of_pass hl hp

end Sys2Proof.Machine

/-! The new values of the atomics (spec/07 R210, R211, R214): the integer ones at the width of their type; of the floating ones the exact
sum, and the order of the W words as the order of the values that they hold. -/

namespace Sys2Proof.Machine

/-! ### The integer atomics (R210) -/

theorem low_eq_setWidth (ty : IntTy) (x : Word) : low ty x = (x.setWidth (tyWidth ty)).toNat := (BitVec.toNat_setWidth ..).symm

/-- Writing a word's own value at a type keeps the bits of the type. -/
theorem low_put_val (ty : IntTy) (x : Word) : low ty (put ty (val ty x)) = low ty x := by
  rw [low_eq_setWidth, setWidth_put, ofInt_val, ← low_eq_setWidth]

theorem low_resMin (ty : IntTy) (a b : Word) : low ty (resMin ty a b) = low ty (if val ty a ≤ val ty b then a else b) := by
  rw [resMin, min_def]
  split_ifs <;> exact low_put_val ty _

theorem low_resMax (ty : IntTy) (a b : Word) : low ty (resMax ty a b) = low ty (if val ty b ≤ val ty a then a else b) := by
  rw [resMax, max_comm, max_def]
  split_ifs <;> exact low_put_val ty _

/-- A format of the integer atomics. -/
theorem atomicInt_cases {fmt : Fmt} (h : fmt.atomicInt = true) : fmt = .i32 ∨ fmt = .n32 ∨ fmt = .raw64 := by
  cases fmt <;> simp_all [Fmt.atomicInt]

theorem atomicTy_signed {fmt : Fmt} (h : fmt.atomicInt = true) :
    atomicTy fmt false = if fmt = .i32 then .i32 else if fmt = .n32 then .n32 else .i64 := by
  rcases atomicInt_cases h with rfl | rfl | rfl <;> rfl

theorem atomicTy_unsigned {fmt : Fmt} (h : fmt.atomicInt = true) :
    atomicTy fmt true = if fmt = .i32 then .i32 else if fmt = .n32 then .n32 else .n64 := by
  rcases atomicInt_cases h with rfl | rfl | rfl <;> rfl

/-- The width of a type does not tell RAW64 signed and unsigned apart. -/
theorem low_atomicTy (fmt : Fmt) (nu : Bool) (x : Word) : low (atomicTy fmt nu) x = low (atomicTy fmt false) x := by
  cases fmt <;> cases nu <;> rfl

/-! ### The values that a W word holds (R74-R76) -/

/-- A value that a W word holds as it is: a zero, or a magnitude of the normal range with at most 50 significant bits. -/
def WVal.Fits : WVal → Prop
  | .fin _ m e => m = 0 ∨ ((2 : ℚ) ^ (-4094 : Int) ≤ m * 2 ^ e ∧ m * 2 ^ e ≤ (2 ^ 50 - 1) * (2 : ℚ) ^ (4046 : Int) ∧
      ∃ k j, m = k * 2 ^ j ∧ k < 2 ^ 50)
  | _ => True

/-- A W word that is the finite value q x 2^g of a sign, in the form that orders words as values: 50 bits of significand, or zero. -/
structure IsFinWord (x : Word) (n : Bool) (q : Nat) (g : Int) : Prop where
  toNat_eq : x.toNat = (if n then 2 ^ 63 else 0) + (g + 4144).toNat * 2 ^ 50 + q
  form : (q = 0 ∧ g = -4144) ∨ (2 ^ 49 ≤ q ∧ q < 2 ^ 50 ∧ -4143 ≤ g ∧ g ≤ 4046)

theorem isFinWord_wZero (n : Bool) : IsFinWord (wZero n) n 0 (-4144) := ⟨by cases n <;> rfl, .inl ⟨rfl, rfl⟩⟩

/-- A word that reads as a finite value of 50 bits has its fields. -/
theorem isFinWord_of_wRead {x : Word} {n : Bool} {q : Nat} {g : Int} (h : wRead x = .fin n q g) (hq : 2 ^ 49 ≤ q) : IsFinWord x n q g := by
  have hx := x.isLt
  unfold wRead at h
  dsimp only at h
  split_ifs at h with h1 h2 h0 h4
  · obtain ⟨-, rfl, -⟩ := WVal.fin.inj h
    omega
  · obtain ⟨-, rfl, -⟩ := WVal.fin.inj h
    omega
  · obtain ⟨rfl, rfl, rfl⟩ := WVal.fin.inj h
    simp only [Bool.or_eq_true, decide_eq_true_eq, not_or] at h0
    refine ⟨?_, .inr ⟨hq, by omega, by omega, by omega⟩⟩
    split_ifs with hs
    · simp only [decide_eq_true_eq] at hs
      omega
    · simp only [decide_eq_true_eq] at hs
      omega

theorem IsFinWord.wRead_eq {x : Word} {n : Bool} {q : Nat} {g : Int} (h : IsFinWord x n q g) :
    ∃ e, wRead x = .fin n q e ∧ finValue n q e = finValue n q g := by
  obtain ⟨hx, ⟨rfl, rfl⟩ | ⟨hlow, hhigh, hmin, hmax⟩⟩ := h
  · obtain rfl : x = wZero n := BitVec.eq_of_toNat_eq (hx.trans (isFinWord_wZero n).toNat_eq.symm)
    exact ⟨0, by cases n <;> rfl, by simp⟩
  · obtain rfl : x = wPack n q g := BitVec.eq_of_toNat_eq (hx.trans (wPack_toNat n hhigh hmax).symm)
    exact ⟨g, wRead_wPack n hlow hhigh hmin hmax, rfl⟩

/-- A multiple of a step that lies less than a step above another is that one. -/
theorem eq_of_multiple_within {k q : Nat} {d g : Int} (hk : k < 2 ^ 50) (hq : 2 ^ 49 ≤ q) (hle : (q : ℚ) * 2 ^ g ≤ k * 2 ^ d)
    (hlt : (k : ℚ) * 2 ^ d < q * 2 ^ g + 2 ^ g) : (q : ℚ) * 2 ^ g = k * 2 ^ d := by
  have hg : (0 : ℚ) < 2 ^ g := by positivity
  have hd : (0 : ℚ) < 2 ^ d := by positivity
  have hgd : g ≤ d := by
    have hpow : (2 : ℚ) ^ (49 + g) < 2 ^ (50 + d) := by
      rw [zpow_add₀ two_ne_zero, zpow_add₀ two_ne_zero]
      calc (2 : ℚ) ^ (49 : Int) * 2 ^ g ≤ q * 2 ^ g := by gcongr; exact_mod_cast hq
        _ ≤ k * 2 ^ d := hle
        _ < 2 ^ (50 : Int) * 2 ^ d := by gcongr; exact_mod_cast hk
    have := (zpow_lt_zpow_iff_right₀ one_lt_two).mp hpow
    omega
  have hpow : (2 : ℚ) ^ d = (2 ^ (d - g).toNat : Nat) * 2 ^ g := by
    push_cast
    simpa using two_pow_mul_zpow (show ((0 : Nat) : Int) + d = (d - g).toNat + g by omega)
  rw [hpow, ← mul_assoc] at hle hlt ⊢
  rw [← add_one_mul] at hlt
  have hle' := le_of_mul_le_mul_right hle hg
  have hlt' := lt_of_mul_lt_mul_right hlt hg.le
  have : q = k * 2 ^ (d - g).toNat := Nat.le_antisymm (by exact_mod_cast hle') (Nat.lt_succ_iff.mp (by exact_mod_cast hlt'))
  rw [this]
  push_cast
  rfl

/-- The canonical word of a finite value that W holds is that value. -/
theorem isFinWord_wWrite {n : Bool} {m : Nat} {e : Int} (h : (WVal.fin n m e).Fits) :
    ∃ q g, IsFinWord (wWrite (.fin n m e)) n q g ∧ (q : ℚ) * 2 ^ g = m * 2 ^ e := by
  by_cases hm : m = 0
  · subst hm
    exact ⟨0, _, isFinWord_wZero n, by simp⟩
  · obtain ⟨hmin, hmax, k, j, rfl, hk⟩ := h.resolve_left hm
    obtain ⟨q, g, hread, hlow, -, hround, -⟩ := roundW_normal (mode := .rtz) (u := 0) (neg := n) hmin hmax
    obtain ⟨hle, hlt⟩ := hround (.inl rfl)
    have hpow : ((k * 2 ^ j : Nat) : ℚ) * 2 ^ e = k * 2 ^ ((j : Int) + e) := by
      rw [zpow_add₀ two_ne_zero]
      push_cast
      rw [zpow_natCast, mul_assoc]
    rw [hpow] at hle hlt ⊢
    refine ⟨q, g, isFinWord_of_wRead ?_ hlow, eq_of_multiple_within hk hlow hle hlt⟩
    rw [← hread]
    exact congrArg wRead (if_neg hm)

/-- The range of the magnitudes that are read of W. -/
theorem wRead_fin_range {x : Word} {n : Bool} {m : Nat} {e : Int} (h : wRead x = .fin n m e) (hm : m ≠ 0) :
    m < 2 ^ 50 ∧ e ≤ 4046 ∧ -4093 ≤ (nbits m : Int) + e := by
  unfold wRead at h
  dsimp only at h
  split_ifs at h with h1 h2 h3 h4
  · obtain ⟨-, rfl, -⟩ := WVal.fin.inj h
    exact absurd rfl hm
  · obtain ⟨-, rfl, -⟩ := WVal.fin.inj h
    exact absurd rfl hm
  · obtain ⟨-, rfl, rfl⟩ := WVal.fin.inj h
    omega

/-- What is read of W fits it. -/
theorem wRead_fits (x : Word) : (wRead x).Fits := by
  cases hx : wRead x with
  | nan => trivial
  | inf n => trivial
  | fin n m e =>
    by_cases hm : m = 0
    · exact .inl hm
    obtain ⟨hhigh, he, hlow⟩ := wRead_fin_range hx hm
    have hn : nbits m ≠ 0 := by simp [nbits, hm]
    refine .inr ⟨?_, ?_, m, 0, (mul_one m).symm, hhigh⟩
    · calc (2 : ℚ) ^ (-4094 : Int) ≤ 2 ^ (((nbits m - 1 : Nat) : Int) + e) := zpow_le_zpow_right₀ one_le_two (by omega)
        _ = (2 ^ (nbits m - 1) : Nat) * 2 ^ e := by rw [zpow_add₀ two_ne_zero, zpow_natCast]; push_cast; rfl
        _ ≤ m * 2 ^ e := by gcongr; exact two_pow_le_of_nbits hm
    · have hm' : (m : ℚ) ≤ 2 ^ 50 - 1 := by
        rw [le_sub_iff_add_le]
        exact_mod_cast Nat.succ_le_of_lt hhigh
      exact mul_le_mul hm' (zpow_le_zpow_right₀ one_le_two he) (by positivity) (by norm_num)

/-- A magnitude of 50 significant bits well within the range of W fits it. -/
theorem fits_of_small {n : Bool} {k j : Nat} {e : Int} (hk : k < 2 ^ 50) (hj : j ≤ 1000) (hlow : -1000 ≤ e) (hhigh : e ≤ 0) :
    (WVal.fin n (k * 2 ^ j) e).Fits := by
  by_cases hm : k * 2 ^ j = 0
  · exact .inl hm
  refine .inr ⟨?_, ?_, k, j, rfl, hk⟩
  · calc (2 : ℚ) ^ (-4094 : Int) ≤ 2 ^ e := zpow_le_zpow_right₀ one_le_two (by omega)
      _ ≤ (k * 2 ^ j : Nat) * 2 ^ e := le_mul_of_one_le_left (by positivity) (by exact_mod_cast Nat.one_le_iff_ne_zero.mpr hm)
  · have hk' : (k : ℚ) ≤ 2 ^ 50 - 1 := by
      rw [le_sub_iff_add_le]
      exact_mod_cast Nat.succ_le_of_lt hk
    calc ((k * 2 ^ j : Nat) : ℚ) * 2 ^ e = k * 2 ^ ((j : Int) + e) := by
          rw [zpow_add₀ two_ne_zero, zpow_natCast, ← mul_assoc]; push_cast; rfl
      _ ≤ (2 ^ 50 - 1) * 2 ^ (4046 : Int) :=
        mul_le_mul hk' (zpow_le_zpow_right₀ one_le_two (by omega)) (by positivity) (by norm_num)

/-- W holds every value of the formats of at most 32 bits. -/
theorem ieeeDecode_fits {l : IeeeLayout} (hne : l.ne ≤ 8) (hnm : l.nm ≤ 23) (hlow : 0 ≤ l.bias) (hhigh : l.bias ≤ 127)
    (h1 : 1 ≤ l.bias + l.nm) (bits : Nat) : (ieeeDecode l bits).Fits := by
  unfold ieeeDecode
  dsimp only
  split_ifs
  · trivial
  · trivial
  · trivial
  have hfrac := Nat.mod_lt (bits % 2 ^ (l.ne + l.nm)) (Nat.two_pow_pos l.nm)
  have hpow : 2 ^ l.nm ≤ 2 ^ 23 := Nat.pow_le_pow_right two_pos hnm
  have hexp : bits % 2 ^ (l.ne + l.nm) / 2 ^ l.nm < 2 ^ 8 := by
    refine lt_of_lt_of_le ?_ (Nat.pow_le_pow_right two_pos hne)
    exact Nat.div_lt_of_lt_mul (by rw [← pow_add, add_comm]; exact Nat.mod_lt _ (Nat.two_pow_pos _))
  unfold ieeeUnits
  dsimp only
  split_ifs
  · rw [← mul_one (bits % _ % _), ← pow_zero 2]
    exact fits_of_small (by omega) (by omega) (by omega) (by omega)
  · exact fits_of_small (by omega) (by omega) (by omega) (by omega)

theorem fmtVal_fits {fmt : Fmt} (h : fmt ∈ [.fp32, .fp16, .bf16, .raw64]) (bits : Nat) : (fmtVal fmt bits).Fits := by
  simp only [List.mem_cons, List.not_mem_nil, or_false] at h
  rcases h with rfl | rfl | rfl | rfl
  · exact ieeeDecode_fits (by decide) (by decide) (by decide) (by decide) (by decide) bits
  · exact ieeeDecode_fits (by decide) (by decide) (by decide) (by decide) (by decide) bits
  · exact ieeeDecode_fits (by decide) (by decide) (by decide) (by decide) (by decide) bits
  · exact wRead_fits _

/-! ### The order of W words (R127, R130) -/

/-- The place of a finite word in the order. -/
theorem IsFinWord.wKey_eq {x : Word} {n : Bool} {q : Nat} {g : Int} (h : IsFinWord x n q g) :
    wKey x = if n then -((g + 4144).toNat * 2 ^ 50 + q + 1 : Int) else (g + 4144).toNat * 2 ^ 50 + q := by
  obtain ⟨hx, hform⟩ := h
  unfold wKey
  cases n
  · simp only [Bool.false_eq_true, if_false] at hx ⊢
    rw [if_neg (by omega)]
    omega
  · simp only [if_true] at hx ⊢
    rw [if_pos (by omega)]
    omega

/-- Of two magnitudes in the ordered form the one at the lower place is the lesser. -/
theorem IsFinWord.magnitude_le {x y : Word} {n n' : Bool} {q q' : Nat} {g g' : Int} (h : IsFinWord x n q g) (h' : IsFinWord y n' q' g')
    (hle : (g + 4144).toNat * 2 ^ 50 + q ≤ (g' + 4144).toNat * 2 ^ 50 + q') : (q : ℚ) * 2 ^ g ≤ q' * 2 ^ g' := by
  obtain ⟨-, ⟨rfl, rfl⟩ | ⟨hlow, hhigh, hmin, hmax⟩⟩ := h
  · rw [Nat.cast_zero, zero_mul]
    positivity
  obtain ⟨-, ⟨rfl, rfl⟩ | ⟨hlow', hhigh', hmin', hmax'⟩⟩ := h'
  · omega
  rcases lt_or_eq_of_le (show g ≤ g' by omega) with hlt | rfl
  · calc (q : ℚ) * 2 ^ g ≤ 2 ^ 50 * 2 ^ g := by gcongr; exact_mod_cast hhigh.le
      _ = 2 ^ 49 * 2 ^ (g + 1) := two_pow_mul_zpow (by omega)
      _ ≤ q' * 2 ^ g' := by
        gcongr
        · exact_mod_cast hlow'
        · norm_num
        · omega
  · gcongr
    omega

theorem finValue_eq (n : Bool) (m : Nat) (e : Int) : finValue n m e = if n then -(m * 2 ^ e : ℚ) else m * 2 ^ e := by
  cases n <;> simp [finValue]

/-- Finite words are ordered as their values. -/
theorem IsFinWord.value_le {x y : Word} {n n' : Bool} {q q' : Nat} {g g' : Int} (h : IsFinWord x n q g) (h' : IsFinWord y n' q' g')
    (hle : wKey x ≤ wKey y) : finValue n q g ≤ finValue n' q' g' := by
  have hx : (0 : ℚ) ≤ q * 2 ^ g := by positivity
  have hy : (0 : ℚ) ≤ q' * 2 ^ g' := by positivity
  rw [h.wKey_eq, h'.wKey_eq] at hle
  rw [finValue_eq, finValue_eq]
  cases n <;> cases n' <;> simp only [Bool.false_eq_true, if_true, if_false] at hle ⊢
  · exact h.magnitude_le h' (by omega)
  · omega
  · linarith
  · exact neg_le_neg (h'.magnitude_le h (by omega))

/-- The words other than NaN lie between the infinities. -/
theorem wKey_wWrite_bounds {v : WVal} (h : v.Fits) (hn : v ≠ .nan) :
    wKey (wInf true) ≤ wKey (wWrite v) ∧ wKey (wWrite v) ≤ wKey (wInf false) := by
  have hneg : wKey (wInf true) = -(2 ^ 63 - 2 ^ 50 + 1) := by decide
  have hpos : wKey (wInf false) = 2 ^ 63 - 2 ^ 50 := by decide
  cases v with
  | nan => exact absurd rfl hn
  | inf n => cases n <;> simp [wWrite, hneg, hpos]
  | fin n m e =>
    obtain ⟨q, g, hw, -⟩ := isFinWord_wWrite h
    have hform := hw.form
    rw [hw.wKey_eq, hneg, hpos]
    split <;> omega

theorem wKey_injective {a b : Word} (h : wKey a = wKey b) : a = b := by
  have ha := a.isLt
  have hb := b.isLt
  refine BitVec.eq_of_toNat_eq ?_
  unfold wKey at h
  split_ifs at h <;> omega

/-- A word stands before another, or at its place, in the direction of AFMIN or of AFMAX. -/
def wBefore (least : Bool) (a b : Word) : Prop := if least then wKey a ≤ wKey b else wKey b ≤ wKey a

theorem wBefore_total (least : Bool) (a b : Word) : wBefore least a b ∨ wBefore least b a := by
  cases least
  · exact le_total (wKey b) (wKey a)
  · exact le_total (wKey a) (wKey b)

theorem wPick_eq_left {least : Bool} {a b : Word} (h : wBefore least a b) : wPick least a b = a := by
  cases least
  · exact if_neg (not_lt.mpr h)
  · exact if_neg (not_lt.mpr h)

theorem wPick_eq_right {least : Bool} {a b : Word} (h : wBefore least b a) : wPick least a b = b := by
  cases least
  · rcases lt_or_eq_of_le (show wKey a ≤ wKey b from h) with hlt | heq
    · exact if_pos hlt
    · exact (wPick_eq_left (least := false) heq.ge).trans (wKey_injective heq)
  · rcases lt_or_eq_of_le (show wKey b ≤ wKey a from h) with hlt | heq
    · exact if_pos hlt
    · exact (wPick_eq_left (least := true) heq.ge).trans (wKey_injective heq.symm)

/-! ### AFMIN and AFMAX (R211) -/

section
variable {least : Bool} {x y : WVal}

theorem resFminmax_nan_left : resFminmax least false .nan y = wWrite y := by
  cases y with
  | nan => rfl
  | inf n => simp [resFminmax]
  | fin n m e => simp [resFminmax]

theorem resFminmax_nan_right : resFminmax least false x .nan = wWrite x := by
  cases x with
  | nan => rfl
  | inf n => simp [resFminmax]
  | fin n m e => simp [resFminmax]

theorem resFminmax_pick (hx : x ≠ .nan) (hy : y ≠ .nan) : resFminmax least false x y = wPick least (wWrite x) (wWrite y) := by
  cases x with
  | nan => contradiction
  | inf n => cases y with
    | nan => contradiction
    | inf n' => rfl
    | fin n' m e => rfl
  | fin n m e => cases y with
    | nan => contradiction
    | inf n' => rfl
    | fin n' m' e' => rfl

/-- The infinity on the near side stands before every other value, that on the far side behind. -/
theorem wBefore_inf (h : y.Fits) (hn : y ≠ .nan) :
    wBefore least (wInf least) (wWrite y) ∧ wBefore least (wWrite y) (wInf (!least)) := by
  cases least
  · exact (wKey_wWrite_bounds h hn).symm
  · exact wKey_wWrite_bounds h hn

/-- The infinity on the far side yields to the other value. -/
theorem resFminmax_far_left (hn : y ≠ .nan) (h : y.Fits) : resFminmax least false (.inf (!least)) y = wWrite y :=
  (resFminmax_pick (by simp) hn).trans (wPick_eq_right (wBefore_inf h hn).2)

theorem resFminmax_far_right (hn : x ≠ .nan) (h : x.Fits) : resFminmax least false x (.inf (!least)) = wWrite x :=
  (resFminmax_pick hn (by simp)).trans (wPick_eq_left (wBefore_inf h hn).2)

/-- The infinity on the near side is the result. -/
theorem resFminmax_near_left (hn : y ≠ .nan) (h : y.Fits) : resFminmax least false (.inf least) y = wInf least :=
  (resFminmax_pick (by simp) hn).trans (wPick_eq_left (wBefore_inf h hn).1)

theorem resFminmax_near_right (hn : x ≠ .nan) (h : x.Fits) : resFminmax least false x (.inf least) = wInf least :=
  (resFminmax_pick hn (by simp)).trans (wPick_eq_right (wBefore_inf h hn).1)

theorem wRead_wInf (n : Bool) : wRead (wInf n) = .inf n := by cases n <;> rfl

/-- Of two zeros the negative one is the lesser. -/
theorem wPick_zeros (xn yn : Bool) : wPick least (wZero xn) (wZero yn) = wZero (if least then xn || yn else xn && yn) := by
  cases least <;> cases xn <;> cases yn <;> rfl

/-- The lesser or the greater of two numbers. -/
def extremum (least : Bool) (a b : ℚ) : ℚ := if least then min a b else max a b

theorem extremum_eq_left {a b : ℚ} (h : if least then a ≤ b else b ≤ a) : extremum least a b = a := by
  cases least
  · exact max_eq_left h
  · exact min_eq_left h

theorem extremum_eq_right {a b : ℚ} (h : if least then b ≤ a else a ≤ b) : extremum least a b = b := by
  cases least
  · exact max_eq_right h
  · exact min_eq_right h

/-- Of finite values the one that stands first is the lesser or the greater number. -/
theorem IsFinWord.value_before {v w : Word} {n n' : Bool} {q q' : Nat} {g g' : Int} (h : IsFinWord v n q g) (h' : IsFinWord w n' q' g')
    (hb : wBefore least v w) :
    if least then finValue n q g ≤ finValue n' q' g' else finValue n' q' g' ≤ finValue n q g := by
  cases least
  · exact h'.value_le h hb
  · exact h.value_le h' hb

/-- Of two finite values AFMIN takes the lesser and AFMAX the greater; of zeros by their signs. -/
theorem resFminmax_fin {xn yn : Bool} {xm ym : Nat} {xe ye : Int} (hx : (WVal.fin xn xm xe).Fits) (hy : (WVal.fin yn ym ye).Fits) :
    ∃ n k e, wRead (resFminmax least false (.fin xn xm xe) (.fin yn ym ye)) = .fin n k e ∧
      finValue n k e = extremum least (finValue xn xm xe) (finValue yn ym ye) ∧
      (xm = 0 → ym = 0 → n = if least then xn || yn else xn && yn) := by
  rw [resFminmax_pick (by simp) (by simp)]
  by_cases h0 : xm = 0 ∧ ym = 0
  · obtain ⟨rfl, rfl⟩ := h0
    refine ⟨if least then xn || yn else xn && yn, 0, 0, ?_, by cases least <;> simp [extremum], fun _ _ => rfl⟩
    refine (congrArg wRead (wPick_zeros xn yn)).trans ?_
    generalize (if least then xn || yn else xn && yn) = n
    cases n <;> rfl
  · obtain ⟨q, g, hxw, hxv⟩ := isFinWord_wWrite hx
    obtain ⟨q', g', hyw, hyv⟩ := isFinWord_wWrite hy
    have hvx : finValue xn q g = finValue xn xm xe := by rw [finValue_eq, finValue_eq, hxv]
    have hvy : finValue yn q' g' = finValue yn ym ye := by rw [finValue_eq, finValue_eq, hyv]
    obtain ⟨e, hxr, hxe⟩ := hxw.wRead_eq
    obtain ⟨e', hyr, hye⟩ := hyw.wRead_eq
    rcases wBefore_total least (wWrite (.fin xn xm xe)) (wWrite (.fin yn ym ye)) with hb | hb
    · refine ⟨xn, q, e, by rw [wPick_eq_left hb, hxr], ?_, fun hxm hym => absurd ⟨hxm, hym⟩ h0⟩
      rw [hxe, ← hvx, ← hvy, extremum_eq_left (hxw.value_before hyw hb)]
    · refine ⟨yn, q', e', by rw [wPick_eq_right hb, hyr], ?_, fun hxm hym => absurd ⟨hxm, hym⟩ h0⟩
      rw [hye, ← hvx, ← hvy, extremum_eq_right (hyw.value_before hxw hb)]

end

/-! ### AFADD (R211) -/

/-- The sum of finite values is exact; a zero sum has a sign of its own (R78). -/
theorem wExactAdd_fin (rm : RMode) (xn yn : Bool) (xm ym : Nat) (xe ye : Int) :
    ∃ n k e, wExactAdd rm (.fin xn xm xe) (.fin yn ym ye) = .fin n k e ∧ finValue n k e = finValue xn xm xe + finValue yn ym ye ∧
      (k = 0 → n = if xm = 0 ∧ ym = 0 ∧ xn = yn then xn else decide (rm = .rdn)) := by
  have hsum := exactSum_eq xn yn xm ym xe ye
  unfold wExactAdd
  by_cases h0 : xm = 0 ∧ ym = 0
  · obtain ⟨rfl, rfl⟩ := h0
    exact ⟨_, 0, 0, rfl, by simp, by simp⟩
  · have hadd : (decide (xm = 0) && decide (ym = 0)) = false := by simpa using h0
    simp only [hadd, Bool.false_eq_true, if_false, ← hsum]
    generalize exactSum xn xm xe yn ym ye = z
    by_cases hz : z.1 = 0
    · exact ⟨decide (rm = .rdn), 0, 0, by simp [hz], by simp [hz], by simp [← and_assoc, h0]⟩
    · exact ⟨_, _, z.2, if_neg hz, finValue_natAbs z.1 z.2, fun h => absurd (Int.natAbs_eq_zero.mp h) hz⟩

theorem wExactAdd_nan {rm : RMode} {x y : WVal} (h : x = .nan ∨ y = .nan ∨ ∃ n, x = .inf n ∧ y = .inf (!n)) :
    wExactAdd rm x y = .nan := by
  rcases h with rfl | rfl | ⟨n, rfl, rfl⟩
  · rfl
  · cases x <;> rfl
  · cases n <;> rfl

theorem wExactAdd_inf_left {rm : RMode} {y : WVal} {n : Bool} (hn : y ≠ .nan) (hopp : y ≠ .inf (!n)) :
    wExactAdd rm (.inf n) y = .inf n := by
  cases y with
  | nan => contradiction
  | inf n' =>
    have hsame : n = n' := by cases n <;> cases n' <;> simp_all
    subst hsame
    simp [wExactAdd]
  | fin => rfl

theorem wExactAdd_inf_right {rm : RMode} {x : WVal} {n : Bool} (hn : x ≠ .nan) (hopp : x ≠ .inf (!n)) :
    wExactAdd rm x (.inf n) = .inf n := by
  cases x with
  | nan => contradiction
  | inf n' =>
    have hsame : n = n' := by cases n <;> cases n' <;> simp_all
    subst hsame
    simp [wExactAdd]
  | fin => rfl

/-- Settles O27: the integer atomics at their types; of the floating ones the sum is exact, and the order of the W words is that of
their values. -/
theorem atomicNewValues : Obligations.AtomicNewValues := by
  intro f m rm u old b c fmt new
  refine ⟨fun hfmt => ?_, fun hfmt => ?_⟩
  · intro ty un w
    have hty : atomicTy fmt false = ty := atomicTy_signed hfmt
    have hun : atomicTy fmt true = un := atomicTy_unsigned hfmt
    clear_value ty un
    subst hty hun
    have hlow : ∀ nu v, low (atomicTy fmt nu) v = low (atomicTy fmt false) v := low_atomicTy fmt
    refine ⟨rfl, low_resMin _ w b, low_resMax _ w b, rfl, rfl, rfl, rfl, rfl, ?_, ?_,
      fun nu => ⟨hlow nu _, hlow nu _, hlow nu _, hlow nu _⟩, rfl, rfl, low_resMin _ w b, low_resMax _ w b⟩
    · simp only [new, atomicNew, atomicFn, hlow true, w]
    · simp only [new, atomicNew, atomicFn, hlow true, Bool.or_eq_true, decide_eq_true_eq, w]
  · intro x y canon enc real
    have hx : x.Fits := fmtVal_fits hfmt old
    have hy : y.Fits := wRead_fits b
    refine ⟨fun xn xm xe yn ym ye hxf hyf => ?_, fun h => congrArg enc (wExactAdd_nan h), fun n h => congrArg enc ?_,
      fun least i hi => ?_, fun nu => ⟨rfl, rfl, rfl⟩⟩
    · obtain ⟨n, k, e, hsum, hvalue, hsign⟩ := wExactAdd_fin rm xn yn xm ym xe ye
      exact ⟨n, k, e, congrArg enc ((congrArg₂ (wExactAdd rm) hxf hyf).trans hsum), hvalue, hsign⟩
    · change wExactAdd rm x y = .inf n
      rcases h with ⟨hxi, hn, hopp⟩ | ⟨hyi, hn, hopp⟩
      · rw [hxi, wExactAdd_inf_left hn hopp]
      · rw [hyi, wExactAdd_inf_right hn hopp]
    · have hnew : new i = enc (wRead (resFminmax least false x y)) := by
        simp only [List.mem_cons, Prod.mk.injEq, List.not_mem_nil, or_false] at hi
        rcases hi with ⟨rfl, rfl⟩ | ⟨rfl, rfl⟩ <;> rfl
      rw [hnew]
      refine ⟨fun h => congrArg (enc <| wRead ·) ?_, fun h => congrArg (enc <| wRead ·) ?_, fun h hxn hyn => congrArg enc ?_,
        fun xn xm xe yn ym ye hxf hyf => ?_⟩
      · rcases h with hxn | ⟨hxi, hyn⟩
        · rw [hxn, resFminmax_nan_left]
        · rw [hxi, resFminmax_far_left hyn hy]
      · rcases h with hyn | ⟨hyi, hxn⟩
        · rw [hyn, resFminmax_nan_right]
        · rw [hyi, resFminmax_far_right hxn hx]
      · rw [← wRead_wInf]
        rcases h with hxi | hyi
        · rw [hxi, resFminmax_near_left hyn hy]
        · rw [hyi, resFminmax_near_right hxn hx]
      · rw [hxf] at hx ⊢
        rw [hyf] at hy ⊢
        obtain ⟨n, k, e, hread, hvalue, hsign⟩ := resFminmax_fin (least := least) hx hy
        exact ⟨n, k, e, congrArg enc hread, hvalue, hsign⟩

end Sys2Proof.Machine

/-! Memory accesses (spec/07 R196-R199, R201, R208, R219): what an address comes to, what a read finds there, and one lemma per outcome
of LD, WAITA, ST and the atomics. -/

namespace Sys2Proof.Machine

/-! ### Addresses of classes G and S (R197, R198, R242) -/

section
variable {s t : State} {core ctx : Nat} {cls : MemClass} {ea align : Nat} {k : AccKind}

/-- Classes G and S are addressed alike. -/
theorem address_of_outer (hc : cls ≠ .p) : s.address core ctx cls ea align k = s.address core ctx .g ea align k := by
  cases cls with
  | p => contradiction
  | g => rfl
  | s => rfl

theorem address_beyond (hc : cls ≠ .p) (h2 : 2 ^ 57 ≤ ea) : s.address core ctx cls ea align k =
    (.bad (if ea % align = 0 then memCause k reasonBounds else memCause k reasonMisaligned), s) := by
  rw [address_of_outer hc]
  by_cases h1 : ea % align = 0 <;> simp [State.address, h1, show 144115188075855872 ≤ ea from h2]

theorem address_bad {c : Nat} (hc : cls ≠ .p) (h2 : ea < 2 ^ 57) (ht : translate s ctx ea k = (.bad c, t)) :
    s.address core ctx cls ea align k = (.bad (if ea % align ≠ 0 ∧ causeRank (memCause k reasonMisaligned) < causeRank c
      then memCause k reasonMisaligned else c), t) := by
  rw [address_of_outer hc]
  simp only [State.address, if_neg h2.not_ge, ht, Bool.and_eq_true, decide_eq_true_eq]
  split_ifs <;> rfl

/-- Misalignment comes before what a translation without a cause finds. -/
theorem address_misaligned {a : Trans} (hc : cls ≠ .p) (h1 : ea % align ≠ 0) (h2 : ea < 2 ^ 57) (ht : translate s ctx ea k = (a, t))
    (ha : ∀ c, a ≠ .bad c) : s.address core ctx cls ea align k = (.bad (memCause k reasonMisaligned), t) := by
  have hin : ¬144115188075855872 ≤ ea := h2.not_ge
  rw [address_of_outer hc]
  cases a with
  | bad c => exact absurd rfl (ha c)
  | mot pa big => simp [State.address, hin, ht, h1]
  | ok pa key ty => cases ty <;> simp [State.address, hin, ht, h1]

theorem address_locked {pa key : Nat} (hc : cls ≠ .p) (h1 : ea % align = 0) (h2 : ea < 2 ^ 57)
    (ht : translate s ctx ea k = (.ok pa key .device, t)) (hl : t.lockedFor pa (k ≠ .load) = true) :
    s.address core ctx cls ea align k = (.bad (memCause k reasonLocked), t) := by
  rw [address_device hc h1 h2 ht, if_pos hl]

theorem address_found {pa key : Nat} (hc : cls ≠ .p) (h1 : ea % align = 0) (h2 : ea < 2 ^ 57)
    (ht : translate s ctx ea k = (.ok pa key .device, t)) (hl : t.lockedFor pa (k ≠ .load) = false) :
    s.address core ctx cls ea align k = (.device pa key, t) := by
  rw [address_device hc h1 h2 ht, hl]
  rfl

theorem address_mot {pa : Nat} {big : Bool} (hc : cls ≠ .p) (h1 : ea % align = 0) (h2 : ea < 2 ^ 57)
    (ht : translate s ctx ea k = (.mot pa big, t)) : s.address core ctx cls ea align k =
      (.park (t.requestMigration ctx ea pa big).1, (t.requestMigration ctx ea pa big).2) := by
  have hin : ¬144115188075855872 ≤ ea := h2.not_ge
  rw [address_of_outer hc]
  simp [State.address, hin, ht, h1]

end

/-- Classes G and S wait for no bank. -/
theorem scratchWaits_outer {cls : MemClass} (hc : cls ≠ .p) (x : Site) (ea : Nat) : x.scratchWaits cls ea = false := by
  simp [Site.scratchWaits, hc]

/-! ### The siding (R283) -/

theorem State.inSiding_fixed (s : State) (ctx va : Nat) : s.fixed.inSiding ctx va = s.inSiding ctx va := by
  simp only [State.inSiding, State.fixed, List.any_map]
  rfl

theorem State.inSiding_of_fixed {s t : State} (h : t.fixed = s.fixed) (ctx va : Nat) : t.inSiding ctx va = s.inSiding ctx va := by
  rw [← t.inSiding_fixed, h, s.inSiding_fixed]

theorem State.inSiding_iff (s : State) (ctx va : Nat) : s.inSiding ctx va = true ↔
    (∃ l ∈ s.lanes, l.ctx = ctx ∧ l.regs.sidebase ≤ va ∧ va < l.regs.sidebase + l.regs.sidelen * 65536) ∧
      ∃ l ∈ s.lanes, l.ctx = ctx ∧ l.threads ≠ [] := by
  simp [State.inSiding, and_assoc]

/-- What is read of the siding, up to a word: bytes of one unspecified value. -/
theorem unspecified_word (s : State) (ctx : Nat) {bs : List Byte} (h : bs.length ≤ 8) : ∃ w : Word, (w = 0 ∨ w ∈ s.livePool ctx) ∧
    s.unspecified true ctx bs = ((leBytes 8 w.toNat).take bs.length, { s with freeCtr := s.freeCtr + (bs.length + 7) / 8 }) := by
  refine ⟨liveWord (s.livePool ctx) s.freeCtr, liveWord_eq_zero_or_mem _ _, ?_⟩
  rcases Nat.eq_zero_or_pos bs.length with h0 | hpos
  · simp [State.unspecified, h0]
  · have h1 : (bs.length + 7) / 8 = 1 := by omega
    simp [State.unspecified, h1, liveWords]

/-! ### What a read finds (R171, R190, R201, R236) -/

theorem loadBytes_mem (s : State) (l : Lane) (p : Pass) (tidx : Nat) (deps : List Nat) (sp : Space) (addr n : Nat) :
    (loadBytes s l p tidx deps sp addr n).2.mem = s.mem := by
  obtain ⟨ctr, h⟩ := loadBytes_state s l p tidx deps sp addr n
  rw [h]

section
variable {s t v : State} {x : Site} {cls : MemClass} {cp : CachePol} {ea n align addr pa key va c m : Nat} {k : AccKind} {sp : Space}
  {look : List Host.Cell}

/-- A chunked read of the bytes that its sight gives: no block fails and no commit is waited for. -/
theorem chunkRead_found
    (hf : sp = .device → x.spot.pass.holds x.spot.lane x.at_.tidx x.deps sp addr n = true ∨ s.readFault addr key k = none)
    (hsolo : s.soloWaits x (lineKey x.at_.core sp addr) = false) (hs : s.sightOf x sp addr n cp = (look, v)) :
    s.chunkRead x sp cp addr n key va k =
      .got (({ (loadBytes { v with mem := look } x.spot.lane x.spot.pass x.at_.tidx x.deps sp addr n).2 with mem := v.mem } : State).access
        x sp addr n key va .load) (loadBytes { v with mem := look } x.spot.lane x.spot.pass x.at_.tidx x.deps sp addr n).1 addr
        [x.nextId] := by
  cases sp with
  | scratch => simp only [State.chunkRead, hsolo, hs]; rfl
  | device => rcases hf rfl with h | h <;> simp [State.chunkRead, h, hsolo, hs]

theorem chunkRead_waits
    (hf : sp = .device → x.spot.pass.holds x.spot.lane x.at_.tidx x.deps sp addr n = true ∨ s.readFault addr key k = none)
    (hsolo : s.soloWaits x (lineKey x.at_.core sp addr) = true) : s.chunkRead x sp cp addr n key va k = .wait := by
  cases sp with
  | scratch => simp only [State.chunkRead, hsolo]; rfl
  | device => rcases hf rfl with h | h <;> simp [State.chunkRead, h, hsolo]

theorem chunkRead_fault (hh : x.spot.pass.holds x.spot.lane x.at_.tidx x.deps .device addr n = false)
    (hf : s.readFault addr key k = some c) : s.chunkRead x .device cp addr n key va k = .bad s c := by
  simp [State.chunkRead, hh, hf]

/-- A chunked read of the scratchpad reads what stands there. -/
theorem chunkRead_scratch_found (hsolo : s.soloWaits x (lineKey x.at_.core .scratch addr) = false) :
    s.chunkRead x .scratch cp addr n key va k =
      .got ((loadBytes s x.spot.lane x.spot.pass x.at_.tidx x.deps .scratch addr n).2.access x .scratch addr n key va .load)
        (loadBytes s x.spot.lane x.spot.pass x.at_.tidx x.deps .scratch addr n).1 addr [x.nextId] := by
  rw [chunkRead_found (by simp) hsolo rfl]
  have hmem := loadBytes_mem s x.spot.lane x.spot.pass x.at_.tidx x.deps .scratch addr n
  generalize loadBytes s x.spot.lane x.spot.pass x.at_.tidx x.deps .scratch addr n = found at hmem ⊢
  rw [← hmem]

/-- The bytes of a device page that a load takes of the memory it sees, when its own pass has written none of them (R169). -/
def Site.bytesSeen (x : Site) (s : State) (look : List Host.Cell) (pa n : Nat) : List Byte :=
  (List.range n).map (fun k => ({ s with mem := look } : State).prePassByte x.spot.lane x.spot.pass.id .device (pa + k))

/-- The bytes seen are those of memory, with the earlier passes' writes, whatever else the state holds. -/
theorem Site.bytesSeen_congr (x : Site) (s t : State) (look : List Host.Cell) (pa n : Nat) :
    x.bytesSeen s look pa n = x.bytesSeen t look pa n := rfl

/-- With no earlier pass in flight they are those of memory. -/
theorem Site.bytesSeen_committed {x : Site} (h : x.spot.lane.earlier x.spot.pass.id = []) (s : State) (look : List Host.Cell) (pa n : Nat) :
    x.bytesSeen s look pa n = Memory.readBytes look pa n := by
  simp [Site.bytesSeen, State.prePassByte, h, readBytes_range, State.committedByte, State.byteAt]

theorem streamBytes_of_sight (hs : s.sight x.at_.core (pa / 64) true cp = (look, v)) :
    s.streamBytes x pa n cp = (x.bytesSeen s look pa n, v) := by
  simp only [State.streamBytes, hs]
  rfl

/-! ### What a read finds at each kind of address -/

variable (hw : x.scratchWaits cls ea = false)
include hw

theorem readAt_of_bad (ha : s.address x.at_.core x.at_.ctx cls ea align k = (.bad c, t)) : s.readAt x cls cp ea n align k = .bad t c := by
  simp [State.readAt, hw, ha]

theorem readAt_of_park (ha : s.address x.at_.core x.at_.ctx cls ea align k = (.park m, t)) :
    s.readAt x cls cp ea n align k = .park t m := by
  simp [State.readAt, hw, ha]

theorem readAt_of_scratch (ha : s.address x.at_.core x.at_.ctx cls ea align k = (.scratch addr, t)) :
    s.readAt x cls cp ea n align k = t.chunkRead x .scratch cp addr n 0 ea k := by
  simp [State.readAt, hw, ha]

theorem readAt_of_outside (ha : s.address x.at_.core x.at_.ctx cls ea align k = (.outside pa, t)) :
    s.readAt x cls cp ea n align k = (Found.got (t.noteSent x.at_.ctx pa n false)
      (Memory.readBytes (t.seenMem x.at_.core t.mem) pa n) pa []).unspecified (s.inSiding x.at_.ctx ea) x.at_.ctx := by
  simp [State.readAt, hw, ha]

theorem readAt_of_stream_fault (hc : cls = .s) (ha : s.address x.at_.core x.at_.ctx cls ea align k = (.device pa key, t))
    (hf : t.readFault pa key k = some c) : s.readAt x cls cp ea n align k = .bad t c := by
  subst hc
  simp [State.readAt, hw, ha, hf]

theorem readAt_of_stream (hc : cls = .s) (ha : s.address x.at_.core x.at_.ctx cls ea align k = (.device pa key, t))
    (hf : t.readFault pa key k = none) : s.readAt x cls cp ea n align k =
      (Found.got (t.streamBytes x pa n cp).2 (t.streamBytes x pa n cp).1 pa []).unspecified (s.inSiding x.at_.ctx ea) x.at_.ctx := by
  subst hc
  simp [State.readAt, hw, ha, hf]

theorem readAt_of_chunk (hc : cls ≠ .s) (ha : s.address x.at_.core x.at_.ctx cls ea align k = (.device pa key, t)) :
    s.readAt x cls cp ea n align k =
      (t.chunkRead x .device cp pa n key ea k).unspecified (s.inSiding x.at_.ctx ea) x.at_.ctx := by
  simp [State.readAt, hw, ha, hc]

/-- An S read takes what its core sees of the line. -/
theorem readAt_of_stream_sight (hc : cls = .s) (ha : s.address x.at_.core x.at_.ctx cls ea align k = (.device pa key, t))
    (hf : t.readFault pa key k = none) (hs : t.sight x.at_.core (pa / 64) true cp = (look, v)) : s.readAt x cls cp ea n align k =
      (Found.got v (x.bytesSeen s look pa n) pa []).unspecified (s.inSiding x.at_.ctx ea) x.at_.ctx := by
  rw [readAt_of_stream hw hc ha hf, streamBytes_of_sight hs, x.bytesSeen_congr t s]

/-- A chunked read of a pass that reads committed memory alone takes what its core sees of the line. -/
theorem readAt_of_chunk_sight (hc : cls ≠ .s) (ha : s.address x.at_.core x.at_.ctx cls ea align k = (.device pa key, t))
    (hrc : ReadsCommitted x.spot) (hn : n ≠ 0) (hf : t.readFault pa key k = none)
    (hs : t.sight x.at_.core (pa / 64) false cp = (look, v)) : s.readAt x cls cp ea n align k =
      (Found.got (v.access x .device pa n key ea .load) (x.bytesSeen s look pa n) pa [x.nextId]).unspecified
        (s.inSiding x.at_.ctx ea) x.at_.ctx := by
  rw [readAt_of_chunk hw hc ha, chunkRead_sight hrc hn hf hs, Site.bytesSeen_committed hrc.2.1]

/-- A read fails where the block of its bytes does, unless its pass holds them. -/
theorem readAt_of_fault (ha : s.address x.at_.core x.at_.ctx cls ea align k = (.device pa key, t))
    (hh : cls = .s ∨ x.spot.pass.holds x.spot.lane x.at_.tidx x.deps .device pa n = false) (hf : t.readFault pa key k = some c) :
    s.readAt x cls cp ea n align k = .bad t c := by
  by_cases hc : cls = .s
  · exact readAt_of_stream_fault hw hc ha hf
  · rw [readAt_of_chunk hw hc ha, chunkRead_fault (hh.resolve_left hc) hf, found_unspecified_bad]

end

/-! ### LD, one lemma per outcome (R196, R201) -/

section
variable {s t : State} {f : Fields} {m : MemOps} {p : Spot} {toks : List Token} {r : Run} {ea n : Nat} (hr : Ready s f p toks r)
  (hea : effAddr (siteOf s p toks).a m.disp = ea) (hn : fmtBytes m.fmt = n)
include hr hea hn

theorem exec_ld_of_wait (hread : (s.took r).readAt (siteOf s p toks) m.cls m.cp ea n n .load = .wait) :
    exec (.ld f m) s = .next s :=
  congrArg _ (fire_wait hr (by simp only [hea, hn, hread]; rfl))

theorem exec_ld_of_bad {cause : Nat} (hread : (s.took r).readAt (siteOf s p toks) m.cls m.cp ea n n .load = .bad t cause) :
    exec (.ld f m) s = .next (t.trapping s p toks (Fields.both f) cause (some ea)) :=
  congrArg _ (fire_bad hr (by simp only [hea, hn, hread]; rfl))

theorem exec_ld_of_park {mig : Nat} (hread : (s.took r).readAt (siteOf s p toks) m.cls m.cp ea n n .load = .park t mig) :
    exec (.ld f m) s = .next ((t.updRun s.cur (fun r => { r with migPark := some (mig, AccKind.load.code, ea) })).sending s p toks []
      (toAll (Fields.both f) none)) :=
  congrArg _ (fire_ok hr (by simp only [hea, hn, hread]; rfl))

theorem exec_ld_of_got {bytes : List Byte} {pa : Nat} {ids : List Nat}
    (hread : (s.took r).readAt (siteOf s p toks) m.cls m.cp ea n n .load = .got t bytes pa ids) :
    exec (.ld f m) s = .next ((t.awaitReturn (siteOf s p toks) (fmtDecode m.fmt (leNat bytes)) ((siteOf s p toks).deps ++ ids).dedup
      .load pa ea).sending s p toks [] []) :=
  congrArg _ (fire_ok hr (by simp only [hea, hn, hread]; rfl))

end

end Sys2Proof.Machine

/-! Loads (spec/07 R196-R199, R201; spec/06 R169, R171, R172): the byte that a load takes among the writes before it, and LD of every
class. -/

namespace Sys2Proof.Machine

/-! ### The write that stands (R172) -/

/-- One write stands behind another of its thread: at a higher index, or a later firing at the same one. -/
def ByteWrite.Below (v w : ByteWrite) : Prop := v.idx < w.idx ∨ (v.idx = w.idx ∧ v.id < w.id)

theorem highestWrite_mem {ws : List ByteWrite} {w : ByteWrite} (h : highestWrite ws = some w) : w ∈ ws := by
  induction ws with
  | nil => cases h
  | cons u us ih =>
    unfold highestWrite at h
    split at h
    · cases h
      exact List.mem_cons_self
    · next v hv =>
      split at h
      · cases h
        exact List.mem_cons_self
      · cases h
        exact List.mem_cons_of_mem u (ih hv)

/-- The write above all others is the highest. -/
theorem highestWrite_eq_some {ws : List ByteWrite} {w : ByteWrite} (hw : w ∈ ws) (htop : ∀ v ∈ ws, v ≠ w → v.Below w) :
    highestWrite ws = some w := by
  induction ws with
  | nil => cases hw
  | cons u us ih =>
    have hstep : ∀ {v : ByteWrite}, highestWrite us = some v →
        highestWrite (u :: us) = if v.idx < u.idx ∨ (v.idx = u.idx ∧ v.id < u.id) then some u else some v := by
      intro v hv
      simp [highestWrite, hv]
    by_cases hu : u = w
    · subst hu
      cases hus : highestWrite us with
      | none => simp [highestWrite, hus]
      | some v =>
        rw [hstep hus]
        by_cases hv : v = u
        · rw [hv, ite_self]
        · exact if_pos (htop v (List.mem_cons_of_mem u (highestWrite_mem hus)) hv)
    · have hbelow := htop u List.mem_cons_self hu
      have hmem : w ∈ us := (List.mem_cons.mp hw).resolve_left (Ne.symm hu)
      rw [hstep (ih hmem (fun v hv => htop v (List.mem_cons_of_mem u hv)))]
      exact if_neg (by unfold ByteWrite.Below at hbelow; omega)

theorem mem_latestWrites {ws : List ByteWrite} {w : ByteWrite} : w ∈ latestWrites ws ↔ w ∈ ws ∧ ∀ v ∈ ws, w.id ∉ v.before := by
  simp [latestWrites]

theorem le_foldl_max_tidx (ws : List ByteWrite) (n : Nat) : n ≤ ws.foldl (fun n v => max n v.tidx) n := by
  induction ws generalizing n with
  | nil => exact le_rfl
  | cons u us ih => exact (le_max_left n u.tidx).trans (ih _)

theorem foldl_max_tidx_le {ws : List ByteWrite} {n k : Nat} (hn : n ≤ k) (h : ∀ v ∈ ws, v.tidx ≤ k) :
    ws.foldl (fun n v => max n v.tidx) n ≤ k := by
  induction ws generalizing n with
  | nil => exact hn
  | cons u us ih => exact ih (max_le hn (h u List.mem_cons_self)) (fun v hv => h v (List.mem_cons_of_mem u hv))

/-- The highest thread among writes. -/
theorem foldl_max_tidx {ws : List ByteWrite} {w : ByteWrite} (hw : w ∈ ws) (htop : ∀ v ∈ ws, v.tidx ≤ w.tidx) :
    ws.foldl (fun n v => max n v.tidx) 0 = w.tidx := by
  refine le_antisymm (foldl_max_tidx_le (Nat.zero_le _) htop) ?_
  obtain ⟨before, after, rfl⟩ := List.append_of_mem hw
  rw [List.foldl_append, List.foldl_cons]
  exact (le_max_right _ _).trans (le_foldl_max_tidx after _)

/-- The write that stands: of the highest thread, not before another of it, and above the latest ones of it. -/
theorem standing_eq_some {ws : List ByteWrite} {w : ByteWrite} (hw : w ∈ ws) (htop : ∀ v ∈ ws, v.tidx ≤ w.tidx)
    (hlatest : ∀ v ∈ ws, v.tidx = w.tidx → w.id ∉ v.before)
    (hbelow : ∀ v ∈ ws, v.tidx = w.tidx → v ≠ w → (∀ z ∈ ws, z.tidx = w.tidx → v.id ∉ z.before) → v.Below w) :
    standing ws = some w := by
  simp only [standing, foldl_max_tidx hw htop]
  have hmem : ∀ v, v ∈ ws.filter (fun v => v.tidx = w.tidx) ↔ v ∈ ws ∧ v.tidx = w.tidx := by simp
  refine highestWrite_eq_some (mem_latestWrites.mpr ⟨(hmem w).mpr ⟨hw, rfl⟩, fun v hv => ?_⟩) (fun v hv hne => ?_)
  · exact hlatest v ((hmem v).mp hv).1 ((hmem v).mp hv).2
  · obtain ⟨hv, hv'⟩ := mem_latestWrites.mp hv
    exact hbelow v ((hmem v).mp hv).1 ((hmem v).mp hv).2 hne (fun z hz hzt => hv' z ((hmem z).mpr ⟨hz, hzt⟩))

theorem mergeByte_full (old new : Byte) : mergeByte old new 0xFF = new := by
  change old &&& 0#8 ||| new &&& BitVec.allOnes 8 = new
  rw [BitVec.and_zero, BitVec.and_allOnes, BitVec.zero_or]

/-- A write of a whole byte that stands is what the writes leave. -/
theorem resolve_of_standing {ws : List ByteWrite} {w : ByteWrite} (base : Byte) (hm : w.mask = 0xFF)
    (hs : standing (ws.filter (fun v => v.mask &&& 0xFF ≠ 0)) = some w) : resolve base ws = w.val := by
  cases ws with
  | nil => cases hs
  | cons u us =>
    rw [resolve, List.length_cons, resolveByte]
    simp only [hs, hm]
    exact mergeByte_full _ _

/-! ### The bytes that a load may take (R169, R171, R172) -/

theorem Access.wroteAt_tidx {a : Access} {sp : Space} {addr : Nat} {w : ByteWrite} (h : a.wroteAt sp addr = some w) : w.tidx = a.tidx := by
  unfold Access.wroteAt at h
  split at h
  · next v hv =>
    obtain rfl := Option.some.inj h
    unfold Access.storeAt at hv
    split at hv
    · split at hv
      · obtain ⟨b, -, rfl⟩ := Option.map_eq_some_iff.mp hv
        rfl
      · cases hv
    · cases hv
  · unfold Access.atomicAt at h
    split at h
    · split at h
      · obtain ⟨b, -, rfl⟩ := Option.map_eq_some_iff.mp h
        rfl
      · cases h
    · cases h

theorem Pass.writesOf_tidx {q : Pass} {t : Nat} {sp : Space} {a : Nat} {w : ByteWrite} (h : w ∈ q.writesOf t sp a) : w.tidx = t := by
  obtain ⟨x, hx, hw⟩ := List.mem_filterMap.mp h
  rw [Access.wroteAt_tidx hw]
  simpa using (List.mem_filter.mp hx).2

theorem Pass.mem_loadChoices {q : Pass} {t : Nat} {deps : List Nat} {base : Byte} {sp : Space} {a : Nat} {b : Byte} :
    b ∈ q.loadChoices t deps base sp a ↔
      b = resolve base ((q.writesOf t sp a).filter (fun w => deps.contains w.id)) ∨
      ∃ w ∈ q.writesOf t sp a, w.id ∉ deps ∧
        b = mergeByte (resolve base ((q.writesOf t sp a).filter (fun w => deps.contains w.id))) w.val w.mask := by
  simp [Pass.loadChoices, and_assoc, eq_comm (a := b)]

/-- Of whole-byte writes of one thread the latest of the highest index is what they leave. -/
theorem resolve_of_thread {ws : List ByteWrite} {w : ByteWrite} {t : Nat} (base : Byte) (hw : w ∈ ws) (ht : ∀ v ∈ ws, v.tidx = t)
    (hm : ∀ v ∈ ws, v.mask = 0xFF) (hlatest : ∀ v ∈ ws, w.id ∉ v.before)
    (hbelow : ∀ v ∈ ws, v ≠ w → (∀ z ∈ ws, v.id ∉ z.before) → v.Below w) : resolve base ws = w.val := by
  have hall : ws.filter (fun v => v.mask &&& 0xFF ≠ 0) = ws :=
    List.filter_eq_self.mpr (fun v hv => by rw [hm v hv]; rfl)
  refine resolve_of_standing base (hm w hw) ?_
  rw [hall]
  exact standing_eq_some hw (fun v hv => by rw [ht v hv, ht w hw]) (fun v hv _ => hlatest v hv)
    (fun v hv _ hne hv' => hbelow v hv hne (fun z hz => hv' z hz (by rw [ht z hz, ht w hw])))

/-- A whole-byte write of a thread above all others is what they leave. -/
theorem resolve_of_top {ws : List ByteWrite} {w : ByteWrite} (base : Byte) (hw : w ∈ ws) (hm : w.mask = 0xFF) (hself : w.id ∉ w.before)
    (htop : ∀ v ∈ ws, v ≠ w → v.tidx < w.tidx) : resolve base ws = w.val := by
  have hsub : ∀ v, v ∈ ws.filter (fun v => v.mask &&& 0xFF ≠ 0) → v = w ∨ v.tidx < w.tidx := fun v hv =>
    (em (v = w)).imp_right (htop v (List.mem_of_mem_filter hv))
  have hone : ∀ v ∈ ws.filter (fun v => v.mask &&& 0xFF ≠ 0), v.tidx = w.tidx → v = w := fun v hv ht =>
    (hsub v hv).resolve_right (by omega)
  refine resolve_of_standing base hm (standing_eq_some (List.mem_filter.mpr ⟨hw, by rw [hm]; rfl⟩) (fun v hv => ?_) (fun v hv ht => ?_)
    (fun v hv ht hne => absurd (hone v hv ht) hne))
  · rcases hsub v hv with rfl | hlt
    · exact le_rfl
    · exact hlt.le
  · rw [hone v hv ht]
    exact hself

theorem Pass.loadChoices_pos (q : Pass) (t : Nat) (deps : List Nat) (base : Byte) (sp : Space) (a : Nat) :
    0 < (q.loadChoices t deps base sp a).length :=
  List.length_pos_of_mem (Pass.mem_loadChoices.mpr (.inl rfl))

/-- A free choice among some is one of them, and costs no more than a free value. -/
theorem State.pick_of_choices (s : State) {n : Nat} (hn : 0 < n) : ∃ i ctr, i < n ∧
    (if n ≤ 1 then (0, s) else s.choose n) = (i, { s with freeCtr := ctr }) := by
  split
  · exact ⟨0, s.freeCtr, hn, rfl⟩
  · exact ⟨_, _, Nat.mod_lt _ hn, rfl⟩

/-- Free choices leave the bytes before a pass. -/
theorem State.prePassByte_freeCtr (s : State) (ctr : Nat) (l : Lane) (id : Nat) (sp : Space) (a : Nat) :
    ({ s with freeCtr := ctr } : State).prePassByte l id sp a = s.prePassByte l id sp a := by
  cases sp <;> rfl

/-- Each byte of a load is one that it may take, whichever the free choices are. -/
theorem loadBytes_mem_choices (s : State) (l : Lane) (q : Pass) (t : Nat) (deps : List Nat) (sp : Space) (a : Nat) {n k : Nat}
    (hk : k < n) : ∃ b, (loadBytes s l q t deps sp a n).1[k]? = some b ∧
      b ∈ q.loadChoices t deps (s.prePassByte l q.id sp (a + k)) sp (a + k) := by
  induction n generalizing s a k with
  | zero => cases hk
  | succ n ih =>
    obtain ⟨i, ctr, hi, hpick⟩ := s.pick_of_choices (q.loadChoices_pos t deps (s.prePassByte l q.id sp a) sp a)
    simp only [loadBytes, hpick]
    cases k with
    | zero => exact ⟨_, rfl, by rw [List.getD_eq_getElem _ _ hi]; exact List.getElem_mem hi⟩
    | succ k =>
      have hrest := ih { s with freeCtr := ctr } (a + 1) (Nat.lt_of_succ_lt_succ hk)
      rwa [State.prePassByte_freeCtr, Nat.add_assoc, Nat.add_comm 1] at hrest

/-! ### The byte before a pass (R169, R171) -/

section
variable {l : Lane} {id : Nat} (s : State) (sp : Space) (a : Nat)

theorem State.prePassByte_of_none (h : l.earlier id = []) : s.prePassByte l id sp a = s.committedByte l.core sp a := by
  simp [State.prePassByte, h]

/-- One earlier pass without returning atomics at the byte leaves its stores over the committed byte. -/
theorem State.prePassByte_of_one {e : Pass} (h : l.earlier id = [e]) (hatomic : ∀ y ∈ e.accesses, y.atomicAt sp a = none) :
    s.prePassByte l id sp a = resolve (s.committedByte l.core sp a) (e.accesses.filterMap (·.storeAt sp a)) := by
  have hnone : e.accesses.filterMap (fun y => y.atomicAt sp a) = [] := List.filterMap_eq_nil_iff.mpr hatomic
  simp only [State.prePassByte, h, List.foldl_cons, List.foldl_nil, Pass.byteAfter, hnone, List.any_nil, Bool.not_false,
    List.filter_true]
  rfl

end

/-- Settles O20: a read of the scratchpad by what its address comes to; its bytes by the writes that stand. -/
theorem scratchpadLoad : Obligations.ScratchpadLoad := by
  refine ⟨?_, ?_⟩
  · intro f m s p toks r hr hcls x u ea n reads
    have hat : ∀ {found}, u.readAt x .p m.cp ea n n .load = found → u.readAt x m.cls m.cp ea n n .load = found := fun h => by rwa [hcls]
    refine ⟨fun hb => exec_ld_of_wait hr rfl rfl (hat (readAt_scratch_waits hb)),
      fun hb => ⟨fun h1 h2 h3 => ?_, fun h1 => ?_, fun h1 ho => ?_⟩⟩
    · have hchunk := readAt_of_scratch (s := u) (x := x) (cp := m.cp) (n := n) (cls := .p) hb (address_scratch (k := .load) h1 h2 h3)
      refine ⟨fun hrc => ?_, fun hsolo => ?_, fun hsolo => ?_⟩
      · exact exec_ld_of_got hr rfl rfl (hat (readAt_scratch hrc (spot_lane_core hr.1) hb h1 h2 h3))
      · exact exec_ld_of_wait hr rfl rfl (hat (hchunk.trans (chunkRead_waits (by simp) hsolo)))
      · exact exec_ld_of_got hr rfl rfl (hat (hchunk.trans (chunkRead_scratch_found hsolo)))
    · exact (exec_ld_of_bad hr rfl rfl (hat (readAt_scratch_misaligned hb h1))).trans (congrArg _ (took_trapped hr _ _ _))
    · exact (exec_ld_of_bad hr rfl rfl (hat (readAt_scratch_outside hb h1 ho))).trans (congrArg _ (took_trapped hr _ _ _))
  · intro s l q t deps sp a
    refine ⟨fun n k hk => loadBytes_mem_choices s l q t deps sp a hk, ?_, s.prePassByte_of_none sp a, fun e he hatomic => ?_⟩
    · intro own ordered base mayRead
      have hmay : ∀ {x}, resolve base ordered = x → mayRead x := fun h b => h ▸ Pass.mem_loadChoices
      refine ⟨fun h => hmay (by rw [h]; rfl), fun w hw hm hlatest hbelow => hmay ?_⟩
      exact resolve_of_thread base hw (fun v hv => Pass.writesOf_tidx (List.mem_of_mem_filter hv)) hm hlatest
        (fun v hv hne hv' => hbelow v hv hne hv')
    · intro stores
      rw [s.prePassByte_of_one sp a he hatomic]
      refine ⟨fun h => ?_, fun w hw hm hself htop => resolve_of_top _ hw hm hself htop⟩
      change resolve _ stores = _
      rw [h]
      rfl

/-- Settles O21: a read of a device, host or peer page by what its address comes to, and by the sight that its core has of the line. -/
theorem deviceLoad : Obligations.DeviceLoad := by
  intro f m s p toks r hr hcls hplain x core ea n traps sees siding free sends comes
  have hn : n ≠ 0 := fmtBytes_ne_zero (by rintro h; simp [h, Fmt.plain] at hplain) (by rintro h; simp [h, Fmt.plain] at hplain)
  have hw : x.scratchWaits m.cls ea = false := scratchWaits_outer hcls x ea
  have hbad : ∀ {t c}, (s.took r).address core s.cur.ctx m.cls ea n .load = (.bad c, t) → traps t c :=
    fun ha => exec_ld_of_bad hr rfl rfl (readAt_of_bad hw ha)
  have hgot : ∀ {v bytes ids pa}, (s.took r).readAt x m.cls m.cp ea n n .load = (Found.got v bytes pa ids).unspecified siding s.cur.ctx →
      comes v bytes ids pa := fun h => exec_ld_of_got hr rfl rfl h
  have hsiding : siding = s.inSiding s.cur.ctx ea := State.inSiding_of_fixed (s.fixed_updRun _ _) _ _
  refine ⟨hsiding ▸ s.inSiding_iff _ _, fun h v bs => ?_, fun h v bs hbs => ?_, fun h2 => hbad (address_beyond hcls h2),
    fun h2 t => ⟨fun pa key ty ht => ⟨fun h1 => ?_, fun h1 hty => ?_, fun h1 hty hl => ?_, fun h1 hty hl hrc => ?_,
        fun h1 hty hl hg => ?_⟩,
      fun cause ht => hbad (address_bad hcls h2 ht), fun pa big ht => ⟨fun h1 => ?_, fun h1 => ?_⟩⟩⟩
  · simp only [free, h, unspecified_false]
  · simp only [free, h]
    exact unspecified_word v _ hbs
  · exact hbad (address_misaligned hcls h1 h2 ht (by simp))
  · subst hty
    exact hgot (readAt_of_outside hw (address_outside hcls h1 h2 ht))
  · subst hty
    exact hbad (address_locked hcls h1 h2 ht hl)
  · subst hty
    have ha := address_found (core := core) hcls h1 h2 ht hl
    refine ⟨fun cause hf => ?_, fun hf => ?_⟩
    · exact exec_ld_of_bad hr rfl rfl (readAt_of_fault hw ha
        (hrc.imp_right fun h => holds_none h.1 h.2.1 _ _ _ _ _ hn) hf)
    · intro loads home
      have hloads : ∀ {look v}, t.sight core (pa / 64) (decide (m.cls = .s)) m.cp = (look, v) → loads v look := by
        refine fun hs => ⟨fun hg => ?_, fun hst => ?_⟩
        · have hne : m.cls ≠ .s := by simp [hg]
          exact hgot (readAt_of_chunk_sight hw hne ha (hrc.resolve_left hne) hn hf (decide_eq_false hne ▸ hs))
        · exact hgot (readAt_of_stream_sight hw hst ha hf (decide_eq_true hst ▸ hs))
      obtain ⟨hhome, hcopy⟩ := sight_cases (t := t) (core := core) (line := pa / 64) (byS := decide (m.cls = .s)) (cp := m.cp)
      refine ⟨fun h => hloads (hhome h), fun c hc hb => ?_⟩
      obtain ⟨v, hv, hs⟩ := hcopy c hc hb
      exact ⟨v, hv, hs.imp hloads hloads⟩
  · subst hty
    intro held reads
    have hne : m.cls ≠ .s := by simp [hg]
    have ha := address_found (core := core) hcls h1 h2 ht hl
    refine ⟨fun cause hh hf => exec_ld_of_bad hr rfl rfl (readAt_of_fault hw ha (.inr hh) hf), fun hf => ⟨fun hsolo => ?_,
      fun hsolo => ?_⟩⟩
    · refine exec_ld_of_wait hr rfl rfl ((readAt_of_chunk hw hne ha).trans ?_)
      rw [chunkRead_waits (fun _ => hf) hsolo, found_unspecified_wait]
    · have hreads : ∀ {look v}, t.sightOf x .device pa n m.cp = (look, v) → reads v look := fun hs =>
        hgot ((readAt_of_chunk hw hne ha).trans (by rw [chunkRead_found (fun _ => hf) hsolo hs]; rfl))
      refine ⟨fun hh => hreads (if_pos hh), fun hh hcopy => hreads ?_⟩
      exact (if_neg (Bool.eq_false_iff.mp hh)).trans ((sight_cases (t := t)).1 hcopy)
  · exact hbad (address_misaligned hcls h1 h2 ht (by simp))
  · exact exec_ld_of_park hr rfl rfl (readAt_of_park hw (address_mot hcls h1 h2 ht))

end Sys2Proof.Machine

/-! Stores and WAITA (spec/07 R197-R199, R201, R219; spec/06 R160, R180, R190): what a store leaves in the chunk or defers, and what an
unsatisfied WAITA records. -/

namespace Sys2Proof.Machine

/-! ### What a store does at each kind of address (R57, R160, R180, R190) -/

section
variable {s t u : State} {x : Site} {cls : MemClass} {scope : Scope} {cp : CachePol} {ea align addr pa key c m : Nat}
  {bytes : List (Byte × Byte)} {reads : Bool} {ts : List Target} {out : List (Target × Option Word)}
  (hw : x.scratchWaits cls ea = false)
include hw

theorem writeAt_of_bad (ha : s.address x.at_.core x.at_.ctx cls ea align .store = (.bad c, t)) :
    s.writeAt x cls scope cp ea align bytes reads ts out = .bad t c (some ea) := by
  simp [State.writeAt, hw, ha]

theorem writeAt_of_park (ha : s.address x.at_.core x.at_.ctx cls ea align .store = (.park m, t)) :
    s.writeAt x cls scope cp ea align bytes reads ts out = t.parkOn x m .store ea ts := by
  simp [State.writeAt, hw, ha]

/-- A chunked store whose line STORES admits. -/
theorem writeAt_of_counted {sp : Space} (hc : cls ≠ .s)
    (ha : s.address x.at_.core x.at_.ctx cls ea align .store = (match sp with | .device => .device addr key | .scratch => .scratch addr, t))
    (hkey : sp = .scratch → key = 0) (hu : t.countLines x [lineKey x.at_.core sp addr] = some u) :
    s.writeAt x cls scope cp ea align bytes reads ts out =
      .ok ((if sp = .device then u.fillCopy x.at_.core (addr / 64) false cp else u).access x sp addr bytes.length key ea
        (.store bytes reads)) out [x.nextId] := by
  cases sp with
  | device => simp [State.writeAt, hw, ha, hc, hu]
  | scratch => simp [State.writeAt, hw, ha, hu, hkey rfl]

/-- A chunked store of a line too many (R57). -/
theorem writeAt_of_overrun {sp : Space} (hc : cls ≠ .s)
    (ha : s.address x.at_.core x.at_.ctx cls ea align .store = (match sp with | .device => .device addr key | .scratch => .scratch addr, t))
    (hu : t.countLines x [lineKey x.at_.core sp addr] = none) :
    s.writeAt x cls scope cp ea align bytes reads ts out = .bad t cStoreOverrun (some ea) := by
  cases sp with
  | device => simp [State.writeAt, hw, ha, hc, hu]
  | scratch => simp [State.writeAt, hw, ha, hu]

end

/-! ### ST, one lemma per outcome -/

section
variable {s t : State} {f : Fields} {m : MemOps} {rm : RMode} {p : Spot} {toks : List Token} {r : Run} {ea n : Nat}
  {bytes : List (Byte × Byte)} (hr : Ready s f p toks r)
  (hea : effAddr (siteOf s p toks).a m.disp = ea) (hn : fmtBytes m.fmt = n)
  (hbytes : fullBytes n (fmtEncode m.fmt rm (s.storeRnd s.cur.ctx ea 0) false ((siteOf s p toks).b none)) = bytes)
include hr hea hn hbytes

theorem exec_st_of_wait (hst : (s.took r).writeAt (siteOf s p toks) m.cls m.scope m.cp ea n bytes false (Fields.both f) (doneBoth f) =
    .wait) : exec (.st f m rm) s = .next s := by
  subst hea hn hbytes
  exact congrArg _ (fire_wait hr hst)

theorem exec_st_of_bad {cause : Nat} (hst : (s.took r).writeAt (siteOf s p toks) m.cls m.scope m.cp ea n bytes false (Fields.both f)
    (doneBoth f) = .bad t cause (some ea)) : exec (.st f m rm) s = .next (t.trapping s p toks (Fields.both f) cause (some ea)) := by
  subst hea hn hbytes
  exact congrArg _ (fire_bad hr hst)

theorem exec_st_of_ok {out : List (Target × Option Word)} {ids : List Nat} (hst : (s.took r).writeAt (siteOf s p toks) m.cls m.scope m.cp
    ea n bytes false (Fields.both f) (doneBoth f) = .ok t out ids) : exec (.st f m rm) s = .next (t.sending s p toks ids out) := by
  subst hea hn hbytes
  exact congrArg _ (fire_ok hr hst)

end

/-- Settles O22: a store by what its address comes to. -/
theorem storesAreHeld : Obligations.StoresAreHeld := by
  intro f m rm s p toks r hr hplain x ea n bytes traps holds
  have hbad : ∀ {t c}, x.scratchWaits m.cls ea = false → (s.took r).address s.cur.core s.cur.ctx m.cls ea n .store = (.bad c, t) →
      exec (.st f m rm) s = .next (traps t c) := fun hw ha => exec_st_of_bad hr rfl rfl rfl (writeAt_of_bad hw ha)
  have hholds : ∀ {t sp addr key}, x.scratchWaits m.cls ea = false → m.cls ≠ .s → (sp = .scratch → key = 0) →
      (s.took r).address s.cur.core s.cur.ctx m.cls ea n .store =
        (match sp with | .device => .device addr key | .scratch => .scratch addr, t) → holds t sp addr key :=
    fun hw hc hkey ha => ⟨fun u hu => exec_st_of_ok hr rfl rfl rfl (writeAt_of_counted hw hc ha hkey hu),
      fun hu => exec_st_of_bad hr rfl rfl rfl (writeAt_of_overrun hw hc ha hu)⟩
  refine ⟨fun hc hb => ?_, fun hc hb => ?_, fun hc h2 => hbad (scratchWaits_outer hc x ea) (address_beyond hc h2), fun hc h2 t => ?_⟩
  · refine exec_st_of_wait hr rfl rfl rfl (if_pos ?_)
    rw [hc]
    exact hb
  · have hw : x.scratchWaits m.cls ea = false := by rw [hc]; exact hb
    rw [hc] at hw hbad hholds
    exact ⟨fun h1 => hbad hw (address_scratch_misaligned h1),
      fun h1 h20 hbank => hholds (sp := .scratch) hw (by simp) (fun _ => rfl) (address_scratch h1 h20 hbank),
      fun h1 ho => hbad hw (address_scratch_outside h1 ho)⟩
  · have hw : x.scratchWaits m.cls ea = false := scratchWaits_outer hc x ea
    refine ⟨fun pa key ty ht => ⟨fun h1 => hbad hw (address_misaligned hc h1 h2 ht (by simp)), fun h1 hty => ?_, fun h1 hty hl => ?_,
      fun h1 hty hl hg => ?_, fun h1 hty hl hs => ?_⟩, fun cause ht => hbad hw (address_bad hc h2 ht),
      fun pa big ht => ⟨fun h1 => hbad hw (address_misaligned hc h1 h2 ht (by simp)), fun h1 => ?_⟩⟩
    · subst hty
      exact exec_st_of_ok hr rfl rfl rfl (writeAt_outside hc h1 h2 ht)
    · subst hty
      exact hbad hw (address_locked hc h1 h2 ht hl)
    · subst hty
      exact hholds (sp := .device) hw (by simp [hg]) (by simp) (address_found hc h1 h2 ht hl)
    · subst hty
      refine exec_st_of_ok hr rfl rfl rfl ?_
      rw [hs]
      exact writeAt_stream h1 h2 ht hl
    · exact exec_st_of_ok hr rfl rfl rfl (writeAt_of_park hw (address_mot hc h1 h2 ht))

/-! ### WAITA (R219) -/

section
variable {s t : State} {f : Fields} {cls : MemClass} {fmt : Fmt} {oe : Bool} {cond : WaitCond} {p : Spot} {toks : List Token} {r : Run}
  {ea n : Nat} (hr : Ready s f p toks r) (hea : (siteOf s p toks).a.toNat = ea) (hn : fmtBytes fmt = n)
include hr hea hn

theorem exec_waita_of_wait (hread : (s.took r).readAt (siteOf s p toks) cls .normal ea n n .load = .wait) :
    exec (.waita f cls fmt oe cond) s = .next s :=
  congrArg _ (fire_wait hr (by simp only [hea, hn, hread]; rfl))

variable {bytes : List Byte} {pa : Nat} {ids : List Nat} {v : Word}
  (hread : (s.took r).readAt (siteOf s p toks) cls .normal ea n n .load = .got t bytes pa ids) (hv : fmtDecode fmt (leNat bytes) = v)
include hread hv

/-- A condition that holds returns its value as a load does. -/
theorem exec_waita_satisfied (hcond : waitHolds fmt cond v ((siteOf s p toks).b none) = true) :
    exec (.waita f cls fmt oe cond) s = .next ((t.awaitReturn (siteOf s p toks) v ((siteOf s p toks).deps ++ ids).dedup
      .load pa ea).sending s p toks [] []) :=
  congrArg _ (fire_ok hr (by simp only [hea, hn, hread, hv, if_pos hcond]; rfl))

/-- A condition that does not hold names the line at which the thread parks, unless another has. -/
theorem exec_waita_unsatisfied {sp : Space} (hsp : (if cls = .p then .scratch else .device) = sp)
    (hcond : waitHolds fmt cond v ((siteOf s p toks).b none) = false) :
    exec (.waita f cls fmt oe cond) s = .next ((t.updRun s.cur (fun r => { r with
      waita := match r.waita with
        | some w => some w
        | none => some { idx := s.cur.idx, key := lineKey s.cur.core sp pa } })).sending s p toks [] (toAll (Fields.both f) none)) := by
  subst hsp
  exact congrArg _ (fire_ok hr (by simp only [hea, hn, hread, hv, if_neg (Bool.eq_false_iff.mp hcond)]; rfl))

end

/-- Settles O25: the value that the read finds decides between the return and the park. -/
theorem waitaWaitsForItsCondition : Obligations.WaitaWaitsForItsCondition := by
  intro f fmt oe cond s p toks r hr hfmt hrc x ea n waits
  have hn : n ≠ 0 := by rcases atomicInt_cases hfmt with h | h | h <;> simp [n, h, fmtBytes, fmtBits]
  have hwaits : ∀ {cls sp t pa bytes}, (if cls = MemClass.p then Space.scratch else .device) = sp →
      (s.took r).readAt x cls .normal ea n n .load = .got t bytes pa [p.pass.nextId] → waits cls sp t pa bytes :=
    fun hsp hread => ⟨exec_waita_satisfied hr rfl rfl hread rfl, exec_waita_unsatisfied hr rfl rfl hread rfl hsp⟩
  refine ⟨fun hb => exec_waita_of_wait hr rfl rfl (readAt_scratch_waits hb), fun hb h1 h2 hbank => ?_, fun pa key t ht h2 h1 hl hf hc => ?_⟩
  · exact hwaits rfl (readAt_scratch hrc (spot_lane_core hr.1) hb h1 h2 hbank)
  · exact hwaits rfl (readAt_device hrc h1 h2 ht hl hn hf hc)

end Sys2Proof.Machine

/-! Atomics (spec/07 R208, R214; spec/06 R173, R174, R190): what one does at each kind of address, and what a returning one finds at the
atomic unit. -/

namespace Sys2Proof.Machine

/-- Every atomic is tried in one way (R208). -/
theorem exec_of_atomicParts {i : Instr} {f : Fields} {m : MemOps} {rm : RMode} (h : atomicParts i = some (f, m, rm)) (s : State) :
    exec i s = .next (s.fireAtomic i f m rm) := by
  unfold atomicParts at h
  split at h <;> cases h <;> rfl

theorem foldAtomic_eq_add (opk : FoldOp) : foldAtomic opk = .add ↔ opk = .add := by cases opk <;> simp [foldAtomic]

/-- On a host or peer page the additions of integers that return nothing are performed (R190). -/
theorem hostAtomic_iff {i : Instr} {f : Fields} {m : MemOps} {rm : RMode} (h : atomicParts i = some (f, m, rm)) :
    hostAtomic i m.fmt (f.t0.isSome && !isRed i) = true ↔
      m.fmt.isInt = true ∧ ((i = .aadd f m ∧ f.t0 = none) ∨ ∃ nu, i = .red f m rm nu .add) := by
  unfold atomicParts at h
  split at h <;> cases h <;> simp [hostAtomic, isRed, atomicFn, foldAtomic_eq_add, and_comm]

/-! ### What counting a line and translating an address leave alone -/

theorem State.countLines_eq {s t : State} {x : Site} {keys : List Nat} (h : s.countLines x keys = some t) :
    ∃ g, t = s.updRun x.at_ g := by
  unfold State.countLines at h
  split at h
  · cases h
  · cases h
    exact ⟨_, rfl⟩

theorem State.pendingStores_fixed (s : State) (core : Nat) : s.fixed.pendingStores core = s.pendingStores core := by
  simp only [State.pendingStores, State.fixed, List.filter_map, List.flatMap_map]
  rfl

theorem State.seenMem_of_fixed {s t : State} (h : t.fixed = s.fixed) (core : Nat) : t.seenMem core t.mem = s.seenMem core s.mem := by
  rw [State.seenMem, State.seenMem, State.mem_of_fixed h, ← t.pendingStores_fixed, h, s.pendingStores_fixed]

theorem State.storeRnd_of_fixed {s t : State} (h : t.fixed = s.fixed) (ctx va bit : Nat) : t.storeRnd ctx va bit = s.storeRnd ctx va bit :=
  show t.fixed.storeRnd ctx va bit = s.fixed.storeRnd ctx va bit by rw [h]

/-! ### A returning atomic at the atomic unit (R173, R208) -/

/-- The cause with which the block of a returning atomic's bytes fails, where the pass does not hold them. -/
def State.unitFault (s : State) (x : Site) (sp : Space) (addr key n : Nat) : Option Nat :=
  match sp with
  | .device =>
    if x.spot.pass.holds x.spot.lane x.at_.tidx x.deps sp addr n || (List.range n).all (fun k =>
        x.spot.pass.accesses.any (fun a => (a.atomicAt sp (addr + k)).isSome)) then none
    else s.readFault addr key .rmw
  | .scratch => none

/-- The bytes that a returning atomic finds in a state that counts its line. -/
def State.unitBytes (t : State) (x : Site) (sp : Space) (addr n : Nat) (cp : CachePol) : List Byte :=
  (List.range n).map (fun k => x.spot.pass.unitByte x.at_.tidx x.deps
    (({ (t.sightOf x sp addr n cp).2 with mem := (t.sightOf x sp addr n cp).1 } : State).prePassByte x.spot.lane x.spot.pass.id sp
      (addr + k)) sp (addr + k))

/-- What a returning atomic does with the bytes it finds: `v` has taken the line, `rnd` is the random word of its encode. -/
def State.unitActs (v : State) (x : Site) (i : Instr) (m : MemOps) (rm : RMode) (sp : Space) (addr key ea rnd : Nat) (bytes : List Byte) :
    Fired :=
  .ok ((v.access x sp addr (fmtBytes m.fmt) key ea (.returning (fullBytes (fmtBytes m.fmt)
    (atomicNew (atomicFn i) m.fmt rm rnd (leNat bytes) (x.b none) x.c)))).awaitReturn x (atomicOld (atomicFn i) m.fmt (leNat bytes))
      (x.deps ++ [x.nextId]).dedup .rmw addr ea) [] []

section
variable (s : State) (x : Site) (i : Instr) (m : MemOps) (rm : RMode) (sp : Space) (addr key ea : Nat)

/-- A returning atomic whose line is counted. -/
def State.unitCounted (t : State) : Fired :=
  let found := (t.sightOf x sp addr (fmtBytes m.fmt) m.cp).2.unspecified (sp = .device && s.inSiding x.at_.ctx ea) x.at_.ctx
    (t.unitBytes x sp addr (fmtBytes m.fmt) m.cp)
  found.2.unitActs x i m rm sp addr key ea (s.storeRnd x.at_.ctx ea 0) found.1

/-- A returning atomic: what fails or waits before its line is counted. -/
theorem unitAtomic_eq : s.unitAtomic x i m rm sp addr key ea =
    match s.unitFault x sp addr key (fmtBytes m.fmt) with
    | some c => .bad s c (some ea)
    | none =>
      if s.soloWaits x (lineKey x.at_.core sp addr) then .wait
      else
        match s.countLines x [lineKey x.at_.core sp addr] with
        | none => .bad s cStoreOverrun (some ea)
        | some t => s.unitCounted x i m rm sp addr key ea t := rfl

end

section
variable {s u : State} {x : Site} {i : Instr} {m : MemOps} {rm : RMode} {sp : Space} {addr key ea c : Nat}

theorem unitAtomic_of_fault (hf : s.unitFault x sp addr key (fmtBytes m.fmt) = some c) :
    s.unitAtomic x i m rm sp addr key ea = .bad s c (some ea) := by rw [unitAtomic_eq, hf]

variable (hf : s.unitFault x sp addr key (fmtBytes m.fmt) = none) (hsolo : s.soloWaits x (lineKey x.at_.core sp addr) = false)
include hf hsolo

theorem unitAtomic_of_overrun (hu : s.countLines x [lineKey x.at_.core sp addr] = none) :
    s.unitAtomic x i m rm sp addr key ea = .bad s cStoreOverrun (some ea) := by
  rw [unitAtomic_eq, hf, hsolo, hu]
  rfl

theorem unitAtomic_of_counted (hu : s.countLines x [lineKey x.at_.core sp addr] = some u) :
    s.unitAtomic x i m rm sp addr key ea = s.unitCounted x i m rm sp addr key ea u := by
  rw [unitAtomic_eq, hf, hsolo, hu]
  rfl

end

/-! ### In a pass that reads committed memory alone -/

/-- The state in which such an atomic finds its bytes: the homes with the core's own stores that are on their way, or the scratchpad. -/
def State.unitSees (s : State) (core : Nat) (sp : Space) : State := if sp = .device then { s with mem := s.seenMem core s.mem } else s

section
variable {s u : State} {x : Site} {sp : Space} {addr key n : Nat} {cp : CachePol} (hrc : ReadsCommitted x.spot) (hn : n ≠ 0)
include hrc hn

theorem unitFault_committed : s.unitFault x .device addr key n = s.readFault addr key .rmw := by
  obtain ⟨hacc, hearlier, -⟩ := hrc
  have hnone : ∃ k, k < n := ⟨0, Nat.pos_of_ne_zero hn⟩
  simp [State.unitFault, holds_none hacc hearlier _ _ _ _ _ hn, hacc, hnone]

variable (hu : s.countLines x [lineKey x.at_.core sp addr] = some u)
  (hc : sp = .device → s.copyOf x.at_.core (addr / 64) = none)
include hu hc

/-- Of a device line it takes the home, of the scratchpad what stands there. -/
theorem sightOf_committed : u.sightOf x sp addr n cp =
    ((s.unitSees x.at_.core sp).mem, if sp = .device then u.refreshCopy x.at_.core (addr / 64) false cp else u) := by
  obtain ⟨g, rfl⟩ := State.countLines_eq hu
  cases sp with
  | scratch => rfl
  | device =>
    have hh := holds_none hrc.1 hrc.2.1 x.at_.tidx x.deps .device addr n hn
    have hcopy : (s.updRun x.at_ g).copyOf x.at_.core (addr / 64) = none := hc rfl
    have hseen := State.seenMem_of_fixed (s.fixed_updRun x.at_ g) x.at_.core
    simpa [State.sightOf, hh, sight_home hcopy, State.unitSees] using hseen

/-- The atomic unit finds the committed bytes. -/
theorem unitBytes_committed (hcore : x.spot.lane.core = x.at_.core) : u.unitBytes x sp addr n cp =
    (List.range n).map (fun k => (s.unitSees x.at_.core sp).committedByte x.at_.core sp (addr + k)) := by
  have hunit : ∀ base a, x.spot.pass.unitByte x.at_.tidx x.deps base sp a = base := fun base a => by
    simp [Pass.unitByte, hrc.1, lastAtomic, resolve, resolveByte]
  simp only [State.unitBytes, hunit, State.prePassByte_of_none _ _ _ hrc.2.1, hcore, sightOf_committed hrc hn hu hc]
  obtain ⟨g, rfl⟩ := State.countLines_eq hu
  cases sp <;> rfl

end

/-! ### What an atomic does at each kind of address (R190, R208, R394) -/

/-- An atomic at a place of the scratchpad or of device memory: performed at the unit or recorded. -/
def State.atomicPlaced (s : State) (x : Site) (i : Instr) (f : Fields) (m : MemOps) (rm : RMode) (sp : Space) (addr key ea : Nat) : Fired :=
  if f.t0.isSome && !isRed i then s.unitAtomic x i m rm sp addr key ea else s.recordUpdate x i f m rm sp addr key ea

/-- What an atomic does at its effective address. -/
def State.atomicAct (s : State) (x : Site) (i : Instr) (f : Fields) (m : MemOps) (rm : RMode) (ea : Nat) : Fired :=
  let outer := hostAtomic i m.fmt (f.t0.isSome && !isRed i)
  if x.scratchWaits m.cls ea then .wait
  else
    match s.address x.at_.core x.at_.ctx m.cls ea (fmtBytes m.fmt) .rmw with
    | (.bad c, t) =>
      if c = memCause .rmw reasonMisaligned && m.cls ≠ .p && !outer && ea < 2 ^ 57 then
        (match translate t x.at_.ctx ea .rmw with
         | (.ok _ _ .outside, t) => .bad t (memCause .rmw reasonPermission) (some ea)
         | (_, t) => .bad t c (some ea))
      else .bad t c (some ea)
    | (.park g, t) => t.parkOn x g .rmw ea (Fields.both f)
    | (.outside pa, t) =>
      if outer then .ok (t.defer x.at_ x.deps (fun _ => .hostAdd ea pa (fmtBytes m.fmt) (x.b none))) (doneBoth f) [x.nextId]
      else .bad t (memCause .rmw reasonPermission) (some ea)
    | (.scratch a, t) => t.atomicPlaced x i f m rm .scratch a 0 ea
    | (.device pa key, t) => t.atomicPlaced x i f m rm .device pa key ea

theorem fireAtomic_eq (s : State) (i : Instr) (f : Fields) (m : MemOps) (rm : RMode) : s.fireAtomic i f m rm =
    s.fire f (Fields.both f) (fun x s => s.atomicAct x i f m rm (effAddr x.a m.disp)) := rfl

section
variable {s t u : State} {x : Site} {i : Instr} {f : Fields} {m : MemOps} {rm : RMode} {ea pa key c : Nat}

theorem atomicAct_of_wait (hw : x.scratchWaits m.cls ea = true) : s.atomicAct x i f m rm ea = .wait := if_pos hw

variable (hw : x.scratchWaits m.cls ea = false)
include hw

/-- The address fails with another cause than misalignment, or with one that no host or peer page outranks (R394). -/
theorem atomicAct_of_bad (ha : s.address x.at_.core x.at_.ctx m.cls ea (fmtBytes m.fmt) .rmw = (.bad c, t))
    (hrank : c ≠ memCause .rmw reasonMisaligned ∨ m.cls = .p ∨ hostAtomic i m.fmt (f.t0.isSome && !isRed i) = true ∨ 2 ^ 57 ≤ ea) :
    s.atomicAct x i f m rm ea = .bad t c (some ea) := by
  simp only [State.atomicAct, hw, ha, Bool.false_eq_true, if_false]
  refine if_neg ?_
  simp only [Bool.and_eq_true, decide_eq_true_eq, Bool.not_eq_true']
  rintro ⟨⟨⟨hc, hp⟩, ho⟩, hlt⟩
  rcases hrank with h | h | h | h
  · exact h hc
  · exact hp h
  · simp [ho] at h
  · exact absurd hlt h.not_gt

section
variable (hc : m.cls ≠ .p) (ho : hostAtomic i m.fmt (f.t0.isSome && !isRed i) = false) (h2 : ea < 2 ^ 57)
  (ha : s.address x.at_.core x.at_.ctx m.cls ea (fmtBytes m.fmt) .rmw = (.bad (memCause .rmw reasonMisaligned), t))
include hc ho h2 ha

/-- On a host or peer page the permission cause outranks misalignment (R394). -/
theorem atomicAct_of_misaligned_outside (ht : translate t x.at_.ctx ea .rmw = (.ok pa key .outside, u)) :
    s.atomicAct x i f m rm ea = .bad u (memCause .rmw reasonPermission) (some ea) := by
  simp only [State.atomicAct, hw, ha, ho, ht, Bool.false_eq_true, if_false]
  exact if_pos (by simpa [hc] using h2)

theorem atomicAct_of_misaligned_device (ht : translate t x.at_.ctx ea .rmw = (.ok pa key .device, u)) :
    s.atomicAct x i f m rm ea = .bad u (memCause .rmw reasonMisaligned) (some ea) := by
  simp only [State.atomicAct, hw, ha, ho, ht, Bool.false_eq_true, if_false]
  exact if_pos (by simpa [hc] using h2)

end

theorem atomicAct_of_park {g : Nat} (ha : s.address x.at_.core x.at_.ctx m.cls ea (fmtBytes m.fmt) .rmw = (.park g, t)) :
    s.atomicAct x i f m rm ea = t.parkOn x g .rmw ea (Fields.both f) := by
  simp [State.atomicAct, hw, ha]

theorem atomicAct_of_outside (ha : s.address x.at_.core x.at_.ctx m.cls ea (fmtBytes m.fmt) .rmw = (.outside pa, t)) :
    s.atomicAct x i f m rm ea = if hostAtomic i m.fmt (f.t0.isSome && !isRed i) then
      .ok (t.defer x.at_ x.deps (fun _ => .hostAdd ea pa (fmtBytes m.fmt) (x.b none))) (doneBoth f) [x.nextId]
    else .bad t (memCause .rmw reasonPermission) (some ea) := by
  simp only [State.atomicAct, hw, ha]
  rfl

theorem atomicAct_of_placed {sp : Space} (ha : s.address x.at_.core x.at_.ctx m.cls ea (fmtBytes m.fmt) .rmw =
      (match sp with | .device => .device pa key | .scratch => .scratch pa, t)) (hkey : sp = .scratch → key = 0) :
    s.atomicAct x i f m rm ea = t.atomicPlaced x i f m rm sp pa key ea := by
  cases sp with
  | device => simp [State.atomicAct, hw, ha]
  | scratch => simp [State.atomicAct, hw, ha, hkey rfl]

end

section
variable {s u : State} {x : Site} {i : Instr} {f : Fields} {m : MemOps} {rm : RMode} {sp : Space} {addr key ea : Nat}

/-- An atomic that returns nothing, or a RED, is recorded. -/
theorem atomicPlaced_of_record (h : f.t0 = none ∨ isRed i = true) :
    s.atomicPlaced x i f m rm sp addr key ea = s.recordUpdate x i f m rm sp addr key ea :=
  if_neg (by rcases h with h | h <;> simp [h])

theorem atomicPlaced_of_return (h0 : f.t0 ≠ none) (hred : isRed i = false) :
    s.atomicPlaced x i f m rm sp addr key ea = s.unitAtomic x i m rm sp addr key ea :=
  if_pos (by simpa [hred, Option.isSome_iff_ne_none] using h0)

theorem recordUpdate_of_counted (hu : s.countLines x [lineKey x.at_.core sp addr] = some u) :
    s.recordUpdate x i f m rm sp addr key ea = .ok (u.access x sp addr (fmtBytes m.fmt) key ea
      (.update { kind := i, fmt := m.fmt, rm := rm, b := x.b none, c := x.c, va := ea })) (doneBoth f) [x.nextId] := by
  simp only [State.recordUpdate, hu]

theorem recordUpdate_of_overrun (hu : s.countLines x [lineKey x.at_.core sp addr] = none) :
    s.recordUpdate x i f m rm sp addr key ea = .bad s cStoreOverrun (some ea) := by
  simp only [State.recordUpdate, hu]

end

/-! ### The atomics, one lemma per outcome -/

section
variable {s t : State} {i : Instr} {f : Fields} {m : MemOps} {rm : RMode} {p : Spot} {toks : List Token} {r : Run} {ea : Nat}
  (hi : atomicParts i = some (f, m, rm)) (hr : Ready s f p toks r) (hea : effAddr (siteOf s p toks).a m.disp = ea)
include hi hr hea

theorem exec_atomic_of_wait (hact : (s.took r).atomicAct (siteOf s p toks) i f m rm ea = .wait) : exec i s = .next s := by
  subst hea
  rw [exec_of_atomicParts hi, fireAtomic_eq, fire_wait hr hact]

theorem exec_atomic_of_bad {cause : Nat} (hact : (s.took r).atomicAct (siteOf s p toks) i f m rm ea = .bad t cause (some ea)) :
    exec i s = .next (t.trapping s p toks (Fields.both f) cause (some ea)) := by
  subst hea
  rw [exec_of_atomicParts hi, fireAtomic_eq, fire_bad hr hact]
  rfl

theorem exec_atomic_of_ok {out : List (Target × Option Word)} {ids : List Nat}
    (hact : (s.took r).atomicAct (siteOf s p toks) i f m rm ea = .ok t out ids) :
    exec i s = .next (t.sending s p toks ids out) := by
  subst hea
  rw [exec_of_atomicParts hi, fireAtomic_eq, fire_ok hr hact]

end

/-- A pass that does not hold a solo grant waits for no commit. -/
theorem soloWaits_committed {x : Site} (hrc : ReadsCommitted x.spot) (s : State) (line : Nat) : s.soloWaits x line = false := by
  obtain ⟨-, -, hsolo⟩ := hrc
  simp [State.soloWaits, hsolo]

/-- What a returning atomic does once its line is counted, in a pass that reads committed memory alone. -/
theorem unitCounted_committed {s u : State} {x : Site} {i : Instr} {m : MemOps} {rm : RMode} {sp : Space} {addr key ea : Nat}
    (hrc : ReadsCommitted x.spot) (hcore : x.spot.lane.core = x.at_.core) (hn : fmtBytes m.fmt ≠ 0)
    (hu : s.countLines x [lineKey x.at_.core sp addr] = some u) (hc : sp = .device → s.copyOf x.at_.core (addr / 64) = none) :
    s.unitCounted x i m rm sp addr key ea u =
      let found := (if sp = .device then u.refreshCopy x.at_.core (addr / 64) false m.cp else u).unspecified
        (decide (sp = .device) && s.inSiding x.at_.ctx ea) x.at_.ctx ((List.range (fmtBytes m.fmt)).map
          (fun k => (s.unitSees x.at_.core sp).committedByte x.at_.core sp (addr + k)))
      found.2.unitActs x i m rm sp addr key ea (s.storeRnd x.at_.ctx ea 0) found.1 := by
  simp only [State.unitCounted, sightOf_committed hrc hn hu hc, unitBytes_committed hrc hn hu hc hcore]

/-- Settles O26: an atomic by what its address comes to. -/
theorem atomicsActOrAreRecorded : Obligations.AtomicsActOrAreRecorded := by
  refine ⟨fun i f m rm => hostAtomic_iff, fun i f m rm s p toks r hi hr => ?_⟩
  intro x ea n outer traps
  have hbad : ∀ {t c}, (s.took r).atomicAct x i f m rm ea = .bad t c (some ea) → traps t c :=
    fun hact => exec_atomic_of_bad hi hr rfl hact
  refine ⟨fun hc hb => exec_atomic_of_wait hi hr rfl (atomicAct_of_wait ?_), fun hc hb => ?_, fun hc h2 => ?_, fun hc h2 t => ?_,
    fun h1 hb sp addr key t ha hkey => ?_⟩
  · rw [hc]
    exact hb
  · have hw : x.scratchWaits m.cls ea = false := by rw [hc]; exact hb
    refine ⟨fun h1 => hbad (atomicAct_of_bad hw ?_ (.inr (.inl hc))), fun h1 ho => hbad (atomicAct_of_bad hw ?_ (.inr (.inl hc)))⟩
    · rw [hc]
      exact address_scratch_misaligned h1
    · rw [hc]
      exact address_scratch_outside h1 ho
  · exact hbad (atomicAct_of_bad (scratchWaits_outer hc x ea) (address_beyond hc h2) (.inr (.inr (.inr h2))))
  · have hw : x.scratchWaits m.cls ea = false := scratchWaits_outer hc x ea
    refine ⟨fun pa key ty ht => ?_, fun cause ht hne => ?_, fun pa big ht h1 => ?_⟩
    · refine ⟨fun h1 ho => hbad (atomicAct_of_bad hw (address_misaligned hc h1 h2 ht (by simp)) (.inr (.inr (.inl ho)))), fun h1 ho => ?_,
        fun h1 ho => ?_, fun h1 hty ho => ?_, fun h1 hty ho => ?_, fun h1 hty hl => ?_⟩
      · rintro ⟨pa', key', hagain⟩
        exact hbad (atomicAct_of_misaligned_outside hw hc ho h2 (address_misaligned hc h1 h2 ht (by simp)) (Prod.ext hagain rfl))
      · rintro ⟨pa', key', hagain⟩
        exact hbad (atomicAct_of_misaligned_device hw hc ho h2 (address_misaligned hc h1 h2 ht (by simp)) (Prod.ext hagain rfl))
      · subst hty
        exact exec_atomic_of_ok hi hr rfl ((atomicAct_of_outside hw (address_outside hc h1 h2 ht)).trans (if_pos ho))
      · subst hty
        exact hbad ((atomicAct_of_outside hw (address_outside hc h1 h2 ht)).trans (if_neg (by simpa using ho)))
      · subst hty
        exact hbad (atomicAct_of_bad hw (address_locked hc h1 h2 ht hl) (.inl (by decide)))
    · have ha := address_bad (core := s.cur.core) (align := n) hc h2 ht
      refine ⟨fun hor => hbad (atomicAct_of_bad hw ?_ (.inl hne)), fun h1 hlt ho => hbad (atomicAct_of_bad hw ?_ (.inr (.inr (.inl ho))))⟩
      · rw [if_neg (fun h => hor.elim h.1 (fun hle => absurd h.2 hle.not_gt))] at ha
        exact ha
      · rw [if_pos ⟨h1, hlt⟩] at ha
        exact ha
    · exact exec_atomic_of_ok hi hr rfl (atomicAct_of_park hw (address_mot hc h1 h2 ht))
  · have hact := atomicAct_of_placed (i := i) (f := f) (rm := rm) (m := m) (x := x) (ea := ea) ?_ ha hkey
    refine ⟨fun hrec => ?_, fun h0 hred hrc hn => ?_⟩
    · rw [atomicPlaced_of_record hrec] at hact
      exact ⟨fun u hu => exec_atomic_of_ok hi hr rfl (hact.trans (recordUpdate_of_counted hu)),
        fun hu => hbad (hact.trans (recordUpdate_of_overrun hu))⟩
    · rw [atomicPlaced_of_return h0 hred] at hact
      have hsolo := soloWaits_committed (x := x) hrc t (lineKey s.cur.core sp addr)
      have hfix : t.fixed = s.fixed := (State.fixed_of_address ha).trans (s.fixed_updRun _ _)
      have hfault : (sp = .device → t.readFault addr key .rmw = none) → t.unitFault x sp addr key n = none := fun hf => by
        cases sp with
        | device => exact (unitFault_committed hrc hn.ne').trans (hf rfl)
        | scratch => rfl
      refine ⟨fun cause hsp hf => ?_, fun hf => ⟨fun hu => ?_, fun u hu hc => ?_⟩⟩
      · subst hsp
        exact hbad (hact.trans (unitAtomic_of_fault ((unitFault_committed hrc hn.ne').trans hf)))
      · exact hbad (hact.trans (unitAtomic_of_overrun (hfault hf) hsolo hu))
      · have hrun := hact.trans (unitAtomic_of_counted (hfault hf) hsolo hu)
        rw [unitCounted_committed hrc (spot_lane_core hr.1) hn.ne' hu hc, State.storeRnd_of_fixed hfix] at hrun
        exact exec_atomic_of_ok hi hr rfl hrun
    · by_cases hc : m.cls = .p
      · rw [hc]
        exact hb hc
      · exact scratchWaits_outer hc x ea

end Sys2Proof.Machine

/-! FIFO streams (spec/08 R225-R227, R255, R290, R340): what a port lets pass, what a token over an edge needs, and one lemma per outcome
of PUSH, POP and PEEK. -/

namespace Sys2Proof.Machine

/-! ### Instructions that may fire once (R57), by what they do on their first firing -/

section
variable {s t : State} {f : Fields} {p : Spot} {toks : List Token} {r : Run} {act : Site → State → Fired} (hr : Ready s f p toks r)
  (h1 : FirstFiring s p)
include hr h1

theorem fireOnce_ok {out : List (Target × Option Word)} {ids : List Nat} (ha : act (siteOf s p toks) (s.took r) = .ok t out ids) :
    s.fireOnce f act = t.sending s p toks ids out := by rw [fireOnce_first hr h1, fire_ok hr ha]

theorem fireOnce_trap {c : Nat} {info : Option Nat} (ha : act (siteOf s p toks) (s.took r) = .bad (s.took r) c info) :
    s.fireOnce f act = s.trapped p toks r (Fields.both f) c info := by rw [fireOnce_first hr h1, fire_trap hr ha]

theorem fireOnce_wait (ha : act (siteOf s p toks) (s.took r) = .wait) : s.fireOnce f act = s := by
  rw [fireOnce_first hr h1, fire_wait hr ha]

end

/-! ### Ports and edges (R255, R290, R340) -/

/-- A port over an edge waits for no bank, and any other is no border. -/
theorem borderRefuses_of_portWaits {x : Site} {port : PortRef} (hw : x.portWaits port = true) (s : State) (ctx : Nat) :
    s.borderRefuses ctx port = none := by
  obtain ⟨hedge, -⟩ : port.edge = false ∧ _ := by simpa [Site.portWaits] using hw
  simp [State.borderRefuses, hedge]

section
variable {s : State} {x : Site} {port : PortRef} {act : Fired}

theorem throughPort_of_refused {c : Nat} (hb : s.borderRefuses x.at_.ctx port = some c) :
    s.throughPort x port act = .bad s (memCause .store reasonIsolation) (some c) := by
  simp only [State.throughPort, hb]

theorem throughPort_of_wait (hw : x.portWaits port = true) : s.throughPort x port act = .wait := by
  simp only [State.throughPort, borderRefuses_of_portWaits hw, hw, if_true]

theorem throughPort_of_passes (hb : s.borderRefuses x.at_.ctx port = none) (hw : x.portWaits port = false) :
    s.throughPort x port act = act := by
  simp only [State.throughPort, hb, hw, Bool.false_eq_true, if_false]

end

/-- A token for another core: it counts in the rate window of its consumer's lane, which a spent window refuses (R290). `P` is what is
said of the state in which the token enters, `W` of a token that does not. -/
theorem of_sendAcross {s : State} {x : Site} {core : Nat} {P : State → Prop} {W : Prop}
    (hsent : ∀ t, s.sendAcross x core = some t → P t) (hrefused : s.sendAcross x core = none → W) :
    (core = x.at_.core → P s) ∧
    (core ≠ x.at_.core → ∀ l, s.lane? core x.at_.ctx = some l →
      (l.regs.rltokens = 0 → P s) ∧
      (l.regs.rltokens ≠ 0 → l.rateTokens < l.regs.rltokens →
        P (s.updLane core x.at_.ctx (fun l => { l with rateTokens := l.rateTokens + 1 }))) ∧
      (l.regs.rltokens ≠ 0 → l.regs.rltokens ≤ l.rateTokens → W)) := by
  refine ⟨fun hown => hsent s (if_pos hown), fun hother l hl => ?_⟩
  have hacc : s.sendAcross x core = if l.regs.rltokens = 0 then some s
      else if l.regs.rltokens ≤ l.rateTokens then none
      else some (s.updLane core x.at_.ctx (fun l => { l with rateTokens := l.rateTokens + 1 })) := by
    rw [State.sendAcross, if_neg hother, State.acceptToken, hl]
  refine ⟨fun h0 => hsent _ ?_, fun h0 hlt => hsent _ ?_, fun h0 hle => hrefused ?_⟩
  · rw [hacc, if_pos h0]
  · rw [hacc, if_neg h0, if_neg hlt.not_ge]
  · rw [hacc, if_neg h0, if_pos hle]

section
variable {x : Site} {prod : Option PassRef} {act : Fired}

/-- Only a solo pass waits, for a producer that is uncommitted and not itself (R233). -/
theorem soloHolds_iff : x.soloHolds prod = true ↔ ¬(x.spot.pass.solo ≠ .holding ∨ prod = none ∨ prod = some x.ref) := by
  cases prod <;> simp [Site.soloHolds]

theorem solo_takes (h : x.spot.pass.solo ≠ .holding ∨ prod = none ∨ prod = some x.ref) :
    (if x.soloHolds prod then .wait else act) = act := if_neg (fun hh => soloHolds_iff.mp hh h)

theorem solo_waits (h : ¬(x.spot.pass.solo ≠ .holding ∨ prod = none ∨ prod = some x.ref)) :
    (if x.soloHolds prod then .wait else act) = .wait := if_pos (soloHolds_iff.mpr h)

end

/-! ### PUSH, POP and PEEK at the FIFO of their port (R225-R227) -/

/-- PUSH where its port lets it pass. -/
def State.pushAct (s : State) (x : Site) (port : PortRef) (f : Fields) : Fired :=
  match s.portLoc x.at_.core x.at_.ctx port .fifo with
  | none => .bad s (memCause .store reasonBounds) none
  | some loc =>
    if s.copyBound loc then .bad s (memCause .store reasonLocked) none
    else if !x.spot.pass.lowerDone x.spot.run.pseq x.at_.idx then .wait
    else
      match s.fifo? x.at_.ctx loc, s.sendAcross x loc.core with
      | some (es, cap), some t =>
        if cap ≤ es.length then .wait
        else .ok (t.setFifo x.at_.ctx loc (es ++ [{ val := x.a, prod := some x.ref, tidx := x.at_.tidx, pop := none }])) (doneBoth f) []
      | _, _ => .wait

/-- POP at a port whose bank keeps its mode. -/
def State.popAct (s : State) (x : Site) (port : PortRef) (f : Fields) : Fired :=
  match s.portLoc x.at_.core x.at_.ctx port .fifo with
  | none => .bad s (memCause .load reasonBounds) none
  | some loc =>
    if !x.spot.pass.lowerDone x.spot.run.pseq x.at_.idx then .wait
    else
      match (s.fifo? x.at_.ctx loc).bind (fun q => popEntry x.ref x.at_.tidx q.1) with
      | none => .wait
      | some (e, es) =>
        if x.soloHolds e.prod then .wait
        else .ok ((s.setFifo x.at_.ctx loc es).recordProducer x e.prod e.tidx) (valueDone f e.val) []

/-- PEEK at a port whose bank keeps its mode. -/
def State.peekAct (s : State) (x : Site) (port : PortRef) (f : Fields) : Fired :=
  match s.portLoc x.at_.core x.at_.ctx port .fifo with
  | none => .bad s (memCause .load reasonBounds) none
  | some loc =>
    match s.fifo? x.at_.ctx loc with
    | none => .bad s (memCause .load reasonBounds) none
    | some (es, cap) =>
      if cap ≤ (x.b none).toNat then .bad s (memCause .load reasonBounds) none
      else
        match (es.filter (fun e => e.pop.isNone || e.pop = some x.ref))[(x.b none).toNat]? with
        | none => .wait
        | some e => if x.soloHolds e.prod then .wait else .ok (s.recordProducer x e.prod e.tidx) (valueDone f e.val) []

section
variable (f : Fields) (port : PortRef) (oe : Bool) (s : State)

theorem exec_push_eq : exec (.push f port oe) s = .next (s.fireOnce f (fun x s => s.throughPort x port (s.pushAct x port f))) := rfl
theorem exec_pop_eq : exec (.pop f port oe) s = .next (s.fireOnce f (fun x s => if x.portWaits port then .wait else s.popAct x port f)) :=
  rfl
theorem exec_peek_eq : exec (.peek f port oe) s =
    .next (s.fireOnce f (fun x s => if x.portWaits port then .wait else s.peekAct x port f)) := rfl

end

section
variable {s t : State} {x : Site} {port : PortRef} {f : Fields} {loc : PortLoc} {es fs : List FifoEntry} {cap : Nat} {e : FifoEntry}

theorem pushAct_of_no_port (h : s.portLoc x.at_.core x.at_.ctx port .fifo = none) :
    s.pushAct x port f = .bad s (memCause .store reasonBounds) none := by simp only [State.pushAct, h]

theorem popAct_of_no_port (h : s.portLoc x.at_.core x.at_.ctx port .fifo = none) :
    s.popAct x port f = .bad s (memCause .load reasonBounds) none := by simp only [State.popAct, h]

theorem peekAct_of_no_port (h : s.portLoc x.at_.core x.at_.ctx port .fifo = none) :
    s.peekAct x port f = .bad s (memCause .load reasonBounds) none := by simp only [State.peekAct, h]

variable (hl : s.portLoc x.at_.core x.at_.ctx port .fifo = some loc)
include hl

theorem pushAct_of_bound (hb : s.copyBound loc = true) : s.pushAct x port f = .bad s (memCause .store reasonLocked) none := by
  simp only [State.pushAct, hl, hb, if_true]

theorem popAct_of_lower (hd : x.spot.pass.lowerDone x.spot.run.pseq x.at_.idx = false) : s.popAct x port f = .wait := by
  simp [State.popAct, hl, hd]

variable (hq : s.fifo? x.at_.ctx loc = some (es, cap))
include hq

section
variable (hb : s.copyBound loc = false)
include hb

theorem pushAct_of_wait (h : x.spot.pass.lowerDone x.spot.run.pseq x.at_.idx = false ∨ cap ≤ es.length ∨ s.sendAcross x loc.core = none) :
    s.pushAct x port f = .wait := by
  rcases h with h | h | h
  · simp [State.pushAct, hl, hb, h]
  · cases hs : s.sendAcross x loc.core <;> simp [State.pushAct, hl, hb, hq, hs, h]
  · simp [State.pushAct, hl, hb, hq, h]

theorem pushAct_of_room (hd : x.spot.pass.lowerDone x.spot.run.pseq x.at_.idx = true) (hlt : es.length < cap)
    (hs : s.sendAcross x loc.core = some t) : s.pushAct x port f =
      .ok (t.setFifo x.at_.ctx loc (es ++ [{ val := x.a, prod := some x.ref, tidx := x.at_.tidx, pop := none }])) (doneBoth f) [] := by
  simp [State.pushAct, hl, hb, hd, hq, hs, hlt.not_ge]

end

section
variable (hd : x.spot.pass.lowerDone x.spot.run.pseq x.at_.idx = true)
include hd

theorem popAct_of_empty (h : popEntry x.ref x.at_.tidx es = none) : s.popAct x port f = .wait := by
  simp [State.popAct, hl, hd, hq, h]

theorem popAct_of_entry (h : popEntry x.ref x.at_.tidx es = some (e, fs)) : s.popAct x port f =
    if x.soloHolds e.prod then .wait else .ok ((s.setFifo x.at_.ctx loc fs).recordProducer x e.prod e.tidx) (valueDone f e.val) [] := by
  simp [State.popAct, hl, hd, hq, h]

end

theorem peekAct_of_beyond (hle : cap ≤ (x.b none).toNat) : s.peekAct x port f = .bad s (memCause .load reasonBounds) none := by
  simp [State.peekAct, hl, hq, hle]

theorem peekAct_of_empty (hlt : (x.b none).toNat < cap)
    (h : (es.filter (fun e => e.pop.isNone || e.pop = some x.ref))[(x.b none).toNat]? = none) : s.peekAct x port f = .wait := by
  simp only [State.peekAct, hl, hq, if_neg hlt.not_ge, h]

theorem peekAct_of_entry (hlt : (x.b none).toNat < cap)
    (h : (es.filter (fun e => e.pop.isNone || e.pop = some x.ref))[(x.b none).toNat]? = some e) : s.peekAct x port f =
      if x.soloHolds e.prod then .wait else .ok (s.recordProducer x e.prod e.tidx) (valueDone f e.val) [] := by
  simp only [State.peekAct, hl, hq, if_neg hlt.not_ge, h]

end

/-- Settles O28: the port lets the instruction pass or not, and the FIFO found there decides the rest. -/
theorem fifoStreams : Obligations.FifoStreams := by
  intro f port oe s p toks r hr x u ctx traps mayTake
  refine ⟨fun hn i hi => ?_, fun h1 c hb => ?_, fun h1 hw => ⟨borderRefuses_of_portWaits hw u ctx, fun i hi => ?_⟩, fun h1 hw => ?_⟩
  · simp only [List.mem_cons, List.not_mem_nil, or_false] at hi
    rcases hi with rfl | rfl | rfl <;> exact congrArg _ (fireOnce_again hr hn)
  · exact congrArg _ (fireOnce_trap hr h1 (throughPort_of_refused hb))
  · simp only [List.mem_cons, List.not_mem_nil, or_false] at hi
    rcases hi with rfl | rfl | rfl
    · exact congrArg _ (fireOnce_wait hr h1 (throughPort_of_wait hw))
    · exact congrArg _ (fireOnce_wait hr h1 (if_pos hw))
    · exact congrArg _ (fireOnce_wait hr h1 (if_pos hw))
  · have hpush : ∀ {a}, u.borderRefuses ctx port = none → u.pushAct x port f = a → u.throughPort x port (u.pushAct x port f) = a :=
      fun hb ha => (throughPort_of_passes hb hw).trans ha
    have hopen : ∀ {a b : Fired}, a = b → (if x.portWaits port then .wait else a) = b := fun ha =>
      (if_neg (Bool.eq_false_iff.mp hw)).trans ha
    refine ⟨fun hl => ⟨fun hb => congrArg _ (fireOnce_trap hr h1 (hpush hb (pushAct_of_no_port hl))),
      congrArg _ (fireOnce_trap hr h1 (hopen (popAct_of_no_port hl))),
      congrArg _ (fireOnce_trap hr h1 (hopen (peekAct_of_no_port hl)))⟩, fun loc es cap hl hq => ?_⟩
    refine ⟨fun hb => ⟨fun hbound => ?_, fun hbound hwait => ?_, fun hbound hd hlt => ?_⟩, fun hd => ?_,
      fun hd => ⟨fun e fs he => ?_, fun he => ?_⟩, ?_⟩
    · exact congrArg _ (fireOnce_trap hr h1 (hpush hb (pushAct_of_bound hl hbound)))
    · exact congrArg _ (fireOnce_wait hr h1 (hpush hb (pushAct_of_wait hl hq hbound (by tauto))))
    · have hsent : ∀ t, u.sendAcross x loc.core = some t → exec (.push f port oe) s = .next ((t.setFifo ctx loc
          (es ++ [{ val := x.a, prod := some x.ref, tidx := s.cur.tidx, pop := none }])).sending s p toks [] (doneBoth f)) :=
        fun t ht => congrArg _ (fireOnce_ok hr h1 (hpush hb (pushAct_of_room hl hq hbound hd hlt ht)))
      exact of_sendAcross hsent
        (fun hfull => congrArg _ (fireOnce_wait hr h1 (hpush hb (pushAct_of_wait hl hq hbound (.inr (.inr hfull))))))
    · exact congrArg _ (fireOnce_wait hr h1 (hopen (popAct_of_lower hl hd)))
    · have hact := popAct_of_entry (f := f) hl hq hd he
      exact ⟨fun hmay => congrArg _ (fireOnce_ok hr h1 (hopen (hact.trans (solo_takes hmay)))),
        fun hmay => congrArg _ (fireOnce_wait hr h1 (hopen (hact.trans (solo_waits hmay))))⟩
    · exact congrArg _ (fireOnce_wait hr h1 (hopen (popAct_of_empty hl hq hd he)))
    · refine ⟨fun hle => congrArg _ (fireOnce_trap hr h1 (hopen (peekAct_of_beyond hl hq hle))),
        fun hlt he => congrArg _ (fireOnce_wait hr h1 (hopen (peekAct_of_empty hl hq hlt he))), fun e hlt he => ?_⟩
      have hact := peekAct_of_entry (f := f) hl hq hlt he
      exact ⟨fun hmay => congrArg _ (fireOnce_ok hr h1 (hopen (hact.trans (solo_takes hmay)))),
        fun hmay => congrArg _ (fireOnce_wait hr h1 (hopen (hact.trans (solo_waits hmay))))⟩

end Sys2Proof.Machine

/-! WINDOW streams (spec/08 R229, R230, R233, R290, R340): which rows retire, and one lemma per outcome of WFEED and WEMIT. -/

namespace Sys2Proof.Machine

/-! ### The rows of windows that retire (R230) -/

/-- The row that `steps` steps reach from `first`, each climbing over a whole row. -/
def climbRows {α : Type} (whole : Nat → Bool) (steps : List α) (first : Nat) : Nat :=
  steps.foldl (fun row _ => if whole row then row + 1 else row) first

section
variable {α : Type} {whole : Nat → Bool}

theorem climbRows_cons_of_whole (a : α) (steps : List α) {first : Nat} (h : whole first = true) :
    climbRows whole (a :: steps) first = climbRows whole steps (first + 1) := by simp [climbRows, h]

theorem climbRows_of_not_whole (steps : List α) {first : Nat} (h : whole first = false) : climbRows whole steps first = first := by
  induction steps with
  | nil => rfl
  | cons a steps ih => simpa [climbRows, h] using ih

theorem le_climbRows (steps : List α) (first : Nat) : first ≤ climbRows whole steps first := by
  induction steps generalizing first with
  | nil => exact le_rfl
  | cons a steps ih =>
    cases h : whole first with
    | true => exact climbRows_cons_of_whole a steps h ▸ (Nat.le_succ first).trans (ih (first + 1))
    | false => exact (climbRows_of_not_whole _ h).ge

/-- Only whole rows are climbed over. -/
theorem whole_of_lt_climbRows (steps : List α) {first row : Nat} (hle : first ≤ row) (hlt : row < climbRows whole steps first) :
    whole row = true := by
  induction steps generalizing first with
  | nil => exact absurd hlt hle.not_gt
  | cons a steps ih =>
    cases h : whole first with
    | true =>
      rw [climbRows_cons_of_whole a steps h] at hlt
      rcases hle.eq_or_lt with rfl | hgt
      · exact h
      · exact ih hgt hlt
    | false => exact absurd (climbRows_of_not_whole (a :: steps) h ▸ hlt) hle.not_gt

end

/-- Whether every window of a row of windows is among those retired. -/
def Bank.rowRetired (k : Bank) (ns : List Nat) (row : Nat) : Bool :=
  (List.range (Geometry.of k.geom).ow).all (fun i => (k.retired ++ ns).dedup.contains (row * (Geometry.of k.geom).ow + i))

theorem Bank.rowRetired_iff (k : Bank) (ns : List Nat) (row : Nat) : k.rowRetired ns row = true ↔
    ∀ i, i < (Geometry.of k.geom).ow → row * (Geometry.of k.geom).ow + i ∈ k.retired ++ ns := by
  simp [Bank.rowRetired]

theorem Bank.retire_freeRow (k : Bank) (ns : List Nat) : (k.retire ns).freeRow =
    climbRows (k.rowRetired ns) (List.range ((k.retired ++ ns).dedup.length + 1)) (k.freeRow / (Geometry.of k.geom).str) *
      (Geometry.of k.geom).str := rfl

theorem Geometry.str_pos (w : Nat) : 0 < (Geometry.of w).str := Nat.succ_pos _

/-- Rows are freed lowest first, up to the lowest that is not wholly retired (R230). -/
theorem Bank.retire_rows (k : Bank) (ns : List Nat) :
    k.freeRow / (Geometry.of k.geom).str ≤ (k.retire ns).freeRow / (Geometry.of k.geom).str ∧
    (k.rowRetired ns (k.freeRow / (Geometry.of k.geom).str) = true →
      k.freeRow / (Geometry.of k.geom).str < (k.retire ns).freeRow / (Geometry.of k.geom).str) ∧
    ∀ row, k.freeRow / (Geometry.of k.geom).str ≤ row → row < (k.retire ns).freeRow / (Geometry.of k.geom).str →
      k.rowRetired ns row = true := by
  rw [k.retire_freeRow, Nat.mul_div_cancel _ (Geometry.str_pos k.geom)]
  refine ⟨le_climbRows _ _, fun hgone => ?_, fun row => whole_of_lt_climbRows _⟩
  rw [List.range_succ_eq_map, climbRows_cons_of_whole _ _ hgone]
  exact le_climbRows _ _

/-! ### WFEED and WEMIT at the WINDOW of their port (R229, R230) -/

/-- WFEED where its port lets it pass. -/
def State.wfeedAct (s : State) (x : Site) (port : PortRef) (f : Fields) : Fired :=
  match s.portLoc x.at_.core x.at_.ctx port .window with
  | some (.bank c b) =>
    if !x.spot.pass.lowerDone x.spot.run.pseq x.at_.idx then .wait
    else
      (match s.bank? c b, s.sendAcross x c with
       | some k, some t =>
         let g := Geometry.of k.geom
         if k.freeRow + (g.kh - 1) * g.dil + 1 + g.str ≤ (k.dropped + k.pixels.length) / g.rw then .wait
         else .ok (t.updCore c (fun y => y.updBank b (fun k => { k with
             pixels := k.pixels ++ [{ val := x.a, prod := some x.ref, tidx := x.at_.tidx }] }))) (doneBoth f) []
       | _, _ => .wait)
  | _ => .bad s (memCause .store reasonBounds) none

/-- WEMIT at a port whose bank keeps its mode. -/
def State.wemitAct (s : State) (x : Site) (port : PortRef) (f : Fields) : Fired :=
  match s.portLoc x.at_.core x.at_.ctx port .window with
  | some (.bank c b) =>
    (match s.bank? c b with
     | none => .bad s (memCause .load reasonBounds) none
     | some k =>
       let g := Geometry.of k.geom
       let n := x.a.toNat
       let e := (x.b none).toNat
       let last := g.kh * g.kw - 1
       if last < e || g.firstRow n < k.freeRow then .bad s (memCause .load reasonBounds) none
       else if k.dropped + k.pixels.length ≤ g.pixel n last then .wait
       else
         match k.pixels[g.pixel n e - k.dropped]? with
         | none => .wait
         | some px =>
           if x.soloHolds px.prod then .wait
           else
             let t := if e = last then s.updRun x.at_ (fun r => { r with windows := r.windows ++ [(port, n)] }) else s
             .ok (t.recordProducer x px.prod px.tidx) (valueDone f px.val) [])
  | _ => .bad s (memCause .load reasonBounds) none

section
variable (f : Fields) (port : PortRef) (oe : Bool) (s : State)

theorem exec_wfeed_eq : exec (.wfeed f port oe) s = .next (s.fireOnce f (fun x s => s.throughPort x port (s.wfeedAct x port f))) := rfl
theorem exec_wemit_eq : exec (.wemit f port oe) s =
    .next (s.fireOnce f (fun x s => if x.portWaits port then .wait else s.wemitAct x port f)) := rfl

end

section
variable {s t : State} {x : Site} {port : PortRef} {f : Fields} {c b : Nat} {k : Bank}

theorem wfeedAct_of_no_port (h : s.portLoc x.at_.core x.at_.ctx port .window = none) :
    s.wfeedAct x port f = .bad s (memCause .store reasonBounds) none := by simp only [State.wfeedAct, h]

theorem wemitAct_of_no_port (h : s.portLoc x.at_.core x.at_.ctx port .window = none) :
    s.wemitAct x port f = .bad s (memCause .load reasonBounds) none := by simp only [State.wemitAct, h]

/-- Whether a bank holds the row of the next pixel fed to it (R230). -/
def Bank.feeds (k : Bank) : Prop :=
  (k.dropped + k.pixels.length) / (Geometry.of k.geom).rw <
    k.freeRow + ((Geometry.of k.geom).kh - 1) * (Geometry.of k.geom).dil + 1 + (Geometry.of k.geom).str

variable (hl : s.portLoc x.at_.core x.at_.ctx port .window = some (.bank c b)) (hk : s.bank? c b = some k)
include hl hk

theorem wfeedAct_of_wait (h : x.spot.pass.lowerDone x.spot.run.pseq x.at_.idx = false ∨ ¬k.feeds ∨ s.sendAcross x c = none) :
    s.wfeedAct x port f = .wait := by
  rcases h with h | h | h
  · simp [State.wfeedAct, hl, h]
  · have hfull := not_lt.mp h
    cases hs : s.sendAcross x c <;> simp [State.wfeedAct, hl, hk, hs, hfull]
  · simp [State.wfeedAct, hl, hk, h]

theorem wfeedAct_of_room (hd : x.spot.pass.lowerDone x.spot.run.pseq x.at_.idx = true) (hfeeds : k.feeds)
    (hs : s.sendAcross x c = some t) : s.wfeedAct x port f = .ok (t.updCore c (fun y => y.updBank b (fun k => { k with
      pixels := k.pixels ++ [{ val := x.a, prod := some x.ref, tidx := x.at_.tidx }] }))) (doneBoth f) [] := by
  have hroom := hfeeds.not_ge
  simp [State.wfeedAct, hl, hk, hd, hs, hroom]

variable {n e last : Nat} (hn : x.a.toNat = n) (he : (x.b none).toNat = e)
  (hlast : (Geometry.of k.geom).kh * (Geometry.of k.geom).kw - 1 = last)
include hn he hlast

theorem wemitAct_of_beyond (h : last < e ∨ (Geometry.of k.geom).firstRow n < k.freeRow) :
    s.wemitAct x port f = .bad s (memCause .load reasonBounds) none := by
  subst hn he hlast
  simp only [State.wemitAct, hl, hk]
  exact if_pos (by simpa using h)

variable (hle : e ≤ last) (hrow : k.freeRow ≤ (Geometry.of k.geom).firstRow n)
include hle hrow

theorem wemitAct_of_incomplete (h : k.dropped + k.pixels.length ≤ (Geometry.of k.geom).pixel n last) :
    s.wemitAct x port f = .wait := by
  subst hn he hlast
  simp only [State.wemitAct, hl, hk]
  rw [if_neg (by simpa using ⟨hle, hrow⟩), if_pos h]

theorem wemitAct_of_pixel {px : Pixel} (h : (Geometry.of k.geom).pixel n last < k.dropped + k.pixels.length)
    (hpx : k.pixels[(Geometry.of k.geom).pixel n e - k.dropped]? = some px) : s.wemitAct x port f =
      if x.soloHolds px.prod then .wait
      else .ok ((if e = last then s.updRun x.at_ (fun r => { r with windows := r.windows ++ [(port, n)] }) else s).recordProducer x
        px.prod px.tidx) (valueDone f px.val) [] := by
  subst hn he hlast
  simp only [State.wemitAct, hl, hk]
  rw [if_neg (by simpa using ⟨hle, hrow⟩), if_neg h.not_ge, hpx]

end

/-- Settles O29: the port lets the instruction pass or not, and the WINDOW found there decides the rest. -/
theorem windowStreams : Obligations.WindowStreams := by
  refine ⟨fun k ns => ?_, fun f port oe s p toks r hr => ?_⟩
  · obtain ⟨hle, hlt, hwhole⟩ := k.retire_rows ns
    exact ⟨hle, fun hgone => hlt ((k.rowRetired_iff ns _).mpr hgone),
      fun row hfirst hnext => (k.rowRetired_iff ns row).mp (hwhole row hfirst hnext)⟩
  intro x u ctx traps
  refine ⟨fun hn => ⟨congrArg _ (fireOnce_again hr hn), congrArg _ (fireOnce_again hr hn)⟩,
    fun h1 c hb => congrArg _ (fireOnce_trap hr h1 (throughPort_of_refused hb)),
    fun h1 hw => ⟨congrArg _ (fireOnce_wait hr h1 (throughPort_of_wait hw)), congrArg _ (fireOnce_wait hr h1 (if_pos hw))⟩,
    fun h1 hw => ?_⟩
  have hfeed : ∀ {a}, u.borderRefuses ctx port = none → u.wfeedAct x port f = a → u.throughPort x port (u.wfeedAct x port f) = a :=
    fun hb ha => (throughPort_of_passes hb hw).trans ha
  have hopen : ∀ {a b : Fired}, a = b → (if x.portWaits port then .wait else a) = b := fun ha =>
    (if_neg (Bool.eq_false_iff.mp hw)).trans ha
  refine ⟨fun hl => ⟨fun hb => congrArg _ (fireOnce_trap hr h1 (hfeed hb (wfeedAct_of_no_port hl))),
    congrArg _ (fireOnce_trap hr h1 (hopen (wemitAct_of_no_port hl)))⟩, fun c b k hl hk => ?_⟩
  refine ⟨fun hb => ⟨fun hwait => ?_, fun hd hfits => ?_⟩, fun hbeyond => ?_, fun hle hrow hpix => ?_, fun px hle hrow hpix hpx => ?_⟩
  · exact congrArg _ (fireOnce_wait hr h1 (hfeed hb (wfeedAct_of_wait hl hk (hwait.imp_right .inl))))
  · have hsent : ∀ t, u.sendAcross x c = some t → exec (.wfeed f port oe) s = .next ((t.updCore c (fun y => y.updBank b (fun k => { k with
        pixels := k.pixels ++ [{ val := x.a, prod := some x.ref, tidx := s.cur.tidx }] }))).sending s p toks [] (doneBoth f)) :=
      fun t ht => congrArg _ (fireOnce_ok hr h1 (hfeed hb (wfeedAct_of_room hl hk hd hfits ht)))
    exact of_sendAcross hsent
      (fun hfull => congrArg _ (fireOnce_wait hr h1 (hfeed hb (wfeedAct_of_wait hl hk (.inr (.inr hfull))))))
  · exact congrArg _ (fireOnce_trap hr h1 (hopen (wemitAct_of_beyond hl hk rfl rfl rfl hbeyond)))
  · exact congrArg _ (fireOnce_wait hr h1 (hopen (wemitAct_of_incomplete hl hk rfl rfl rfl hle hrow hpix)))
  · intro mayTake emits
    have hact := wemitAct_of_pixel (f := f) hl hk rfl rfl rfl hle hrow hpix hpx
    refine ⟨fun hmay => congrArg _ (fireOnce_wait hr h1 (hopen (hact.trans (solo_waits hmay)))), fun hmay hlt => ?_, fun hmay hlast => ?_⟩
    · have htaken := hact.trans (solo_takes hmay)
      rw [if_neg hlt.ne] at htaken
      exact congrArg _ (fireOnce_ok hr h1 (hopen htaken))
    · have htaken := hact.trans (solo_takes hmay)
      rw [if_pos hlast] at htaken
      exact congrArg _ (fireOnce_ok hr h1 (hopen htaken))

end Sys2Proof.Machine

/-! BANKMODE and the gathers (spec/08 R222, R231, R232). -/

namespace Sys2Proof.Machine

/-- A fresh ticket is a free word at or after the counter, which moves past it (R231). -/
theorem freshTicket_freeWord (used : List Nat) (fuel ctr : Nat) :
    ∃ ctr', ctr ≤ ctr' ∧ freshTicket used fuel ctr = (Config.freeWord ctr', ctr' + 1) := by
  induction fuel generalizing ctr with
  | zero => exact ⟨ctr, le_rfl, rfl⟩
  | succ fuel ih =>
    by_cases hused : used.contains (Config.freeWord ctr).toNat = true
    · obtain ⟨ctr', hle, h⟩ := ih (ctr + 1)
      exact ⟨ctr', (Nat.le_succ ctr).trans hle, (if_pos hused).trans h⟩
    · exact ⟨ctr, le_rfl, if_neg hused⟩

section
variable {s t : State} {f : Fields} {m : MemOps} {p : Spot} {toks : List Token} {r : Run} (hr : Ready s f p toks r)
include hr

/-- BANKMODE is a record of its run (R222). -/
theorem exec_bankmode_of_ready (oe : Bool) : exec (.bankmode f oe) s = .next (s.recorded p toks r
    (fun r => { r with banks := r.banks ++ [(s.cur.idx, (siteOf s p toks).a, (siteOf s p toks).b none)] }) (doneBoth f)) :=
  congrArg _ (fireRecord_ok (g := fun x r => { r with banks := r.banks ++ [(x.at_.idx, x.a, x.b none)] }) hr (fun _ _ => rfl))

/-! ### GRECV (R232) -/

theorem exec_grecv_of_unknown (hfind : p.run.gathers.find? (fun g => g.ticket = (siteOf s p toks).a.toNat && !g.received) = none) :
    exec (.grecv f) s = .next (s.trapped p toks r (Fields.both f) cGatherTicket none) :=
  congrArg _ (fire_trap hr (by simp only [siteOf_spot, hfind]))

section
variable {g : Gather} (hfind : p.run.gathers.find? (fun g => g.ticket = (siteOf s p toks).a.toNat && !g.received) = some g)
include hfind

theorem exec_grecv_of_waiting (hret : g.returned = false) : exec (.grecv f) s = .next s :=
  congrArg _ (fire_wait hr (by simp only [siteOf_spot, hfind, hret]; rfl))

theorem exec_grecv_of_returned (hret : g.returned = true) : exec (.grecv f) s = .next (((s.took r).updRun s.cur (fun r => { r with
    gathers := r.gathers.map (fun y => if y = g then { y with received := true } else y) })).sending s p toks g.deps (valueDone f g.val)) :=
  congrArg _ (fire_ok hr (by simp only [siteOf_spot, hfind, hret]; rfl))

end

/-! ### GATH (R231) -/

theorem exec_gath_of_full (hload : 32 ≤ (s.took r).mergerLoad s.cur.core (s.cur.idx % 16)) : exec (.gath f m) s = .next s :=
  congrArg _ (fire_wait hr (if_pos hload))

theorem exec_gath_of_got {ea pa ctr : Nat} {bytes : List Byte} {ids : List Nat} {ticket : Word}
    (hload : (s.took r).mergerLoad s.cur.core (s.cur.idx % 16) < 32) (hea : effAddr (siteOf s p toks).a m.disp = ea)
    (hread : (s.took r).readAt (siteOf s p toks) .s m.cp ea (fmtBytes m.fmt) (fmtBytes m.fmt) .load = .got t bytes pa ids)
    (hticket : freshTicket (p.run.gathers.map (·.ticket)) ((p.run.gathers.map (·.ticket)).length + 1) t.freeCtr = (ticket, ctr)) :
    exec (.gath f m) s = .next (((({ t with freeCtr := ctr } : State).touchPhys pa 8).updRun s.cur (fun r => { r with
      gathers := r.gathers ++ [{ ticket := ticket.toNat, idx := s.cur.idx, gen := (siteOf s p toks).gen, val := fmtDecode m.fmt (leNat bytes)
                                 pa := pa, va := ea, returned := false, received := false, deps := (siteOf s p toks).deps }] })).sending
        s p toks [] (toAll (Fields.both f) (some ticket))) := by
  refine congrArg _ (fire_ok hr ?_)
  simp only [siteOf_at, siteOf_spot, if_neg hload.not_ge, hea, hread, hticket]

end

/-- Settles O30: BANKMODE by its record, GRECV by the gather of its ticket, GATH by what its read finds. -/
theorem gathersAndBankModes : Obligations.GathersAndBankModes := by
  intro f oe m s p toks r hr x find ea n u
  refine ⟨exec_bankmode_of_ready hr oe, exec_grecv_of_unknown hr, fun g hfind hret => exec_grecv_of_waiting hr hfind hret,
    fun g hfind hret => exec_grecv_of_returned hr hfind hret, exec_gath_of_full hr, fun hload t bytes pa ids hread => ?_⟩
  obtain ⟨ctr, hle, hticket⟩ := freshTicket_freeWord (p.run.gathers.map (·.ticket)) ((p.run.gathers.map (·.ticket)).length + 1) t.freeCtr
  exact ⟨_, ctr, rfl, hle, exec_gath_of_got hr hload rfl hread hticket⟩

end Sys2Proof.Machine

/-! Shootdowns and migrations (spec/08 R242, R243, R258, spec/11 R346-R349): what a shootdown leaves of the cached translations, and
the outcome of each event by what it finds in its way. -/

namespace Sys2Proof.Machine

/-! ### The cached translations -/

@[simp] theorem State.tlb_dropRequests (s : State) (r : Requester) : (s.dropRequests r).tlb = s.tlb := rfl

theorem State.tlb_takeFrom (s : State) (r : Requester) (ds : List Nat) : (s.takeFrom r ds).2.tlb = s.tlb := by
  induction ds generalizing s with
  | nil => rfl
  | cons d ds ih =>
    unfold State.takeFrom
    split_ifs
    · exact ih s
    · rfl
    · exact ih (s.updArbiter d _)
    · rfl

@[simp] theorem State.tlb_takeGrants (s : State) (o : EngineOp) (dies : List Nat) : (s.takeGrants o dies).2.tlb = s.tlb := by
  refine (State.tlb_takeFrom _ _ _).trans ?_
  split_ifs
  · rfl
  · rfl

@[simp] theorem State.tlb_takeTlbinv (s : State) (core ctx : Nat) : (s.takeTlbinv core ctx).tlb = s.tlb := by
  unfold State.takeTlbinv
  split
  · split
    · rfl
    · rfl
  · rfl

@[simp] theorem State.tlb_sealBlock (s : State) (blk : Nat) (ws : List DevByte) : (s.sealBlock blk ws).tlb = s.tlb := by
  cases ws with
  | nil => rfl
  | cons w ws => rfl

@[simp] theorem State.tlb_commitBytes (s : State) (ws : List DevByte) : (s.commitBytes ws).tlb = s.tlb :=
  List.foldlRecOn (motive := fun t : State => t.tlb = s.tlb) (blocksOf ws) _ rfl (fun t ht b _ => (t.tlb_sealBlock b _).trans ht)

@[simp] theorem State.tlb_broadcast (s : State) (source : Option PassRef) (w c : List (Nat × Nat)) (dies : List Nat) :
    (s.broadcast source w c dies).tlb = s.tlb := by
  unfold State.broadcast
  split_ifs
  · rfl
  · dsimp only
    split_ifs
    · rfl
    · rfl

@[simp] theorem State.tlb_rewriteEntry (s : State) (c : Context) (at_ e : Nat) : (s.rewriteEntry c at_ e).tlb = s.tlb := by
  simp [State.rewriteEntry, State.engineCommit]

@[simp] theorem State.tlb_keepMark (s : State) (at_ : Nat) : (s.keepMark at_).tlb = s.tlb := by
  unfold State.keepMark
  split
  · rfl
  · rfl

/-- The mark is set in the table: the cached translations stay. -/
@[simp] theorem State.tlb_applyMark (s : State) (d : Shootdown) : (s.applyMark d).tlb = s.tlb := by
  unfold State.applyMark
  split
  · split
    · split_ifs
      · exact s.tlb_rewriteEntry _ _ _
      · rfl
    · exact s.tlb_keepMark _
  · rfl

/-- The range of a shootdown is the one it was requested with. -/
@[simp] theorem State.meetsEntry_widen (s : State) (d : Shootdown) (e : TlbEntry) : (s.widen d).meetsEntry e = d.meetsEntry e := by
  unfold State.widen
  split_ifs
  · rfl
  · rfl

/-- A broadcast drops the translations of its range, and no other (R348). -/
theorem State.mem_tlb_broadcastShootdown (s : State) (d : Shootdown) (e : TlbEntry) :
    e ∈ (s.broadcastShootdown d).tlb ↔ e ∈ s.tlb ∧ d.meetsEntry e = false := by
  show e ∈ s.tlb.filter (fun e => !(s.widen d).meetsEntry e) ↔ _
  simp

/-! ### Shootdowns (R348, R349) -/

section
variable {core ctx : Nat} {s : State} {d : Shootdown}
  (hfind : (s.takeTlbinv core ctx).shootdowns.find? (fun d => d.ctx = ctx && !d.broadcast) = some d)
include hfind

theorem exec_shootdownStart_of_grants {v : State} (huses : (s.takeTlbinv core ctx).soloUses d = false)
    (hdue : (s.takeTlbinv core ctx).storesDue d = false)
    (hreads : (s.takeTlbinv core ctx).soloReads (d.mark.toList.map (· / 64)) = false)
    (hgrants : (s.takeTlbinv core ctx).takeGrants (.shootdown d.id) (List.range 16) = (true, v)) :
    exec (.shootdownStart core ctx) s = .next ((v.applyMark d).broadcastShootdown d) := by
  show execShootdownStart core ctx s = _
  simp only [execShootdownStart, hfind, huses, hdue, hreads, hgrants, Bool.or_self, Bool.false_eq_true, if_false]

theorem exec_shootdownStart_of_waits (hwait : ((s.takeTlbinv core ctx).soloUses d || (s.takeTlbinv core ctx).storesDue d ||
      (s.takeTlbinv core ctx).soloReads (d.mark.toList.map (· / 64))) = true) :
    exec (.shootdownStart core ctx) s = .next ((s.takeTlbinv core ctx).dropRequests (.engine (.shootdown d.id))) := by
  show execShootdownStart core ctx s = _
  simp only [execShootdownStart, hfind, hwait, if_true]

end

/-- A shootdown whose accesses have drained gives up its grants and is reported to whoever asked for it. -/
theorem exec_shootdownComplete_of_drained {id : Nat} {s : State} {d : Shootdown}
    (hfind : s.shootdowns.find? (fun d => d.id = id) = some d) (hcast : d.broadcast = true) (hdrain : s.drainsFor d = false) :
    exec (.shootdownComplete id) s = .next ((({ s with shootdowns := s.shootdowns.filter (fun x => x.id ≠ id) } : State).dropRequests
      (.engine (.shootdown id))).reportShootdown d) := by
  show execShootdownComplete id s = _
  simp only [execShootdownComplete, hfind, hcast, hdrain, Bool.not_true, Bool.or_self, Bool.false_eq_true, if_false]

theorem State.reportShootdown_thread (s : State) {d : Shootdown} {c i : Nat} {flag : Option Nat} (h : d.starter = .thread c i flag) :
    s.reportShootdown d = s.updLane c d.ctx (·.clearFlag i flag) := by
  simp only [State.reportShootdown, h]

theorem State.reportShootdown_register (s : State) {d : Shootdown} (h : d.starter = .register) :
    s.reportShootdown d = s.updCtx d.ctx (·.updPage (·.invalidated)) := by
  simp only [State.reportShootdown, h]

/-- The part's own shootdowns are reported to nobody. -/
theorem State.reportShootdown_other (s : State) {d : Shootdown} (ht : ∀ c i flag, d.starter ≠ .thread c i flag)
    (hr : d.starter ≠ .register) : s.reportShootdown d = s := by
  unfold State.reportShootdown
  split
  · next c i flag h => exact absurd h (ht c i flag)
  · next h => exact absurd h hr
  · rfl

/-! ### Migrations (R242, R243, R258) -/

/-- The source that a migration registers: its page. -/
def Migration.lock (id : Nat) (m : Migration) : RangeLock :=
  { owner := .migration id, ctx := m.ctx, source := true, ranges := [(m.oldPa, m.size)] }

/-- One lock may be registered where none conflicts, entries are left and the solo pass stands clear; then the grants decide. -/
theorem State.mayRegister_of_free {s : State} {o : EngineOp} {l : RangeLock} (hfree : ∀ k ∈ s.locks, l.conflicts k = false)
    (hroom : s.lockRoom [l] = true) (hsolo : s.lockWaitsSolo [l] = false) : s.mayRegister o [l] = s.takeGrants o l.dies := by
  have hany : s.locks.any (fun k => l.conflicts k) = false := List.any_eq_false.mpr (fun k hk => by simp [hfree k hk])
  simp [State.mayRegister, hany, hroom, hsolo]

theorem State.mayRegister_of_not_free {s : State} {o : EngineOp} {l : RangeLock}
    (h : ¬((∀ k ∈ s.locks, l.conflicts k = false) ∧ s.lockRoom [l] = true ∧ s.lockWaitsSolo [l] = false)) :
    s.mayRegister o [l] = (false, s.dropRequests (.engine o)) := by
  refine if_pos (by_contra fun hc => h ?_)
  simpa [and_assoc] using hc

section
variable {id : Nat} {s : State} {m : Migration}
  (hfind : s.assignFrames.migrations.find? (fun m => m.id = id && !m.locked && m.dest.isSome) = some m)
include hfind

theorem exec_migrationStart_of_not_may
    (h : ¬(m.lost = false ∧ s.assignFrames.linkUp m.oldPa = true ∧ s.assignFrames.underWay m = true)) :
    exec (.migrationStart id) s = .next (s.assignFrames.dropRequests (.engine (.migration id))) := by
  have hc : (m.lost || !s.assignFrames.linkUp m.oldPa || !s.assignFrames.underWay m) = true := by
    by_contra hc
    exact h (by simpa [and_assoc] using hc)
  show execMigrationStart id s = _
  simp only [execMigrationStart, hfind, hc, if_true]

/-- A request that is under way starts or waits as its registration does. -/
theorem exec_migrationStart_of_may
    (h : m.lost = false ∧ s.assignFrames.linkUp m.oldPa = true ∧ s.assignFrames.underWay m = true) {ok : Bool} {v : State}
    (hreg : s.assignFrames.mayRegister (.migration id) [m.lock id] = (ok, v)) :
    exec (.migrationStart id) s = .next (if ok then ((v.dropRequests (.engine (.migration id))).registerLocks [m.lock id]).updMigration id
      (fun m => { m with locked := true }) else v) := by
  obtain ⟨hlost, hlink, hway⟩ := h
  rw [Migration.lock] at hreg
  show execMigrationStart id s = _
  simp only [execMigrationStart, hfind, hlost, hlink, hway, hreg, Bool.not_true, Bool.or_self, Bool.false_eq_true, if_false]
  cases ok with
  | false => rfl
  | true => rfl

end

/-- The shootdown of a moved page's translations (R242). -/
def State.moveShootdown (s : State) (id : Nat) (m : Migration) : Shootdown :=
  { id := s.nextShootdown, ctx := m.ctx, all := false, page := m.va / 65536, pages := m.size / 65536, starter := .migration id
    broadcast := false }

/-- The lines of a migration's page at its old place. -/
def Migration.oldLines (m : Migration) : List (Nat × Nat) := wholeLines ((List.range (m.size / 64)).map (fun i => m.oldPa + 64 * i))

/-- The lines that a migration's commit writes or takes away: of the old page, of the entry and of the new page. -/
def Migration.commitLines (m : Migration) (leaf : LeafAt) (dest : Nat) : List Nat :=
  m.oldLines.map (·.1) ++ [leaf.at_ / 64] ++ (List.range (m.size / 64)).map (fun i => dest / 64 + i)

/-- A page moved in one commit: at its new place with its guards, its entry rewritten, its old lines broadcast. -/
def State.movePage (s : State) (c : Context) (m : Migration) (leaf : LeafAt) (dest : Nat) : State :=
  (((s.engineCommit (devBytes dest (c.keyIndex (field leaf.entry 61 2)) (s.bytesAt m.oldPa m.size))).moveGuards m.oldPa m.size
    dest).rewriteEntry c leaf.at_ (movedEntry leaf.entry dest)).broadcast none m.oldLines [] m.homes

/-- A shootdown broadcast as it is made, under grants that its maker has passed on. -/
def State.shootAtOnce (s : State) (d : Shootdown) : State :=
  ({ s with nextShootdown := s.nextShootdown + 1, shootdowns := s.shootdowns ++ [d] } : State).broadcastShootdown d

section
variable {id : Nat} {s : State} {m : Migration} {c : Context} {dest : Nat}
  (hfind : s.migrations.find? (fun m => m.id = id && m.locked) = some m) (hctx : s.ctx? m.ctx = some c) (hdest : m.dest = some dest)
include hfind hctx hdest

/-- A page that software has moved or taken away meanwhile stays, and the threads parked on it resume (log 20). -/
theorem exec_migrationCommit_of_gone (hleaf : s.migrationLeaf c m = none) :
    exec (.migrationCommit id) s = .next ((s.resumeParked id).endMigration id) := by
  show execMigrationCommit id s = _
  simp only [execMigrationCommit, hfind, hctx, hdest, hleaf]

/-- A migration with every grant, and nothing in the way of its page, moves the page and resumes its threads (R242). -/
theorem exec_migrationCommit_of_grants {leaf : LeafAt} {v : State} (hleaf : s.migrationLeaf c m = some leaf)
    (hfault : s.pageFault m (c.keyIndex (field leaf.entry 61 2)) = none) (hstores : s.storesTo m.oldPa m.size = false)
    (huses : s.soloUses (s.moveShootdown id m) = false) (hreads : s.soloReads (m.commitLines leaf dest) = false)
    (hgrants : s.takeGrants (.migration id) (List.range 16) = (true, v)) :
    exec (.migrationCommit id) s = .next (((((v.passGrants (.migration id) (.shootdown s.nextShootdown)).movePage c m leaf
      dest).shootAtOnce (s.moveShootdown id m)).resumeParked id).endMigration id) := by
  rw [State.moveShootdown] at huses
  rw [Migration.commitLines, Migration.oldLines] at hreads
  show execMigrationCommit id s = _
  simp only [execMigrationCommit, hfind, hctx, hdest, hleaf, hfault, hstores, huses, hreads, hgrants, Option.isSome_none, Bool.or_self,
    Bool.false_eq_true, if_false]
  rfl

end

/-- A migration that fails, once its record is appended, traps the threads parked on it (R243). -/
theorem exec_migrationFail_of_record {id reason : Nat} {s t : State} {m : Migration}
    (hfind : s.migrations.find? (fun m => m.id = id) = some m) (hfails : s.migrationFails m reason = true)
    (hrecord : s.appendRecord (.migration id) m.ctx
      { kind := 1, cause := memCause .load reason, bytes := 0, core := 0, tidx := 0, addr := m.va } = (true, t)) :
    exec (.migrationFail id reason) s = .next ((t.endMigration id).trapParked m reason) := by
  show execMigrationFail id reason s = _
  simp only [execMigrationFail, hfind, hfails, hrecord, Bool.not_true, Bool.false_eq_true, if_false]

/-- Settles O41: each event by the lemma of its outcome, and the translations that a shootdown drops by its broadcast. -/
theorem shootdownsAndMigrations : Obligations.ShootdownsAndMigrations := by
  intro core ctx id reason s
  refine ⟨fun d hfind => ⟨fun v ⟨huses, hdue, hreads⟩ hgrants => ?_, fun hwait => ?_⟩, fun d hfind hcast hdrain => ?_,
    fun m hfind => ⟨fun v hmay ⟨hfree, hroom, hsolo⟩ hgrants => ?_, fun hmay hfree => ?_, exec_migrationStart_of_not_may hfind⟩,
    fun m c dest hfind hctx hdest => ⟨exec_migrationCommit_of_gone hfind hctx hdest, fun leaf hleaf hfault hstores huses hreads v hgrants =>
      exec_migrationCommit_of_grants hfind hctx hdest hleaf hfault hstores huses hreads hgrants⟩,
    fun m t hfind hfails hrecord => exec_migrationFail_of_record hfind hfails ?_⟩
  · have htlb : v.tlb = s.tlb := by simpa [hgrants] using (s.takeTlbinv core ctx).tlb_takeGrants (.shootdown d.id) (List.range 16)
    refine ⟨_, exec_shootdownStart_of_grants hfind huses hdue hreads hgrants, rfl, fun e => ?_⟩
    rw [State.mem_tlb_broadcastShootdown, State.tlb_applyMark, htlb]
  · refine exec_shootdownStart_of_waits hfind (by_contra fun hc => hwait ?_)
    simpa [and_assoc] using hc
  · have hexec := exec_shootdownComplete_of_drained hfind hcast hdrain
    refine ⟨fun c i flag hstarter => ?_, fun hstarter => ?_, fun hthread hregister => ?_⟩
    · rw [hexec, State.reportShootdown_thread _ hstarter]
    · rw [hexec, State.reportShootdown_register _ hstarter]
      rfl
    · rw [hexec, State.reportShootdown_other _ hthread hregister]
  · exact exec_migrationStart_of_may hfind hmay ((State.mayRegister_of_free hfree hroom hsolo).trans hgrants)
  · exact exec_migrationStart_of_may hfind hmay (State.mayRegister_of_not_free hfree)
  · simpa [memCause, AccKind.code] using hrecord

end Sys2Proof.Machine

/-! Links (spec/08 R244, spec/13 R402): where a CXL port that trains again waits for the shootdowns of its loss. -/

namespace Sys2Proof.Machine

/-- While a shootdown of a lost link is to be broadcast, a CXL port stays down (R244, R402). -/
theorem exec_linkRetrain_of_marksDue {port : Nat} {s : State} {p : CxlPort} (hport : port < 4) (hp : s.cxl[port]? = some p)
    (hdown : p.up = false) (hleft : p.retrains < (s.taratAt (port / 2)).linkRetry) (hdue : s.marksDue = true) :
    exec (.linkRetrain port true) s = .next s := by
  show execLinkRetrain port true s = _
  simp [execLinkRetrain, State.retrainCxl, hport, hp, hdown, hleft, hdue]

/-- A context of the PF of port 0 with no page mapped: software has taken its leaves away. -/
def unmappedContext : Context :=
  { num := 0, func := 0, domain := 0, pasid := 0, root := 1, nkey := 0, peers := 0, ranges := [], record := [], keys := [1]
    regs := SysRegs.reset, page := CtxPage.reset [], queues := [], objects := [], objWaiting := none, packets := [], nextChain := 1
    spawnCounter := 0, save := none, frozen := false, preempt := false, dying := none }

/-- The state in which a page behind CXL port 0 is mapped by a cached translation alone. -/
def staleTranslation : State :=
  { State.reset with
    contexts := [unmappedContext]
    tlb := [{ ctx := 0, page := 16, level := 2, entry := 2 ^ 44 + 0x33 }] }

/-- The state that CXL_LINK_DOWN of port 0 leaves: the translation is to be dropped by a shootdown that sets no mark (log 80). -/
def staleTranslationLost : State := staleTranslation.loseCxl 0

/-- Refutes O42: its clause about a CXL port that comes up has it wait for the shootdowns that are to set a mark, but LINK_RETRAIN waits
for every shootdown of a lost link that is still to be broadcast, also for one that sets no mark and drops a cached translation whose
leaf cannot be found (log 80). The loss of port 0 calls for such a shootdown here, and a retraining before its broadcast leaves the port
down. -/
theorem not_linksFailAndRecover : ¬ Obligations.LinksFailAndRecover := by
  intro h
  have hp : staleTranslationLost.cxl[0]? = some { up := false, reported := cxlReported, retrains := 0, missed := [(0, 0)] } :=
    by decide +kernel
  obtain ⟨-, hretrain, -⟩ := h 0 0 0 0 0 0 true staleTranslationLost
  obtain ⟨-, hup, -⟩ := hretrain _ (by decide) hp rfl
  have hleft : 0 < (staleTranslationLost.taratAt 0).linkRetry := by decide +kernel
  have hdue : staleTranslationLost.marksDue = true := by decide +kernel
  obtain ⟨hexec, hcxl⟩ := hup rfl hleft (by decide +kernel) (by decide +kernel)
  rw [exec_linkRetrain_of_marksDue (by decide) hp rfl hleft hdue] at hexec
  rw [← Host.Outcome.next.inj hexec, hp] at hcxl
  exact absurd hcxl (by decide)

end Sys2Proof.Machine

/-! The choice of a block (spec/09 R266): what the best element of a list is, and the three lists the marshal takes it from in turn. -/

namespace Sys2Proof.Machine

/-! ### The best element of a list -/

theorem best_eq_none {α : Type} {beats : α → α → Bool} {xs : List α} : best beats xs = none ↔ xs = [] := by
  cases xs with
  | nil => simp [best]
  | cons x xs => rw [best]; split <;> simp; split <;> simp

theorem mem_of_best {α : Type} {beats : α → α → Bool} {xs : List α} {y : α} (h : best beats xs = some y) : y ∈ xs := by
  induction xs generalizing y with
  | nil => simp [best] at h
  | cons x xs ih =>
    rw [best] at h
    split at h
    · simp_all
    · next z hz =>
      split at h
      · exact List.mem_cons_of_mem x (ih (Option.some.inj h ▸ hz))
      · simp_all

/-- Under a strict weak order nothing in a list beats its best element. -/
theorem not_beats_of_best {α : Type} {beats : α → α → Bool} (hasymm : ∀ x y, beats x y = true → beats y x = false)
    (htrans : ∀ x y z, beats x y = false → beats y z = false → beats x z = false) {xs : List α} {y : α}
    (h : best beats xs = some y) : ∀ x ∈ xs, beats x y = false := by
  have hirrefl (x : α) : beats x x = false := Bool.eq_false_iff.mpr fun hx => by simp [hasymm x x hx] at hx
  induction xs generalizing y with
  | nil => simp
  | cons x xs ih =>
    rw [best] at h
    split at h
    · next hnone =>
      obtain rfl := Option.some.inj h
      simp [best_eq_none.mp hnone, hirrefl]
    · next z hz =>
      split at h
      · next hbeats =>
        obtain rfl := Option.some.inj h
        exact List.forall_mem_cons.mpr ⟨hasymm _ _ hbeats, ih hz⟩
      · next hbeats =>
        obtain rfl := Option.some.inj h
        exact List.forall_mem_cons.mpr ⟨hirrefl x, fun w hw => htrans _ _ _ (ih hz w hw) (Bool.eq_false_iff.mpr hbeats)⟩

/-! ### The marshal's lists (R266) -/

section
variable (l : Lane) (k : Packet)

/-- The blocks with waiting threads whose age has come to 2 × AGE. -/
def Lane.overdueBlocks : List Nat := (l.nonempty k).filter (fun b => 2 * l.regs.age ≤ l.ageOf b)

/-- The blocks with waiting threads that have FILL of them, or have come to AGE. -/
def Lane.eligibleBlocks : List Nat :=
  (l.nonempty k).filter (fun b => l.regs.fill ≤ l.waitingCount k b || l.regs.age ≤ l.ageOf b)

/-- Of two blocks the one of lower rank goes first. -/
def Packet.lowerRank (a b : Nat) : Bool := decide ((k.info a).rank < (k.info b).rank)

/-- Of two overdue blocks the older goes first, and of equally old ones the one of lower rank. -/
def Lane.olderOrLower (a b : Nat) : Bool :=
  decide (l.ageOf b < l.ageOf a) || (decide (l.ageOf a = l.ageOf b) && k.lowerRank a b)

theorem Lane.chosen_eq : l.chosen? k = (best (l.olderOrLower k) (l.overdueBlocks k)).or
    ((best k.lowerRank (l.eligibleBlocks k)).or
      (if l.passes.any (fun p => p.state = .streaming) then none else best k.lowerRank (l.nonempty k))) := by
  unfold Lane.chosen?
  dsimp only
  split
  · next h => exact (congrArg (Option.or · _) h).symm
  · next h =>
    refine .trans ?_ (congrArg (Option.or · _) h).symm
    split
    · next h => exact (congrArg (Option.or · _) h).symm
    · next h => exact (congrArg (Option.or · _) h).symm

variable {l k} {b blk : Nat}

theorem Lane.mem_overdueBlocks : b ∈ l.overdueBlocks k ↔ b ∈ l.nonempty k ∧ 2 * l.regs.age ≤ l.ageOf b := by
  simp [Lane.overdueBlocks]

theorem Lane.mem_eligibleBlocks :
    b ∈ l.eligibleBlocks k ↔ b ∈ l.nonempty k ∧ (l.regs.fill ≤ l.waitingCount k b ∨ l.regs.age ≤ l.ageOf b) := by
  simp [Lane.eligibleBlocks]

theorem Lane.waitingCount_pos_of_nonempty (h : b ∈ l.nonempty k) : 0 < l.waitingCount k b := by
  simpa using (List.mem_filter.mp h).2

theorem Packet.rank_le_of_best {bs : List Nat} (h : best k.lowerRank bs = some blk) (hb : b ∈ bs) :
    (k.info blk).rank ≤ (k.info b).rank := by
  have := not_beats_of_best (beats := k.lowerRank) (by simp [Packet.lowerRank]; omega) (by simp [Packet.lowerRank]; omega) h b hb
  simpa [Packet.lowerRank] using this

theorem Lane.older_or_lower_of_best {bs : List Nat} (h : best (l.olderOrLower k) bs = some blk) (hb : b ∈ bs) :
    l.ageOf b < l.ageOf blk ∨ (l.ageOf b = l.ageOf blk ∧ (k.info blk).rank ≤ (k.info b).rank) := by
  have := not_beats_of_best (beats := l.olderOrLower k) (by simp [Lane.olderOrLower, Packet.lowerRank]; omega)
    (by simp [Lane.olderOrLower, Packet.lowerRank]; omega) h b hb
  simp only [Lane.olderOrLower, Packet.lowerRank, Bool.or_eq_false_iff, Bool.and_eq_false_iff, decide_eq_false_iff_not] at this
  omega

/-- R266: the block chosen is the best overdue one; without one, the best eligible one; without that, while no pass streams, the
best nonempty one. -/
theorem Lane.chosen_cases : l.chosen? k = some blk ↔
    best (l.olderOrLower k) (l.overdueBlocks k) = some blk ∨
    (l.overdueBlocks k = [] ∧ best k.lowerRank (l.eligibleBlocks k) = some blk) ∨
    (l.overdueBlocks k = [] ∧ l.eligibleBlocks k = [] ∧ (∀ p ∈ l.passes, p.state ≠ .streaming) ∧
      best k.lowerRank (l.nonempty k) = some blk) := by
  simp [Lane.chosen_eq, Option.or_eq_some_iff, best_eq_none, and_or_left]

theorem Lane.chosen_eq_none : l.chosen? k = none ↔ l.overdueBlocks k = [] ∧ l.eligibleBlocks k = [] ∧
    (¬(∀ p ∈ l.passes, p.state ≠ .streaming) ∨ l.nonempty k = []) := by
  rw [Lane.chosen_eq, Option.or_eq_none_iff, Option.or_eq_none_iff, best_eq_none, best_eq_none]
  by_cases h : ∃ p ∈ l.passes, p.state = .streaming <;> simp_all [best_eq_none]

end

/-- Settles O33: the three lists of R266 in turn, and the best element of each. -/
theorem blockChoiceFollowsAgeAndRank : Obligations.BlockChoiceFollowsAgeAndRank := by
  intro l k waits overdue eligible drain
  have hoverdue : l.overdueBlocks k = [] ↔ ∀ b, ¬overdue b := by
    simp only [List.eq_nil_iff_forall_not_mem, Lane.mem_overdueBlocks, overdue, waits]
  have heligible : l.eligibleBlocks k = [] ↔ ∀ b, ¬eligible b := by
    simp only [List.eq_nil_iff_forall_not_mem, Lane.mem_eligibleBlocks, eligible, waits]
  refine ⟨fun blk h => ?_, ?_⟩
  · have hwaits : waits blk := by
      obtain h | ⟨-, h⟩ | ⟨-, -, -, h⟩ := Lane.chosen_cases.mp h
      · exact (Lane.mem_overdueBlocks.mp (mem_of_best h)).1
      · exact (Lane.mem_eligibleBlocks.mp (mem_of_best h)).1
      · exact mem_of_best h
    refine ⟨hwaits, Lane.waitingCount_pos_of_nonempty hwaits, ?_⟩
    obtain h | ⟨hno, h⟩ | ⟨hno, hne, hdrain, h⟩ := Lane.chosen_cases.mp h
    · have hblk : overdue blk := Lane.mem_overdueBlocks.mp (mem_of_best h)
      exact ⟨fun b hb => ⟨hblk, Lane.older_or_lower_of_best h (Lane.mem_overdueBlocks.mpr hb)⟩,
        fun hno => absurd hblk (hno blk), fun hno => absurd hblk (hno blk)⟩
    · have hno := hoverdue.mp hno
      have hblk : eligible blk := Lane.mem_eligibleBlocks.mp (mem_of_best h)
      exact ⟨fun b hb => absurd hb (hno b), fun _ b hb => ⟨hblk, Packet.rank_le_of_best h (Lane.mem_eligibleBlocks.mpr hb)⟩,
        fun _ hne => absurd hblk (hne blk)⟩
    · have hno := hoverdue.mp hno
      have hne := heligible.mp hne
      exact ⟨fun b hb => absurd hb (hno b), fun _ b hb => absurd hb (hne b),
        fun _ _ => ⟨hdrain, fun b hb => Packet.rank_le_of_best h hb⟩⟩
  · rw [Lane.chosen_eq_none, hoverdue, heligible, List.eq_nil_iff_forall_not_mem]

end Sys2Proof.Machine

/-! The dealing of threads (spec/09 R260): the indices of one core in a formula, and their number. -/

namespace Sys2Proof.Machine

/-! ### The indices of a core -/

/-- The index of place `i` among those dealt to the core of position `k` of `n`: runs of 256 indices, one run in `n`. -/
def dealtId (n k i : Nat) : Nat := 256 * (n * (i / 256) + k) + i % 256

/-- The successor of a dealt index is the next of its run, or the first of the core's next run. -/
theorem dealtId_succ {n : Nat} (hn : 0 < n) (k i : Nat) : dealtId n k (i + 1) =
    if (dealtId n k i + 1) % 256 = 0 then dealtId n k i + 1 + 256 * (n - 1) else dealtId n k i + 1 := by
  obtain ⟨m, rfl⟩ : ∃ m, n = m + 1 := ⟨n - 1, by omega⟩
  unfold dealtId
  by_cases h : (i + 1) % 256 = 0
  · have hq : (i + 1) / 256 = i / 256 + 1 := by omega
    rw [if_pos (by omega), hq, Nat.mul_succ]
    omega
  · have hq : (i + 1) / 256 = i / 256 := by omega
    rw [if_neg (by omega), hq]
    omega

theorem dealtId_strictMono {n : Nat} (hn : 0 < n) (k : Nat) : StrictMono (dealtId n k) :=
  strictMono_nat_of_lt_succ fun i => by rw [dealtId_succ hn]; split <;> omega

/-- The pending threads of a core are the dealt indices in turn. -/
theorem pendingIds_dealtId {n : Nat} (hn : 0 < n) (k m i : Nat) :
    pendingIds n m (dealtId n k i) = (List.range' i m).map (dealtId n k) := by
  induction m generalizing i with
  | zero => rfl
  | succ m ih => rw [pendingIds, ← dealtId_succ hn, ih, List.range'_succ, List.map_cons]

theorem pendingIds_eq {n : Nat} (hn : 0 < n) (k m : Nat) :
    pendingIds n m (256 * k) = (List.range m).map (dealtId n k) := by
  have := pendingIds_dealtId hn k m 0
  rwa [show dealtId n k 0 = 256 * k by simp [dealtId], ← List.range_eq_range'] at this

theorem pendingIds_pairwise_lt {n : Nat} (hn : 0 < n) (k m : Nat) : (pendingIds n m (256 * k)).Pairwise (· < ·) := by
  rw [pendingIds_eq hn, List.pairwise_map]
  exact List.pairwise_lt_range.imp fun h => dealtId_strictMono hn k h

/-- The dealt indices of a core are those whose run of 256 is its own. -/
theorem exists_dealtId_eq {n k t : Nat} (hk : k < n) : (∃ i, dealtId n k i = t) ↔ t / 256 % n = k := by
  constructor
  · rintro ⟨i, rfl⟩
    have hrun : dealtId n k i / 256 = n * (i / 256) + k := by unfold dealtId; omega
    rw [hrun, Nat.mul_add_mod, Nat.mod_eq_of_lt hk]
  · rintro rfl
    refine ⟨256 * (t / 256 / n) + t % 256, ?_⟩
    have hq : (256 * (t / 256 / n) + t % 256) / 256 = t / 256 / n := by omega
    rw [dealtId, hq, Nat.div_add_mod]
    omega

/-! ### The share of a core -/

/-- A core's share counts its dealt indices below the number of threads: those of the whole rounds, and what the last round has
left for it. -/
theorem dealtId_lt_iff {n k : Nat} (hk : k < n) (total i : Nat) : dealtId n k i < total ↔ i < launchShare n total k := by
  have htotal := Nat.div_add_mod total (256 * n)
  have hrest := Nat.mod_lt total (show 0 < 256 * n by omega)
  unfold dealtId launchShare
  generalize total / (256 * n) = q at *
  generalize total % (256 * n) = r at *
  rw [Nat.mul_assoc] at htotal
  obtain h | h | h := Nat.lt_trichotomy (i / 256) q
  · have := Nat.mul_le_mul_left n (Nat.succ_le_of_lt h)
    rw [Nat.mul_succ] at this
    omega
  · rw [h]
    omega
  · have := Nat.mul_le_mul_left n (Nat.succ_le_of_lt h)
    rw [Nat.mul_succ] at this
    omega

/-- R260: the threads pending on a core at gate opening. -/
theorem mem_pendingIds_launchShare {n k : Nat} (hk : k < n) (total t : Nat) :
    t ∈ pendingIds n (launchShare n total k) (256 * k) ↔ t < total ∧ t / 256 % n = k := by
  rw [pendingIds_eq (by omega), ← exists_dealtId_eq hk]
  simp only [List.mem_map, List.mem_range, ← dealtId_lt_iff hk]
  constructor
  · rintro ⟨i, hi, rfl⟩
    exact ⟨hi, i, rfl⟩
  · rintro ⟨ht, i, rfl⟩
    exact ⟨i, ht, rfl⟩

/-- The last round goes to the cores in turn, a run of 256 to each while it lasts. -/
theorem sum_min_run (r m : Nat) : ((List.range m).map (fun k => min 256 (r - 256 * k))).sum = min r (256 * m) := by
  induction m with
  | zero => simp
  | succ m ih =>
    rw [List.range_succ, List.map_append, List.sum_append, ih]
    simp only [List.map_cons, List.map_nil, List.sum_singleton]
    omega

theorem sum_launchShare {n : Nat} (hn : 0 < n) (total : Nat) : ((List.range n).map (launchShare n total)).sum = total := by
  have hrest := Nat.mod_lt total (show 0 < 256 * n by omega)
  calc ((List.range n).map (launchShare n total)).sum
      = n * (256 * (total / (256 * n))) + min (total % (256 * n)) (256 * n) := by
        rw [← sum_min_run]
        show ((List.range n).map (fun k => 256 * (total / (256 * n)) + min 256 (total % (256 * n) - 256 * k))).sum = _
        simp [List.sum_map_add]
    _ = total := by
        rw [Nat.min_eq_left (by omega), ← Nat.mul_assoc, Nat.mul_comm n 256, Nat.div_add_mod]

/-- A LAUNCH's gate opening deals a core its share, from its first run on. -/
theorem Lane.pendingList_opened (r : Region) {p : Packet} (l : Lane) (hp : p.type = 1) (cores : Nat) :
    (l.opened r p).pendingList (some cores) (l.opened r p).pendingLeft =
      pendingIds cores (launchShare (r.h * r.w) p.threadCount (positionOf l.core r.cores)) (256 * positionOf l.core r.cores) := by
  simp [Lane.opened, Lane.pendingList, hp]

/-- Settles O45: the pending threads of a core are its dealt indices in turn, and the shares add up. -/
theorem everyThreadIsDealtOnce : Obligations.EveryThreadIsDealtOnce := by
  refine ⟨fun n total hn => ⟨fun k hk => ⟨mem_pendingIds_launchShare hk total, pendingIds_pairwise_lt hn k _⟩,
    sum_launchShare hn total⟩, fun r p l hp hpos => ?_⟩
  intro x t
  rw [Lane.pendingList_opened r l hp, mem_pendingIds_launchShare hpos]

end Sys2Proof.Machine

/-! The marshal's events (spec/09 R265-R270, R285, R286, R290, spec/10 R316, spec/01 R37, R40): what each event does while its condition
holds. -/

namespace Sys2Proof.Machine

/-- Core cycles leave a lane in its place. -/
theorem State.tickLane_place (s : State) (n : Nat) (l : Lane) : (s.tickLane n l).core = l.core ∧ (s.tickLane n l).ctx = l.ctx := by
  unfold State.tickLane
  dsimp only
  split <;> exact ⟨rfl, rfl⟩

section
variable {s : State} {core ctx tidx : Nat} {l : Lane} (hl : s.lane? core ctx = some l)
include hl

/-! ### The choice, its configuration and the admission (R266, R59, R261, R270) -/

section
variable {k : Packet} (hk : (s.ctx? ctx).bind (·.kernelPacket?) = some k)
include hk

theorem exec_marshalBlockChoice_of_chosen {blk : Nat} (hmay : l.mayChoose k = true) (hchosen : l.chosen? k = some blk) :
    exec (.marshalBlockChoice core ctx) s =
      .next ((s.updLane core ctx (fun l => l.choose k (s.dealCores ctx k) blk)).active core ctx) := by
  show execMarshalBlockChoice core ctx s = _
  simp [execMarshalBlockChoice, hl, hk, hmay, hchosen]

theorem exec_configurationLoadDone_of_loaded {p : Pass} {t : State} {b : Block} (hp : l.loading? = some p) (hf : l.frozen = false)
    (hb : s.loadBlock ctx k l.stage p.blk = .ok t b) :
    exec (.configurationLoadDone core ctx) s = .next ((t.updLane core ctx (fun l =>
      { l.updPass p.id (fun p => { p with state := .streaming }) with
        slots := listSet l.slots p.slot (fun _ => { block := some b }) })).active core ctx) := by
  show execConfigurationLoadDone core ctx s = _
  simp [execConfigurationLoadDone, hl, hk, hp, hf, hb]

section
variable {p : Pass} {b : Block} (hp : l.admits? = some p) (hb : l.block? p = some b) (hid : p.admission[p.admitted]? = some tidx)
include hp hb hid

theorem exec_threadAdmission_of_resident {t : Thread} (ht : l.thread? tidx = some t) (hspill : t.spill = none) :
    exec (.threadAdmission core ctx) s = .next (s.admitThread core ctx p b tidx t.entryTrap) := by
  show execThreadAdmission core ctx s = _
  simp [execThreadAdmission, hl, hk, hp, hb, hid, ht, hspill]

theorem exec_threadAdmission_of_pending {t : State} (ht : l.thread? tidx = none)
    (hcreate : s.createThread core ctx tidx k.slots [some k.arg] (.inPass p.id) = .ok t) :
    exec (.threadAdmission core ctx) s = .next (t.admitThread core ctx p b tidx none) := by
  show execThreadAdmission core ctx s = _
  simp [execThreadAdmission, hl, hk, hp, hb, hid, ht, hcreate]

end

/-! ### Yields and ages (R265, R316) -/

theorem exec_yieldRelease_of_over {t : Thread} {left b : Nat} {blks : List Nat} {old : Bool} (ht : l.thread? tidx = some t)
    (hyield : t.yieldLeft = some (left, blks)) (hplace : t.place = .waiting b old)
    (hover : left = 0 ∨ blks = [] ∨ ∀ x ∈ l.nonempty k, x = b) :
    exec (.yieldRelease core ctx tidx) s =
      .next (s.updLane core ctx (fun l => l.updThread tidx (fun t => { t with yieldLeft := none }))) := by
  show execYieldRelease core ctx tidx s = _
  have hcond : (decide (left = 0) || blks.isEmpty || (l.nonempty k).all (fun x => x = b)) = true := by simpa [or_assoc] using hover
  simp [execYieldRelease, hl, hk, ht, hyield, hplace, hcond]

/-- The missing cycles pass up to the threshold that the age comes to next (log 43). -/
theorem exec_ageThresholdReached_of_goal {blk goal : Nat} (hf : l.frozen = false) (hw : l.waitingCount k blk ≠ 0)
    (hgoal : goal = if l.ageOf blk < l.regs.age then l.regs.age else 2 * l.regs.age) (hlt : l.ageOf blk < goal) :
    exec (.ageThresholdReached core ctx blk) s = .next (s.elapseCore core (goal - l.ageOf blk)) := by
  show execAgeThresholdReached core ctx blk s = _
  simp only [execAgeThresholdReached, hl, hk, ← hgoal]
  simp [hf, hw, hlt]

end

/-! ### Replay (R285) -/

theorem exec_passReplay_of_configured {p : Pass} {b : Block} (hp : l.replays? = some p) (hb : l.block? p = some b) :
    exec (.passReplay core ctx) s =
      .next (s.updPass core ctx p.id (fun q => { q with state := if b.blk = p.blk then .streaming else .loading })) := by
  show execPassReplay core ctx s = _
  simp [execPassReplay, hl, hp, hb]

theorem exec_passReplay_of_empty {p : Pass} (hp : l.replays? = some p) (hb : l.block? p = none) :
    exec (.passReplay core ctx) s = .next (s.updPass core ctx p.id (fun p => { p with state := .loading })) := by
  show execPassReplay core ctx s = _
  simp [execPassReplay, hl, hp, hb]

/-! ### Core cycles and the rate window (R290) -/

theorem exec_rateWindowExpiry_of_running (hf : l.frozen = false) :
    exec (.rateWindowExpiry core ctx) s = .next (s.elapseCore core (l.regs.rlwindow - l.rateCycles)) := by
  show execRateWindowExpiry core ctx s = _
  simp [execRateWindowExpiry, hl, hf]

/-- The core cycles of a core pass on each of its marshals that is not frozen. -/
theorem State.lane_elapseCore (hf : l.frozen = false) (n : Nat) : (s.elapseCore core n).lane? core ctx = some (s.tickLane n l) := by
  have hcore : l.core = core := (by simpa using List.find?_some hl : l.core = core ∧ l.ctx = ctx).1
  have hsame : (fun m : Lane => decide (m.core = core) && decide (m.ctx = ctx)) ∘
      (fun m => if m.core = core && !m.frozen then s.tickLane n m else m) = fun m => m.core = core && m.ctx = ctx := by
    funext m
    simp only [Function.comp_apply]
    split
    · rw [(s.tickLane_place n m).1, (s.tickLane_place n m).2]
    · rfl
  unfold State.lane? at hl ⊢
  rw [State.elapseCore, List.find?_map, hsame, hl]
  simp [hcore, hf]

/-! ### System-register writes (R37, R40) -/

theorem State.headDeferred_of_nil (hd : l.deferred = []) : s.headDeferred core ctx = none := by
  simp [State.headDeferred, hl, hd]

/-- The writes that have reached the core take effect where no pass streams. -/
theorem lane_of_syswrTakeEffect (hd : l.deferred = []) (hp : ∀ p ∈ l.passes, p.state ≠ .streaming) :
    ∃ t, exec (.syswrTakeEffect core ctx) s = .next t ∧ t.lane? core ctx = some l.takeWrites := by
  refine ⟨s.updLane core ctx (fun l => if l.passes.any (fun p => p.state = .streaming && p.admitting) then l else l.takeWrites),
    ?_, ?_⟩
  · show execSyswrTakeEffect core ctx s = _
    simp only [execSyswrTakeEffect, State.headDeferred_of_nil hl hd]
  · have hnone : l.passes.any (fun p => p.state = .streaming && p.admitting) = false := by simpa using fun p h hs => absurd hs (hp p h)
    rw [State.lane_updLane_same _ _ _ _ (fun m => by split <;> exact ⟨rfl, rfl⟩), hl, Option.map_some, hnone]
    rfl

end

theorem exec_syswrTakeEffect_of_head {s : State} {core ctx num : Nat} {v : Word} {d : Deferred}
    (hd : s.headDeferred core ctx = some d) (hk : d.kind = .syswr num v) :
    exec (.syswrTakeEffect core ctx) s = .next (((s.updLane core ctx (·.popDeferred)).sendRegWrite ctx num v.toNat).updLane
      core ctx (fun l => if l.passes.any (fun p => p.state = .streaming && p.admitting) then l else l.takeWrites)) := by
  show execSyswrTakeEffect core ctx s = _
  simp only [execSyswrTakeEffect, hd, hk]

/-! ### The rate window of a lane (R290) -/

theorem State.rateCycles_tickLane (s : State) (n : Nat) (l : Lane) :
    (s.tickLane n l).rateCycles = (l.rateCycles + n) % l.regs.rlwindow := rfl

theorem State.rateTokens_tickLane (s : State) (n : Nat) (l : Lane) :
    (s.tickLane n l).rateTokens = if l.rateCycles + n < l.regs.rlwindow then l.rateTokens else 0 := rfl

/-- The cycles that end a window begin the next, with no token taken. -/
theorem State.tickLane_window_end (s : State) {l : Lane} (h : l.rateCycles < l.regs.rlwindow) :
    (s.tickLane (l.regs.rlwindow - l.rateCycles) l).rateTokens = 0 ∧
      (s.tickLane (l.regs.rlwindow - l.rateCycles) l).rateCycles = 0 := by
  rw [State.rateCycles_tickLane, State.rateTokens_tickLane, Nat.add_sub_of_le h.le]
  exact ⟨if_neg (Nat.lt_irrefl _), Nat.mod_self _⟩

/-- Within a window the tokens stay counted. -/
theorem State.tickLane_within_window (s : State) {n : Nat} {l : Lane} (h : l.rateCycles + n < l.regs.rlwindow) :
    (s.tickLane n l).rateTokens = l.rateTokens ∧ (s.tickLane n l).rateCycles = l.rateCycles + n := by
  rw [State.rateCycles_tickLane, State.rateTokens_tickLane]
  exact ⟨if_pos h, Nat.mod_eq_of_lt h⟩

/-! ### The solo ticket (R286) -/

/-- A request that no earlier pass of its core holds back is that of a pass with none uncommitted before it (R287, log 93). -/
theorem State.lane_of_firstOnCore {s : State} {q : PassRef} (hmem : q ∈ s.soloSeekersNow) (hfirst : s.firstOnCore q = true) :
    ∃ m, s.lane? q.core q.ctx = some m ∧ (m.pass? q.pass).isSome = true ∧ m.uncommitted q.pass = [] := by
  have hpass := (List.mem_filter.mp hmem).2
  unfold State.firstOnCore at hfirst
  split at hfirst
  · next m hm => exact ⟨m, hm, by simpa [hm] using hpass, List.isEmpty_iff.mp hfirst⟩
  · exact absurd hfirst Bool.false_ne_true

theorem exec_soloTicketGrant_of_free {s : State} {q : PassRef} (hfree : s.soloHolder = none)
    (hq : s.soloSeekersNow.find? s.firstOnCore = some q) :
    exec .soloTicketGrant s = .next (({ s with soloHolder := some q, soloQueue := s.soloSeekersNow.erase q } : State).updPass
      q.core q.ctx q.pass (fun p => { p with solo := .holding })) := by
  show execSoloTicketGrant s = _
  simp only [execSoloTicketGrant, hfree, hq]

/-- Settles O34: each event by the lemma of its outcome. -/
theorem marshalEventsTakeEffect : Obligations.MarshalEventsTakeEffect := by
  intro core ctx tidx blk s l k hl hk
  refine ⟨exec_marshalBlockChoice_of_chosen hl hk, fun p t b => exec_configurationLoadDone_of_loaded hl hk,
    fun p b t hp hb hid => exec_threadAdmission_of_resident hl hk hp hb hid,
    fun p b t hp hb hid => exec_threadAdmission_of_pending hl hk hp hb hid,
    fun p b => exec_passReplay_of_configured hl, fun p => exec_passReplay_of_empty hl, fun q hfree hq => ⟨?_, ?_⟩,
    fun t left blks b old => exec_yieldRelease_of_over hl hk, fun hf hlt => ⟨exec_rateWindowExpiry_of_running hl hf, ?_⟩,
    fun hf n hlt => ?_, fun hf hw hlt => ?_, fun hf hw hle hlt => ?_, lane_of_syswrTakeEffect hl,
    fun d num v => exec_syswrTakeEffect_of_head⟩
  · exact State.lane_of_firstOnCore (List.mem_of_find?_eq_some hq) (List.find?_some hq)
  · exact exec_soloTicketGrant_of_free hfree hq
  · exact ⟨_, State.lane_elapseCore hl hf _, s.tickLane_window_end hlt⟩
  · exact ⟨_, State.lane_elapseCore hl hf n, s.tickLane_within_window hlt⟩
  · exact exec_ageThresholdReached_of_goal hl hk hf hw (if_pos hlt).symm hlt
  · exact exec_ageThresholdReached_of_goal hl hk hf hw (if_neg (Nat.not_lt.mpr hle)).symm hlt

end Sys2Proof.Machine

/-! The end of a pass, its grants, its commit and its broadcast (spec/09 R269, spec/06 R162-R168, spec/07 R220): what each event does
while its condition holds. -/

namespace Sys2Proof.Machine

/-! ### A pass after it has been changed -/

theorem Lane.pass_updPass_same (l : Lane) (id : Nat) (f : Pass → Pass) (hf : ∀ p, (f p).id = p.id) :
    (l.updPass id f).pass? id = (l.pass? id).map f := by
  have := find_map_same (fun p : Pass => decide (p.id = id)) f l.passes (fun p hp => by simpa [hf p] using hp)
  simpa [Lane.updPass, Lane.pass?] using this

theorem State.passOf_updPass {s : State} {core ctx id tidx idx : Nat} {p : Pass} {f : Pass → Pass} (hf : ∀ p, (f p).id = p.id)
    (hp : s.passOf? { core := core, ctx := ctx, pass := id, tidx := tidx, idx := idx } = some p) :
    (s.updPass core ctx id f).passOf? { core := core, ctx := ctx, pass := id, tidx := tidx, idx := idx } = some (f p) := by
  obtain ⟨l, hl, hp⟩ := Option.bind_eq_some_iff.mp hp
  refine Option.bind_eq_some_iff.mpr ⟨l.updPass id f, ?_, ?_⟩
  · exact (State.lane_updLane_same s core ctx (·.updPass id f) fun _ => ⟨rfl, rfl⟩).trans (hl ▸ rfl)
  · exact (l.pass_updPass_same id f hf).trans (hp ▸ rfl)

/-! ### A pass without stores into scaled maps (R206) -/

section
variable {s : State} {x : Firing} {b : Block} {p : Pass} (hp : s.passOf? x = some p) (hscaled : p.scaled = [])
include hscaled

theorem Pass.scaledBlocks_of_nil (b : Block) : p.scaledBlocks b = [] := by simp [Pass.scaledBlocks, Pass.liveScaled, hscaled]

include hp

theorem State.checkBlocks_of_unscaled (fuel : Nat) : State.checkBlocks fuel s x b = s := by
  cases fuel with
  | zero => rfl
  | succ fuel => simp [State.checkBlocks, hp, Pass.scaledBlocks_of_nil hscaled, State.probeBlocks]

theorem State.writeBlocks_of_unscaled : s.writeBlocks x b = s := by simp [State.writeBlocks, hp, Pass.scaledBlocks_of_nil hscaled]

end

/-! ### PASS_END (R269) -/

/-- A submitted pass excludes the threads that leave it. -/
theorem Pass.excluded_submit (p : Pass) :
    (p.submit.runs.filter (·.excluded)).map (·.tidx) = (p.runs.filter (·.leaves)).map (·.tidx) := by
  simp only [Pass.submit, List.filter_map, List.map_map]
  rfl

section
variable {s t u : State} {core ctx : Nat} {l : Lane} {k : Packet} {p : Pass} {b : Block} {late judged : List Run}
  (hl : s.lane? core ctx = some l) (hk : (s.ctx? ctx).bind (·.kernelPacket?) = some k)
  (hover : l.over? = some p) (hpass : l.pass? p.id = some p) (hb : l.block? p = some b) (hscaled : p.scaled = [])
  (hlate : p.runs.map (fun r => r.settle b ((l.thread? r.tidx).elim 0 (·.lvsn))) = late)
  (ht : s.updPass core ctx p.id (fun p => { p with runs := late }) = t)
  (hjudged : t.judgeAll l k (t.viewFor l { p with runs := late }) (byThread late) = judged)
  (hu : t.updPass core ctx p.id (fun p => { p with runs := judged }) = u)
include hl hk hover hpass hb hscaled hlate ht hjudged hu

/-- The end of a pass without stores into scaled maps: once its runs are settled and judged, it is run again when it is tainted, and
submitted when it is not. -/
theorem exec_passEnd_of_unscaled : exec (.passEnd core ctx) s = .next (
    if Pass.tainted { p with runs := judged } then
      (u.runAgain { core := core, ctx := ctx, pass := p.id } { p with runs := judged }).active core ctx
    else (((u.updPass core ctx p.id (·.submit)).withdraw { core := core, ctx := ctx, pass := p.id }
      ((judged.filter (·.leaves)).map (·.tidx))).linearizeIdle core ctx).active core ctx) := by
  have hs : s.passOf? { core := core, ctx := ctx, pass := p.id, tidx := 0, idx := 0 } = some p := by
    simp [State.passOf?, hl, hpass]
  have hlater : t.passOf? { core := core, ctx := ctx, pass := p.id, tidx := 0, idx := 0 } = some { p with runs := late } := by
    rw [← ht]
    exact State.passOf_updPass (fun _ => rfl) hs
  have hfinal : u.passOf? { core := core, ctx := ctx, pass := p.id, tidx := 0, idx := 0 } = some { p with runs := judged } := by
    rw [← hu]
    exact State.passOf_updPass (p := { p with runs := late }) (fun _ => rfl) hlater
  have hsubmit := State.passOf_updPass (f := (·.submit)) (fun _ => rfl) hfinal
  have hout := Pass.excluded_submit { p with runs := judged }
  show execPassEnd core ctx s = _
  simp only [execPassEnd, hl, hk, hover, hb, hlate, ht, State.checkBlocks_of_unscaled hlater hscaled, hlater, hjudged, hu,
    State.checkBlocks_of_unscaled hfinal hscaled, hfinal]
  cases htaint : Pass.tainted { p with runs := judged } with
  | false => simp only [Option.filter_some, htaint, State.writeBlocks_of_unscaled hfinal hscaled, hsubmit, hout, if_false,
      Bool.false_eq_true]
  | true => simp only [Option.filter_some, htaint, if_true]

end

/-! ### ARBITER_GRANT (R162, R163) -/

/-- An update of an arbiter looks at that arbiter alone. -/
theorem State.updArbiter_congr {s : State} {die : Nat} {a : Arbiter} {f g : Arbiter → Arbiter} (ha : s.arbiters[die]? = some a)
    (hfg : f a = g a) : s.updArbiter die f = s.updArbiter die g := by
  have : s.arbiters.mapIdx (fun i a => if i = die then f a else a) = s.arbiters.mapIdx (fun i a => if i = die then g a else a) := by
    refine List.ext_getElem? fun i => ?_
    rw [List.getElem?_mapIdx, List.getElem?_mapIdx]
    by_cases hi : i = die
    · subst hi
      simp [ha, hfg]
    · simp [hi]
  rw [State.updArbiter, this, State.updArbiter]

theorem exec_arbiterGrant_of_die {die : Nat} (hdie : die < 16) (s : State) :
    exec (.arbiterGrant die) s = .next ((s.queueRequests die).serveHead die) := by
  show execArbiterGrant die s = _
  rw [execArbiterGrant, if_pos hdie]

section
variable {t : State} {die : Nat}

section
variable {q : PassRef} {p : Pass} {rest : List Requester} (hqueue : (t.arbiters[die]?).map (·.queue) = some (.chunk q :: rest))
  (hpass : t.passAt? q = some p)
include hqueue hpass

/-- How the chunk at the head of a queue is served. -/
theorem State.serveHead_of_chunk : t.serveHead die =
    if (p.got.isEmpty || p.need.length ≤ 1) && t.meetsSolo q p then t.giveUp q
    else if t.unheard die q || t.lastGrantWaits q p then t else t.issueGrant die q := by
  have hhead : (t.arbiters[die]?).bind (fun a => a.queue.head?) = some (.chunk q) := by
    rw [show (fun a : Arbiter => a.queue.head?) = List.head? ∘ (·.queue) from rfl, ← Option.bind_map, hqueue]
    rfl
  simp only [State.serveHead, hhead, hpass]

theorem State.serveHead_of_granted (hsolo : t.meetsSolo q p = false) (hheard : t.unheard die q = false)
    (hlast : t.lastGrantWaits q p = false) : t.serveHead die = t.issueGrant die q := by
  simp [State.serveHead_of_chunk hqueue hpass, hsolo, hheard, hlast]

theorem State.serveHead_of_waits (hsolo : t.meetsSolo q p = false) (hwaits : t.unheard die q = true ∨ t.lastGrantWaits q p = true) :
    t.serveHead die = t := by
  simp [State.serveHead_of_chunk hqueue hpass, hsolo, hwaits]

theorem State.serveHead_of_meetsSolo (hsolo : t.meetsSolo q p = true) (hfree : p.got = [] ∨ p.need.length ≤ 1) :
    t.serveHead die = t.giveUp q := by
  simp [State.serveHead_of_chunk hqueue hpass, hsolo, hfree]

end

/-- An arbiter that has no grant out grants the engine commit at its head. -/
theorem State.serveHead_of_engine {o : EngineOp} {rest : List Requester}
    (ha : t.arbiters[die]? = some { queue := .engine o :: rest, granted := [] }) :
    t.serveHead die = t.updArbiter die (fun _ => { queue := rest, granted := [.engine o] }) := by
  simp only [State.serveHead, ha, Option.bind_some, List.head?_cons]
  exact State.updArbiter_congr ha rfl

end

/-! ### CHUNK_COMMIT and W_C_BROADCAST_ARRIVAL (R163, R164, R166, R220) -/

/-- A pass that has linearized does not linearize again. -/
theorem State.linearizeIdle_of_granted {s : State} {core ctx : Nat} {l : Lane} {p : Pass} {rest : List Pass}
    (hl : s.lane? core ctx = some l) (hp : l.passes = p :: rest) (hstate : p.state = .granted) : s.linearizeIdle core ctx = s := by
  simp [State.linearizeIdle, State.mayRequest, hl, hp, hstate]

theorem exec_chunkCommit_of_granted {s t : State} {core ctx : Nat} {l : Lane} {k : Packet} {p : Pass} {rest : List Pass} {b : Block}
    {g : List (Nat × Nat × Option Nat)} (hl : s.lane? core ctx = some l) (hk : (s.ctx? ctx).bind (·.kernelPacket?) = some k)
    (hp : l.passes = p :: rest) (hstate : p.state = .granted) (hb : l.block? p = some b)
    (hgrows : p.grows = true → s.refetchDue core = false) (hgrow : State.growAll core ctx (byThread p.runs) s = (.ok t, g)) :
    exec (.chunkCommit core ctx) s = .next (t.commitPass core ctx k b p g) := by
  show execChunkCommit core ctx s = _
  simp only [execChunkCommit, State.linearizeIdle_of_granted hl hp hstate, hl, hk, hp, hb, hgrow]
  rw [if_neg]
  simpa [hstate] using hgrows

/-- Settles O37: each event by the lemma of its outcome. -/
theorem passesEndAndCommit : Obligations.PassesEndAndCommit := by
  intro core ctx die fm s l k hl hk
  refine ⟨fun p b hover hpass hb hscaled => ?_, fun hdie => ?_, fun p rest b t g => exec_chunkCommit_of_granted hl hk, fun b hb => ?_⟩
  · intro late t judged u out q
    have hexec := exec_passEnd_of_unscaled hl hk hover hpass hb hscaled rfl rfl rfl rfl
    exact ⟨fun htaint => hexec.trans (congrArg _ (if_neg (Bool.eq_false_iff.mp htaint))),
      fun htaint => hexec.trans (congrArg _ (if_pos htaint))⟩
  · rw [exec_arbiterGrant_of_die hdie]
    intro t
    refine ⟨fun q rest p hqueue hpass => ⟨?_, ?_, ?_⟩, fun o rest ha => ?_⟩
    · exact fun hsolo hheard hlast => congrArg _ (State.serveHead_of_granted hqueue hpass hsolo hheard hlast)
    · exact fun hsolo hwaits => congrArg _ (State.serveHead_of_waits hqueue hpass hsolo hwaits)
    · exact fun hsolo hfree => congrArg _ (State.serveHead_of_meetsSolo hqueue hpass hsolo hfree)
    · exact congrArg _ (State.serveHead_of_engine ha)
  · show execWcBroadcastArrival core fm s = _
    simp only [execWcBroadcastArrival, hb]

end Sys2Proof.Machine

/-! Values and effects (spec/10 R302, R304-R308, R314, R316, R318, R319, R321, R323, R325, R326): what the instructions that move values
send, and what those record whose effect waits for the commit. -/

namespace Sys2Proof.Machine

section
variable {s : State} {f : Fields} {p : Spot} {toks : List Token} {r : Run} (hr : Ready s f p toks r)
include hr

/-! ### Values (R304-R307, R319) -/

/-- An instruction that sends one value or null to some targets and does nothing else. -/
theorem fire_send_all {ts us : List Target} {v : Site → Option Word} :
    s.fire f ts (fun x s => .ok s (toAll us (v x)) []) = s.sent p toks r (toAll us (v (siteOf s p toks))) :=
  fire_send hr rfl

theorem exec_read_of_granted {lk : BitVec 6} (hlk : lk.toNat < p.thread.lvsn) :
    exec (.read f lk) s = .next (s.sent p toks r (toAll (Fields.both f) (some (p.thread.lives.getD lk.toNat 0)))) :=
  congrArg _ (fire_send hr (if_neg hlk.not_ge))

theorem exec_read_of_ungranted {lk : BitVec 6} (hlk : p.thread.lvsn ≤ lk.toNat) :
    exec (.read f lk) s = .next (s.trapped p toks r (Fields.both f) cLiveSlot none) :=
  congrArg _ (fire_trap hr (if_pos hlk))

/-- TEST sends 1 where its flags answer its mode, else 0 (R319). -/
theorem exec_test_eq {mode : TestMode} {mask : BitVec 12} {q : Prop} [Decidable q] (hq : testFlags mode p.thread.flags mask = true ↔ q) :
    exec (.test f mode mask) s = .next (s.sent p toks r (toAll (Fields.both f) (some (if q then 1 else 0)))) :=
  exec_of_value hr rfl rfl (if_congr hq rfl rfl)

/-! ### Effects recorded once (R302, R316, R321, R325) -/

/-- An instruction that may fire once, and records an effect on its first firing. -/
theorem fireOnce_recorded (h1 : FirstFiring s p) {act : Site → State → Fired} {out : List (Target × Option Word)} (g : Run → Run)
    (hg : ∀ r, (g r).tidx = r.tidx) (ha : act (siteOf s p toks) (s.took r) = .ok ((s.took r).updRun s.cur g) out []) :
    s.fireOnce f act = s.recorded p toks r g out := by
  rw [fireOnce_first hr h1, fire_rec g hg hr ha]

theorem fireGroup_first (h1 : FirstFiring s p) (op : Site → GroupOp) : s.fireGroup f op = s.recorded p toks r
    (fun r => { r with groupOps := r.groupOps ++ [(s.cur.idx, op (siteOf s p toks))] }) (doneBoth f) :=
  fireOnce_recorded hr h1 _ (fun _ => rfl) rfl

/-- GROW and SHRINK look at their count, and record it where it is in range. -/
theorem fireOnce_count (h1 : FirstFiring s p) {act : Site → State → Fired} {bad : Bool} {inRange : Prop} [Decidable inRange] (op : LvOp)
    (hbad : bad = true ↔ ¬inRange) (ha : act (siteOf s p toks) (s.took r) = if bad then .bad (s.took r) cLiveSlot none
      else .ok ((s.took r).updRun s.cur (fun r => { r with lvOp := some op })) (doneBoth f) []) :
    s.fireOnce f act = if inRange then s.recorded p toks r (fun r => { r with lvOp := some op }) (doneBoth f)
      else s.trapped p toks r (Fields.both f) cLiveSlot none := by
  split_ifs with hin
  · exact fireOnce_recorded hr h1 _ (fun _ => rfl) (ha.trans (if_neg (fun hb => hbad.mp hb hin)))
  · exact fireOnce_trap hr h1 (ha.trans (if_pos (hbad.mpr hin)))

/-! ### Exits and WRITE (R308, R314, R424, R425) -/

section
variable {g : Site → State → Except Nat ExitRec}

/-- The first exit-class firing of a thread records how it leaves. -/
theorem fireExit_first {e : ExitRec} (hexit : p.run.exit = none) (hg : g (siteOf s p toks) (s.took r) = .ok e) :
    s.fireExit f g = s.recorded p toks r (fun r => { r with exit := some (s.cur.idx, e) }) [] :=
  fire_rec _ (fun _ => rfl) hr (by simp only [siteOf_spot, siteOf_at, hexit, hg]; rfl)

theorem fireExit_refused {c : Nat} (hexit : p.run.exit = none) (hg : g (siteOf s p toks) (s.took r) = .error c) :
    s.fireExit f g = s.trapped p toks r [] c none :=
  fire_trap hr (by simp only [siteOf_spot, hexit, hg]; rfl)

theorem fireExit_again (hexit : p.run.exit ≠ none) : s.fireExit f g = s.trapped p toks r [] cMultiExit none :=
  fire_trap hr (if_pos (Option.isSome_iff_ne_none.mpr hexit))

end

theorem exec_resume_in_handler {link : Bool} (hexit : p.run.exit = none) (hin : p.thread.handler ≠ none) :
    exec (.resume f link) s = .next (s.recorded p toks r (fun r => { r with
      exit := some (s.cur.idx, if link then .resumeLink s.cur.idx (siteOf s p toks).a else .resume) }) []) := by
  refine congrArg _ (fireExit_first hr hexit ?_)
  rw [siteOf_spot, if_neg (by simpa using hin)]
  exact (apply_ite _ _ _ _).symm

theorem exec_resume_outside_handler {link : Bool} (hexit : p.run.exit = none) (hout : p.thread.handler = none) :
    exec (.resume f link) s = .next (s.trapped p toks r [] cNotInHandler none) :=
  congrArg _ (fireExit_refused hr hexit (if_pos (by simp [hout])))

theorem exec_write_first {lk : BitVec 6} (h1 : FirstFiring s p) : exec (.write f lk) s = .next (s.recorded p toks r
    (fun r => { r with writes := r.writes ++ [(lk.toNat, (siteOf s p toks).a)] }) []) :=
  congrArg _ (fire_rec (fun r => { r with writes := r.writes ++ [(lk.toNat, (siteOf s p toks).a)] }) (fun _ => rfl) hr
    (if_neg (Nat.not_lt.mpr (Nat.le_zero.mpr h1))))

theorem exec_write_again {lk : BitVec 6} (h1 : ¬FirstFiring s p) :
    exec (.write f lk) s = .next (s.trapped p toks r [] cMultiWrite none) :=
  congrArg _ (fire_trap hr (if_pos (Nat.pos_of_ne_zero h1)))

end

/-- Settles O11: each instruction by the value it sends; READ by whether its slot is granted. -/
theorem valuesAreMoved : Obligations.ValuesAreMoved := by
  intro f imm oimm w t2 t3 mask which lk s p toks r hr x both sends flags
  refine ⟨exec_of_value hr rfl rfl rfl, exec_of_value hr rfl rfl rfl, exec_of_value hr rfl rfl rfl,
    congrArg _ (fire_send_all hr), congrArg _ (fire_send_all hr), exec_of_value hr rfl rfl rfl, congrArg _ (fire_send hr rfl),
    congrArg _ (fire_send hr rfl), exec_of_value hr rfl rfl rfl, exec_test_eq hr ?_, exec_test_eq hr ?_, exec_test_eq hr ?_,
    exec_of_value hr rfl rfl rfl, exec_read_of_granted hr, exec_read_of_ungranted hr⟩ <;> simp [testFlags, flags]

/-- Settles O13: each instruction by the effect it records, GROW and SHRINK by the range of their count. -/
theorem commitEffectsAreRecorded : Obligations.CommitEffectsAreRecorded := by
  intro f mask imm s p toks r hr x k n records group traps
  refine ⟨congrArg Host.Outcome.next (fireRecord_ok hr ?_), congrArg Host.Outcome.next (fireRecord_ok hr ?_), fun h1 => ?_,
    fun h1 i hi => ?_⟩
  · exact fun _ _ => rfl
  · exact fun _ _ => rfl
  · have hgroup := fun op => congrArg (Host.Outcome.next (φ := Fault) (ρ := Refusal)) (fireGroup_first hr h1 op)
    have hgrow : (decide (n < 4) || decide (64 < n)) = true ↔ ¬(4 ≤ n ∧ n ≤ 64) := by
      simp only [Bool.or_eq_true, decide_eq_true_eq]; omega
    have hshrink : (decide (n < s.declared s.cur.ctx) || decide (64 < n)) = true ↔ ¬(s.declared s.cur.ctx ≤ n ∧ n ≤ 64) := by
      simp only [Bool.or_eq_true, decide_eq_true_eq]; omega
    exact ⟨congrArg _ (fireOnce_recorded hr h1 (fun r => { r with yielded := true }) (fun _ => rfl) rfl), hgroup _, hgroup _,
      hgroup _, hgroup _, hgroup _, congrArg _ (fireOnce_count hr h1 (.grow n) hgrow rfl),
      congrArg _ (fireOnce_count hr h1 (.shrink n) hshrink rfl)⟩
  · simp only [List.mem_cons, List.not_mem_nil, or_false] at hi
    rcases hi with rfl | rfl | rfl | rfl | rfl | rfl | rfl | rfl <;> exact congrArg _ (fireOnce_again hr h1)

/-! ### The checks of a drained thread (R56, R57, R308, R314) -/

/-- The WRITEs whose slots lie at or above the count `n` that the thread holds after its block. -/
def Run.checkWrites (b : Block) (n : Nat) (ws : List (Nat × Word)) (r : Run) : Run :=
  ws.foldl (fun r w => if n ≤ w.1 then r.record (b.writeOf w.1) 0 cLiveSlot none else r) r

/-- The CALL whose slot lies there. -/
def Run.checkCall (n : Nat) (r : Run) : Run :=
  match r.exit with
  | some (idx, .call _ lk _) => if n ≤ lk then r.record idx 0 cLiveSlot none else r
  | _ => r

/-- A run that has no reason to have left its block. -/
def Run.checkExit (r : Run) : Run := if !r.leaves && r.exit.isNone then r.record 0 0 cNoExit none else r

theorem Run.settle_eq (b : Block) (lvsn : Nat) (r : Run) :
    r.settle b lvsn = ((r.checkWrites b (r.countAfter lvsn) r.writes).checkCall (r.countAfter lvsn)).checkExit := rfl

/-- A run holds a cause of this number. -/
def Run.Caught (r : Run) (cause : Nat) : Prop := ∃ c ∈ r.causes, c.cause = cause

theorem Run.caught_record (r : Run) (idx gen cause : Nat) (info : Option Nat) : (r.record idx gen cause info).Caught cause :=
  ⟨_, List.mem_cons_self, rfl⟩

theorem Run.Caught.record {r : Run} {cause : Nat} (h : r.Caught cause) (idx gen other : Nat) (info : Option Nat) :
    (r.record idx gen other info).Caught cause := by
  obtain ⟨c, hc, hcause⟩ := h
  exact ⟨c, List.mem_cons_of_mem _ hc, hcause⟩

@[simp] theorem Run.exit_record (r : Run) (idx gen cause : Nat) (info : Option Nat) : (r.record idx gen cause info).exit = r.exit := rfl

section
variable {b : Block} {n cause : Nat} {ws : List (Nat × Word)} {r : Run}

@[simp] theorem Run.exit_checkWrites : (r.checkWrites b n ws).exit = r.exit := by
  induction ws generalizing r with
  | nil => rfl
  | cons w ws ih =>
    refine ih.trans ?_
    dsimp only
    split <;> rfl

theorem Run.Caught.checkWrites (h : r.Caught cause) : (r.checkWrites b n ws).Caught cause := by
  induction ws generalizing r with
  | nil => exact h
  | cons w ws ih =>
    refine ih ?_
    dsimp only
    split
    · exact h.record ..
    · exact h

theorem Run.checkWrites_outside {w : Nat × Word} (hw : w ∈ ws) (hout : n ≤ w.1) : (r.checkWrites b n ws).Caught cLiveSlot := by
  induction ws generalizing r with
  | nil => cases hw
  | cons v ws ih =>
    rcases List.mem_cons.mp hw with rfl | hw
    · rw [Run.checkWrites, List.foldl_cons, if_pos hout]
      exact (r.caught_record ..).checkWrites
    · exact ih hw

theorem Run.checkWrites_inside (hin : ∀ w ∈ ws, w.1 < n) : r.checkWrites b n ws = r := by
  induction ws with
  | nil => rfl
  | cons w ws ih =>
    obtain ⟨hw, hws⟩ := List.forall_mem_cons.mp hin
    rw [Run.checkWrites, List.foldl_cons, if_neg hw.not_ge]
    exact ih hws

theorem Run.Caught.checkCall (h : r.Caught cause) : (r.checkCall n).Caught cause := by
  unfold Run.checkCall
  split
  · split
    · exact h.record ..
    · exact h
  · exact h

theorem Run.checkCall_outside {i x l y : Nat} (hexit : r.exit = some (i, .call x l y)) (hout : n ≤ l) :
    (r.checkCall n).Caught cLiveSlot := by
  simp only [Run.checkCall, hexit, if_pos hout]
  exact r.caught_record ..

theorem Run.checkCall_inside (hin : ∀ i x l y, r.exit = some (i, .call x l y) → l < n) : r.checkCall n = r := by
  unfold Run.checkCall
  split
  next i x l y hexit => exact if_neg (hin i x l y hexit).not_ge
  next => rfl

theorem Run.Caught.checkExit (h : r.Caught cause) : r.checkExit.Caught cause := by
  unfold Run.checkExit
  split
  · exact h.record ..
  · exact h

theorem Run.checkExit_unleft (hleaves : r.leaves = false) (hexit : r.exit = none) : r.checkExit.Caught cNoExit := by
  rw [Run.checkExit, if_pos (by simp [hleaves, hexit])]
  exact r.caught_record ..

theorem Run.checkExit_left (h : r.leaves = true ∨ r.exit ≠ none) : r.checkExit = r :=
  if_neg (by simpa [Option.isNone_iff_eq_none, or_iff_not_imp_left] using h)

end

section
variable {b : Block} {lvsn : Nat} {r : Run}

/-- A WRITE's slot outside the count is LIVE_SLOT. -/
theorem Run.settle_write_outside {w : Nat × Word} (hw : w ∈ r.writes) (hout : r.countAfter lvsn ≤ w.1) :
    (r.settle b lvsn).Caught cLiveSlot :=
  (Run.checkWrites_outside hw hout).checkCall.checkExit

/-- A CALL's slot outside the count is LIVE_SLOT. -/
theorem Run.settle_call_outside {i x l y : Nat} (hexit : r.exit = some (i, .call x l y)) (hout : r.countAfter lvsn ≤ l) :
    (r.settle b lvsn).Caught cLiveSlot :=
  (Run.checkCall_outside (Run.exit_checkWrites.trans hexit) hout).checkExit

/-- With every slot inside the count, only the exit is looked at. -/
theorem Run.settle_inside (hwrites : ∀ w ∈ r.writes, w.1 < r.countAfter lvsn)
    (hcall : ∀ i x l y, r.exit = some (i, .call x l y) → l < r.countAfter lvsn) : r.settle b lvsn = r.checkExit := by
  rw [Run.settle_eq, Run.checkWrites_inside hwrites, Run.checkCall_inside hcall]

end

/-- Settles O12: each firing by the exits or WRITEs before it, and the checks of the drained thread in turn. -/
theorem exitsAndWritesAreRecordedOnce : Obligations.ExitsAndWritesAreRecordedOnce := by
  intro f xn xr lk link ic cause s p toks r hr a k leaves traps
  refine ⟨fun hexit => ?_, fun hexit i hi => ?_, exec_write_first hr, exec_write_again hr, fun b q n => ?_⟩
  · have hfirst := fun g e hg => congrArg (Host.Outcome.next (φ := Fault) (ρ := Refusal)) (fireExit_first (g := g) (e := e) hr hexit hg)
    exact ⟨hfirst _ _ rfl, hfirst _ _ rfl, hfirst _ _ rfl, hfirst _ _ rfl, hfirst _ _ rfl, exec_resume_in_handler hr hexit,
      exec_resume_outside_handler hr hexit⟩
  · simp only [List.mem_cons, List.not_mem_nil, or_false] at hi
    rcases hi with rfl | rfl | rfl | rfl | rfl | rfl <;> exact congrArg _ (fireExit_again hr hexit)
  · intro late held inside
    refine ⟨fun hout => ?_, fun ⟨hwrites, hcall⟩ hstays hexit => ?_, fun ⟨hwrites, hcall⟩ hleft => ?_⟩
    · rcases not_and_or.mp hout with hwrite | hcall
      · push Not at hwrite
        obtain ⟨w, hw, hslot⟩ := hwrite
        exact Run.settle_write_outside hw hslot
      · push Not at hcall
        obtain ⟨i, x, l, y, hexit, hslot⟩ := hcall
        exact Run.settle_call_outside hexit hslot
    · show (q.settle b n).Caught cNoExit
      rw [Run.settle_inside hwrites hcall]
      exact Run.checkExit_unleft hstays hexit
    · exact (Run.settle_inside hwrites hcall).trans (Run.checkExit_left hleft)

end Sys2Proof.Machine

/-! Steering and loops (spec/10 R309-R313): what STEER sends by the operands that stand in its slots, and the tokens that MERGE, CARRY
and INVAR take. -/

namespace Sys2Proof.Machine

/-! ### STEER (R309) -/

/-- An operand of STEER: the value or null of its slot's token, 0 where the slot is unfed (log 75). -/
def steerPick (toks : List Token) (sl : Slot) : Option Word := ((toks.find? (fun t => t.slot = sl)).map (·.val)).getD (some 0)

/-- The target that STEER's predicate selects. -/
def steerSide (f : Fields) (b : Word) : List Target := if b ≠ 0 then f.t0.toList else f.t1.toList

section
variable {f : Fields} {toks : List Token}

/-- A null in the predicate or in slot b goes to both sides. -/
theorem steerOut_of_null (h : steerPick toks .p = none ∨ steerPick toks .b = none) :
    steerOut f toks = (toAll (Fields.both f) none, false) := by
  unfold steerPick at h
  simp only [steerOut]
  split
  · rfl
  · rfl
  next hp hb =>
    rcases h with h | h
    · cases hp.symm.trans h
    · cases hb.symm.trans h

/-- With values there, a null in slot a goes to the side that slot b selects. -/
theorem steerOut_of_null_value {c b : Word} (hp : steerPick toks .p = some c) (hb : steerPick toks .b = some b)
    (ha : steerPick toks .a = none) : steerOut f toks = (toAll (steerSide f b) none, false) := by
  unfold steerPick at hp hb ha
  simp only [steerOut, hp, hb, ha]
  rfl

/-- A value in slot a goes there under a predicate that matches. -/
theorem steerOut_of_value {c b a : Word} (hp : steerPick toks .p = some c) (hb : steerPick toks .b = some b)
    (ha : steerPick toks .a = some a) :
    steerOut f toks = if predOk f toks then (toAll (steerSide f b) (some a), true) else ([], false) := by
  unfold steerPick at hp hb ha
  simp only [steerOut, hp, hb, ha]
  rfl

end

theorem exec_steer_of_operands {f : Fields} {s : State} {p : Spot} {toks : List Token} {r : Run} {out : List (Target × Option Word)}
    {fires : Bool} (hp : s.spot? s.cur = some p) (ho : operandSet p.block p.run s.cur.idx = some (toks, r))
    (hout : steerOut f toks = (out, fires)) :
    exec (.steer f) s = .next (s.updRun s.cur (fun _ => runSending s p toks [] out (r.consumed s.cur.idx fires))) := by
  show Host.Outcome.next (s.fireSteer f) = _
  simp [State.fireSteer, hp, ho, hout, runSending, Site.deps, List.dedup_idem]

/-- Settles O16: by the operands that are null, and then by the predicate. -/
theorem steerTakesOneSide : Obligations.SteerTakesOneSide := by
  intro f s p toks r hp ho pick sends
  refine ⟨fun hnull => exec_steer_of_operands hp ho (steerOut_of_null hnull), fun c b hc hb => ⟨fun ha => ?_, fun a ha hm => ?_,
    fun a ha hm => ?_⟩⟩
  · exact exec_steer_of_operands hp ho (steerOut_of_null_value hc hb ha)
  · exact exec_steer_of_operands hp ho ((steerOut_of_value hc hb ha).trans (if_pos hm))
  · exact exec_steer_of_operands hp ho ((steerOut_of_value hc hb ha).trans (if_neg (Bool.eq_false_iff.mp hm)))

/-! ### Instructions that take their operands in their own way (R310-R313) -/

theorem fireTaking_of_take {s : State} {p : Spot} {take : Spot → Nat → Option Taken} {t : Taken} (hp : s.spot? s.cur = some p)
    (ht : take p s.cur.idx = some t) : s.fireTaking take = s.updRun s.cur (fun _ =>
      sendTokens p.block.occ s.cur.idx (p.run.idx s.cur.idx).fired t.deps t.out t.run) := by
  simp [State.fireTaking, hp, ht]

section
variable {f : Fields} {p : Spot} {k : Nat} {t u : Token} {ts us : List Token}

/-! ### MERGE (R310) -/

theorem mergeTake_of_selected {v : Word} (hc : takeToken k .c p.run.tokens = some (u, ts)) (hv : u.val = some v)
    (ht : takeToken k (if v ≠ 0 then .a else .b) ts = some (t, us)) :
    mergeTake f p k = some { run := ({ p.run with tokens := us }).consumed k true, out := toAll (Fields.both f) t.val
                             deps := (u.deps ++ t.deps).dedup } := by
  simp only [mergeTake, hc, hv, ht]

theorem mergeTake_of_null (hc : takeToken k .c p.run.tokens = some (u, ts)) (hv : u.val = none) :
    mergeTake f p k = some { run := ({ p.run with tokens := ts }).consumed k false, out := toAll (Fields.both f) none
                             deps := u.deps } := by
  simp only [mergeTake, hc, hv]

/-! ### CARRY (R311, R312) -/

/-- A CARRY within the reach of the slowest recurrence instruction takes the token of the slot that its mode names. -/
theorem carryTake_of_token {looping : Bool} (hroom : (p.run.idx k).fired - leastConsumed p.block p.run ≤ p.block.occ)
    (hl : (p.run.idx k).looping = looping) (ht : takeToken k (if looping then .b else .a) p.run.tokens = some (t, ts)) :
    carryTake f p k = some { run := (({ p.run with tokens := ts }).consumed k true).updIdx k (fun i => { i with looping := t.val.isSome })
                             out := if looping && t.val.isNone then [] else toAll (Fields.both f) t.val, deps := t.deps } := by
  simp only [carryTake, if_neg hroom.not_gt, hl, ht]

/-! ### INVAR (R313) -/

theorem Run.idx_idx (r : Run) (k : Nat) : (r.idx k).idx = k := by
  unfold Run.idx
  split
  next h => simpa using List.find?_some h
  next => rfl

theorem Run.idx_of_find {r : Run} {k : Nat} {i : IdxState} (h : r.idxs.find? (fun i => i.idx = k) = some i) : r.idx k = i := by
  simp only [Run.idx, h]

theorem Run.idx_updIdx_same {r : Run} {k : Nat} {g : IdxState → IdxState} (hg : (g (r.idx k)).idx = k) :
    (r.updIdx k g).idx k = g (r.idx k) :=
  Run.idx_of_find (List.find?_cons_of_pos (by simpa using hg))

theorem invarHold_of_held {r : Run} {h : Option Word} (hh : (r.idx k).hold = some h) : invarHold r k = r := by
  simp only [invarHold, hh]

theorem invarHold_of_empty {r : Run} (hh : (r.idx k).hold = none) (ht : takeToken k .a r.tokens = some (t, ts)) :
    invarHold r k = ({ r with tokens := ts }).updIdx k (fun i => { i with hold := some t.val, deps := t.deps }) := by
  simp only [invarHold, hh, ht]

/-- A token in slot b fires an INVAR whose hold is filled: a value under a value sends the held one. -/
theorem invarTake_of_value {r : Run} {v : Word} (hr : invarHold p.run k = r) (hh : (r.idx k).hold = some (some v))
    (ht : takeToken k .b r.tokens = some (t, ts)) (hv : t.val ≠ none) :
    invarTake f p k = some { run := ({ r with tokens := ts }).consumed k true, out := toAll (Fields.both f) (some v)
                             deps := ((r.idx k).deps ++ t.deps).dedup } := by
  obtain ⟨w, hw⟩ := Option.ne_none_iff_exists'.mp hv
  simp [invarTake, hr, hh, ht, hw]

/-- A null in the hold or in slot b empties the hold. -/
theorem invarTake_of_null {r : Run} {h : Option Word} (hr : invarHold p.run k = r) (hh : (r.idx k).hold = some h)
    (ht : takeToken k .b r.tokens = some (t, ts)) (hnull : h = none ∨ t.val = none) :
    invarTake f p k = some { run := (({ r with tokens := ts }).consumed k false).updIdx k (fun i => { i with hold := none, deps := [] })
                             out := toAll (Fields.both f) none, deps := ((r.idx k).deps ++ t.deps).dedup } := by
  have hnull : (h.isNone || t.val.isNone) = true := by simpa using hnull
  simp [invarTake, hr, hh, ht, hnull]

end

/-- Settles O17: each instruction by the tokens that it takes. -/
theorem loopsAndMerges : Obligations.LoopsAndMerges := by
  intro f s p hp k both st leaves
  have fires : ∀ {take : Spot → Nat → Option Taken} {t : Taken}, take p k = some t →
      Host.Outcome.next (φ := Fault) (ρ := Refusal) (s.fireTaking take) =
        .next (s.updRun s.cur (fun _ => sendTokens p.block.occ k st.fired t.deps t.out t.run)) :=
    fun ht => congrArg _ (fireTaking_of_take hp ht)
  refine ⟨fun c v t ts us hc hv ht => fires (mergeTake_of_selected hc hv ht), fun c ts hc hv => fires (mergeTake_of_null hc hv),
    fun t ts hroom hinit ht => fires (carryTake_of_token hroom hinit ht), fun t ts v hroom hloop ht hv => ?_,
    fun t ts hroom hloop ht hv => ?_, fun v t ts hh ht hv => fires (invarTake_of_value (invarHold_of_held hh) hh ht hv),
    fun v t u ts us hh ht htv hu huv => ?_,
    fun h t ts hh ht hnull => fires (invarTake_of_null (invarHold_of_held hh) hh ht hnull)⟩
  · exact (fires (carryTake_of_token hroom hloop ht)).trans (by simp only [hv]; rfl)
  · exact (fires (carryTake_of_token hroom hloop ht)).trans (by simp only [hv]; rfl)
  · have hfilled := Run.idx_updIdx_same (r := { p.run with tokens := ts }) (g := fun i => { i with hold := some t.val, deps := t.deps })
      (Run.idx_idx _ k)
    have hhold := (congrArg IdxState.hold hfilled).trans (congrArg some htv)
    refine (fires (invarTake_of_value (invarHold_of_empty hh ht) hhold hu huv)).trans ?_
    rw [hfilled, htv]

end Sys2Proof.Machine

/-! What the commit of a chunk does to a thread (spec/10 R308, R314, R318, R325): the slots that it writes, the part of the thread that
stays, and the needs of its GROWs (spec/09 R280). -/

namespace Sys2Proof.Machine

/-! ### Slots written (R308) -/

section
variable {ws : List (Nat × Word)} {ls : List Word}

@[simp] theorem writeSlots_length : (writeSlots ws ls).length = ls.length := by
  induction ws generalizing ls with
  | nil => rfl
  | cons w ws ih => exact ih.trans (listSet_length ..)

/-- A slot that no write names stays as it was. -/
theorem writeSlots_other {m : Nat} (hm : m ∉ ws.map (·.1)) : (writeSlots ws ls)[m]? = ls[m]? := by
  induction ws generalizing ls with
  | nil => rfl
  | cons w ws ih =>
    obtain ⟨hw, hws⟩ := not_or.mp (mt List.mem_cons.mpr hm)
    exact (ih hws).trans (listSet_other ls _ hw)

/-- A slot that one write names holds its word. -/
theorem writeSlots_of_mem {n : Nat} {v : Word} (hmem : (n, v) ∈ ws) (hdistinct : (ws.map (·.1)).Nodup) (hn : n < ls.length) :
    (writeSlots ws ls)[n]? = some v := by
  induction ws generalizing ls with
  | nil => cases hmem
  | cons w ws ih =>
    obtain ⟨hhead, htail⟩ := List.nodup_cons.mp hdistinct
    rcases List.mem_cons.mp hmem with rfl | hmem
    · calc (writeSlots ws (listSet ls n (fun _ => v)))[n]? = (listSet ls n (fun _ => v))[n]? := writeSlots_other hhead
        _ = some v := by simp [List.getElem?_eq_getElem hn]
    · exact ih hmem htail (by simpa using hn)

end

/-! ### A thread after its block (R141, R314, R318, R325) -/

/-- Entries counted under a thread's flags change its counts alone. -/
theorem Thread.foldl_countUp (ks : List Nat) (t : Thread) :
    ∃ counts, ks.foldl (fun (t : Thread) k => t.countUp k) t = { t with counts := counts } := by
  induction ks generalizing t with
  | nil => exact ⟨t.counts, rfl⟩
  | cons k ks ih => exact ih (t.countUp k)

/-- The live-value count with which the commit leaves a thread; a GROW has raised it before (R280). -/
def Run.committedCount (r : Run) (lvsn : Nat) : Nat :=
  match r.lvOp with
  | some (.shrink n) => min n lvsn
  | _ => lvsn

section
variable (b : Block) (r : Run) (t : Thread)

theorem Thread.commit_eq : ∃ counts, t.commit b r = { t with
    counts := counts, lvsn := r.committedCount t.lvsn, lives := (writeSlots (r.slotWrites b) t.lives).take (r.committedCount t.lvsn)
    swFlags := applyFlagOps r.flagOps t.swFlags } := by
  obtain ⟨counts, hcounts⟩ := Thread.foldl_countUp r.entryFlags t
  exact ⟨counts, by simp only [Thread.commit, hcounts]; rfl⟩

@[simp] theorem Thread.commit_swFlags : (t.commit b r).swFlags = applyFlagOps r.flagOps t.swFlags := by
  obtain ⟨_, h⟩ := t.commit_eq b r
  rw [h]

@[simp] theorem Thread.commit_tidx : (t.commit b r).tidx = t.tidx := by
  obtain ⟨_, h⟩ := t.commit_eq b r
  rw [h]

@[simp] theorem Thread.commit_handler : (t.commit b r).handler = t.handler := by
  obtain ⟨_, h⟩ := t.commit_eq b r
  rw [h]

@[simp] theorem Thread.commit_lvsn : (t.commit b r).lvsn = r.committedCount t.lvsn := by
  obtain ⟨_, h⟩ := t.commit_eq b r
  rw [h]

@[simp] theorem Thread.commit_lives :
    (t.commit b r).lives = (writeSlots (r.slotWrites b) t.lives).take (r.committedCount t.lvsn) := by
  obtain ⟨_, h⟩ := t.commit_eq b r
  rw [h]

end

section
variable {b : Block} {r : Run} {t : Thread}

/-- A slot that the thread keeps holds what the writes leave there. -/
theorem Thread.commit_lives_kept {m : Nat} (hm : m < (t.commit b r).lvsn) :
    (t.commit b r).lives[m]? = (writeSlots (r.slotWrites b) t.lives)[m]? := by
  rw [Thread.commit_lives, List.getElem?_take_of_lt (by simpa using hm)]

theorem Thread.commit_lives_written {n : Nat} {v : Word} (hmem : (n, v) ∈ r.slotWrites b)
    (hdistinct : ((r.slotWrites b).map (·.1)).Nodup) (hn : n < t.lives.length) (hkept : n < (t.commit b r).lvsn) :
    (t.commit b r).lives[n]? = some v :=
  (Thread.commit_lives_kept hkept).trans (writeSlots_of_mem hmem hdistinct hn)

theorem Thread.commit_lives_other {m : Nat} (hm : m ∉ (r.slotWrites b).map (·.1)) (hkept : m < (t.commit b r).lvsn) :
    (t.commit b r).lives[m]? = t.lives[m]? :=
  (Thread.commit_lives_kept hkept).trans (writeSlots_other hm)

end

/-! ### Making room (R280, R282): spilling a thread leaves its count and every other thread alone -/

/-- A thread but for where its image stands. -/
def Thread.unspilled (t : Thread) : Thread := { t with spill := none }

/-- A lane but for what a firing changes of it and for where its threads' images stand. -/
def Lane.unspilled (l : Lane) : Lane := { l.fixed with threads := l.threads.map Thread.unspilled }

theorem State.fixed_placeVa (s : State) (ctx va : Nat) (k : AccKind) (locks : Bool) : (s.placeVa ctx va k locks).2.fixed = s.fixed := by
  have ht := fixed_translate s ctx va k
  unfold State.placeVa
  split
  · rfl
  · split
    next h => simpa [h] using ht
    next h => simpa [h] using ht
    next h =>
      rw [h] at ht
      split <;> simpa using ht

theorem State.fixed_writeSpans (s : State) (ctx : Nat) (k : AccKind) (locks : Bool) (base : Nat) (bytes : List Byte)
    (spans : List (Nat × Nat)) : (s.writeSpans ctx k locks base bytes spans).2.2.fixed = s.fixed := by
  induction spans generalizing s with
  | nil => rfl
  | cons span rest ih =>
    have hplace := s.fixed_placeVa ctx span.1 k locks
    simp only [State.writeSpans]
    split
    next h => rwa [h] at hplace
    next h => rwa [h] at hplace
    next t h =>
      rw [h] at hplace
      have hrest := (ih t).trans hplace
      split
      next h => rwa [h] at hrest
      next h => rwa [h] at hrest

@[simp] theorem State.lanes_sealBlock (s : State) (blk : Nat) (ws : List DevByte) : (s.sealBlock blk ws).lanes = s.lanes := by
  cases ws <;> rfl

@[simp] theorem State.lanes_commitBytes (s : State) (ws : List DevByte) : (s.commitBytes ws).lanes = s.lanes := by
  have hseal : ∀ (blks : List Nat) (s : State),
      (blks.foldl (fun s b => s.sealBlock b (ws.filter (fun w => w.pa / 128 = b))) s).lanes = s.lanes := by
    intro blks
    induction blks with
    | nil => exact fun _ => rfl
    | cons b blks ih => exact fun s => (ih _).trans (s.lanes_sealBlock ..)
  exact hseal _ s

@[simp] theorem State.lanes_storeImage (s : State) (ctx : Nat) (ps : List Piece) :
    (s.storeImage ctx ps).lanes = s.lanes := s.lanes_commitBytes _

theorem Lane.unspilled_updThread (l : Lane) (tidx : Nat) (sp : Option Spill) :
    (l.updThread tidx (fun t => { t with spill := sp })).unspilled = l.unspilled := by
  have hthreads : (l.updThread tidx (fun t => { t with spill := sp })).threads.map Thread.unspilled =
      l.threads.map Thread.unspilled := by
    simp only [Lane.updThread, List.map_map]
    refine List.map_congr_left (fun t _ => ?_)
    simp only [Function.comp]
    split <;> rfl
  simp only [Lane.unspilled, hthreads]
  rfl

theorem State.unspilled_updLane (s : State) (core ctx : Nat) {f : Lane → Lane} (hf : ∀ l, (f l).unspilled = l.unspilled) :
    (s.updLane core ctx f).lanes.map Lane.unspilled = s.lanes.map Lane.unspilled := by
  simp only [State.updLane, List.map_map]
  refine List.map_congr_left (fun l _ => ?_)
  simp only [Function.comp]
  split
  · exact hf l
  · rfl

theorem State.unspilled_of_fixed {s t : State} (h : t.fixed = s.fixed) : t.lanes.map Lane.unspilled = s.lanes.map Lane.unspilled := by
  have hfixed : Lane.unspilled ∘ Lane.fixed = Lane.unspilled := rfl
  simpa only [List.map_map, hfixed] using congrArg (List.map Lane.unspilled) (State.lanes_of_fixed h)

theorem State.unspilled_of_spillThread {s u : State} {core ctx tidx : Nat} (h : s.spillThread core ctx tidx = .ok u) :
    u.lanes.map Lane.unspilled = s.lanes.map Lane.unspilled := by
  unfold State.spillThread at h
  split at h
  next => cases h
  next l _ =>
    have hwrite := ({ s with freeCtr := s.freeCtr + 128 } : State).fixed_writeSpans ctx .store false (l.regs.sidebase + 1024 * tidx)
      (sidingImage (s.livePool ctx) s.freeCtr) (lineSpans (l.regs.sidebase + 1024 * tidx) (sidingImage (s.livePool ctx) s.freeCtr).length)
    dsimp only [State.writeVa] at h
    split at h
    next => cases h
    next => cases h
    next ps _ t ht =>
      rw [ht] at hwrite
      cases h
      calc _ = (t.storeImage ctx ps).lanes.map Lane.unspilled :=
            State.unspilled_updLane _ core ctx (fun l => l.unspilled_updThread tidx _)
        _ = t.lanes.map Lane.unspilled := congrArg _ (t.lanes_storeImage ctx ps)
        _ = s.lanes.map Lane.unspilled := State.unspilled_of_fixed hwrite

theorem State.unspilled_of_makeRoom {fuel core ctx keep need : Nat} {new : Bool} {s u : State}
    (h : State.makeRoom fuel s core ctx keep need new = .ok u) : u.lanes.map Lane.unspilled = s.lanes.map Lane.unspilled := by
  induction fuel generalizing s with
  | zero => cases h
  | succ fuel ih =>
    simp only [State.makeRoom] at h
    split at h
    · cases h
      rfl
    · split at h
      · cases h
      · split at h
        next hspill => exact (ih h).trans (State.unspilled_of_spillThread hspill)
        next => split at h <;> cases h
        next hok _ => exact absurd h (hok u)

/-- A lane and a thread found in two states that differ in spilled images alone. -/
theorem State.thread_lvsn_of_unspilled {s u : State} {core ctx tidx : Nat} {l l' : Lane} {t t' : Thread}
    (h : u.lanes.map Lane.unspilled = s.lanes.map Lane.unspilled) (hl : s.lane? core ctx = some l) (ht : l.thread? tidx = some t)
    (hl' : u.lane? core ctx = some l') (ht' : l'.thread? tidx = some t') : t'.lvsn = t.lvsn := by
  have hlane : ∀ v : State, (v.lane? core ctx).map Lane.unspilled =
      (v.lanes.map Lane.unspilled).find? (fun l => l.core = core && l.ctx = ctx) := fun v => by
    rw [List.find?_map]
    rfl
  have hthread : ∀ l : Lane, (l.thread? tidx).map Thread.unspilled =
      l.unspilled.threads.find? (fun t => t.tidx = tidx) := fun l => by
    rw [Lane.unspilled, List.find?_map]
    rfl
  have hl'l : l'.unspilled = l.unspilled := by
    have hmap := (hlane u).trans (h ▸ (hlane s).symm)
    simpa [hl, hl'] using hmap
  have ht't : t'.unspilled = t.unspilled := by
    have hmap := (hthread l').trans (hl'l ▸ (hthread l).symm)
    simpa [ht, ht'] using hmap
  show t'.unspilled.lvsn = t.unspilled.lvsn
  rw [ht't]

/-! ### GROW (R280, R325) -/

theorem Lane.thread_updThread_same (l : Lane) (tidx : Nat) {f : Thread → Thread} (hf : ∀ t, (f t).tidx = t.tidx) :
    (l.updThread tidx f).thread? tidx = (l.thread? tidx).map f := by
  have := find_map_same (fun t : Thread => decide (t.tidx = tidx)) f l.threads (fun t ht => by simpa [hf t] using ht)
  simpa [Lane.updThread, Lane.thread?] using this

/-- A thread with its count raised to `n`, the new slots unspecified; `ctr` is the end of the free words that they may take. -/
def Thread.grown (pool : List Word) (ctr n : Nat) (t : Thread) : Thread :=
  { t with lvsn := n, lives := t.lives ++ liveWords pool (ctr - (n - t.lvsn)) (n - t.lvsn) }

@[simp] theorem liveWords_length (pool : List Word) (ctr n : Nat) : (liveWords pool ctr n).length = n := by simp [liveWords]

section
variable {core ctx n : Nat} {s u : State} {r : Run} {t : Thread} (hop : r.lvOp = some (.grow n))
  (ht : (s.lane? core ctx).bind (fun l => l.thread? r.tidx) = some t)
include hop ht

theorem State.growAll_of_enough (hn : n ≤ t.lvsn) : State.growAll core ctx [r] s = (.ok s, []) := by
  simp [State.growAll, hop, ht, hn]

theorem State.growAll_of_full {a : Option Nat} (hn : t.lvsn < n) (hexcluded : r.excluded = false)
    (hroom : s.roomFor core ctx r.tidx (n - t.lvsn) false = .full u a) :
    State.growAll core ctx [r] s = (.ok u, [(r.tidx, cLvsExhausted, a)]) := by
  simp [State.growAll, hop, ht, hn.not_ge, hexcluded, hroom]

theorem State.growAll_of_room (hn : t.lvsn < n) (hexcluded : r.excluded = false)
    (hroom : s.roomFor core ctx r.tidx (n - t.lvsn) false = .ok u) :
    ∃ pool ctr, State.growAll core ctx [r] s = (.ok (({ u with freeCtr := u.freeCtr + (n - t.lvsn) } : State).updLane core ctx
      (fun l => l.updThread r.tidx (Thread.grown pool ctr n))), []) := by
  refine ⟨u.livePool ctx, u.freeCtr + (n - t.lvsn), ?_⟩
  simp only [State.growAll, hop, ht, hexcluded, hroom]
  rw [if_neg (by simpa using hn)]
  rfl

end

/-- A lane's thread grown on that lane. -/
theorem State.lane_updLane_updThread {s : State} {core ctx tidx : Nat} {l : Lane} {t : Thread} {f : Thread → Thread}
    (hf : ∀ t, (f t).tidx = t.tidx) (hl : s.lane? core ctx = some l) (ht : l.thread? tidx = some t) :
    (s.updLane core ctx (fun l => l.updThread tidx f)).lane? core ctx = some (l.updThread tidx f) ∧
      (l.updThread tidx f).thread? tidx = some (f t) :=
  ⟨(State.lane_updLane_same s core ctx (fun l => l.updThread tidx f) (fun _ => ⟨rfl, rfl⟩)).trans (congrArg _ hl),
    (l.thread_updThread_same tidx hf).trans (congrArg _ ht)⟩

/-! ### Exits (R314) -/

section
variable {r : Run} {idx : Nat} (k : Packet) (b : Block) (t : Thread)

theorem exit_commits {xn : Nat} (h : r.exit = some (idx, .exit xn)) :
    r.slotWrites b = r.writes ∧ nextBlock k b t r = b.exitBlock xn := by
  simp [Run.slotWrites, nextBlock, h]

theorem call_commits {xn lk xr : Nat} (h : r.exit = some (idx, .call xn lk xr)) :
    r.slotWrites b = r.writes ++ [(lk, BitVec.ofNat 64 (b.exitBlock xr))] ∧ nextBlock k b t r = b.exitBlock xn := by
  simp [Run.slotWrites, nextBlock, h]

theorem nextBlock_of_ret {j : Nat} {w : Word} (h : r.exit = some (idx, .ret j w)) : nextBlock k b t r = w.toNat := by
  simp [nextBlock, h]

end

/-- Settles O36: the thread by the fields of its commit, its slots by the writes, its GROW by the room that its core makes. -/
theorem commitUpdatesTheThread : Obligations.CommitUpdatesTheThread := by
  intro k b r t
  refine ⟨t.commit_swFlags b r, t.commit_tidx b r, t.commit_handler b r, fun hop => ?_, fun n hop => ?_, fun n hop => ?_,
    fun n v => Thread.commit_lives_written, fun m => Thread.commit_lives_other, fun core ctx n s l hop hexcluded hl ht => ?_,
    fun idx xn => exit_commits k b t, fun idx xn lk xr => call_commits k b t, fun idx j w => nextBlock_of_ret k b t⟩
  · simp [Run.committedCount, hop]
  · simp [Run.committedCount, hop]
  · simp [Run.committedCount, hop]
  · have hfound : (s.lane? core ctx).bind (fun l => l.thread? r.tidx) = some t := Option.bind_eq_some_iff.mpr ⟨l, hl, ht⟩
    refine ⟨State.growAll_of_enough hop hfound, fun u l' t' hn hroom hl' ht' => ?_,
      fun u a hn => State.growAll_of_full hop hfound hn hexcluded⟩
    obtain ⟨pool, ctr, hgrow⟩ := State.growAll_of_room hop hfound hn hexcluded hroom
    obtain ⟨hlane, hthread⟩ := State.lane_updLane_updThread (s := { u with freeCtr := u.freeCtr + (n - t.lvsn) })
      (f := Thread.grown pool ctr n) (fun _ => rfl) hl' ht'
    have hcount := State.thread_lvsn_of_unspilled (State.unspilled_of_makeRoom hroom) hl ht hl' ht'
    exact ⟨_, _, _, hgrow, hlane, hthread, rfl, List.take_left, by simp [Thread.grown, hcount]⟩

end Sys2Proof.Machine

/-! What every step keeps (spec/08, spec/11 R358, R360): memory in its canonical form and the fused minimum SVN. `Follows o s` says
that the state `s` has kept both since the state `o`. There is one lemma `Follows.f` for each function `f` on states that a step
runs: what follows `o` still does after `f`. Most functions leave memory and the firmware alone, so their lemmas go through the
branches of the function and cite the lemmas of what each branch calls; memory is written by a few (`Follows.of_mem`), and the
minimum by SETSVN alone. -/

namespace Sys2Proof.Machine

/-! ### What a state keeps of an earlier one -/

/-- What a state keeps of an earlier one. -/
def Follows (o s : State) : Prop :=
  (o.MemoryCanonical → s.MemoryCanonical) ∧ o.firmware.minSvn ≤ s.firmware.minSvn

/-- The state that an outcome leads to keeps it. -/
def Leads (o : State) : Host.Outcome State Fault Refusal → Prop
  | .next t => Follows o t
  | _ => True

/-- The state of each answer of making room. -/
def Room.state : Room → State
  | .ok s | .wait s | .full s _ | .lost s => s

/-- The state of each answer of loading a block. -/
def Loaded.state : Loaded → State
  | .wait s | .bad s _ _ | .ok s _ => s

/-- The state of each answer of opening a packet. -/
def Opening.state : Opening → State
  | .wait s | .bad s _ | .ok s => s

/-- The state of each answer of reading an object. -/
def ObjRead.state : ObjRead → State
  | .wait s | .bad s _ | .ok s _ => s

/-- The state of each answer of writing a save. -/
def Saving.state : Saving → State
  | .wait s | .fault s | .ok s _ => s

/-- The state that a write leaves, done or not. -/
def writeDone (x : Reach State × State) : State :=
  match x.1 with
  | .ok u => u
  | _ => x.2

section
variable {o s t : State}

theorem Follows.refl (s : State) : Follows s s := ⟨id, Nat.le_refl _⟩

theorem Follows.of_eq (hm : t.mem = s.mem) (hf : t.firmware = s.firmware) (h : Follows o s) : Follows o t := by
  unfold Follows State.MemoryCanonical at *
  rwa [hm, hf]

/-- A change of memory that keeps its canonical form. -/
theorem Follows.of_mem (hm : Memory.wf s.mem = true → Memory.wf t.mem = true) (hf : t.firmware = s.firmware) (h : Follows o s) :
    Follows o t :=
  ⟨fun ho => hm (h.1 ho), hf ▸ h.2⟩

theorem State.firmware_of_fixed (h : t.fixed = s.fixed) : t.firmware = s.firmware :=
  show t.fixed.firmware = s.fixed.firmware by rw [h]

theorem State.firmware_noteSent {ctx pa len : Nat} {write : Bool} : (s.noteSent ctx pa len write).firmware = s.firmware :=
  State.firmware_of_fixed (s.fixed_noteSent ..)

theorem Follows.of_fixed (he : t.fixed = s.fixed) (h : Follows o s) : Follows o t :=
  .of_eq (State.mem_of_fixed he) (State.firmware_of_fixed he) h

/-! ### The state in an answer that was taken apart -/

theorem Follows.snd {α : Type} {a : α} {x : α × State} (he : x = (a, t)) (h : Follows o x.2) : Follows o t := by
  cases he; exact h

theorem Follows.fst {α : Type} {a : α} {x : State × α} (he : x = (t, a)) (h : Follows o x.1) : Follows o t := by
  cases he; exact h

theorem Follows.third {α β : Type} {a : α} {b : β} {x : α × β × State} (he : x = (a, b, t)) (h : Follows o x.2.2) :
    Follows o t := by
  cases he; exact h

theorem Follows.done {u : State} {x : Reach State × State} (he : x = (.ok u, t)) (h : Follows o (writeDone x)) : Follows o u := by
  cases he; exact h

theorem Follows.room {x y : Room} (he : x = y) (h : Follows o x.state) : Follows o y.state := he ▸ h

theorem Follows.loaded {x y : Loaded} (he : x = y) (h : Follows o x.state) : Follows o y.state := he ▸ h

theorem Follows.opening {x y : Opening} (he : x = y) (h : Follows o x.state) : Follows o y.state := he ▸ h

theorem Follows.objRead {x y : ObjRead} (he : x = y) (h : Follows o x.state) : Follows o y.state := he ▸ h

theorem Follows.saving {x y : Saving} (he : x = y) (h : Follows o x.state) : Follows o y.state := he ▸ h

/-! ### A choice between two answers, and a fold -/

theorem Follows.ite_state {c : Prop} [Decidable c] {x y : State} (hx : Follows o x) (hy : Follows o y) :
    Follows o (if c then x else y) := by
  split
  · exact hx
  · exact hy

theorem Follows.ite {α : Type} {c : Prop} [Decidable c] {x y : α × State} (hx : Follows o x.2) (hy : Follows o y.2) :
    Follows o (if c then x else y).2 := by
  split
  · exact hx
  · exact hy

theorem Follows.ite_third {α β : Type} {c : Prop} [Decidable c] {x y : α × β × State} (hx : Follows o x.2.2)
    (hy : Follows o y.2.2) : Follows o (if c then x else y).2.2 := by
  split
  · exact hx
  · exact hy

theorem Follows.ite_room {c : Prop} [Decidable c] {x y : Room} (hx : Follows o x.state) (hy : Follows o y.state) :
    Follows o (if c then x else y).state := by
  split
  · exact hx
  · exact hy

theorem Follows.ite_opening {c : Prop} [Decidable c] {x y : Opening} (hx : Follows o x.state) (hy : Follows o y.state) :
    Follows o (if c then x else y).state := by
  split
  · exact hx
  · exact hy

theorem Follows.foldl {α : Type} {g : State → α → State} {xs : List α} (h : Follows o s)
    (hg : ∀ t x, Follows o t → Follows o (g t x)) : Follows o (xs.foldl g s) :=
  List.foldlRecOn xs g h fun t ht x _ => hg t x ht

theorem wf_writeMasked {m : List Host.Cell} (a : Nat) (bs : List (Byte × Byte)) (h : Memory.wf m = true) :
    Memory.wf (writeMasked m a bs) = true := by
  induction bs generalizing m a with
  | nil => exact h
  | cons b bs ih => exact ih (a + 1) (Memory.wf_write a _ h)

/-! ### The functions that the events and the other moves run, each after those it calls -/

/-! #### Marshals, the loading of blocks and admission -/

theorem Follows.updLane {core ctx : Nat} {f : Lane → Lane} (h : Follows o s) : Follows o (s.updLane core ctx f) := h

theorem Follows.active {core ctx : Nat} (h : Follows o s) : Follows o (s.active core ctx) := by
  unfold State.active
  exact h.updLane

theorem leads_execMarshalBlockChoice {core ctx : Nat} (h : Follows o s) : Leads o (execMarshalBlockChoice core ctx s) := by
  unfold execMarshalBlockChoice
  split
  · split
    · exact h
    · split
      · exact h
      · exact .active h.updLane
  · exact h

theorem Follows.elapseCore {core n : Nat} (h : Follows o s) : Follows o (s.elapseCore core n) := h

theorem leads_execAgeThresholdReached {core ctx blk : Nat} (h : Follows o s) :
    Leads o (execAgeThresholdReached core ctx blk s) := by
  unfold execAgeThresholdReached
  dsimp only
  split
  · split
    · split
      · exact h
      · exact h.elapseCore
    · split
      · exact h
      · exact h.elapseCore
  · exact h

theorem Follows.choose {n : Nat} (h : Follows o s) : Follows o (s.choose n).2 := h

theorem Follows.loadSight {p : Packet} (h : Follows o s) : Follows o (s.loadSight p).2 := by
  unfold State.loadSight
  dsimp only
  split
  · exact h
  · dsimp only
    exact h.choose

theorem Follows.cacheEntry {t : TlbEntry} (h : Follows o s) : Follows o (s.cacheEntry t) := by
  unfold State.cacheEntry
  split <;> exact h

theorem Follows.translate {ctx va : Nat} {k : AccKind} (h : Follows o s) : Follows o (Sys2Proof.Machine.translate s ctx va k).2 :=
  h.of_fixed (fixed_translate s ctx va k)

theorem Follows.requestMigration {ctx va pa : Nat} {big : Bool} (h : Follows o s) :
    Follows o (s.requestMigration ctx va pa big).2 := by
  unfold State.requestMigration
  dsimp only
  split <;> exact h

theorem Follows.touchPhys {pa n : Nat} (h : Follows o s) : Follows o (s.touchPhys pa n) := h

theorem Follows.placeVa {ctx va : Nat} {k : AccKind} {locks : Bool} (h : Follows o s) :
    Follows o (s.placeVa ctx va k locks).2 := by
  unfold State.placeVa
  split
  · exact h
  next he =>
    split
    next he1 => exact .snd he1 h.translate
    next he1 => exact .requestMigration (.snd he1 h.translate)
    next he1 =>
      split
      · exact .snd he1 h.translate
      · exact .touchPhys (.snd he1 h.translate)

theorem Follows.unspecified {free : Bool} {ctx : Nat} {bs : List Byte} (h : Follows o s) :
    Follows o (s.unspecified free ctx bs).2 := by
  unfold State.unspecified
  dsimp only
  split <;> exact h

theorem Follows.noteSent {ctx pa len : Nat} {write : Bool} (h : Follows o s) : Follows o (s.noteSent ctx pa len write) := by
  unfold State.noteSent
  split <;> exact h

theorem Follows.readSpansWith {look : List Host.Cell → List Host.Cell} {fill : Nat → State → State} {ctx : Nat} {k : AccKind}
    {locks : Bool} {spans : List (Nat × Nat)} (h : Follows o s) (hfill : ∀ line t, Follows o t → Follows o (fill line t)) :
    Follows o (s.readSpansWith look fill ctx k locks spans).2.2 := by
  induction spans generalizing s with
  | nil => exact h
  | cons span rest ih =>
    rw [State.readSpansWith]
    split
    next he => exact .snd he h.placeVa
    next he => exact .snd he h.placeVa
    next he =>
      have hplaced := Follows.snd he h.placeVa
      dsimp only
      split
      · exact hplaced
      · split
        next he1 => exact .third he1 (ih (.ite_state (.noteSent hplaced.unspecified) (hfill _ _ hplaced.unspecified)))
        next he1 => exact .third he1 (ih (.ite_state (.noteSent hplaced.unspecified) (hfill _ _ hplaced.unspecified)))

theorem Follows.readSpansBy {look : List Host.Cell → List Host.Cell} {ctx : Nat} {k : AccKind} {locks : Bool}
    {spans : List (Nat × Nat)} (h : Follows o s) : Follows o (s.readSpansBy look ctx k locks spans).2.2 := by
  unfold State.readSpansBy
  exact .readSpansWith h (fun _ _ ht => ht)

theorem Follows.asNative {look : List Host.Cell → List Host.Cell} {ctx : Nat} {p : Packet} (h : Follows o s) :
    Follows o (s.asNative look ctx p).2 := by
  unfold State.asNative
  dsimp only
  split
  · exact h
  · split
    next he2 => exact .third he2 h.readSpansBy
    next he2 => exact .third he2 h.readSpansBy
    next he2 => exact .third he2 h.readSpansBy

theorem Follows.imageBytes {look : List Host.Cell → List Host.Cell} {ctx : Nat} {p : Packet} {off n : Nat} (h : Follows o s) :
    Follows o (s.imageBytes look ctx p off n).2 := by
  unfold State.imageBytes
  dsimp only
  split
  · exact h
  · exact h.readSpansBy

theorem Follows.fetchWords {look : List Host.Cell → List Host.Cell} {ctx : Nat} {p : Packet} {n off : Nat} (h : Follows o s) :
    Follows o (s.fetchWords look ctx p n off).2 := by
  induction n generalizing s off with
  | zero => exact h
  | succ n ih =>
    rw [State.fetchWords]
    split
    next he => exact .snd he h.imageBytes
    next he => exact .snd he h.imageBytes
    next he =>
      have hword := Follows.snd he h.imageBytes
      dsimp only
      split
      next he1 => exact .snd he1 (.ite hword.imageBytes hword)
      next he1 => exact .snd he1 (.ite hword.imageBytes hword)
      next he1 =>
        have hext := Follows.snd he1 (.ite hword.imageBytes hword)
        split
        next he2 => exact .snd he2 (ih hext)
        · exact ih hext

theorem Follows.readSpans {ctx : Nat} {k : AccKind} {locks : Bool} {spans : List (Nat × Nat)} (h : Follows o s) :
    Follows o (s.readSpans ctx k locks spans).2.2 := by
  unfold State.readSpans
  exact h.readSpansBy

theorem Follows.readVa {ctx va n : Nat} {k : AccKind} {locks : Bool} (h : Follows o s) :
    Follows o (s.readVa ctx va n k locks).2 := by
  unfold State.readVa
  exact .readSpansWith h (fun _ _ ht => ht)

theorem Follows.fetchMaps {ctx : Nat} {p : Packet} {ns : List Nat} (h : Follows o s) : Follows o (s.fetchMaps ctx p ns).2 := by
  induction ns generalizing s with
  | nil => exact h
  | cons x xs ih =>
    rw [State.fetchMaps]
    split
    next he => exact .snd he h.readVa
    next he => exact .snd he h.readVa
    next he =>
      split
      next he1 => exact .snd he1 (ih (.snd he h.readVa))
      · exact ih (.snd he h.readVa)

theorem Follows.loadBlock {ctx : Nat} {p : Packet} {stage blk : Nat} (h : Follows o s) :
    Follows o (s.loadBlock ctx p stage blk).state := by
  unfold State.loadBlock
  dsimp only
  split
  next he1 => exact .snd he1 (.asNative h.loadSight)
  next he1 => exact .snd he1 (.asNative h.loadSight)
  next he1 =>
    split
    next he2 => exact .snd he2 (.imageBytes (.snd he1 (.asNative h.loadSight)))
    next he2 => exact .snd he2 (.imageBytes (.snd he1 (.asNative h.loadSight)))
    next he2 =>
      split
      next he3 => exact .snd he3 (.fetchWords (.snd he2 (.imageBytes (.snd he1 (.asNative h.loadSight)))))
      next he3 => exact .snd he3 (.fetchWords (.snd he2 (.imageBytes (.snd he1 (.asNative h.loadSight)))))
      next he3 =>
        split
        next he4 => exact .snd he4 (.fetchMaps (.snd he3 (.fetchWords (.snd he2 (.imageBytes (.snd he1
          (.asNative h.loadSight)))))))
        next he4 => exact .snd he4 (.fetchMaps (.snd he3 (.fetchWords (.snd he2 (.imageBytes (.snd he1
          (.asNative h.loadSight)))))))
        next he4 =>
          split <;> exact .snd he4 (.fetchMaps (.snd he3 (.fetchWords (.snd he2 (.imageBytes (.snd he1
            (.asNative h.loadSight)))))))

theorem Follows.onlyMigrations {t : State} (h : Follows o s) : Follows o (s.onlyMigrations t) := h

theorem Follows.writeSpans {ctx : Nat} {k : AccKind} {locks : Bool} {base : Nat} {bytes : List Byte} {spans : List (Nat × Nat)}
    (h : Follows o s) : Follows o (s.writeSpans ctx k locks base bytes spans).2.2 := by
  induction spans generalizing s with
  | nil => exact h
  | cons x xs ih =>
    rw [State.writeSpans]
    dsimp only
    split
    next he1 => exact .snd he1 h.placeVa
    next he1 => exact .snd he1 h.placeVa
    next he1 =>
      split
      next he2 => exact .third he2 (ih (.snd he1 h.placeVa))
      next he2 => exact .third he2 (ih (.snd he1 h.placeVa))

theorem Follows.writeVa {ctx va : Nat} {bytes : List Byte} {k : AccKind} {locks : Bool} (h : Follows o s) :
    Follows o (s.writeVa ctx va bytes k locks).2.2 := by
  unfold State.writeVa
  exact h.writeSpans

theorem Follows.watch {g : Guard} (h : Follows o s) : Follows o (s.watch g) := h

theorem Follows.sealBlock {blk : Nat} {ws : List DevByte} (h : Follows o s) : Follows o (s.sealBlock blk ws) := by
  unfold State.sealBlock
  dsimp only
  split <;> exact h

theorem Follows.commitBytes {ws : List DevByte} (h : Follows o s) : Follows o (s.commitBytes ws) :=
  .of_mem (s := (blocksOf ws).foldl (fun s b => s.sealBlock b (ws.filter (fun w => w.pa / 128 = b))) s)
    (Memory.wf_foldl _ (fun _ w => Memory.wf_write w.pa w.val) ws) rfl (.foldl h fun _ _ ht => ht.sealBlock)

theorem Follows.storeImage {ctx : Nat} {ps : List Piece} (h : Follows o s) : Follows o (s.storeImage ctx ps) := by
  unfold State.storeImage
  exact .watch h.commitBytes

theorem Follows.spillThread {core ctx tidx : Nat} (h : Follows o s) : Follows o (s.spillThread core ctx tidx).state := by
  unfold State.spillThread
  dsimp only
  split
  · exact h
  · split
    next he2 => exact .third he2 (.writeVa h)
    next he2 => exact .third he2 (.writeVa h)
    next he2 => exact .updLane (.storeImage (.third he2 (.writeVa h)))

theorem Follows.updCtx {ctx : Nat} {f : Context → Context} (h : Follows o s) : Follows o (s.updCtx ctx f) := h

theorem Follows.updLanes {ctx : Nat} {f : Lane → Lane} (h : Follows o s) : Follows o (s.updLanes ctx f) := h

theorem Follows.returnTicket {ctx : Nat} (h : Follows o s) : Follows o (s.returnTicket ctx) := by
  unfold State.returnTicket
  exact .updLanes h

theorem Follows.squash {count : Bool} {set : List PassRef} (h : Follows o s) : Follows o (s.squash count set) := h

theorem Follows.squashContext {ctx : Nat} (h : Follows o s) : Follows o (s.squashContext ctx) := by
  unfold State.squashContext
  exact .returnTicket h.squash

theorem Follows.failPacket {ctx cause : Nat} {info : Option Nat} (h : Follows o s) : Follows o (s.failPacket ctx cause info) := by
  unfold State.failPacket
  exact .squashContext (.updLanes h.updCtx)

theorem Follows.makeRoom {fuel core ctx keep need : Nat} {new : Bool} (h : Follows o s) :
    Follows o (s.makeRoom fuel core ctx keep need new).state := by
  induction fuel generalizing s core ctx keep need new with
  | zero => exact h
  | succ fuel ih =>
    rw [State.makeRoom]
    split
    · exact h
    next he =>
      split
      · exact h
      · split
        next he2 => exact ih (.room he2 h.spillThread)
        next he2 =>
          split
          · exact .room he2 h.spillThread
          · exact .failPacket (.room he2 h.spillThread)
        · exact h.spillThread

theorem Follows.roomFor {core ctx keep need : Nat} {new : Bool} (h : Follows o s) :
    Follows o (s.roomFor core ctx keep need new).state := by
  unfold State.roomFor
  exact h.makeRoom

theorem Follows.freeSlot {core : Nat} (h : Follows o s) : Follows o (s.freeSlot core).2 := h

theorem Follows.noteLives {ctx : Nat} {ws : List Word} (h : Follows o s) : Follows o (s.noteLives ctx ws) := by
  unfold State.noteLives
  exact h.updCtx

theorem Follows.createThread {core ctx tidx slots : Nat} {given : List (Option Word)} {place : Place} (h : Follows o s) :
    Follows o (s.createThread core ctx tidx slots given place).state := by
  unfold State.createThread
  dsimp only
  split
  next he1 => exact .noteLives (.updLane (.room he1 h.roomFor))
  · exact h.roomFor

theorem Follows.createAll {core ctx blk slots : Nat} {arg : Word} {ns : List Nat} (h : Follows o s) :
    Follows o (s.createAll core ctx blk slots arg ns).state := by
  induction ns generalizing s with
  | nil => exact h
  | cons x xs ih =>
    rw [State.createAll]
    split
    next he =>
      split
      · exact ih h
      · split
        next he2 => exact ih (.room he2 h.createThread)
        · exact h.createThread
    next he =>
      split
      · exact ih h
      · split
        next he2 => exact ih (.room he2 h.createThread)
        · exact h.createThread

theorem Follows.forgetPass {q : PassRef} (h : Follows o s) : Follows o (s.forgetPass q) := h

theorem Follows.freshWord (h : Follows o s) : Follows o s.freshWord.2 := h

theorem Follows.takeTrap {core ctx tidx blk cause : Nat} {detail : Option Nat} (h : Follows o s) :
    Follows o (s.takeTrap core ctx tidx blk cause detail) := by
  unfold State.takeTrap
  dsimp only
  split
  · refine Follows.updLane ?_
    split
    · exact h
    · exact h.freshWord
  · refine Follows.failPacket ?_
    refine Follows.updLane ?_
    split
    · exact h
    · exact h.freshWord

theorem Follows.failLoad {core ctx : Nat} {k : Packet} {p : Pass} {cause : Nat} {info : Option Nat} (h : Follows o s) :
    Follows o (s.failLoad core ctx k p cause info) := by
  unfold State.failLoad
  dsimp only
  split
  · exact h.onlyMigrations
  next he1 => exact .failPacket (.room he1 h.createAll)
  next he1 => exact .room he1 h.createAll
  next he1 => exact .foldl (.forgetPass (.updLane (.room he1 h.createAll))) (fun _ _ ht => ht.takeTrap)

theorem leads_execConfigurationLoadDone {core ctx : Nat} (h : Follows o s) : Leads o (execConfigurationLoadDone core ctx s) := by
  unfold execConfigurationLoadDone
  dsimp only
  split
  · split
    · exact h
    · split
      · exact h
      · split
        · exact h.onlyMigrations
        next he4 => exact .active (.failLoad (.loaded he4 h.loadBlock))
        next he4 => exact .active (.updLane (.loaded he4 h.loadBlock))
  · exact h

theorem Follows.admitThread {core ctx : Nat} {p : Pass} {b : Block} {tidx : Nat} {fail : Option (EntryFail × Nat × Nat)}
    (h : Follows o s) : Follows o (s.admitThread core ctx p b tidx fail) := by
  unfold State.admitThread
  exact .active h.updLane

theorem Follows.unwatch {ctx : Nat} {save : Bool} {pa : Option Nat} (h : Follows o s) : Follows o (s.unwatch ctx save pa) := h

theorem Follows.refetch {core ctx : Nat} {th : Thread} {sp : Spill} (h : Follows o s) :
    Follows o (s.refetch core ctx th sp).state := by
  unfold State.refetch
  split
  next he =>
    have hslot := Follows.freeSlot (core := core) (.room he h.roomFor)
    dsimp only
    split
    next he1 => exact .snd he1 hslot.readVa
    next he1 =>
      have hread := Follows.snd he1 hslot.readVa
      split
      · exact .updLane (.unwatch hread)
      · exact hread
    next he1 =>
      have hread := Follows.snd he1 hslot.readVa
      exact .updLane (.unwatch hread)
  · exact h.roomFor

theorem leads_execThreadAdmission {core ctx : Nat} (h : Follows o s) : Leads o (execThreadAdmission core ctx s) := by
  unfold execThreadAdmission
  split
  next he =>
    split
    · exact h
    · split
      · split
        · split
          next he4 => exact .admitThread (.room he4 h.createThread)
          · exact h.onlyMigrations
          next he4 => exact .failPacket (.room he4 h.createThread)
          next he4 => exact .room he4 h.createThread
        · split
          · split
            · exact h.onlyMigrations
            next he5 => exact .failPacket (.room he5 h.refetch)
            next he5 => exact .room he5 h.refetch
            next he5 => exact .admitThread (.room he5 h.refetch)
          · exact h.admitThread
      · exact h
  · exact h

/-! #### What reads and gathers bring back -/

theorem Follows.updPass {core ctx pass : Nat} {f : Pass → Pass} (h : Follows o s) : Follows o (s.updPass core ctx pass f) := by
  unfold State.updPass
  exact h.updLane

theorem Follows.updRun {x : Firing} {f : Run → Run} (h : Follows o s) : Follows o (s.updRun x f) := by
  unfold State.updRun
  exact h.updPass

theorem leads_execLoadDataReturn {core ctx tidx idx : Nat} (h : Follows o s) :
    Leads o (execLoadDataReturn core ctx tidx idx s) := by
  unfold execLoadDataReturn
  dsimp only
  split
  · exact h
  · refine .foldl h fun t2 x ht2 => ?_
    split
    · exact ht2
    · split
      · exact ht2.updRun
      · exact ht2

theorem leads_execGatherReturn {core ctx tidx ticket : Nat} (h : Follows o s) :
    Leads o (execGatherReturn core ctx tidx ticket s) := by
  unfold execGatherReturn
  exact h.updLane

/-! #### The end and the commit of a pass -/

theorem Follows.address {core ctx : Nat} {cls : MemClass} {ea align : Nat} {k : AccKind} (h : Follows o s) :
    Follows o (s.address core ctx cls ea align k).2 := by
  unfold State.address
  dsimp only
  split
  · split
    · exact h
    · split <;> exact h
  · split
    · exact h
    · split
      next he3 => exact .snd he3 h.translate
      next he3 =>
        split
        · exact .snd he3 h.translate
        · exact .requestMigration (.snd he3 h.translate)
      next he3 =>
        split
        · exact .snd he3 h.translate
        · split <;> exact .snd he3 h.translate
      next he3 => exact .snd he3 h.translate

theorem Follows.probePlaces {core ctx : Nat} {m : TMap} {places : List (Nat × Nat)} (h : Follows o s) :
    Follows o (s.probePlaces core ctx m places).2 := by
  induction places generalizing s with
  | nil => exact h
  | cons x xs ih =>
    rw [State.probePlaces]
    split
    next he => exact .snd he h.address
    next he => exact .snd he h.address
    next he => exact ih (.snd he h.address)

theorem Follows.probeBlock {core ctx : Nat} {m : TMap} {blk : List Nat} {sts : List ScaledStore} (h : Follows o s) :
    Follows o (s.probeBlock core ctx m blk sts).2 := by
  unfold State.probeBlock
  dsimp only
  split
  · split
    · exact h
    · exact h.probePlaces
  · split
    · exact h
    · exact h.probePlaces

theorem Follows.probeBlocks {x : Firing} {blocks : List (TMap × List Nat × List ScaledStore)} (h : Follows o s) :
    Follows o (s.probeBlocks x blocks).2 := by
  induction blocks generalizing s with
  | nil => exact h
  | cons x xs ih =>
    rw [State.probeBlocks]
    exact ih (.updPass h.probeBlock)

theorem Follows.checkBlocks {fuel1 : Nat} {x : Firing} {b : Block} (h : Follows o s) : Follows o (s.checkBlocks fuel1 x b) := by
  induction fuel1 generalizing s x b with
  | zero => exact h
  | succ fuel ih =>
    rw [State.checkBlocks]
    dsimp only
    split
    · exact h
    · split
      · exact h.probeBlocks
      · exact ih h.probeBlocks

theorem Follows.runAgain {q : PassRef} {p : Pass} (h : Follows o s) : Follows o (s.runAgain q p) := by
  unfold State.runAgain
  exact .updPass h

theorem Follows.updCore {core : Nat} {f : CoreState → CoreState} (h : Follows o s) : Follows o (s.updCore core f) := h

theorem Follows.allocateL1 {core : Nat} {x : L1Line} (h : Follows o s) : Follows o (s.allocateL1 core x) := by
  unfold State.allocateL1
  dsimp only
  split
  · exact h
  · split
    · exact h
    · split
      · exact h.updCore
      · exact .updCore h.choose

theorem Follows.refreshCopy {core line : Nat} {byS : Bool} {cp : CachePol} (h : Follows o s) :
    Follows o (s.refreshCopy core line byS cp) := by
  unfold State.refreshCopy
  dsimp only
  split
  · exact h.updCore
  · split
    · exact h.allocateL1
    · exact h

theorem Follows.fillCopy {core line : Nat} {byS : Bool} {cp : CachePol} (h : Follows o s) :
    Follows o (s.fillCopy core line byS cp) := by
  unfold State.fillCopy
  split
  · exact h.refreshCopy
  · exact h

theorem Follows.deferAs {x : Firing} {id : Nat} {deps : List Nat} {kind : DeferredKind} (h : Follows o s) :
    Follows o (s.deferAs x id deps kind) := by
  unfold State.deferAs
  exact h.updPass

theorem Follows.trimL1 {core : Nat} (h : Follows o s) : Follows o (s.trimL1 core) := by
  unfold State.trimL1
  exact h.updCore

theorem Follows.assembled {x : Firing} {m : TMap} {st : ScaledStore} {va align : Nat} {bytes : List (Byte × Byte)} {reads : Bool}
    (h : Follows o s) : Follows o (s.assembled x m st va align bytes reads) := by
  unfold State.assembled
  dsimp only
  split
  next he1 =>
    split
    · exact .deferAs (.fillCopy (.snd he1 h.address))
    · exact .trimL1 (.updPass (.fillCopy (.snd he1 h.address)))
  next he1 => exact .deferAs (.snd he1 h.address)
  next he1 => exact .snd he1 h.address

theorem Follows.assembleElem {x : Firing} {m : TMap} {st : ScaledStore} {c : List Nat} {bits : Nat} (h : Follows o s) :
    Follows o (s.assembleElem x m st c bits) := by
  unfold State.assembleElem
  dsimp only
  split
  · exact h.assembled
  · exact .foldl h (fun _ _ ht => ht.assembled)

theorem Follows.assembleBlock {x : Firing} {m : TMap} {blk : List Nat} {sts : List ScaledStore} (h : Follows o s) :
    Follows o (s.assembleBlock x m blk sts) := by
  unfold State.assembleBlock
  dsimp only
  split
  · exact .assembled (.foldl h (fun _ _ ht => ht.assembleElem))
  · exact .foldl h (fun _ _ ht => ht.assembleElem)

theorem Follows.writeBlocks {x : Firing} {b : Block} (h : Follows o s) : Follows o (s.writeBlocks x b) := by
  unfold State.writeBlocks
  split
  · exact h
  · exact .foldl h (fun _ _ ht => ht.assembleBlock)

theorem Follows.scratchPut {core addr : Nat} {b : Byte} (h : Follows o s) : Follows o (s.scratchPut core addr b) := by
  unfold State.scratchPut
  exact h.updCore

theorem Follows.scratchWrite {core addr : Nat} {bytes : List Byte} (h : Follows o s) :
    Follows o (s.scratchWrite core addr bytes) := by
  unfold State.scratchWrite
  exact .foldl h (fun _ _ ht => ht.scratchPut)

theorem Follows.applyUpdate {ctx core : Nat} {acc : State × List (Nat × Nat)} {a : Access} (h : Follows o acc.1) :
    Follows o (State.applyUpdate ctx core acc a).1 := by
  unfold State.applyUpdate
  split
  · split
    · exact h
    · exact h.commitBytes
  · exact h.scratchWrite
  · exact h

theorem Follows.dropOwnCopies {core : Nat} {p : Pass} (h : Follows o s) : Follows o (s.dropOwnCopies core p) := by
  unfold State.dropOwnCopies
  exact h.updCore

theorem Follows.placeThread {core ctx tidx : Nat} {pl : Place} (h : Follows o s) :
    Follows o (s.placeThread core ctx tidx pl) := by
  unfold State.placeThread
  exact h.updLane

theorem Follows.parkWaiter {core ctx blk : Nat} {r : Run} (h : Follows o s) : Follows o (s.parkWaiter core ctx blk r) := by
  unfold State.parkWaiter
  dsimp only
  split
  · exact h
  · split
    · exact h
    · exact h.placeThread

theorem Follows.broadcast {source : Option PassRef} {w c : List (Nat × Nat)} {dies : List Nat} (h : Follows o s) :
    Follows o (s.broadcast source w c dies) := by
  unfold State.broadcast
  dsimp only
  split
  · exact h
  · split <;> exact h

theorem Follows.linearize {core ctx : Nat} {p : Pass} (h : Follows o s) : Follows o (s.linearize core ctx p) := by
  have hbytes : Follows o ((p.published s).foldl (fun t w => t.touchPhys w.pa 1) (s.commitBytes (p.published s))) :=
    .foldl h.commitBytes fun _ _ ht => ht.touchPhys
  have hscratch := hbytes.foldl (xs := p.scratchPublished s core)
    (g := fun s x => s.scratchPut core x.1 x.2) fun _ _ ht => ht.scratchPut
  have hupdates : ∀ (us : List Access) (acc : State × List (Nat × Nat)), Follows o acc.1 →
      Follows o (us.foldl (State.applyUpdate ctx core) acc).1 := fun us acc hacc =>
    List.foldlRecOn (motive := fun (acc : State × List (Nat × Nat)) => Follows o acc.1) us _ hacc fun _ ht _ _ => ht.applyUpdate
  unfold State.linearize
  dsimp only
  refine .ite_state (.broadcast ?_) ?_ <;>
    exact .foldl (.dropOwnCopies (.updPass (hupdates p.updates (_, []) hscratch))) fun _ _ ht => ht.parkWaiter

theorem Follows.linearizeIdle {core ctx : Nat} (h : Follows o s) : Follows o (s.linearizeIdle core ctx) := by
  unfold State.linearizeIdle
  split
  · exact h
  · split
    · exact h
    · split
      · exact h.linearize
      · exact h

theorem Follows.giveBack {q : PassRef} {out : List Nat} (h : Follows o s) : Follows o (s.giveBack q out) := h

theorem Follows.withdraw {q : PassRef} {out : List Nat} (h : Follows o s) : Follows o (s.withdraw q out) := by
  unfold State.withdraw
  dsimp only
  split
  · exact h.giveBack
  · exact h

theorem leads_execPassEnd {core ctx : Nat} (h : Follows o s) : Leads o (execPassEnd core ctx s) := by
  unfold execPassEnd
  dsimp only
  split
  · split
    · exact h
    · split
      · exact h
      · split
        · refine Follows.active ?_
          refine Follows.runAgain ?_
          refine Follows.checkBlocks ?_
          split
          · exact .checkBlocks h.updPass
          · exact .updPass (.checkBlocks h.updPass)
        · refine Follows.active ?_
          refine Follows.linearizeIdle ?_
          refine Follows.withdraw ?_
          refine Follows.updPass ?_
          refine Follows.writeBlocks ?_
          refine Follows.checkBlocks ?_
          split
          · exact .checkBlocks h.updPass
          · exact .updPass (.checkBlocks h.updPass)
  · exact h

theorem Follows.updArbiter {die : Nat} {f : Arbiter → Arbiter} (h : Follows o s) : Follows o (s.updArbiter die f) := h

theorem Follows.dropRequests {r : Requester} (h : Follows o s) : Follows o (s.dropRequests r) := h

theorem Follows.giveUp {q : PassRef} (h : Follows o s) : Follows o (s.giveUp q) := by
  unfold State.giveUp
  exact .updPass (.updCtx h.dropRequests)

theorem Follows.allocateSpawns {q : PassRef} {p : Pass} (h : Follows o s) : Follows o (s.allocateSpawns q p) := by
  unfold State.allocateSpawns
  dsimp only
  split
  · exact h
  · split
    · exact h
    · split
      · exact .updPass h.updCtx
      · exact h.updPass

theorem Follows.issueGrant {die : Nat} {q : PassRef} (h : Follows o s) : Follows o (s.issueGrant die q) := by
  unfold State.issueGrant
  dsimp only
  split
  · split
    · refine Follows.linearize ?_
      refine Follows.updPass ?_
      split
      · split
        · exact .allocateSpawns (.updArbiter h.active)
        · exact .updArbiter h.active
      · exact .updArbiter h.active
    · refine Follows.updPass ?_
      split
      · split
        · exact .allocateSpawns (.updArbiter h.active)
        · exact .updArbiter h.active
      · exact .updArbiter h.active
  · refine Follows.updPass ?_
    split
    · split
      · exact .allocateSpawns (.updArbiter h.active)
      · exact .updArbiter h.active
    · exact .updArbiter h.active

theorem Follows.serveHead {die : Nat} (h : Follows o s) : Follows o (s.serveHead die) := by
  unfold State.serveHead
  split
  · exact h
  · exact h.updArbiter
  · split
    · exact h.updArbiter
    · split
      · exact h.giveUp
      · split
        · exact h
        · exact h.issueGrant

theorem Follows.queueRequests {die : Nat} (h : Follows o s) : Follows o (s.queueRequests die) := by
  unfold State.queueRequests
  dsimp only
  refine Follows.foldl ?_ fun t1 x ht1 => ?_
  · refine Follows.updArbiter ?_
    split
    · exact h
    · exact h.choose
  · exact ht1.updPass

theorem leads_execArbiterGrant {die : Nat} (h : Follows o s) : Leads o (execArbiterGrant die s) := by
  unfold execArbiterGrant
  split
  · exact .serveHead h.queueRequests
  · exact h

theorem Follows.growAll {core ctx : Nat} {rs : List Run} (h : Follows o s) : Follows o (s.growAll core ctx rs).1.state := by
  induction rs generalizing s with
  | nil => exact h
  | cons x xs ih =>
    rw [State.growAll]
    dsimp only
    split
    · split
      · exact ih h
      · split
        next he3 => exact .room he3 h.roomFor
        next he3 => exact .room he3 h.roomFor
        next he3 => exact ih (.room he3 h.roomFor)
        next he3 => exact ih (.updLane (.room he3 h.roomFor))
    · exact ih h

theorem Follows.clearEntryFail {core ctx : Nat} {r : Run} (h : Follows o s) : Follows o (s.clearEntryFail core ctx r) := by
  unfold State.clearEntryFail
  split
  · exact h.updLane
  · exact h.updLane
  · exact h

theorem Follows.commitExcluded {core ctx blk : Nat} {r : Run} (h : Follows o s) :
    Follows o (s.commitExcluded core ctx blk r) := by
  unfold State.commitExcluded
  split
  · exact .takeTrap h.clearEntryFail
  · split
    · exact h
    · exact h.placeThread
  · exact h

theorem Follows.commitThread {core ctx : Nat} {k : Packet} {b : Block} {p : Pass} {grown : List (Nat × Nat × Option Nat)}
    {r : Run} (h : Follows o s) : Follows o (s.commitThread core ctx k b p grown r) := by
  unfold State.commitThread
  dsimp only
  refine Follows.foldl ?_ fun t1 x ht1 => ?_
  · split
    · exact h.commitExcluded
    · exact .noteLives h.updLane
  · exact ht1.failPacket

theorem Follows.queueDeferred {core ctx : Nat} {p : Pass} (h : Follows o s) : Follows o (s.queueDeferred core ctx p) := by
  unfold State.queueDeferred
  exact .updCore h.updLane

theorem Follows.commitBanks {core ctx : Nat} {p : Pass} (h : Follows o s) : Follows o (s.commitBanks core ctx p) := by
  unfold State.commitBanks
  exact .foldl h (fun _ _ ht => .trimL1 ht.updCore)

theorem Follows.appendEntries {core ctx : Nat} {p : Pass} (h : Follows o s) : Follows o (s.appendEntries core ctx p) := by
  unfold State.appendEntries
  exact h.updCore

theorem Follows.commitStreams {core ctx : Nat} {p : Pass} (h : Follows o s) : Follows o (s.commitStreams core ctx p) := h

theorem Follows.dropPass {q : PassRef} (h : Follows o s) : Follows o (s.dropPass q) := h

theorem Follows.commitPass {core ctx : Nat} {k : Packet} {b : Block} {p : Pass} {grown : List (Nat × Nat × Option Nat)}
    (h : Follows o s) : Follows o (s.commitPass core ctx k b p grown) := by
  unfold State.commitPass
  dsimp only
  refine Follows.active ?_
  refine Follows.linearizeIdle ?_
  refine Follows.dropPass ?_
  split
  · exact .commitBanks (.appendEntries (.commitStreams (.queueDeferred (.updLane (.foldl h (fun _ _ ht => ht.commitThread))))))
  · exact .broadcast (.commitBanks (.appendEntries (.commitStreams (.queueDeferred (.updLane (.foldl h
    (fun _ _ ht => ht.commitThread)))))))

theorem leads_execChunkCommit {core ctx : Nat} (h : Follows o s) : Leads o (execChunkCommit core ctx s) := by
  have hidle := h.linearizeIdle (core := core) (ctx := ctx)
  unfold execChunkCommit
  dsimp only
  split
  · split
    · exact hidle
    · split
      · exact hidle
      · split
        · exact hidle
        · split
          next he => exact .commitPass (.room (congrArg Prod.fst he) hidle.growAll)
          next he => exact .onlyMigrations hidle
          next he => exact .room (congrArg Prod.fst he) hidle.growAll
          · exact hidle
  · exact hidle

theorem Follows.trackLine {core : Nat} {chunk : Bool} {line : Nat} (h : Follows o s) :
    Follows o (s.trackLine core chunk line) := by
  unfold State.trackLine
  dsimp only
  split
  · exact h
  · split
    · split
      · exact h
      · split <;> exact h
    · split
      · exact h
      · split <;> exact h

theorem Follows.received {core : Nat} {b : Broadcast} (h : Follows o s) : Follows o (s.received core b) := h

theorem Follows.wakeWaiters {core : Nat} {hashed : Bool} {lines : List Nat} (h : Follows o s) :
    Follows o (s.wakeWaiters core hashed lines) := h

theorem leads_execWcBroadcastArrival {core : Nat} {falseMatch : Bool} (h : Follows o s) :
    Leads o (execWcBroadcastArrival core falseMatch s) := by
  unfold execWcBroadcastArrival
  dsimp only
  split
  · exact h
  · exact .received (.wakeWaiters (.squash (.updCore (.foldl h (fun _ _ ht => ht.trackLine)))))

theorem leads_execPassReplay {core ctx : Nat} (h : Follows o s) : Leads o (execPassReplay core ctx s) := by
  unfold execPassReplay
  dsimp only
  split
  · exact h
  · split
    · exact h
    · exact h.updPass

theorem leads_execSoloTicketGrant (h : Follows o s) : Leads o (execSoloTicketGrant s) := by
  unfold execSoloTicketGrant
  split
  · exact h
  · split
    · exact .updPass h
    · exact h

/-! #### Deferred effects -/

theorem Follows.popHead {core ctx : Nat} (h : Follows o s) : Follows o (s.popHead core ctx) := by
  unfold State.popHead
  exact h.updLane

theorem Follows.updateCopy {core line : Nat} (h : Follows o s) : Follows o (s.updateCopy core line) := by
  unfold State.updateCopy
  exact h.updCore

theorem leads_execSStorePublish {core ctx : Nat} (h : Follows o s) : Leads o (execSStorePublish core ctx s) := by
  unfold execSStorePublish
  dsimp only
  split
  · split
    · split
      · exact h
      · split
        · exact .touchPhys (.updateCopy (.commitBytes h.popHead))
        · exact h.popHead
    · exact h
  · exact h

theorem leads_execHostPeerStoreSend {core ctx : Nat} (h : Follows o s) : Leads o (execHostPeerStoreSend core ctx s) := by
  have hpopped := h.popHead (core := core) (ctx := ctx)
  unfold execHostPeerStoreSend
  dsimp only
  split
  · split
    · split
      · exact .of_mem (wf_writeMasked _ _) State.firmware_noteSent hpopped
      · exact hpopped
    · split
      · exact .of_mem (Memory.wf_writeBytes _ _) State.firmware_noteSent hpopped
      · exact hpopped
    · exact h
  · exact h

theorem Follows.spawnSpilled {core ctx tidx blk slots : Nat} {given : List (Option Word)} (h : Follows o s) :
    Follows o (s.spawnSpilled core ctx tidx blk slots given).state := by
  unfold State.spawnSpilled
  split
  · exact h
  · split
    · exact h
    · dsimp only
      split
      next he => exact .third he (.writeVa (s := { s with freeCtr := _ }) h)
      next he => exact .third he (.writeVa (s := { s with freeCtr := _ }) h)
      next he =>
        have hwritten := Follows.third he (.writeVa (s := { s with freeCtr := _ }) h)
        exact .noteLives (.updLane (.storeImage hwritten))

theorem leads_execSpawnPlace {core ctx : Nat} (h : Follows o s) : Leads o (execSpawnPlace core ctx s) := by
  unfold execSpawnPlace
  split
  · split
    · split
      · exact h
      · dsimp only
        split
        next he => exact .active (.popHead (.room he (.ite_room h.createThread h.spawnSpilled)))
        · exact h.onlyMigrations
        next he => exact .failPacket (.popHead (.room he (.ite_room h.createThread h.spawnSpilled)))
        next he => exact .room he (.ite_room h.createThread h.spawnSpilled)
    · exact h
  · exact h

theorem leads_execCreditApply {core ctx : Nat} (h : Follows o s) : Leads o (execCreditApply core ctx s) := by
  unfold execCreditApply
  split
  · split
    · exact h.updLane
    · exact h
  · exact h

theorem Follows.sendRegWrite {ctx num v : Nat} (h : Follows o s) : Follows o (s.sendRegWrite ctx num v) := by
  unfold State.sendRegWrite
  exact .updLanes h.updCtx

theorem leads_execSyswrTakeEffect {core ctx : Nat} (h : Follows o s) : Leads o (execSyswrTakeEffect core ctx s) := by
  unfold execSyswrTakeEffect
  dsimp only
  refine Follows.updLane ?_
  split
  · split
    · exact .sendRegWrite h.updLane
    · exact h
  · exact h

theorem Follows.requestShootdown {ctx : Nat} {all : Bool} {page pages : Nat} {starter : ShootStarter} (h : Follows o s) :
    Follows o (s.requestShootdown ctx all page pages starter) := h

theorem Follows.takeTlbinv {core ctx : Nat} (h : Follows o s) : Follows o (s.takeTlbinv core ctx) := by
  unfold State.takeTlbinv
  split
  · split
    · exact .requestShootdown h.popHead
    · exact h
  · exact h

theorem Follows.takeFrom {r : Requester} {ns : List Nat} (h : Follows o s) : Follows o (s.takeFrom r ns).2 := by
  induction ns generalizing s with
  | nil => exact h
  | cons x xs ih =>
    rw [State.takeFrom]
    split
    · exact ih h
    · split
      · exact h
      · split
        · exact ih h.updArbiter
        · exact h.updArbiter

theorem Follows.takeGrants {o' : EngineOp} {dies : List Nat} (h : Follows o s) : Follows o (s.takeGrants o' dies).2 := by
  unfold State.takeGrants
  dsimp only
  refine Follows.takeFrom ?_
  split
  · exact h
  · exact h.dropRequests

theorem Follows.broadcastShootdown {d : Shootdown} (h : Follows o s) : Follows o (s.broadcastShootdown d) := h

theorem Follows.engineCommit {ws : List DevByte} (h : Follows o s) : Follows o (s.engineCommit ws) := by
  unfold State.engineCommit
  exact .broadcast h.commitBytes

theorem Follows.rewriteEntry {c : Context} {at_ e : Nat} (h : Follows o s) : Follows o (s.rewriteEntry c at_ e) := by
  unfold State.rewriteEntry
  exact h.engineCommit

theorem Follows.keepMark {at_ : Nat} (h : Follows o s) : Follows o (s.keepMark at_) := by
  unfold State.keepMark
  split <;> exact h

theorem Follows.applyMark {d : Shootdown} (h : Follows o s) : Follows o (s.applyMark d) := by
  unfold State.applyMark
  split
  · split
    · split
      · exact h.rewriteEntry
      · exact h
    · exact h.keepMark
  · exact h

theorem leads_execShootdownStart {core ctx : Nat} (h : Follows o s) : Leads o (execShootdownStart core ctx s) := by
  unfold execShootdownStart
  dsimp only
  split
  · exact h.takeTlbinv
  · split
    · exact .dropRequests h.takeTlbinv
    · split
      next he3 => exact .snd he3 (.takeGrants h.takeTlbinv)
      next he3 => exact .broadcastShootdown (.applyMark (.snd he3 (.takeGrants h.takeTlbinv)))

theorem Follows.reportShootdown {d : Shootdown} (h : Follows o s) : Follows o (s.reportShootdown d) := by
  unfold State.reportShootdown
  split
  · exact h.updLane
  · exact h.updCtx
  · exact h

theorem leads_execShootdownComplete {id : Nat} (h : Follows o s) : Leads o (execShootdownComplete id s) := by
  unfold execShootdownComplete
  split
  · exact h
  · split
    · exact h
    · exact .reportShootdown (.dropRequests h)

theorem Follows.physRanges {ctx : Nat} {k : AccKind} {pieces : List (Nat × Nat)} (h : Follows o s) :
    Follows o (s.physRanges ctx k pieces).2 := by
  induction pieces generalizing s with
  | nil => exact h
  | cons x xs ih =>
    rw [State.physRanges]
    split
    next he => exact .snd he h.placeVa
    next he => exact ih (.snd he h.placeVa)
    next he =>
      split
      next he1 => exact .snd he1 (ih (.snd he h.placeVa))
      · exact ih (.snd he h.placeVa)

theorem Follows.refreshImage {ctx : Nat} {k : Packet} {all : Bool} {va n : Nat} (h : Follows o s) :
    Follows o (s.refreshImage ctx k all va n).2 := by
  unfold State.refreshImage
  split
  next he => exact .updCtx (.snd he h.physRanges)
  next he => exact .snd he h.physRanges
  next he => exact .snd he h.physRanges

theorem leads_execCfginvMark {core ctx : Nat} (h : Follows o s) : Leads o (execCfginvMark core ctx s) := by
  unfold execCfginvMark
  split
  next he =>
    split
    · split
      next he2 => exact .updLane (.updLanes (.popHead (.snd he2 h.refreshImage)))
      · exact h.onlyMigrations
    · exact h
  · exact h

/-! #### Copies -/

theorem Follows.handOver {core ctx tidx : Nat} {words : List Word} {info : Nat} {flag : Option Nat} {packet : Option (Nat × Nat)}
    {die dray : Nat} (h : Follows o s) : Follows o (s.handOver core ctx tidx words info flag packet die dray) := by
  unfold State.handOver
  dsimp only
  split
  · split
    · exact h
    · refine Follows.updCore ?_
      split
      · exact .updLane h
      · exact h
  · split
    · exact h
    · refine Follows.updCore ?_
      split
      · exact .updLane h
      · exact h

theorem leads_execCopyHandover {core ctx die dray : Nat} (h : Follows o s) : Leads o (execCopyHandover core ctx die dray s) := by
  unfold execCopyHandover
  split
  · split
    · split
      · exact .handOver h.updLane
      · exact h
    · exact h
  · exact h

theorem Follows.updCopy {id : Nat} {f : Copy → Copy} (h : Follows o s) : Follows o (s.updCopy id f) := h

theorem Follows.mayRegister {o' : EngineOp} {ls : List RangeLock} (h : Follows o s) : Follows o (s.mayRegister o' ls).2 := by
  unfold State.mayRegister
  split
  · exact h.dropRequests
  · exact h.takeGrants

theorem Follows.registerLocks {ls : List RangeLock} (h : Follows o s) : Follows o (s.registerLocks ls) := by
  unfold State.registerLocks
  exact .squash h

theorem leads_execRangeLockRegister {id : Nat} (h : Follows o s) : Leads o (execRangeLockRegister id s) := by
  unfold execRangeLockRegister
  split
  · exact h
  · split
    · exact h
    · dsimp only
      split
      next he => exact .dropRequests (.snd he h.physRanges)
      next he => exact .snd he h.physRanges
      next he =>
        have hsrc := Follows.snd he h.physRanges
        split
        next he1 => exact .dropRequests (.snd he1 (.ite hsrc.physRanges hsrc))
        next he1 => exact .snd he1 (.ite hsrc.physRanges hsrc)
        next he1 =>
          have hdst := Follows.snd he1 (.ite hsrc.physRanges hsrc)
          split
          · exact hdst.updCopy
          · split
            next he2 => exact .snd he2 hdst.mayRegister
            next he2 => exact .updCopy (.registerLocks (.dropRequests (.snd he2 hdst.mayRegister)))

theorem Follows.moveRows {look : List Host.Cell → List Host.Cell} {ctx : Nat} {p : CopyParam} {ns : List Nat} (h : Follows o s) :
    Follows o (s.moveRows look ctx p ns).2 := by
  induction ns generalizing s with
  | nil => exact h
  | cons x xs ih =>
    rw [State.moveRows]
    dsimp only
    split
    · exact ih (.writeVa h.readSpansBy)
    · exact .writeVa h.readSpansBy
    · exact .writeVa h.readSpansBy
    · exact .writeVa h.readSpansBy

theorem Follows.mayCommitLines {o' : EngineOp} {lines : List Nat} (h : Follows o s) :
    Follows o (s.mayCommitLines o' lines).2 := by
  unfold State.mayCommitLines
  split
  · exact h.dropRequests
  · exact h.takeGrants

theorem Follows.mayCommit {o' : EngineOp} {ps : List Piece} (h : Follows o s) : Follows o (s.mayCommit o' ps).2 := by
  unfold State.mayCommit
  exact h.mayCommitLines

theorem Follows.releaseLocks {o' : LockOwner} (h : Follows o s) : Follows o (s.releaseLocks o') := h

theorem Follows.sendPiece {p : Piece} (h : Follows o s) : Follows o (s.sendPiece p) := by
  unfold State.sendPiece State.noteSent
  split <;> exact .of_mem (Memory.wf_writeBytes p.pa p.bytes) rfl h

theorem Follows.commitPieces {ps : List Piece} (h : Follows o s) : Follows o (s.commitPieces ps) := by
  unfold State.commitPieces
  dsimp only
  split
  · exact .foldl h (fun _ _ ht => ht.sendPiece)
  · exact .engineCommit (.foldl h (fun _ _ ht => ht.sendPiece))

theorem Follows.commitAs {o' : EngineOp} {ps : List Piece} (h : Follows o s) : Follows o (s.commitAs o' ps) := by
  unfold State.commitAs
  exact .dropRequests h.commitPieces

theorem leads_execDrayEngineCommit {id : Nat} (h : Follows o s) : Leads o (execDrayEngineCommit id s) := by
  unfold execDrayEngineCommit
  dsimp only
  split
  · exact h
  · split
    · exact h
    · split
      · exact .dropRequests h.moveRows
      · split
        · exact h
        · split
          next he5 => exact .snd he5 (.mayCommit h.moveRows)
          next he5 => exact .updCopy (.releaseLocks (.commitAs (.snd he5 (.mayCommit h.moveRows))))

theorem Follows.tileRead {c : Copy} {t : Nat} (h : Follows o s) : Follows o (s.tileRead c t).2.2 := by
  unfold State.tileRead
  exact h.readSpansBy

theorem Follows.tileBytes {c : Copy} {t : Nat} (h : Follows o s) : Follows o (s.tileBytes c t).2 := by
  unfold State.tileBytes
  exact .readSpansWith h (fun _ _ ht => ht)

theorem Follows.writeChecked {ctx va : Nat} {bytes : List Byte} (h : Follows o s) :
    Follows o (s.writeChecked ctx va bytes).2 := by
  unfold State.writeChecked
  dsimp only
  split
  next he1 =>
    split <;> exact .third he1 h.writeVa
  next he1 => exact .third he1 h.writeVa

theorem Follows.writeWord {eo : EngineOp} {ctx cw : Nat} {v : Word} (h : Follows o s) :
    Follows o (s.writeWord eo ctx cw v).2 := by
  unfold State.writeWord
  split
  · exact h
  · split
    next he => exact .snd he h.writeChecked
    next he => exact .dropRequests (.snd he h.writeChecked)
    next he =>
      split
      next he1 => exact .snd he1 (.mayCommit (.snd he h.writeChecked))
      next he1 => exact .snd he1 (.mayCommit (.snd he h.writeChecked))

theorem Follows.writeWord_done {eo : EngineOp} {ctx cw : Nat} {v : Word} (h : Follows o s) :
    Follows o (writeDone (s.writeWord eo ctx cw v)) := by
  unfold State.writeWord
  split
  · exact h
  · split
    next he => exact .snd he h.writeChecked
    next he => exact .dropRequests (.snd he h.writeChecked)
    next he =>
      split
      next he1 => exact .snd he1 (.mayCommit (.snd he h.writeChecked))
      next he1 => exact .commitAs (.snd he1 (.mayCommit (.snd he h.writeChecked)))

theorem Follows.slotWrite {c : Copy} {victims : List PassRef} {bytes : List Byte} (h : Follows o s) :
    Follows o (s.slotWrite c victims bytes) := by
  unfold State.slotWrite
  exact .wakeWaiters (.squash h.scratchWrite)

theorem Follows.unbindCopy {c : Copy} (h : Follows o s) : Follows o (s.unbindCopy c) := by
  unfold State.unbindCopy
  exact h.updCore

theorem leads_execRingTileWrite {id : Nat} (h : Follows o s) : Leads o (execRingTileWrite id s) := by
  unfold execRingTileWrite
  dsimp only
  split
  · exact h
  · split
    · exact h
    · split
      · exact h
      · split
        · exact h
        next he4 => exact .snd he4 h.tileBytes
        next he4 =>
          split
          · exact .snd he4 h.tileBytes
          · split
            next he6 => exact .snd he6 (.writeWord (.snd he4 h.tileBytes))
            next he6 =>
              split
              · exact .updCopy (.updLane (.updCopy (.slotWrite (.snd he6 (.writeWord (.snd he4 h.tileBytes))))))
              · split
                · refine Follows.updCopy ?_
                  refine Follows.unbindCopy ?_
                  refine Follows.releaseLocks ?_
                  refine Follows.updLane ?_
                  refine Follows.updCopy ?_
                  refine Follows.slotWrite ?_
                  split
                  · exact .done he6 (.writeWord_done (.snd he4 h.tileBytes))
                  · exact .snd he6 (.writeWord (.snd he4 h.tileBytes))
                · refine Follows.updLane ?_
                  refine Follows.updCopy ?_
                  refine Follows.slotWrite ?_
                  split
                  · exact .done he6 (.writeWord_done (.snd he4 h.tileBytes))
                  · exact .snd he6 (.writeWord (.snd he4 h.tileBytes))

theorem Follows.acceptToken {core ctx : Nat} (he : s.acceptToken core ctx = some t) (h : Follows o s) : Follows o t := by
  unfold State.acceptToken at he
  split at he
  · exact Option.some.inj he ▸ h
  · split at he
    · exact Option.some.inj he ▸ h
    · split at he
      · exact nomatch he
      · exact Option.some.inj he ▸ h.updLane

theorem Follows.entryBytes {c : Copy} (h : Follows o s) : Follows o (s.entryBytes c).2 := by
  unfold State.entryBytes
  exact .readSpansWith h (fun _ _ ht => ht)

theorem Follows.setFifo {ctx : Nat} {loc : PortLoc} {es : List FifoEntry} (h : Follows o s) :
    Follows o (s.setFifo ctx loc es) := by
  unfold State.setFifo
  split
  · exact h.updCore
  · exact h.updLane

theorem leads_execDrayFifoEntry {id : Nat} (h : Follows o s) : Leads o (execDrayFifoEntry id s) := by
  unfold execDrayFifoEntry
  split
  · exact h
  · dsimp only
    split
    · exact h
    · split
      next he =>
        split
        · exact h
        · split
          · exact h
          · exact h.entryBytes
          next he1 =>
            have hread := Follows.snd he1 (Follows.entryBytes (.acceptToken he h))
            split
            · exact .updCopy (.unbindCopy (.releaseLocks (.updCopy (.setFifo hread))))
            · exact .updCopy (.setFifo hread)
      · exact h

theorem leads_execCompletionWordWrite {id : Nat} (h : Follows o s) : Leads o (execCompletionWordWrite id s) := by
  unfold execCompletionWordWrite
  split
  · exact h
  next he =>
    split
    · exact h
    · split
      next he2 => exact .updCopy (.done he2 h.writeWord_done)
      next he2 => exact .snd he2 h.writeWord
      next he2 => exact .updCopy (.snd he2 h.writeWord)

theorem Follows.appendRecord {o' : EngineOp} {ctx : Nat} {r : CompRec} (h : Follows o s) :
    Follows o (s.appendRecord o' ctx r).2 := by
  unfold State.appendRecord
  dsimp only
  split
  · exact h
  · split
    · exact h.updCtx
    · split
      next he3 => exact .updCtx (.snd he3 h.writeChecked)
      next he3 => exact .dropRequests (.snd he3 h.writeChecked)
      next he3 =>
        split
        next he4 => exact .snd he4 (.mayCommit (.snd he3 h.writeChecked))
        next he4 => exact .updCtx (.commitAs (.snd he4 (.mayCommit (.snd he3 h.writeChecked))))

theorem Follows.blemish {ctx cause : Nat} (h : Follows o s) : Follows o (s.blemish ctx cause) := by
  unfold State.blemish
  exact h.updCtx

theorem leads_execCompletionRecordAppend {id : Nat} (h : Follows o s) : Leads o (execCompletionRecordAppend id s) := by
  unfold execCompletionRecordAppend
  split
  · exact h
  · split
    · exact h
    · split
      next he => exact .snd he h.appendRecord
      next t he =>
        have hrecord := Follows.snd he h.appendRecord
        dsimp only
        split
        · split
          · exact Follows.updLane (s := { t with copies := _ }) hrecord
          · exact .updLane (Follows.blemish (s := { t with copies := _ }) hrecord)
        · exact Follows.updCtx (s := { t with copies := _ }) hrecord

theorem Follows.stopTile {c : Copy} {stop : CopyStop} (h : Follows o s) : Follows o (s.stopTile c stop) := by
  unfold State.stopTile
  split
  · exact h
  · exact .updLane h.slotWrite

theorem leads_execCopyFail {id : Nat} (h : Follows o s) : Leads o (execCopyFail id s) := by
  unfold execCopyFail
  dsimp only
  split
  · exact h
  · split
    · exact h
    · split
      · exact h
      · split
        next he4 => exact .snd he4 h.mayCommit
        next he4 =>
          split
          · exact .writeWord (.snd he4 h.mayCommit)
          next he5 =>
            refine Follows.updCopy ?_
            split
            · refine Follows.updLane ?_
              split
              · exact .done he5 (.writeWord_done (.unbindCopy (.releaseLocks (.commitAs (.stopTile (.snd he4 h.mayCommit))))))
              · exact .snd he5 (.writeWord (.unbindCopy (.releaseLocks (.commitAs (.stopTile (.snd he4 h.mayCommit))))))
            · split
              · exact .done he5 (.writeWord_done (.unbindCopy (.releaseLocks (.commitAs (.stopTile (.snd he4 h.mayCommit))))))
              · exact .snd he5 (.writeWord (.unbindCopy (.releaseLocks (.commitAs (.stopTile (.snd he4 h.mayCommit))))))

/-! #### The matrix unit and its queue -/

theorem Follows.giveLeave {site : Nat} {ok : Nat → Bool} (h : Follows o s) : Follows o (s.giveLeave site ok) := by
  unfold State.giveLeave
  split
  · exact h.updCore
  · exact h.updCopy

theorem leads_execLeaveGrant {site : Nat} (h : Follows o s) : Leads o (execLeaveGrant site s) := by
  unfold execLeaveGrant
  exact h.giveLeave

theorem leads_execLeaveWaitExpiry {site : Nat} (h : Follows o s) : Leads o (execLeaveWaitExpiry site s) := by
  unfold execLeaveWaitExpiry
  exact h.giveLeave

theorem Follows.readRows {core ctx : Nat} {cls : MemClass} {cp : CachePol} {addr stride n : Nat} {ks : List Nat}
    (h : Follows o s) :
    Follows o (s.readRows core ctx cls cp addr stride n ks).2 := by
  induction ks generalizing s with
  | nil => exact h
  | cons k ks ih =>
    rw [State.readRows]
    dsimp only
    have hspans : Follows o (s.readSpansWith (s.seenMem core) (fun line s => s.refreshCopy core line true cp) ctx .load true
        (lineSpans (addr + k * stride) n)).2.2 := h.readSpansWith fun _ _ ht => ht.refreshCopy
    split
    next he =>
      have hrow := Follows.snd he (.ite (.ite h h) hspans)
      split
      next he1 => exact .snd he1 (ih hrow)
      next he1 => exact .snd he1 (ih hrow)
    next he => exact .snd he (.ite (.ite h h) hspans)
    next he => exact .snd he (.ite (.ite h h) hspans)

theorem leads_execMbldEntryRun {core : Nat} (h : Follows o s) : Leads o (execMbldEntryRun core s) := by
  unfold execMbldEntryRun
  split
  next he =>
    split
    · split
      next he2 => exact .updCore (.snd he2 h.readRows)
      next he2 => exact .updCore (.snd he2 h.readRows)
      next he2 => exact .snd he2 h.readRows
    · exact h
  · exact h

theorem leads_execMmaEntryStart {core : Nat} (h : Follows o s) : Leads o (execMmaEntryStart core s) := by
  unfold execMmaEntryStart
  dsimp only
  split
  · exact h
  · split
    · exact h
    · split
      · split
        · exact h
        · split
          · exact h.updCore
          · split
            · exact h
            · exact h.updCore
      · exact h

theorem leads_execMzeroEntryRun {core : Nat} (h : Follows o s) : Leads o (execMzeroEntryRun core s) := by
  unfold execMzeroEntryRun
  split
  · split
    · exact h.updCore
    · exact h
  · exact h

theorem Follows.scratchAbandoned {core ctx : Nat} {done rows : List (Nat × List Byte)} (h : Follows o s) :
    Follows o (s.scratchAbandoned core ctx done rows) := by
  unfold State.scratchAbandoned
  exact .foldl h (fun _ _ ht => ht.scratchWrite)

theorem Follows.storeRows {ctx : Nat} {rows : List (Nat × List Byte)} (h : Follows o s) : Follows o (s.storeRows ctx rows).2.2 := by
  induction rows generalizing s with
  | nil => exact h
  | cons x xs ih =>
    rw [State.storeRows]
    split
    next he =>
      split
      next he1 => exact .third he1 (ih (.third he h.writeVa))
      next he1 => exact .third he1 (ih (.third he h.writeVa))
    next he => exact .third he h.writeVa

theorem Follows.streamPieces {core ctx tidx : Nat} {scope : Scope} {cp : CachePol} {ps : List Piece} (h : Follows o s) :
    Follows o (s.streamPieces core ctx tidx scope cp ps) := by
  unfold State.streamPieces
  exact .updLane (.foldl h (fun _ _ ht => ht.fillCopy))

theorem Follows.openLines {ctx : Nat} {rows : List (Nat × List Byte)} (h : Follows o s) : Follows o (s.openLines ctx rows).2 := by
  induction rows generalizing s with
  | nil => exact h
  | cons x xs ih =>
    rw [State.openLines]
    split
    next he => exact ih (.third he h.writeVa)
    next he => exact ih (.third he h.writeVa)

theorem Follows.streamAbandoned {core : Nat} {e : MatrixEntry} {scope : Scope} {cp : CachePol} {done : List Piece}
    {rows : List (Nat × List Byte)} (h : Follows o s) : Follows o (s.streamAbandoned core e scope cp done rows) := by
  unfold State.streamAbandoned
  exact .streamPieces h.openLines

theorem leads_execMstoreEntryRun {core : Nat} (h : Follows o s) : Leads o (execMstoreEntryRun core s) := by
  unfold execMstoreEntryRun
  split
  · exact h
  · split
    · exact h
    · split
      · dsimp only
        split
        · split
          · exact .updCore (.foldl h fun _ _ ht => ht.scratchWrite)
          · exact .updCore (.scratchAbandoned h)
        · split
          next he => exact .updCore (.streamPieces (.third he h.storeRows))
          next he =>
            have ht := Follows.third he h.storeRows
            exact .updCore (.streamAbandoned ht)
          next he => exact .third he h.storeRows
      · exact h

theorem leads_execMatrixEntryFinish {core : Nat} (h : Follows o s) : Leads o (execMatrixEntryFinish core s) := by
  unfold execMatrixEntryFinish
  dsimp only
  split
  · exact h
  · split
    · exact h
    · split
      · exact h
      · split
        · exact .updLane h.updCore
        · split
          · split
            · exact .updLane (.blemish (.updLane h.updCore))
            · exact .failPacket (.blemish (.updLane h.updCore))
          · split
            · exact .updLane (.blemish (.updLane h.updCore))
            · exact .failPacket (.blemish (.updLane h.updCore))

/-! #### Migrations -/

theorem Follows.pickFrame {c : Context} {m : Migration} (h : Follows o s) : Follows o (s.pickFrame c m).2 := by
  unfold State.pickFrame
  dsimp only
  split
  · exact h
  · dsimp only
    exact h.choose

theorem Follows.updMigration {id : Nat} {f : Migration → Migration} (h : Follows o s) : Follows o (s.updMigration id f) := h

theorem Follows.assignFrame {m : Migration} (h : Follows o s) : Follows o (s.assignFrame m) := by
  unfold State.assignFrame
  split
  next he =>
    split
    next he1 => exact .updMigration (.snd he1 h.pickFrame)
    · exact h
  · exact h

theorem Follows.assignFrames (h : Follows o s) : Follows o s.assignFrames := by
  unfold State.assignFrames
  exact .foldl h (fun _ _ ht => ht.assignFrame)

theorem leads_execMigrationStart {id : Nat} (h : Follows o s) : Leads o (execMigrationStart id s) := by
  unfold execMigrationStart
  dsimp only
  split
  · exact h.assignFrames
  · split
    · exact .dropRequests h.assignFrames
    · split
      next he3 => exact .snd he3 (.mayRegister h.assignFrames)
      next he3 => exact .updMigration (.registerLocks (.dropRequests (.snd he3 (.mayRegister h.assignFrames))))

theorem Follows.endMigration {id : Nat} (h : Follows o s) : Follows o (s.endMigration id) := h

theorem Follows.resumeParked {id : Nat} (h : Follows o s) : Follows o (s.resumeParked id) := h

theorem Follows.passGrants {x y : EngineOp} (h : Follows o s) : Follows o (s.passGrants x y) := h

theorem Follows.moveGuards {old size dest : Nat} (h : Follows o s) : Follows o (s.moveGuards old size dest) := h

theorem leads_execMigrationCommit {id : Nat} (h : Follows o s) : Leads o (execMigrationCommit id s) := by
  unfold execMigrationCommit
  dsimp only
  split
  · exact h
  · split
    · split
      · exact .endMigration h.resumeParked
      · split
        · exact h.dropRequests
        · split
          next he5 => exact .snd he5 h.takeGrants
          next he5 => exact .endMigration (.resumeParked (.broadcastShootdown (.of_eq rfl rfl (.broadcast (.rewriteEntry
            (.moveGuards (.engineCommit (.passGrants (.snd he5 h.takeGrants)))))))))
    · exact h

theorem Follows.trapParked {m : Migration} {reason : Nat} (h : Follows o s) : Follows o (s.trapParked m reason) := by
  unfold State.trapParked
  refine .foldl h fun t0 x ht0 => ?_
  split
  · split
    · split
      · exact ht0.takeTrap
      · exact ht0
    · exact ht0
  · exact ht0

theorem leads_execMigrationFail {id reason : Nat} (h : Follows o s) : Leads o (execMigrationFail id reason s) := by
  unfold execMigrationFail
  split
  · exact h
  next he =>
    split
    · exact h
    · split
      next he2 => exact .snd he2 h.appendRecord
      next he2 => exact .trapParked (.endMigration (.snd he2 h.appendRecord))

/-! #### Links, ports and apertures -/

theorem Follows.failOutstanding {test : Nat → Bool} {reason : Nat} (h : Follows o s) :
    Follows o (s.failOutstanding test reason) := h

theorem Follows.shootLeaf {c : Context} {l : LeafAt} {mark : Option Nat} (h : Follows o s) : Follows o (s.shootLeaf c l mark) := h

theorem Follows.markUnreachable {port : Nat} {c : Context} (h : Follows o s) : Follows o (s.markUnreachable port c) := by
  unfold State.markUnreachable
  exact .foldl (.foldl h (fun _ _ ht => ht.shootLeaf)) (fun _ _ ht => ht.requestShootdown)

theorem Follows.loseCxl {port : Nat} (h : Follows o s) : Follows o (s.loseCxl port) := by
  unfold State.loseCxl
  dsimp only
  split
  · split
    · exact h
    · exact .foldl (.failOutstanding h) (fun _ _ ht => ht.markUnreachable)
  · split
    · exact h
    · exact .foldl (.failOutstanding h) (fun _ _ ht => ht.markUnreachable)

theorem leads_execCxlLinkDown {port : Nat} (h : Follows o s) : Leads o (execCxlLinkDown port s) := by
  unfold execCxlLinkDown
  exact h.loseCxl

theorem leads_execCxlCompletionTimeout {port : Nat} (h : Follows o s) : Leads o (execCxlCompletionTimeout port s) := by
  unfold execCxlCompletionTimeout
  exact h.loseCxl

theorem Follows.retrainCxl {port : Nat} (h : Follows o s) : Follows o (s.retrainCxl port) := by
  unfold State.retrainCxl
  dsimp only
  split
  · exact h
  · split
    · exact h
    · split
      next he => exact .snd he h.mayCommitLines
      next he =>
        have ht := Follows.snd he h.mayCommitLines
        exact .dropRequests (.foldl ht fun _ _ ht => .shootLeaf ht.rewriteEntry)

theorem leads_execLinkRetrain {port : Nat} {ok : Bool} (h : Follows o s) : Leads o (execLinkRetrain port ok s) := by
  unfold execLinkRetrain
  dsimp only
  split
  · split
    · exact h.retrainCxl
    · exact h
  · exact h

theorem leads_execHostPortLinkDown {port : Nat} (h : Follows o s) : Leads o (execHostPortLinkDown port s) := by
  unfold execHostPortLinkDown
  exact .failOutstanding h

theorem leads_execCouplerLinkDown {port : Nat} (h : Follows o s) : Leads o (execCouplerLinkDown port s) := by
  unfold execCouplerLinkDown
  exact .failOutstanding h

theorem Follows.failOneRead {core ctx tidx idx : Nat} {test : Nat → Bool} {cause : Nat → Nat} (h : Follows o s) :
    Follows o (s.failOneRead core ctx tidx idx test cause) := by
  unfold State.failOneRead
  exact h.updLane

theorem leads_execHostCompletionError {core ctx tidx idx : Nat} (h : Follows o s) :
    Leads o (execHostCompletionError core ctx tidx idx s) := by
  unfold execHostCompletionError
  exact h.failOneRead

theorem leads_execHostCompletionTimeout {core ctx tidx idx : Nat} (h : Follows o s) :
    Leads o (execHostCompletionTimeout core ctx tidx idx s) := by
  unfold execHostCompletionTimeout
  exact h.failOneRead

theorem Follows.updFunc {port fn : Nat} {f : Function → Function} (h : Follows o s) : Follows o (s.updFunc port fn f) := h

theorem Follows.countRefusal {port fn : Nat} (h : Follows o s) : Follows o (s.countRefusal port fn) := by
  unfold State.countRefusal
  exact h.updFunc

theorem Follows.readAperture {port fn ap off len : Nat} (h : Follows o s) : Follows o (s.readAperture port fn ap off len).2 := by
  unfold State.readAperture
  split
  · exact h.countRefusal
  next he =>
    split
    next he1 => exact .snd he1 h.readVa
    · exact h.onlyMigrations
    next he1 =>
      split
      · exact .snd he1 h.readVa
      · exact .countRefusal (.snd he1 h.readVa)

theorem Follows.dropPosted {w : PostedWrite} (h : Follows o s) : Follows o (s.dropPosted w) := h

theorem Follows.performRead {w : PostedWrite} {fn : Nat} {ap : Option Nat} {off len : Nat} (h : Follows o s) :
    Follows o (s.performRead w fn ap off len) := by
  unfold State.performRead
  cases ap with
  | some ap =>
    dsimp only
    split
    next he =>
      have hread := Follows.snd he h.readAperture
      exact hread
    next he => exact .snd he h.readAperture
  | none =>
    dsimp only
    cases s.readPeer off len with
    | some r => exact h
    | none => exact h

theorem Follows.postedPlace {w : PostedWrite} (h : Follows o s) : Follows o (s.postedPlace w).2 := by
  unfold State.postedPlace
  split
  · exact h.placeVa
  · exact h

theorem Follows.performWrite {w : PostedWrite} (h : Follows o s) : Follows o (s.performWrite w) := by
  unfold State.performWrite
  dsimp only
  split
  next he => exact .dropRequests (.snd he h.postedPlace)
  next he =>
    have ht := Follows.snd he h.postedPlace
    split
    · exact .countRefusal ht
    · exact ht
  next pa _ t he =>
    have ht := Follows.snd he h.postedPlace
    refine .of_mem (wf_writeMasked _ _) ?_ ht
    show (w.ctx.elim t fun c => t.noteSent c pa w.bytes.length true).firmware = t.firmware
    cases w.ctx with
    | none => rfl
    | some _ => exact State.firmware_noteSent
  next he =>
    have ht := Follows.snd he h.postedPlace
    split
    · exact .dropRequests ht
    · split
      next he1 => exact .snd he1 ht.mayCommitLines
      next he1 => exact .dropRequests (.touchPhys (.engineCommit (.dropPosted (.snd he1 ht.mayCommitLines))))

theorem leads_execHostWriteArrival {port : Nat} (h : Follows o s) : Leads o (execHostWriteArrival port s) := by
  unfold execHostWriteArrival
  split
  · exact h
  · split
    · exact h.performRead
    · exact h.performWrite

theorem Follows.holdRead {port fn : Nat} {ap : Option Nat} {off len : Nat} (h : Follows o s) :
    Follows o (s.holdRead port fn ap off len) := h

theorem leads_execApertureRead {port fn ap off len : Nat} (h : Follows o s) :
    Leads o (execApertureRead port fn ap off len s) := by
  unfold execApertureRead
  split
  · exact h
  · split
    · exact h.holdRead
    · split
      next he =>
        have hread := Follows.snd he h.readAperture
        exact hread
      next he => exact .holdRead (.snd he h.readAperture)

theorem Follows.receive {port ctx : Nat} {ps : List Piece} (h : Follows o s) : Follows o (s.receive port ctx ps) := by
  unfold State.receive
  exact .of_eq rfl rfl (.foldl h (fun _ _ ht => ht.sendPiece))

theorem Follows.postLater {port ctx va : Nat} {bytes : List Byte} (h : Follows o s) :
    Follows o (s.postLater port ctx va bytes) := h

theorem leads_execApertureWrite {port fn ap off len data : Nat} (h : Follows o s) :
    Leads o (execApertureWrite port fn ap off len data s) := by
  unfold execApertureWrite
  split
  · exact h
  next he =>
    split
    · exact h.countRefusal
    · split
      next he2 => exact .receive (.third he2 h.writeVa)
      · exact .postLater h.onlyMigrations
      next he2 => exact .countRefusal (.third he2 h.writeVa)

theorem leads_execLinkTagFail {die : Nat} {write : Bool} {core ctx tidx idx : Nat} (h : Follows o s) :
    Leads o (execLinkTagFail die write core ctx tidx idx s) := by
  unfold execLinkTagFail
  dsimp only
  split
  · split <;> exact h
  · exact .failOneRead h

theorem leads_execSessionRekey {die : Nat} (h : Follows o s) : Leads o (execSessionRekey die s) := by
  unfold execSessionRekey
  exact h

/-! #### Context resets, failed dies and quiet regions -/

theorem Follows.releasePacket {ctx q i : Nat} (h : Follows o s) : Follows o (s.releasePacket ctx q i) := h

theorem Follows.queueFail {ctx q cause index : Nat} (h : Follows o s) : Follows o (s.queueFail ctx q cause index) := by
  unfold State.queueFail
  exact h.updCtx

theorem Follows.reportFailure {ctx : Nat} {p : Packet} (h : Follows o s) : Follows o (s.reportFailure ctx p) := by
  unfold State.reportFailure
  split
  · exact h
  · split
    · exact h
    · exact .updCtx h.queueFail

theorem Follows.updateSignal {ctx q va : Nat} {u : SigUpdate} (h : Follows o s) : Follows o (s.updateSignal ctx q va u).2 := by
  unfold State.updateSignal
  split
  · split
    next he => exact .snd he h.writeChecked
    next he => exact .dropRequests (.snd he h.writeChecked)
    next he =>
      split
      next he1 => exact .snd he1 (.mayCommit (.snd he h.writeChecked))
      next he1 => exact .snd he1 (.mayCommit (.snd he h.writeChecked))
  · split
    next he => exact .snd he h.placeVa
    next he => exact .dropRequests (.snd he h.placeVa)
    next he =>
      dsimp only
      split
      · exact .snd he h.placeVa
      · split
        · exact .snd he h.placeVa
        · split
          next he1 => exact .snd he1 (.mayCommitLines (.snd he h.placeVa))
          next he1 => exact .snd he1 (.mayCommitLines (.snd he h.placeVa))

theorem Follows.updateSignal_done {ctx q va : Nat} {u : SigUpdate} (h : Follows o s) :
    Follows o (writeDone (s.updateSignal ctx q va u)) := by
  unfold State.updateSignal
  split
  · split
    next he => exact .snd he h.writeChecked
    next he => exact .dropRequests (.snd he h.writeChecked)
    next he =>
      split
      next he1 => exact .snd he1 (.mayCommit (.snd he h.writeChecked))
      next he1 => exact .commitAs (.snd he1 (.mayCommit (.snd he h.writeChecked)))
  · split
    next he => exact .snd he h.placeVa
    next he => exact .dropRequests (.snd he h.placeVa)
    next he =>
      dsimp only
      split
      · exact .of_mem (Memory.wf_writeBytes _ _) State.firmware_noteSent (.snd he h.placeVa)
      · split
        · exact .snd he h.placeVa
        · split
          next he1 => exact .snd he1 (.mayCommitLines (.snd he h.placeVa))
          next he1 => exact .dropRequests (.engineCommit (.snd he1 (.mayCommitLines (.snd he h.placeVa))))

theorem Follows.complete {ctx : Nat} {p : Packet} {u : SigUpdate} (h : Follows o s) : Follows o (s.complete ctx p u) := by
  unfold State.complete
  dsimp only
  split
  · exact .dropRequests (.updCtx (.reportFailure h.releasePacket))
  · split
    · exact .onlyMigrations h.releasePacket
    next he2 => exact .dropRequests (.updCtx (.queueFail (.reportFailure (.snd he2 (.updateSignal h.releasePacket)))))
    next he2 => exact .dropRequests (.updCtx (.reportFailure (.done he2 (.updateSignal_done h.releasePacket))))

theorem Follows.completeNow {ctx : Nat} {p : Packet} (h : Follows o s) : Follows o (s.completeNow ctx p) := by
  unfold State.completeNow
  split
  · exact h.complete
  · exact h

theorem Follows.endOne {ctx : Nat} (h : Follows o s) : Follows o (s.endOne ctx) := by
  unfold State.endOne
  split
  · exact h
  · split
    · split
      · exact h.completeNow
      · exact .completeNow h.updCtx
    · split
      · exact h.completeNow
      · exact h

theorem Follows.endPackets {fuel1 n : Nat} (h : Follows o s) : Follows o (s.endPackets fuel1 n) := by
  induction fuel1 generalizing s n with
  | zero => exact h
  | succ fuel ih =>
    rw [State.endPackets]
    exact ih h.endOne

theorem Follows.updRegion {ctx : Nat} {f : Region → Region} (h : Follows o s) : Follows o (s.updRegion ctx f) := h

theorem Follows.dropLanes {ctx : Nat} (h : Follows o s) : Follows o (s.dropLanes ctx) := h

theorem Follows.handoverRegion {r : Region} {partner : Nat} (h : Follows o s) : Follows o (s.handoverRegion r partner) := by
  unfold State.handoverRegion
  exact .updRegion (.dropLanes (.foldl h.squash (fun _ _ ht => ht.updCore)))

theorem Follows.freeCores {cs : List Nat} (h : Follows o s) : Follows o (s.freeCores cs) := h

theorem Follows.releaseRegion {ctx : Nat} (h : Follows o s) : Follows o (s.releaseRegion ctx) := by
  unfold State.releaseRegion
  dsimp only
  split
  · exact h
  · split
    · exact .updRegion h.dropLanes
    · split
      · exact h.handoverRegion
      · exact h

theorem Follows.clearKernel {ctx : Nat} (h : Follows o s) : Follows o (s.clearKernel ctx) := by
  unfold State.clearKernel
  dsimp only
  split
  · exact .releaseRegion h
  · exact h

theorem Follows.closeKernels {ctx : Nat} (h : Follows o s) : Follows o (s.closeKernels ctx) := by
  unfold State.closeKernels
  exact .updCtx h.clearKernel

theorem Follows.dropLocks {ctx : Nat} (h : Follows o s) : Follows o (s.dropLocks ctx) := h

theorem Follows.destroyContext {ctx : Nat} (h : Follows o s) : Follows o (s.destroyContext ctx) := by
  unfold State.destroyContext
  dsimp only
  split
  · exact .of_eq rfl rfl (.foldl h (fun _ _ ht => ht.countRefusal))
  · exact .of_eq rfl rfl h

theorem Follows.finishReset {ctx : Nat} {destroy : Bool} (h : Follows o s) : Follows o (s.finishReset ctx destroy) := by
  unfold State.finishReset
  dsimp only
  split
  · exact .destroyContext (.updCtx (.releaseRegion h.dropLocks))
  · exact .updCtx (.releaseRegion h.dropLocks)

theorem Follows.settle {ctx : Nat} (h : Follows o s) : Follows o (s.settle ctx) := by
  unfold State.settle
  dsimp only
  split
  · exact h
  · split
    · exact h
    · split
      · exact .endPackets h.closeKernels
      · split
        · exact .finishReset (.endPackets h.closeKernels)
        · split
          next he5 => exact .snd he5 (.takeGrants (.endPackets h.closeKernels))
          next he5 => exact .finishReset (.snd he5 (.takeGrants (.endPackets h.closeKernels)))

theorem Follows.commandDone (h : Follows o s) : Follows o s.commandDone := h

theorem Follows.ownershipDone (h : Follows o s) : Follows o s.ownershipDone := by
  unfold State.ownershipDone
  split
  · split
    · exact h
    · exact h
  · exact h

theorem Follows.settleAll (h : Follows o s) : Follows o s.settleAll := by
  unfold State.settleAll
  dsimp only
  refine Follows.ownershipDone ?_
  split
  · exact .foldl h (fun _ _ ht => ht.settle)
  · exact .commandDone (.foldl h (fun _ _ ht => ht.settle))

theorem Follows.beginReset {cause : Nat} {destroy : Bool} {ctx : Nat} (h : Follows o s) :
    Follows o (s.beginReset cause destroy ctx) := by
  unfold State.beginReset
  exact .squashContext (.updLanes h.updCtx)

theorem leads_execDieFailed {die : Nat} (h : Follows o s) : Leads o (execDieFailed die s) := by
  unfold execDieFailed
  dsimp only
  split
  · exact h
  · split
    · exact h
    · exact .settleAll (.foldl h (fun _ _ ht => ht.beginReset))

theorem leads_execRateWindowExpiry {core ctx : Nat} (h : Follows o s) : Leads o (execRateWindowExpiry core ctx s) := by
  unfold execRateWindowExpiry
  split
  · exact h
  · split
    · exact h
    · exact h.elapseCore

theorem Follows.writeSnapshot {ctx base : Nat} {bytes : List Byte} (h : Follows o s) :
    Follows o (s.writeSnapshot ctx base bytes).2 := by
  unfold State.writeSnapshot
  dsimp only
  split
  · exact h
  · split
    · exact .dropRequests h.onlyMigrations
    next he2 =>
      split
      · exact h.onlyMigrations
      next he3 => exact .commitAs (.snd he3 (.mayCommit (.third he2 h.writeVa)))

theorem Follows.endStall {ctx base : Nat} {bytes : List Byte} (h : Follows o s) : Follows o (s.endStall ctx base bytes) := by
  unfold State.endStall
  split
  next he => exact .snd he h.writeSnapshot
  next he => exact .updCtx (.failPacket (.snd he h.writeSnapshot))

theorem Follows.beginStall {ctx : Nat} {r : Region} {p : Packet} (h : Follows o s) : Follows o (s.beginStall ctx r p) := by
  unfold State.beginStall
  exact .updCtx (.squashContext (.updLanes h.updCtx))

theorem leads_execQuiescentStall {ctx : Nat} (h : Follows o s) : Leads o (execQuiescentStall ctx s) := by
  unfold execQuiescentStall
  dsimp only
  split
  · split
    · exact h
    · split
      · split
        · exact h.endStall
        · exact h
      · split
        · exact h
        · split
          · exact .endStall h.beginStall
          · exact h.beginStall
  · exact h

theorem leads_execYieldRelease {core ctx tidx : Nat} (h : Follows o s) : Leads o (execYieldRelease core ctx tidx s) := by
  unfold execYieldRelease
  split
  · split
    · exact h
    · split
      · split
        · exact h.updLane
        · exact h
      · exact h
  · exact h

/-! #### Queues and packets -/

theorem leads_execDoorbellWrite {ctx q v : Nat} (h : Follows o s) : Leads o (execDoorbellWrite ctx q v s) := by
  unfold execDoorbellWrite
  exact h.updCtx

theorem Follows.addPacket {ctx q : Nat} {p : Packet} (h : Follows o s) : Follows o (s.addPacket ctx q p) := by
  unfold State.addPacket
  exact h.updCtx

theorem Follows.failBegin {ctx : Nat} {p : Packet} {cause : Nat} (h : Follows o s) : Follows o (s.failBegin ctx p cause) := by
  unfold State.failBegin
  exact .queueFail h.updCtx

theorem leads_execPacketTake {ctx q : Nat} (h : Follows o s) : Leads o (execPacketTake ctx q s) := by
  unfold execPacketTake
  dsimp only
  split
  · exact h
  · split
    · exact h
    · split
      · exact h
      · split
        · exact h.updCtx
        · split
          · exact .onlyMigrations h.updCtx
          next he5 =>
            split
            · exact h.updCtx
            · exact .queueFail (.updCtx (.snd he5 (.readVa h.updCtx)))
          next he5 =>
            split
            · exact h.updCtx
            · split
              · exact .failBegin (.addPacket (.snd he5 (.readVa h.updCtx)))
              · exact .addPacket (.snd he5 (.readVa h.updCtx))

theorem Follows.imageNow {ctx : Nat} {o' : BoundObject} (h : Follows o s) : Follows o (s.imageNow ctx o').2 := by
  unfold State.imageNow
  dsimp only
  split
  next he1 => exact .snd he1 h.physRanges
  next he1 => exact .snd he1 h.physRanges
  next he1 => exact .snd he1 h.physRanges

theorem Follows.updMeasured {ctx : Nat} {p : Packet} {f : Measured → Measured} (h : Follows o s) :
    Follows o (s.updMeasured ctx p f) := by
  unfold State.updMeasured
  exact h.updCtx

theorem Follows.deviceRanges {ctx : Nat} {k : AccKind} {ps : List (Nat × Nat)} (h : Follows o s) :
    Follows o (s.deviceRanges ctx k ps).2 := by
  unfold State.deviceRanges
  split
  next he => exact .snd he h.physRanges
  next he => exact .snd he h.physRanges
  next he => exact .snd he h.physRanges

theorem Follows.sourceLocks {ctx : Nat} {p : Packet} {spans : List (AccKind × Nat × Nat)} (h : Follows o s) :
    Follows o (s.sourceLocks ctx p spans).2 := by
  induction spans generalizing s with
  | nil => exact h
  | cons x xs ih =>
    rw [State.sourceLocks]
    split
    next he => exact .snd he h.deviceRanges
    next he => exact .snd he h.deviceRanges
    next he =>
      split
      next he1 => exact .snd he1 (ih (.snd he h.deviceRanges))
      · exact ih (.snd he h.deviceRanges)

theorem Follows.openHashes {ctx : Nat} {p : Packet} {x : Hashed} (h : Follows o s) : Follows o (s.openHashes ctx p x).state := by
  have himage : Follows o (match x.image with
      | some (va, n, _) => s.readVa ctx va n .fetch false
      | none => (.ok [], s)).2 := by
    split
    · exact h.readVa
    · exact h
  have harg : ∀ u, Follows o u → Follows o (match x.arg with
      | some (va, n) => u.readVa ctx va n .load false
      | none => (.ok [], u)).2 := fun u hu => by
    split
    · exact hu.readVa
    · exact hu
  have hkept : ∀ t r, Follows o ((s.onlyMigrations t).dropRequests r) := fun _ _ => .dropRequests h.onlyMigrations
  unfold State.openHashes
  dsimp only
  split
  · exact hkept _ _
  next he => exact .snd he himage
  next he =>
    have hhashed := Follows.snd he himage
    refine .ite_opening (.updMeasured hhashed) ?_
    split
    · exact hkept _ _
    next he1 => exact .snd he1 (harg _ (.updMeasured hhashed))
    next he1 =>
      have hsums := Follows.snd he1 (harg _ (.updMeasured hhashed))
      split
      · exact hkept _ _
      next he2 => exact .snd he2 (.sourceLocks (.updMeasured hsums))
      next he2 =>
        have hlocks := Follows.snd he2 (.sourceLocks (.updMeasured hsums))
        split
        · exact h.onlyMigrations
        next he3 => exact .registerLocks (.dropRequests (.snd he3 hlocks.mayRegister))

theorem Follows.reserve {ctx : Nat} {p : Packet} (h : Follows o s) : Follows o (s.reserve ctx p).2 := by
  unfold State.reserve
  dsimp only
  split
  · split
    · exact h
    · split <;> exact h
  · split
    · exact h
    · split <;> exact h

theorem Follows.openMeasured {ctx : Nat} {p : Packet} {x : Hashed} (h : Follows o s) :
    Follows o (s.openMeasured ctx p x).state := by
  unfold State.openMeasured
  split
  · exact h.openHashes
  · split
    · exact h.onlyMigrations
    next he => exact .snd he h.readVa
    next t he =>
      have hread := Follows.snd he h.readVa
      dsimp only
      split
      · exact hread
      · split
        · exact h.onlyMigrations
        next he1 => exact .third he1 (.ite_third hread hread.writeVa)
        next he1 =>
          have hchecked := Follows.third he1 (.ite_third hread hread.writeVa)
          split
          · exact h
          next he2 => exact .openHashes (.updCtx (.snd he2 hchecked.reserve))

theorem Follows.withOpening {ctx : Nat} {p : Packet} {h' : Hashed} {next : State → State} (h : Follows o s)
    (hnext : ∀ t, Follows o t → Follows o (next t)) : Follows o (s.withOpening ctx p h' next) := by
  unfold State.withOpening
  split
  · exact hnext _ h
  next he =>
    split
    next he1 => exact .opening he1 h.openMeasured
    next he1 => exact .failBegin (.opening he1 h.openMeasured)
    next he1 => exact hnext _ (.opening he1 h.openMeasured)

theorem Follows.setStage {ctx : Nat} {p : Packet} {st : PacketStage} (h : Follows o s) : Follows o (s.setStage ctx p st) := by
  unfold State.setStage
  exact h.updCtx

theorem Follows.dropStreamCopies {core : Nat} (h : Follows o s) : Follows o (s.dropStreamCopies core) := by
  unfold State.dropStreamCopies
  exact h.updCore

theorem Follows.acquireCores {r : Region} (h : Follows o s) : Follows o (s.acquireCores r) := by
  unfold State.acquireCores
  exact .foldl h (fun _ _ ht => ht.dropStreamCopies)

theorem Follows.queueRegion {ctx h' w : Nat} {resume : Bool} (h : Follows o s) : Follows o (s.queueRegion ctx h' w resume) := h

theorem Follows.seekRegion {ctx : Nat} {p : Packet} (h : Follows o s) : Follows o (s.seekRegion ctx p) := by
  unfold State.seekRegion
  split
  · split
    · exact .setStage h.acquireCores
    · split
      · exact h.setStage
      · exact .setStage (.queueRegion h.releaseRegion)
  · exact .setStage h.queueRegion

theorem Follows.translates {ctx : Nat} {k : AccKind} {spans : List (Nat × Nat)} (h : Follows o s) :
    Follows o (s.translates ctx k spans).2 := by
  induction spans generalizing s with
  | nil => exact h
  | cons x xs ih =>
    rw [State.translates]
    split
    next he => exact .snd he h.placeVa
    next he => exact .snd he h.placeVa
    next he => exact ih (.snd he h.placeVa)

theorem Follows.beginKernel {ctx : Nat} {p : Packet} (h : Follows o s) : Follows o (s.beginKernel ctx p) := by
  unfold State.beginKernel
  dsimp only
  split
  · exact h.failBegin
  · split
    · exact h
    · split
      · exact h.failBegin
      · split
        next he4 =>
          split
          · exact .withOpening (.updCtx (.snd he4 (.imageNow h.updCtx))) (fun _ ht => ht.seekRegion)
          · split
            · exact .onlyMigrations h.updCtx
            next he6 => exact .failBegin (.snd he6 (.translates (.updCtx (.snd he4 (.imageNow h.updCtx)))))
            next he6 => exact .seekRegion (.snd he6 (.translates (.updCtx (.snd he4 (.imageNow h.updCtx)))))
        · exact .onlyMigrations h.updCtx

theorem leads_execLaunch {ctx q : Nat} (h : Follows o s) : Leads o (execLaunch ctx q s) := by
  unfold execLaunch
  split
  · exact h.beginKernel
  · exact h

theorem leads_execGraph {ctx q : Nat} (h : Follows o s) : Leads o (execGraph ctx q s) := by
  unfold execGraph
  split
  · exact h.beginKernel
  · exact h

theorem Follows.pickDray (h : Follows o s) : Follows o s.pickDray.2 := by
  unfold State.pickDray
  dsimp only
  split
  · exact h
  · dsimp only
    exact h.choose

theorem Follows.startCopy {ctx : Nat} {p : Packet} (h : Follows o s) : Follows o (s.startCopy ctx p) := by
  unfold State.startCopy
  dsimp only
  split
  · exact h.onlyMigrations
  next he1 => exact .failBegin (.snd he1 h.readVa)
  next he1 =>
    split
    · exact .failBegin (.snd he1 h.readVa)
    · split
      next he3 => exact .setStage (.handOver (.snd he3 (.pickDray (.snd he1 h.readVa))))
      · exact h

theorem leads_execCopyPacket {ctx q : Nat} (h : Follows o s) : Leads o (execCopyPacket ctx q s) := by
  unfold execCopyPacket
  split
  · exact h
  · split
    · exact h.failBegin
    · split
      · exact h.startCopy
      · exact .withOpening h (fun _ ht => ht.startCopy)

theorem Follows.readSignals {ctx : Nat} {vas : List Nat} (h : Follows o s) : Follows o (s.readSignals ctx vas).2 := by
  induction vas generalizing s with
  | nil => exact h
  | cons va rest ih =>
    rw [State.readSignals]
    split
    next he => exact .snd he h.placeVa
    next he => exact .snd he h.placeVa
    next pa _ mt t he =>
      have hplaced := Follows.snd he h.placeVa
      split
      · exact hplaced
      · have hrest : Follows o (State.readSignals (if mt = .device then t else t.noteSent ctx pa 8 false) ctx rest).2 := by
          split
          · exact ih hplaced
          · exact ih hplaced.noteSent
        dsimp only
        split
        next he1 => exact .snd he1 hrest
        · exact hrest

theorem Follows.decideBarrier {ctx : Nat} {p : Packet} {vs : List Word} {lines : List Nat} {outer : Bool} (h : Follows o s) :
    Follows o (s.decideBarrier ctx p vs lines outer) := by
  unfold State.decideBarrier
  split
  · exact h.complete
  · split
    · split
      · exact h.complete
      · exact h.updCtx
    · split
      · exact h.complete
      · exact h.updCtx

theorem Follows.readBarrier {ctx : Nat} {p : Packet} (h : Follows o s) : Follows o (s.readBarrier ctx p) := by
  unfold State.readBarrier
  split
  · exact h.onlyMigrations
  next he => exact .failBegin (.snd he h.readSignals)
  next he => exact .decideBarrier (.snd he h.readSignals)

theorem Follows.beginBarrier {ctx : Nat} {p : Packet} (h : Follows o s) : Follows o (s.beginBarrier ctx p) := by
  unfold State.beginBarrier
  split
  · exact h.readBarrier
  · exact h.failBegin

theorem leads_execBarrierAnd {ctx q : Nat} (h : Follows o s) : Leads o (execBarrierAnd ctx q s) := by
  unfold execBarrierAnd
  split
  · exact h.beginBarrier
  · exact h

theorem leads_execBarrierOr {ctx q : Nat} (h : Follows o s) : Leads o (execBarrierOr ctx q s) := by
  unfold execBarrierOr
  split
  · exact h.beginBarrier
  · exact h

theorem leads_execBarrierReading {ctx q : Nat} (h : Follows o s) : Leads o (execBarrierReading ctx q s) := by
  unfold execBarrierReading
  split
  · split
    · exact h.readBarrier
    · exact h
  · exact h

theorem leads_execSignalPacket {ctx q : Nat} (h : Follows o s) : Leads o (execSignalPacket ctx q s) := by
  unfold execSignalPacket
  dsimp only
  split
  · exact h
  · split
    · exact h.failBegin
    · split
      · exact h.onlyMigrations
      next he3 => exact .failBegin (.snd he3 h.updateSignal)
      next he3 => exact .completeNow (.setStage (.done he3 h.updateSignal_done))

theorem leads_execMeasure {ctx q : Nat} (h : Follows o s) : Leads o (execMeasure ctx q s) := by
  unfold execMeasure
  split
  · exact h
  · split
    · exact h.failBegin
    · exact .withOpening h (fun _ ht => ht.setStage)

/-! #### Regions and gates -/

theorem Follows.popRegion (h : Follows o s) : Follows o s.popRegion := h

theorem Follows.failRequest {r : RegionReq} {p : Packet} (h : Follows o s) : Follows o (s.failRequest r p) := by
  unfold State.failRequest
  exact .setStage (.unwatch (.updCtx (.failPacket h.popRegion)))

theorem Follows.giveRegion {r : Region} (h : Follows o s) : Follows o (s.giveRegion r) := h

theorem leads_execRegionAssign (h : Follows o s) : Leads o (execRegionAssign s) := by
  unfold execRegionAssign
  split
  · exact h
  · split
    · exact h.popRegion
    · split
      · exact h.failRequest
      · split
        · exact h
        · split
          · exact .setStage (.giveRegion h.popRegion)
          · exact h

theorem Follows.shareOn {r : RegionReq} {x : Region} (h : Follows o s) : Follows o (s.shareOn r x) := by
  unfold State.shareOn
  exact .of_eq rfl rfl (.acquireCores (.updRegion h.popRegion))

theorem Follows.readUnder {key ctx : Nat} {spans : List (Nat × Nat)} (h : Follows o s) : Follows o (s.readUnder key ctx spans).2 := by
  induction spans generalizing s with
  | nil => exact h
  | cons x xs ih =>
    rw [State.readUnder]
    split
    next he => exact .snd he h.placeVa
    next he => exact .snd he h.placeVa
    next he =>
      split
      · exact .snd he h.placeVa
      · split
        next he2 => exact .snd he2 (ih (.snd he h.placeVa))
        · exact ih (.snd he h.placeVa)

theorem Follows.checkImages {key ctx : Nat} {areas : List (Nat × List Byte)} (h : Follows o s) :
    Follows o (s.checkImages key ctx areas).2 := by
  induction areas generalizing s with
  | nil => exact h
  | cons x xs ih =>
    rw [State.checkImages]
    split
    next he => exact .snd he h.readUnder
    next he => exact .snd he h.readUnder
    next he =>
      split
      · exact ih (.snd he h.readUnder)
      · exact .snd he h.readUnder

theorem Follows.failRestore {ctx : Nat} {p : Packet} (h : Follows o s) : Follows o (s.failRestore ctx p) := by
  unfold State.failRestore
  exact .setStage (.unwatch (.updCtx h.failPacket))

theorem Follows.loadEntries {ctx : Nat} {p : Packet} {ls : List Lane} (h : Follows o s) :
    Follows o (s.loadEntries ctx p ls).2 := by
  induction ls generalizing s with
  | nil => exact h
  | cons x xs ih =>
    rw [State.loadEntries]
    split
    · exact ih h
    next he =>
      split
      next he1 => exact .loaded he1 h.loadBlock
      next he1 => exact ih (.loaded he1 h.loadBlock)
      next he1 => exact ih (.updLane (.loaded he1 h.loadBlock))

theorem Follows.restore {ctx : Nat} {p : Packet} {sv : Save} {load : State → SavedCore → State} (h : Follows o s)
    (hload : ∀ t x1, Follows o t → Follows o (load t x1)) : Follows o (s.restore ctx p sv load).2 := by
  unfold State.restore
  exact .setStage (.loadEntries (.unwatch (.updCtx (.of_eq rfl rfl (.foldl h (fun _ _ ht => hload _ _ ht))))))

theorem Follows.resumeOn {ctx : Nat} {p : Packet} {sv : Save} {give : State → State} {load : State → SavedCore → State}
    (h : Follows o s)
    (hgive : ∀ t, Follows o t → Follows o (give t)) (hload : ∀ t c, Follows o t → Follows o (load t c)) :
    Follows o (s.resumeOn ctx p sv give load) := by
  unfold State.resumeOn
  split
  · exact h.onlyMigrations
  next he => exact .failRestore (hgive _ (.snd he (.ite h h.checkImages)))
  next he =>
    have hchecked := Follows.snd he (.ite h h.checkImages)
    split
    next he1 => exact .snd he1 (.restore (hgive _ hchecked) hload)
    · exact h.onlyMigrations

theorem Follows.loadLane {regs : SysRegs} {x : SavedCore} {core : Nat} (h : Follows o s) :
    Follows o (s.loadLane regs x core) := by
  unfold State.loadLane
  exact h.updLane

theorem leads_execRegionShare (h : Follows o s) : Leads o (execRegionShare s) := by
  unfold execRegionShare
  split
  · exact h
  · split
    · split
      · exact h
      · split
        · exact .setStage h.shareOn
        · split
          · exact h
          · split
            · exact .resumeOn h (fun _ ht => ht.shareOn) (fun _ _ ht => ht.loadLane)
            · exact h
    · exact h

theorem Follows.openEdge {r : Region} {ctx : Nat} {p : Packet} {e : Nat × EdgeRec} (h : Follows o s) :
    Follows o (s.openEdge r ctx p e) := by
  unfold State.openEdge
  dsimp only
  split
  · exact h
  · split
    · exact h.updLane
    · split
      · exact h
      · exact .trimL1 h.updCore

theorem Follows.openGates {ctx : Nat} {r : Region} {p : Packet} (h : Follows o s) : Follows o (s.openGates ctx r p).2 := by
  unfold State.openGates
  exact .setStage (.updCtx (.loadEntries (.foldl h.updLanes (fun _ _ ht => ht.openEdge))))

theorem leads_execGateOpen {ctx : Nat} (h : Follows o s) : Leads o (execGateOpen ctx s) := by
  unfold execGateOpen
  split
  next he =>
    split
    · exact h
    · split
      · exact h.onlyMigrations
      next he2 => exact .snd he2 h.openGates
  · exact h

/-! #### The retirement of packets and the measurement chain -/

theorem Follows.retireKernel {ctx : Nat} {p : Packet} {after : PacketStage} (h : Follows o s) :
    Follows o (s.retireKernel ctx p after) := by
  unfold State.retireKernel
  dsimp only
  split
  · exact .setStage h.clearKernel
  · exact .completeNow (.setStage h.clearKernel)

theorem leads_execPacketRetire {ctx q i : Nat} (h : Follows o s) : Leads o (execPacketRetire ctx q i s) := by
  unfold execPacketRetire
  split
  · exact h
  · split
    · split
      · exact h.retireKernel
      · exact h
    · split
      · exact h
      · exact h.retireKernel
    · split
      · exact h
      · exact h.completeNow
    · split
      · exact h
      · exact h.completeNow
    · exact h

theorem Follows.hashSpans {ctx : Nat} {spans : List (Nat × Nat)} (h : Follows o s) : Follows o (s.hashSpans ctx spans).2 := by
  induction spans generalizing s with
  | nil => exact h
  | cons x xs ih =>
    rw [State.hashSpans]
    split
    next he => exact .snd he h.placeVa
    next he => exact .snd he h.placeVa
    next he => exact .freshWord (.snd he h.placeVa)
    next he =>
      split
      · exact .snd he h.placeVa
      · split
        next he2 => exact .snd he2 (ih (.snd he h.placeVa))
        · exact ih (.snd he h.placeVa)

theorem Follows.hashRanges {ctx : Nat} {xs : List (Nat × Nat)} (h : Follows o s) : Follows o (s.hashRanges ctx xs).2 := by
  induction xs generalizing s with
  | nil => exact h
  | cons x rest ih =>
    rw [State.hashRanges]
    split
    next he => exact .snd he (.ite h h.hashSpans)
    next he => exact .snd he (.ite h h.hashSpans)
    next he =>
      have hhashed := Follows.snd he (.ite h h.hashSpans)
      split
      next he1 => exact .snd he1 (ih hhashed)
      · exact ih hhashed

theorem Follows.hashResults {ctx : Nat} {p : Packet} {rs : List (Nat × Nat)} (h : Follows o s) :
    Follows o (s.hashResults ctx p rs).2 := by
  unfold State.hashResults
  split
  next he => exact .dropRequests (.snd he h.sourceLocks)
  next he => exact .snd he h.sourceLocks
  next he =>
    split
    next he1 => exact .snd he1 (.mayRegister (.snd he h.sourceLocks))
    next he1 => exact .hashRanges (.squash (.dropRequests (.snd he1 (.mayRegister (.snd he h.sourceLocks)))))

theorem leads_execPacketClose {ctx q i : Nat} (h : Follows o s) : Leads o (execPacketClose ctx q i s) := by
  unfold execPacketClose
  split
  · exact h
  next he =>
    split
    · exact h
    · split
      · exact h
      · split
        · exact h.setStage
        · split
          · exact h.onlyMigrations
          next he4 => exact .updCtx (.setStage (.snd he4 h.hashResults))
          next he4 => exact .setStage (.updMeasured (.snd he4 h.hashResults))

theorem Follows.waybillFault {ctx : Nat} {p : Packet} {cause : Nat} (h : Follows o s) :
    Follows o (s.waybillFault ctx p cause) := by
  unfold State.waybillFault
  exact h.updCtx

theorem leads_execChainExtend {ctx : Nat} (h : Follows o s) : Leads o (execChainExtend ctx s) := by
  unfold execChainExtend
  dsimp only
  split
  · exact h
  · split
    · exact h
    · split
      · exact h.completeNow
      · split
        · exact .completeNow (.reportFailure h.updCtx)
        · split
          · exact .dropRequests h.onlyMigrations
          next he5 => exact .completeNow (.waybillFault (.snd he5 (.writeChecked (.reportFailure h.updCtx))))
          next he5 =>
            split
            · exact h.onlyMigrations
            next he6 => exact .completeNow (.commitAs (.snd he6 (.mayCommit (.snd he5 (.writeChecked
              (.reportFailure h.updCtx))))))

theorem leads_execQueueClear {ctx q : Nat} (h : Follows o s) : Leads o (execQueueClear ctx q s) := by
  unfold execQueueClear
  exact h.updCtx

theorem leads_execQueueEnable {ctx q : Nat} {en : Bool} {log2sz : Nat} (h : Follows o s) :
    Leads o (execQueueEnable ctx q en log2sz s) := by
  unfold execQueueEnable
  exact h.updCtx

/-! #### Objects, invalidations and registers -/

theorem Follows.readSections {ctx objVa : Nat} {secs : List Section} (h : Follows o s) :
    Follows o (s.readSections ctx objVa secs).2 := by
  induction secs generalizing s with
  | nil => exact h
  | cons x xs ih =>
    rw [State.readSections]
    split
    next he => exact .snd he h.readVa
    next he => exact .snd he h.readVa
    next he =>
      split
      next he1 => exact .snd he1 (ih (.snd he h.readVa))
      · exact ih (.snd he h.readVa)

theorem Follows.mayCopyObject {ctx dst n : Nat} (h : Follows o s) : Follows o (s.mayCopyObject ctx dst n).2 := by
  unfold State.mayCopyObject
  split
  next he => exact .mayCommit (.third he h.writeVa)
  next he => exact .dropRequests (.third he h.writeVa)
  next he => exact .third he h.writeVa

theorem Follows.copySection {ctx src dst n : Nat} (h : Follows o s) : Follows o (s.copySection ctx src dst n).2 := by
  unfold State.copySection
  split
  next he => exact .snd he h.readVa
  next he => exact .snd he h.readVa
  next he =>
    split
    next he1 => exact .snd he1 (.writeChecked (.snd he h.readVa))
    next he1 => exact .snd he1 (.writeChecked (.snd he h.readVa))
    next he1 => exact .commitPieces (.snd he1 (.writeChecked (.snd he h.readVa)))

theorem Follows.copySections {ctx objVa n : Nat} {secs : List Section} (h : Follows o s) :
    Follows o (s.copySections ctx objVa n secs).2 := by
  induction secs generalizing s n with
  | nil => exact h
  | cons x xs ih =>
    rw [State.copySections]
    split
    next he => exact ih (.snd he h.copySection)
    · exact h.copySection

theorem Follows.loadObject {ctx handle : Nat} {page : CtxPage} (h : Follows o s) :
    Follows o (s.loadObject ctx handle page).state := by
  unfold State.loadObject
  dsimp only
  split
  next he1 => exact .snd he1 h.readVa
  next he1 => exact .snd he1 h.readVa
  next he1 =>
    split
    · exact .snd he1 h.readVa
    · split
      next he3 => exact .snd he3 (.readVa (.snd he1 h.readVa))
      next he3 => exact .snd he3 (.readVa (.snd he1 h.readVa))
      next he3 =>
        split
        · exact .snd he3 (.readVa (.snd he1 h.readVa))
        · split
          · exact .snd he3 (.readVa (.snd he1 h.readVa))
          · split
            next he6 => exact .snd he6 (.readSections (.snd he3 (.readVa (.snd he1 h.readVa))))
            next he6 => exact .snd he6 (.readSections (.snd he3 (.readVa (.snd he1 h.readVa))))
            next he6 => exact .snd he6 (.readSections (.snd he3 (.readVa (.snd he1 h.readVa))))
            next he6 =>
              split
              · exact .snd he6 (.readSections (.snd he3 (.readVa (.snd he1 h.readVa))))
              · split
                next he8 => exact .snd he8 (.mayCopyObject (.snd he6 (.readSections (.snd he3 (.readVa (.snd he1 h.readVa))))))
                next he8 =>
                  split
                  next he9 => exact .snd he9 (.copySections (.snd he8 (.mayCopyObject (.snd he6 (.readSections (.snd he3 (.readVa
                    (.snd he1 h.readVa))))))))
                  next he9 => exact .snd he9 (.copySections (.snd he8 (.mayCopyObject (.snd he6 (.readSections (.snd he3 (.readVa
                    (.snd he1 h.readVa))))))))
                  next he9 =>
                    split
                    next he10 => exact .snd he10 (.copySections (.snd he9 (.copySections (.snd he8 (.mayCopyObject (.snd he6
                      (.readSections (.snd he3 (.readVa (.snd he1 h.readVa))))))))))
                    next he10 => exact .snd he10 (.copySections (.snd he9 (.copySections (.snd he8 (.mayCopyObject (.snd he6
                      (.readSections (.snd he3 (.readVa (.snd he1 h.readVa))))))))))
                    next he10 => exact .snd he10 (.copySections (.snd he9 (.copySections (.snd he8 (.mayCopyObject (.snd he6
                      (.readSections (.snd he3 (.readVa (.snd he1 h.readVa))))))))))

theorem leads_execObjectLoad {ctx handle : Nat} (h : Follows o s) : Leads o (execObjectLoad ctx handle s) := by
  unfold execObjectLoad
  dsimp only
  split
  · exact h
  · split
    · exact h
    · split
      · exact h.updCtx
      · split
        · exact .updCtx h.onlyMigrations
        next he4 => exact .updCtx (.dropRequests (.objRead he4 h.loadObject))
        next he4 => exact .updCtx (.dropRequests (.objRead he4 h.loadObject))

theorem leads_execObjectUnload {ctx handle : Nat} (h : Follows o s) : Leads o (execObjectUnload ctx handle s) := by
  unfold execObjectUnload
  dsimp only
  split
  · exact h
  · split
    · exact h
    · split <;> exact h.updCtx

theorem Follows.invalidate {ctx : Nat} {all : Bool} {pages : Nat} (h : Follows o s) : Follows o (s.invalidate ctx all pages) := by
  unfold State.invalidate
  split
  · exact h
  · split
    · exact h
    · exact .requestShootdown h.updCtx

theorem leads_execInvalidateRange {ctx pages : Nat} (h : Follows o s) : Leads o (execInvalidateRange ctx pages s) := by
  unfold execInvalidateRange
  split
  · exact h.invalidate
  · exact h

theorem leads_execInvalidateAll {ctx : Nat} (h : Follows o s) : Leads o (execInvalidateAll ctx s) := by
  unfold execInvalidateAll
  exact h.invalidate

theorem leads_execSysregWrite {ctx num v : Nat} (h : Follows o s) : Leads o (execSysregWrite ctx num v s) := by
  unfold execSysregWrite
  exact h.sendRegWrite

theorem leads_execCrovfRead {ctx : Nat} (h : Follows o s) : Leads o (execCrovfRead ctx s) := by
  unfold execCrovfRead
  dsimp only
  split <;> exact h

theorem leads_execHostfaultRead {port fn : Nat} (h : Follows o s) : Leads o (execHostfaultRead port fn s) := by
  unfold execHostfaultRead
  dsimp only
  split <;> exact h

/-! #### Context commands -/

theorem Follows.submit {port fn : Nat} {cmd : Command} {run : State → State} (h : Follows o s)
    (hrun : ∀ t, Follows o t → Follows o (run t)) : Follows o (s.submit port fn cmd run) := by
  unfold State.submit
  dsimp only
  split
  · exact h
  · split
    · exact h
    · split
      · exact h
      · exact hrun _ h

theorem Follows.allotKey {ctx k : Nat} (h : Follows o s) : Follows o (s.allotKey ctx k) := h

theorem Follows.fillRange {key r : Nat} (h : Follows o s) : Follows o (s.fillRange key r) := by
  unfold State.fillRange
  split
  · split
    · exact h
    · exact .of_mem (Memory.wf_clear _ _) rfl h
  · exact h

theorem Follows.createContext {port fn num : Nat} {f : Function} (h : Follows o s) :
    Follows o (s.createContext port fn num f) := by
  unfold State.createContext
  exact .updFunc (.of_eq rfl rfl (.foldl (.foldl h (fun _ _ ht => ht.allotKey)) (fun _ _ ht => ht.fillRange)))

theorem Follows.commandStatus {port fn st : Nat} (h : Follows o s) : Follows o (s.commandStatus port fn st) := by
  unfold State.commandStatus
  exact h.updFunc

theorem Follows.runCreate {port fn : Nat} (h : Follows o s) : Follows o (s.runCreate port fn) := by
  unfold State.runCreate
  split
  · exact h
  · split
    · exact h.createContext
    · exact h.commandStatus

theorem leads_execCreate {port fn : Nat} (h : Follows o s) : Leads o (execCreate port fn s) := by
  unfold execCreate
  exact .submit h (fun _ ht => ht.runCreate)

theorem Follows.runDestroy {port fn ctx : Nat} (h : Follows o s) : Follows o (s.runDestroy port fn ctx) := by
  unfold State.runDestroy
  split
  · exact .settleAll (.beginReset h.updFunc)
  · exact h.commandStatus

theorem leads_execDestroy {port fn ctx : Nat} (h : Follows o s) : Leads o (execDestroy port fn ctx s) := by
  unfold execDestroy
  split
  · exact .submit h (fun _ ht => ht.runDestroy)
  · exact h

theorem Follows.oneStatus {ns : List Nat} (h : Follows o s) : Follows o (s.oneStatus ns).2 := by
  unfold State.oneStatus
  split
  · exact h
  · exact h
  · dsimp only
    exact h.choose

theorem Follows.runGrant {port fn : Nat} (h : Follows o s) : Follows o (s.runGrant port fn) := by
  unfold State.runGrant
  dsimp only
  split
  · exact h
  · split
    · exact .updFunc (.commandStatus h.oneStatus)
    · exact .commandStatus h.oneStatus

theorem leads_execGrant {port fn : Nat} (h : Follows o s) : Leads o (execGrant port fn s) := by
  unfold execGrant
  exact .submit h (fun _ ht => ht.runGrant)

/-! #### Ownership commands and the module reset -/

theorem Follows.submitOwn {port cmd : Nat} {run : State → State} (h : Follows o s)
    (hrun : ∀ t, Follows o t → Follows o (run t)) :
    Follows o (s.submitOwn port cmd run) := by
  unfold State.submitOwn
  dsimp only
  split
  · exact h
  · split
    · exact h
    · split
      · exact h
      · exact hrun _ h

theorem Follows.own {port cmd : Nat} {run : State → State} (h : Follows o s)
    (hrun : ∀ t, Follows o t → Follows o (run t)) :
    Follows o (s.own port cmd run) := by
  unfold State.own
  split
  · exact h
  · split
    · exact .submitOwn h (fun _ ht => hrun _ ht)
    · exact h

theorem fixed_oneStatus {xs : List Nat} : (s.oneStatus xs).2.fixed = s.fixed := by
  unfold State.oneStatus
  split <;> rfl

theorem svn_of_ownFaults_isEmpty {port : Nat} {r : OwnRecord} {k : OwnCheck}
    (h : (s.ownFaults port r k).isEmpty = true) : k.svn = true := by
  cases hsvn : k.svn with
  | true => rfl
  | false =>
    unfold State.ownFaults at h
    split at h
    · exact nomatch h
    · split at h
      · exact nomatch h
      · simp [hsvn] at h

theorem Follows.ownCommand {port : Nat} {check : Firmware → OwnRecord → OwnCheck} {act : State → OwnRecord → State}
    (h : Follows o s)
    (hact : ∀ (t : State) (r : OwnRecord), (check s.firmware r).svn = true → t.firmware.minSvn = s.firmware.minSvn →
      Follows o t → Follows o (act t r)) :
    Follows o (State.ownCommand port check act s) := by
  have hpick : ∀ xs, Follows o (s.oneStatus xs).2 := fun _ => h.of_fixed fixed_oneStatus
  have hmin : ∀ xs, (s.oneStatus xs).2.firmware.minSvn = s.firmware.minSvn := fun _ =>
    congrArg Firmware.minSvn (State.firmware_of_fixed fixed_oneStatus)
  unfold State.ownCommand
  split
  · exact h
  · dsimp only
    split
    next hempty => exact hact _ _ (svn_of_ownFaults_isEmpty hempty) (hmin _) (hpick _)
    · exact hpick _

theorem Follows.restorePartition (h : Follows o s) : Follows o s.restorePartition := h

theorem Follows.changeOwner {port : Nat} {st : OwnState} {keys : List Byte} (h : Follows o s) :
    Follows o (s.changeOwner port st keys) :=
  .settleAll (.updFunc (.of_mem id rfl (.restorePartition (.foldl h fun _ _ ht => ht.beginReset))))

theorem Follows.runTake {port : Nat} (h : Follows o s) : Follows o (State.runTake port s) :=
  h.ownCommand fun _ _ _ _ ht => ht.changeOwner

theorem leads_execTake {port : Nat} (h : Follows o s) : Leads o (execTake port s) := by
  unfold execTake
  exact .own h (fun _ ht => ht.runTake)

theorem Follows.runTransfer {port : Nat} (h : Follows o s) : Follows o (State.runTransfer port s) :=
  h.ownCommand fun _ _ _ _ ht => ht

theorem leads_execTransfer {port : Nat} (h : Follows o s) : Leads o (execTransfer port s) := by
  unfold execTransfer
  exact .own h (fun _ ht => ht.runTransfer)

theorem Follows.runAccept {port : Nat} (h : Follows o s) : Follows o (State.runAccept port s) :=
  h.ownCommand fun _ _ _ _ ht => ht.changeOwner

theorem leads_execAccept {port : Nat} (h : Follows o s) : Leads o (execAccept port s) := by
  unfold execAccept
  exact .own h (fun _ ht => ht.runAccept)

theorem Follows.runCancel {port : Nat} (h : Follows o s) : Follows o (State.runCancel port s) :=
  h.ownCommand fun _ _ _ _ ht => ht

theorem leads_execCancel {port : Nat} (h : Follows o s) : Leads o (execCancel port s) := by
  unfold execCancel
  exact .own h (fun _ ht => ht.runCancel)

theorem Follows.runRelease {port : Nat} (h : Follows o s) : Follows o (State.runRelease port s) :=
  h.ownCommand fun _ _ _ _ ht => ht.changeOwner

theorem leads_execRelease {port : Nat} (h : Follows o s) : Leads o (execRelease port s) := by
  unfold execRelease
  exact .own h (fun _ ht => ht.runRelease)

theorem Follows.runStageFw {port : Nat} (h : Follows o s) : Follows o (State.runStageFw port s) :=
  h.ownCommand fun _ _ _ _ ht => ht

theorem leads_execStageFw {port : Nat} (h : Follows o s) : Leads o (execStageFw port s) := by
  unfold execStageFw
  exact .own h (fun _ ht => ht.runStageFw)

theorem Follows.runSetsvn {port : Nat} (h : Follows o s) : Follows o (State.runSetsvn port s) :=
  h.ownCommand fun _ _ hsvn hkept ht => ⟨ht.1, ht.2.trans (hkept ▸ of_decide_eq_true hsvn)⟩

theorem leads_execSetsvn {port : Nat} (h : Follows o s) : Leads o (execSetsvn port s) := by
  unfold execSetsvn
  exact .own h (fun _ ht => ht.runSetsvn)

theorem Follows.runPartition {port : Nat} (h : Follows o s) : Follows o (State.runPartition port s) :=
  h.ownCommand fun _ _ _ _ ht => ht

theorem leads_execPartition {port : Nat} (h : Follows o s) : Leads o (execPartition port s) := by
  unfold execPartition
  exact .own h (fun _ ht => ht.runPartition)

theorem minSvn_restart {f : Firmware} : f.restart.minSvn = f.minSvn := by
  unfold Firmware.restart
  dsimp only
  split
  · split <;> rfl
  · rfl

theorem leads_execModuleReset (h : Follows o s) : Leads o (execModuleReset s) :=
  ⟨h.1, minSvn_restart.symm ▸ h.2⟩

theorem Follows.unknownCommand {port : Nat} (h : Follows o s) : Follows o (s.unknownCommand port) := h

theorem leads_execRegisterWrite {port fn off v : Nat} (h : Follows o s) : Leads o (execRegisterWrite port fn off v s) := by
  unfold execRegisterWrite
  dsimp only
  split
  · exact h
  · split
    · exact h
    · split
      · split
        · exact .submitOwn h (fun _ ht => ht.unknownCommand)
        · exact h
      · split
        · split
          · exact .submit h (fun _ ht => ht.commandStatus)
          · exact h
        · split
          · exact h.updFunc
          · split
            · split
              · exact h.updCtx
              · exact h
            · exact h

/-! #### Pre-emption and saves -/

theorem leads_execQuantumExpiry (h : Follows o s) : Leads o (execQuantumExpiry s) := by
  unfold execQuantumExpiry
  split
  · exact h
  · split
    · exact h
    · split <;> exact h

theorem leads_execHardPreemptFreeze {ctx : Nat} (h : Follows o s) : Leads o (execHardPreemptFreeze ctx s) := by
  unfold execHardPreemptFreeze
  split
  · exact h
  · split
    · exact h
    · exact .squashContext (.updLanes h.updCtx)

/-- What a recursion that writes images has for the lists below a list. -/
abbrev Below (ks : List Nat) : Type := List.below (motive := fun _ => State → Saving) ks

/-- The recursion below a list keeps what `Follows` says. -/
def BelowFollows (o : State) : (ks : List Nat) → Below ks → Prop
  | [], _ => True
  | _ :: _, b => ∀ s, Follows o s → Follows o (b.1 s).state

theorem Follows.brecOn {f : (ks : List Nat) → Below ks → State → Saving} {ks : List Nat}
    (hf : ∀ ks b s, BelowFollows o ks b → Follows o s → Follows o (f ks b s).state) (h : Follows o s) :
    Follows o (List.brecOn (motive := fun _ => State → Saving) ks f s).state := by
  induction ks generalizing s with
  | nil => exact hf [] _ s trivial h
  | cons k ks ih => exact hf (k :: ks) _ s (fun _ ht => ih ht) h

theorem Follows.writeImages {ctx key : Nat} {regs : SysRegs} {ks : List Nat} (h : Follows o s) :
    Follows o (s.writeImages ctx key regs ks).state := by
  delta State.writeImages State.writeImages._f
  refine Follows.brecOn (fun ks b s hb h => ?_) h
  generalize regs.saveVa = va, 2 ^ 21 = span
  as_aux_lemma =>
    cases ks with
    | nil => exact h
    | cons k ks =>
      dsimp only
      split
      next he => exact .third he (.writeVa (s := { s with freeCtr := _ }) h)
      next he => exact .third he (.writeVa (s := { s with freeCtr := _ }) h)
      next he =>
        have hwritten := Follows.third he (.writeVa (s := { s with freeCtr := _ }) h)
        split
        · exact hwritten
        · split
          · exact hwritten
          · have hrest := fun ps => hb _ (hwritten.commitPieces (ps := ps))
            split
            next he1 =>
              have hkept := Follows.saving he1 (hrest _)
              exact hkept
            · exact hrest _

theorem Follows.watchSave {ctx : Nat} {areas : List (Nat × List Byte)} (h : Follows o s) : Follows o (s.watchSave ctx areas) := by
  unfold State.watchSave
  refine .foldl h.unwatch fun t0 x ht0 => ?_
  split
  · exact ht0.watch
  · exact ht0

theorem Follows.yieldRegion {ctx h' w : Nat} {p : Packet} {st : PacketStage} (h : Follows o s) :
    Follows o (s.yieldRegion ctx h' w p st) := by
  unfold State.yieldRegion
  exact .setStage (.queueRegion (.updCtx h.releaseRegion))

theorem Follows.savePacket {ctx : Nat} {r : Region} {c : Context} {p : Packet} (h : Follows o s) :
    Follows o (s.savePacket ctx r c p) := by
  unfold State.savePacket
  dsimp only
  split
  next he1 => exact .snd he1 h.takeGrants
  next he1 =>
    split
    · exact .dropRequests (.onlyMigrations (.snd he1 h.takeGrants))
    next he2 => exact .releaseRegion (.failPacket (.dropRequests (.saving he2 (.writeImages (.snd he1 h.takeGrants)))))
    next he2 => exact .watchSave (.updCtx (.yieldRegion (.dropRequests (.saving he2 (.writeImages (.snd he1 h.takeGrants))))))

theorem leads_execHardPreemptSave {ctx : Nat} (h : Follows o s) : Leads o (execHardPreemptSave ctx s) := by
  unfold execHardPreemptSave
  split
  · split
    · exact h
    · split
      · exact .updCtx h.releaseRegion
      · split
        · exact h.savePacket
        · exact h.yieldRegion
  · exact h

theorem Follows.loadImage {regs : SysRegs} {place : SavedCore → Option Nat} {x : SavedCore} (h : Follows o s) :
    Follows o (s.loadImage regs place x) := by
  unfold State.loadImage
  dsimp only
  split
  · exact h
  · exact .loadLane h.updCore

theorem leads_execResumeRestore {ctx : Nat} (h : Follows o s) : Leads o (execResumeRestore ctx s) := by
  unfold execResumeRestore
  split
  · exact h
  · split
    · exact h
    · exact h.resumeOn (fun _ ht => .giveRegion ht.popRegion) fun _ _ ht => ht.loadImage

theorem leads_execGraphRelink {ctx : Nat} (h : Follows o s) : Leads o (execGraphRelink ctx s) := by
  unfold execGraphRelink
  split
  · exact h
  · dsimp only
    split
    · exact h
    · split
      · exact h
      · exact .resumeOn h.choose (fun _ ht => .updCtx (.giveRegion ht.popRegion)) fun _ _ ht => ht.loadImage

theorem leads_execRegionHandover {ctx : Nat} (h : Follows o s) : Leads o (execRegionHandover ctx s) := by
  unfold execRegionHandover
  split
  · split
    · exact h
    · exact .queueRegion h.releaseRegion
  · exact h

theorem leads_execHostPortLinkUp {port : Nat} (h : Follows o s) : Leads o (execHostPortLinkUp port s) := by
  unfold execHostPortLinkUp
  exact h

theorem leads_execPeerRead {q addr len : Nat} (h : Follows o s) : Leads o (execPeerRead q addr len s) := by
  unfold execPeerRead
  dsimp only
  split
  · split
    · exact h
    · split
      · exact h.holdRead
      · split
        · exact h
        · exact h.holdRead
  · split
    · exact h
    · split
      · exact h.holdRead
      · split
        · exact h
        · exact h.holdRead

/-! #### What happens outside the instructions -/

theorem Follows.updIo {die : Nat} {f : IoDie → IoDie} (h : Follows o s) : Follows o (s.updIo die f) := h

theorem Follows.command_run {c : WaitingCommand} (h : Follows o s) : Follows o (c.run s) := by
  generalize hrun : c.run = run
  unfold WaitingCommand.run at hrun
  split at hrun <;> subst hrun
  · exact h.runCreate
  · exact h.runDestroy
  · exact h.runGrant
  · exact h.commandStatus
  · exact h.runTake
  · exact h.runTransfer
  · exact h.runAccept
  · exact h.runCancel
  · exact h.runRelease
  · exact h.runStageFw
  · exact h.runSetsvn
  · exact h.runPartition
  · exact h.unknownCommand

theorem Follows.takeCommand {c : WaitingCommand} (h : Follows o s) : Follows o (s.takeCommand c) := by
  unfold State.takeCommand
  split
  · exact h
  · exact .command_run h

theorem Follows.nextCommands (h : Follows o s) : Follows o s.nextCommands := by
  unfold State.nextCommands
  exact .foldl h (fun _ _ ht => ht.takeCommand)

theorem Follows.elapseTarat {die n : Nat} (h : Follows o s) : Follows o (s.elapseTarat die n) := by
  unfold State.elapseTarat
  dsimp only
  refine Follows.nextCommands ?_
  refine Follows.settleAll ?_
  split
  · exact h
  · exact h.updIo

theorem Follows.elapseStrip {die n : Nat} (h : Follows o s) : Follows o (s.elapseStrip die n) := h

theorem Follows.elapse {clock n : Nat} (h : Follows o s) : Follows o (s.elapse clock n) := by
  unfold State.elapse
  split
  · exact h.elapseCore
  · split
    · exact h
    · split
      · exact h.elapseTarat
      · exact h.elapseStrip

theorem Follows.outsideStore {pa : Nat} {bytes : List Byte} (h : Follows o s) : Follows o (s.outsideStore pa bytes) := by
  unfold State.outsideStore
  extract_lets own
  split
  · exact .of_mem (Memory.wf_writeBytes pa bytes) rfl h
  · exact h

theorem Follows.postWrite {port pa : Nat} {bytes : List Byte} (h : Follows o s) : Follows o (s.postWrite port pa bytes) := by
  unfold State.postWrite
  dsimp only
  split
  · split <;> exact h
  · split <;> exact h

theorem Follows.bitError {block : Nat} (h : Follows o s) : Follows o (s.bitError block) := by
  unfold State.bitError
  split <;> exact h

theorem Follows.correctedError {i : Nat} (h : Follows o s) : Follows o (s.correctedError i) := h

theorem Follows.passMessage {die : Nat} {write : Bool} {n : Nat} (h : Follows o s) : Follows o (s.passMessage die write n) := h

theorem Follows.loseContents {port : Nat} (h : Follows o s) : Follows o (s.loseContents port) := by
  unfold State.loseContents
  dsimp only
  split
  · split <;> exact h
  · exact h

theorem Follows.readClears {port fn off : Nat} (h : Follows o s) : Follows o (s.readClears port fn off) := by
  unfold State.readClears
  split
  · exact h.updFunc
  · split
    · split
      · exact h.updCtx
      · exact h
    · exact h

theorem Follows.registerRead {port fn off : Nat} (h : Follows o s) : Follows o (s.registerRead port fn off) := by
  unfold State.registerRead
  dsimp only
  split
  · exact h
  · split
    · exact h
    · exact .of_eq rfl rfl h.readClears

theorem Follows.noteFiring {x : Firing} (h : Follows o t) : Follows o (s.noteFiring t x) := by
  unfold State.noteFiring
  split
  · exact h
  · exact h.active

/-! ### Every instruction and event -/

/-- A firing changes neither memory nor the firmware (R53, R56). -/
theorem leads_of_fields {i : Instr} (hi : i.fields? ≠ none) (h : Follows o s) : Leads o (exec i s) := by
  cases hx : exec i s with
  | next t => exact h.of_fixed (State.fixed_of_exec hi hx)
  | fault => trivial
  | refused => trivial

theorem leads_exec (i : Instr) (h : Follows o s) : Leads o (exec i s) := by
  cases i with
  | marshalBlockChoice => exact leads_execMarshalBlockChoice h
  | ageThresholdReached => exact leads_execAgeThresholdReached h
  | configurationLoadDone => exact leads_execConfigurationLoadDone h
  | threadAdmission => exact leads_execThreadAdmission h
  | loadDataReturn => exact leads_execLoadDataReturn h
  | gatherReturn => exact leads_execGatherReturn h
  | passEnd => exact leads_execPassEnd h
  | arbiterGrant => exact leads_execArbiterGrant h
  | chunkCommit => exact leads_execChunkCommit h
  | wcBroadcastArrival => exact leads_execWcBroadcastArrival h
  | passReplay => exact leads_execPassReplay h
  | soloTicketGrant => exact leads_execSoloTicketGrant h
  | sStorePublish => exact leads_execSStorePublish h
  | hostPeerStoreSend => exact leads_execHostPeerStoreSend h
  | spawnPlace => exact leads_execSpawnPlace h
  | creditApply => exact leads_execCreditApply h
  | syswrTakeEffect => exact leads_execSyswrTakeEffect h
  | shootdownStart => exact leads_execShootdownStart h
  | shootdownComplete => exact leads_execShootdownComplete h
  | cfginvMark => exact leads_execCfginvMark h
  | copyHandover => exact leads_execCopyHandover h
  | rangeLockRegister => exact leads_execRangeLockRegister h
  | drayEngineCommit => exact leads_execDrayEngineCommit h
  | ringTileWrite => exact leads_execRingTileWrite h
  | drayFifoEntry => exact leads_execDrayFifoEntry h
  | completionWordWrite => exact leads_execCompletionWordWrite h
  | completionRecordAppend => exact leads_execCompletionRecordAppend h
  | copyFail => exact leads_execCopyFail h
  | leaveGrant => exact leads_execLeaveGrant h
  | leaveWaitExpiry => exact leads_execLeaveWaitExpiry h
  | mbldEntryRun => exact leads_execMbldEntryRun h
  | mmaEntryStart => exact leads_execMmaEntryStart h
  | mzeroEntryRun => exact leads_execMzeroEntryRun h
  | mstoreEntryRun => exact leads_execMstoreEntryRun h
  | matrixEntryFinish => exact leads_execMatrixEntryFinish h
  | migrationStart => exact leads_execMigrationStart h
  | migrationCommit => exact leads_execMigrationCommit h
  | migrationFail => exact leads_execMigrationFail h
  | cxlLinkDown => exact leads_execCxlLinkDown h
  | cxlCompletionTimeout => exact leads_execCxlCompletionTimeout h
  | linkRetrain => exact leads_execLinkRetrain h
  | hostPortLinkDown => exact leads_execHostPortLinkDown h
  | couplerLinkDown => exact leads_execCouplerLinkDown h
  | hostCompletionError => exact leads_execHostCompletionError h
  | hostCompletionTimeout => exact leads_execHostCompletionTimeout h
  | hostWriteArrival => exact leads_execHostWriteArrival h
  | apertureRead => exact leads_execApertureRead h
  | apertureWrite => exact leads_execApertureWrite h
  | linkTagFail => exact leads_execLinkTagFail h
  | sessionRekey => exact leads_execSessionRekey h
  | dieFailed => exact leads_execDieFailed h
  | rateWindowExpiry => exact leads_execRateWindowExpiry h
  | quiescentStall => exact leads_execQuiescentStall h
  | yieldRelease => exact leads_execYieldRelease h
  | doorbellWrite => exact leads_execDoorbellWrite h
  | packetTake => exact leads_execPacketTake h
  | launch => exact leads_execLaunch h
  | graph => exact leads_execGraph h
  | copyPacket => exact leads_execCopyPacket h
  | barrierAnd => exact leads_execBarrierAnd h
  | barrierOr => exact leads_execBarrierOr h
  | barrierReading => exact leads_execBarrierReading h
  | signalPacket => exact leads_execSignalPacket h
  | measure => exact leads_execMeasure h
  | regionAssign => exact leads_execRegionAssign h
  | regionShare => exact leads_execRegionShare h
  | gateOpen => exact leads_execGateOpen h
  | packetRetire => exact leads_execPacketRetire h
  | packetClose => exact leads_execPacketClose h
  | chainExtend => exact leads_execChainExtend h
  | queueClear => exact leads_execQueueClear h
  | queueEnable => exact leads_execQueueEnable h
  | objectLoad => exact leads_execObjectLoad h
  | objectUnload => exact leads_execObjectUnload h
  | invalidateRange => exact leads_execInvalidateRange h
  | invalidateAll => exact leads_execInvalidateAll h
  | sysregWrite => exact leads_execSysregWrite h
  | crovfRead => exact leads_execCrovfRead h
  | hostfaultRead => exact leads_execHostfaultRead h
  | create => exact leads_execCreate h
  | destroy => exact leads_execDestroy h
  | grant => exact leads_execGrant h
  | take => exact leads_execTake h
  | transfer => exact leads_execTransfer h
  | accept => exact leads_execAccept h
  | cancel => exact leads_execCancel h
  | release => exact leads_execRelease h
  | stageFw => exact leads_execStageFw h
  | setsvn => exact leads_execSetsvn h
  | partition => exact leads_execPartition h
  | moduleReset => exact leads_execModuleReset h
  | registerWrite => exact leads_execRegisterWrite h
  | quantumExpiry => exact leads_execQuantumExpiry h
  | hardPreemptFreeze => exact leads_execHardPreemptFreeze h
  | hardPreemptSave => exact leads_execHardPreemptSave h
  | resumeRestore =>
    unfold exec
    exact leads_execResumeRestore h
  | graphRelink => exact leads_execGraphRelink h
  | regionHandover => exact leads_execRegionHandover h
  | hostPortLinkUp => exact leads_execHostPortLinkUp h
  | peerRead => exact leads_execPeerRead h
  | _ => exact leads_of_fields (Option.some_ne_none _) h

/-! ### Every step -/

theorem leads_withMishap {m : Mishap} {f : State → Host.Outcome State Fault Refusal} (hf : ∀ u, Follows o u → Leads o (f u))
    (h : Follows o s) : Leads o (withMishap m f s) := by
  have hout := hf { s with mishap := some m } h
  unfold withMishap
  split
  next he =>
    rw [he] at hout
    exact hout
  · trivial
  · trivial

theorem leads_runFire (x : Firing) (h : Follows o s) : Leads o (runFire x s) := by
  unfold runFire
  split
  · exact h
  · split
    · trivial
    next i _ =>
      have hout := leads_exec i (s := { s with cur := x }) h
      split
      next he =>
        rw [he] at hout
        exact Follows.noteFiring hout
      · trivial
      · trivial

theorem leads_runMove (m : Move) (h : Follows o s) : Leads o (runMove m s) := by
  cases m with
  | fire => exact leads_runFire _ h
  | upsetFire => exact leads_withMishap (fun _ hu => leads_runFire _ hu) h
  | event i => exact leads_exec i h
  | upset m i => exact leads_withMishap (fun _ hu => leads_exec i hu) h
  | elapse => exact h.elapse
  | outsideStore => exact h.outsideStore
  | post => exact h.postWrite
  | bitError => exact h.bitError
  | corrected => exact h.correctedError
  | messages => exact h.passMessage
  | expanderLoss => exact h.loseContents
  | taratWrite => exact h.updIo
  | registerRead => exact h.registerRead

theorem leads_step (s : State) : Leads s (step s) := by
  unfold step
  split
  · exact .refl s
  · exact leads_runMove _ (Follows.refl s)

theorem follows_of_step (h : step s = .next t) : Follows s t := by
  have hstep := leads_step s
  rwa [h] at hstep

end

/-- Settles O50: a step's state follows the one before it; only SETSVN changes the minimum, and a number below it is a fault. -/
theorem minSvnNeverFalls : Obligations.MinSvnNeverFalls := fun _ _ h => (follows_of_step h).2

/-- Settles O55: a step's state follows the one before it, and each write of memory keeps the canonical form. -/
theorem memoryStaysCanonical : Obligations.MemoryStaysCanonical := fun _ _ hs h => (follows_of_step h).1 hs

end Sys2Proof.Machine

/-! Argument fields of a kernel (spec/14 R427). -/

namespace Sys2Proof.Machine

/-- `o` is the lowest multiple of `a` at or after `e`. -/
def LowestMultiple (a e o : Nat) : Prop := a ∣ o ∧ e ≤ o ∧ ∀ n, a ∣ n → e ≤ n → o ≤ n

theorem lowestMultiple_roundUp {a : Nat} (e : Nat) (ha : 0 < a) : LowestMultiple a e ((e + a - 1) / a * a) := by
  refine ⟨Nat.dvd_mul_left .., ?_, ?_⟩
  · have hdiv := Nat.div_add_mod' (e + a - 1) a
    have hmod := Nat.mod_lt (e + a - 1) ha
    omega
  · rintro _ ⟨m, rfl⟩ hm
    have hlt : (e + a - 1) / a < m + 1 := (Nat.div_lt_iff_lt_mul ha).2 (by rw [Nat.add_mul, Nat.mul_comm m]; omega)
    rw [Nat.mul_comm a]
    exact Nat.mul_le_mul_right a (Nat.le_of_lt_succ hlt)

/-- Where each field ends, from an offset on. -/
def fieldEnds (offs : List Nat) (fs : List (Nat × Nat)) : List Nat :=
  List.zipWith (fun (o : Nat) (f : Nat × Nat) => o + f.1) offs fs

theorem length_placeFields (e : Nat) (fs : List (Nat × Nat)) : (placeFields e fs).1.length = fs.length := by
  induction fs generalizing e with
  | nil => rfl
  | cons f fs ih => simp [placeFields, ih]

theorem placeFields_end (e : Nat) (fs : List (Nat × Nat)) :
    (placeFields e fs).2 = (e :: fieldEnds (placeFields e fs).1 fs).getLastD e := by
  induction fs generalizing e with
  | nil => rfl
  | cons f fs ih =>
    have hrest := ih ((e + f.2 - 1) / f.2 * f.2 + f.1)
    simp only [List.getLastD_cons] at hrest
    simpa only [placeFields, fieldEnds, List.zipWith_cons_cons, List.getLastD_cons] using hrest

theorem placeFields_lowest {fs : List (Nat × Nat)} (hpos : ∀ f ∈ fs, 0 < f.2) {e k o b : Nat} {f : Nat × Nat}
    (hf : fs[k]? = some f) (ho : (placeFields e fs).1[k]? = some o) (hb : (e :: fieldEnds (placeFields e fs).1 fs)[k]? = some b) :
    LowestMultiple f.2 b o := by
  induction fs generalizing e k with
  | nil => exact nomatch hf
  | cons g fs ih =>
    rw [placeFields] at ho hb
    cases k with
    | zero =>
      obtain rfl := Option.some.inj hf
      obtain rfl := Option.some.inj ho
      obtain rfl := Option.some.inj hb
      exact lowestMultiple_roundUp _ (hpos _ List.mem_cons_self)
    | succ k => exact ih (fun f hf => hpos f (List.mem_cons_of_mem _ hf)) hf ho hb

/-! ### The `.param` line -/

section
variable {s : AsmSource} {name : Text} {ps : AsmParams} {k : AsmKernel} {x : AsmScope} {more : List AsmScope} {v w : Text}
  {size align : Nat}

theorem AsmParams.need_of_get {key : String} (h : ps.get key = some v) : ps.need key = .ok v := by
  simp [AsmParams.need, h]

/-- A `.param` line in a kernel or a graph, its SIZE and ALIGN read. -/
theorem AsmSource.newParam_eq (hopen : s.open_ = x :: more) (hx : x = .kernel ∨ x = .graph) (hk : s.kernels.getLast? = some k)
    (hv : ps.get "SIZE" = some v) (hw : ps.get "ALIGN" = some w) (hsize : needNat 0 (2 ^ 32 - 1) .parameter v = .ok size)
    (halign : needNat 1 (2 ^ 32 - 1) .parameter w = .ok align) :
    s.newParam name ps = if k.stages.any (fun t => !t.blocks.isEmpty) || k.fields.any (fun f => f.1 = name) then .error .parameter
      else .ok (s.kernel (fun k => { k with fields := k.fields ++ [(name, size, align)] })) := by
  unfold AsmSource.newParam
  rw [AsmParams.need_of_get hv, AsmParams.need_of_get hw, hopen, hk]
  obtain rfl | rfl := hx <;> · simp only [bind, Except.bind, hsize, halign]; rfl

end

/-- Settles O60: a field is placed by rounding the end of the field before it up, and PSIZE by rounding the last end up. -/
theorem argumentFieldsArePlaced : Obligations.ArgumentFieldsArePlaced := by
  refine ⟨fun e fs hpos => ⟨length_placeFields e fs, placeFields_end e fs, fun k f o b => placeFields_lowest hpos⟩, fun k => ?_, ?_⟩
  · exact lowestMultiple_roundUp _ (by decide : 0 < 8)
  · intro s name ps k x more v w size align hopen hx hk hv hw hsize halign
    rw [AsmSource.newParam_eq hopen hx hk hv hw hsize halign]
    constructor
    · rintro ⟨t, ht, hblocks⟩
      have hany : k.stages.any (fun t => !t.blocks.isEmpty) = true := List.any_eq_true.2 ⟨t, ht, by simpa using hblocks⟩
      simp [hany]
    · intro hblocks hname
      have hstages : k.stages.any (fun t => !t.blocks.isEmpty) = false := List.any_eq_false.2 fun t ht => by simp [hblocks t ht]
      have hfields : k.fields.any (fun f => f.1 = name) = false := List.any_eq_false.2 fun f hf => by simpa using hname f hf
      simp [hstages, hfields]

end Sys2Proof.Machine

/-! Traps on purpose and reads of registers and rings (spec/06 R257, spec/14 R419, R420). -/

namespace Sys2Proof.Machine

section
variable {s : State} {f : Fields} {p : Spot} {toks : List Token} {r : Run}

/-- What CSTAT sends for an operand below 64: a count or the state of the ring that its low bits name, or the count of the core's
copies of the context that are out. -/
def cstatValue (s : State) (l : Lane) (a : Nat) : Nat :=
  let ring := l.rings.getD (a % 16) { state := .idle, free := 0, slots := 0, tiles := 0 }
  match a / 16 with
  | 0 => ring.tiles % 2 ^ 32
  | 1 => ring.free
  | 2 => ring.state.code
  | _ => (s.copies.filter (fun c => c.ctx = s.cur.ctx && c.core = s.cur.core && c.packet.isNone)).length % 2 ^ 16

theorem exec_cstat_of_lt (hr : Ready s f p toks r) {oe : Bool} (ha : (siteOf s p toks).a.toNat < 64) :
    exec (.cstat f oe) s = .next (s.sent p toks r
      (valueDone f (BitVec.ofNat 64 (cstatValue s p.lane (siteOf s p toks).a.toNat)))) :=
  congrArg _ (fire_send hr (if_neg (Nat.not_le.mpr ha)))

theorem exec_cstat_of_le (hr : Ready s f p toks r) {oe : Bool} (ha : 64 ≤ (siteOf s p toks).a.toNat) :
    exec (.cstat f oe) s = .next (s.trapped p toks r (Fields.both f) cCopyParam none) :=
  congrArg _ (fire_trap hr (if_pos ha))

end

/-- Settles O19: TRAP and BRK by the cause they record, SYSRD and CSTAT by the value they send. -/
theorem trapsAndRegisterReads : Obligations.TrapsAndRegisterReads := by
  intro f oe code tag num s p toks r hr x a ring sends
  have hcstat : ∀ {v}, a < 64 → cstatValue s p.lane a = v → exec (.cstat f oe) s = .next (sends v) := fun ha hv =>
    hv ▸ exec_cstat_of_lt hr ha
  refine ⟨congrArg _ (fire_trap hr rfl), congrArg _ (fire_trap hr rfl), congrArg _ (fire_send hr rfl), fun h => ?_, fun h h' => ?_,
    fun h h' => ?_, fun h h' => ?_, exec_cstat_of_le hr⟩
  · exact hcstat (by omega) (by rw [cstatValue, Nat.div_eq_of_lt h]; rfl)
  · exact hcstat (by omega) (by rw [cstatValue, show a / 16 = 1 by omega]; rfl)
  · exact hcstat (by omega) (by rw [cstatValue, show a / 16 = 2 by omega]; rfl)
  · exact hcstat h' (by rw [cstatValue, show a / 16 = 3 by omega]; rfl)

end Sys2Proof.Machine

/-! Taking a trap (spec/13 R393, R396-R398, R424). -/

namespace Sys2Proof.Machine

section
variable {s : State} {core ctx tidx : Nat} {l : Lane} {t : Thread}

/-- TINFO holds 57 bits, which the word that carries it has. -/
theorem tinfo_eq (info : Nat) : (BitVec.ofNat 64 info).toNat % 2 ^ 57 = info % 2 ^ 57 := by
  rw [BitVec.toNat_ofNat]
  exact Nat.mod_mod_of_dvd info (by decide)

theorem takeTrap_of_handler {blk cause info : Nat} {k : Packet} {h : Nat} (hl : s.lane? core ctx = some l)
    (hk : (s.ctx? ctx).bind (·.kernelPacket?) = some k) (ht : l.thread? tidx = some t) (hh : s.handlerBlock core ctx = some h)
    (hout : t.handler = none) :
    s.takeTrap core ctx tidx blk cause (some info) = s.updLane core ctx (fun l => l.updThread tidx (fun t =>
      { t with place := .waiting h false
               handler := some { tcause := cause, tinfo := info % 2 ^ 57, tblock := k.blockVa blk } })) := by
  simp only [State.takeTrap, hl, ht, hh, hk, hout, Option.isSome_none, tinfo_eq]

theorem takeTrap_of_no_handler {blk cause info : Nat} (hh : s.handlerBlock core ctx = none) :
    s.takeTrap core ctx tidx blk cause (some info) =
      (s.updLane core ctx (fun l => l.updThread tidx (fun t => { t with place := .waiting blk false }))).failPacket ctx cause := by
  simp only [State.takeTrap, hh]

theorem takeTrap_in_handler {blk cause info : Nat} (hl : s.lane? core ctx = some l) (ht : l.thread? tidx = some t)
    (hin : t.handler ≠ none) :
    s.takeTrap core ctx tidx blk cause (some info) =
      (s.updLane core ctx (fun l => l.updThread tidx (fun t => { t with place := .waiting blk false }))).failPacket ctx cause := by
  have hagain : t.handler.isSome = true := Option.isSome_iff_ne_none.mpr hin
  cases hh : s.handlerBlock core ctx with
  | none => exact takeTrap_of_no_handler hh
  | some h => simp only [State.takeTrap, hl, ht, hagain, hh]

theorem nextBlock_of_resume {k : Packet} {b : Block} {r : Run} {x n : Nat} {g : HandlerRegs} (hg : t.handler = some g)
    (hexit : r.exit = some (x, .resume)) (hblk : k.blockAt g.tblock = some n) : nextBlock k b t r = n := by
  simp [nextBlock, hexit, hg, hblk]

end

/-- Settles O59: a trap by whether the context has a handler and the thread is in it, the return by TBLOCK. -/
theorem trapsEnterTheHandler : Obligations.TrapsEnterTheHandler := by
  intro core ctx tidx blk cause info s l k t hl hk ht
  refine ⟨fun h hh hout => takeTrap_of_handler hl hk ht hh hout, ?_, fun b r x g n => nextBlock_of_resume⟩
  rintro (hh | hin)
  · exact takeTrap_of_no_handler hh
  · exact takeTrap_in_handler hl ht hin

end Sys2Proof.Machine

/-! Ownership commands (spec/12 R358-R361). -/

namespace Sys2Proof.Machine

/-- The state after an ownership command that leaves a status (R360): FWSTAT shows it, and the nonce is fresh. -/
def State.ownDone (s : State) (port st : Nat) : State :=
  { s.updFunc port 0 (fun f => { f with fwstat := st }) with firmware := s.firmware.freshen }

section
variable {s : State} {port cmd : Nat} {f : Function} {r : OwnRecord} {check : Firmware → OwnRecord → OwnCheck}
  {act : State → OwnRecord → State}

/-- A command that nothing keeps from being taken is taken at once. -/
theorem own_eq_run (hf : s.func? port 0 = some f) (hidle : field f.fwstat 63 1 = 0) (hwait : s.firmware.waiting = none)
    (hcmd : f.command = cmd) (run : State → State) : s.own port cmd run = run s := by
  simp [State.own, State.submitOwn, hf, hcmd, hidle, hwait]

theorem ownCommand_of_no_fault (hf : s.func? port 0 = some f)
    (hfaults : s.ownFaults port f.ownRecord (check s.firmware f.ownRecord) = []) :
    State.ownCommand port check act s = act (s.ownDone port 0) f.ownRecord := by
  simp only [State.ownCommand, hf, hfaults, State.oneStatus, List.isEmpty_nil, if_true]
  rfl

theorem ownCommand_of_fault {st : Nat} (hf : s.func? port 0 = some f)
    (hfaults : s.ownFaults port f.ownRecord (check s.firmware f.ownRecord) = [st]) :
    State.ownCommand port check act s = s.ownDone port st := by
  simp only [State.ownCommand, hf, hfaults, State.oneStatus, List.isEmpty_cons, if_false, Bool.false_eq_true]
  rfl

theorem ownFaults_of_denied {k : OwnCheck} (h : s.firmware.partition.ownPorts / 2 ^ port % 2 = 0) : s.ownFaults port r k = [6] :=
  if_pos h

theorem ownFaults_of_bad_state {k : OwnCheck} (h : s.firmware.partition.ownPorts / 2 ^ port % 2 = 1) (hstate : k.state = false) :
    s.ownFaults port r k = [2] := by
  simp [State.ownFaults, h, hstate]

/-- What the checks decide of a command: its effect, the one status, or the status of a port or a state that forbids it. -/
theorem own_decides {i : Instr} {k : OwnCheck} {effect : State} (hf : s.func? port 0 = some f) (hidle : field f.fwstat 63 1 = 0)
    (hwait : s.firmware.waiting = none) (hr : r = f.ownRecord)
    (hi : exec i s = .next (s.own port cmd (State.ownCommand port check act))) (hk : check s.firmware r = k)
    (heffect : act (s.ownDone port 0) r = effect) (hcmd : f.command = cmd) :
    (s.ownFaults port r k = [] → exec i s = .next effect) ∧
      (∀ st, s.ownFaults port r k = [st] → exec i s = .next (s.ownDone port st)) ∧
      (s.firmware.partition.ownPorts / 2 ^ port % 2 = 0 → exec i s = .next (s.ownDone port 6)) ∧
      (s.firmware.partition.ownPorts / 2 ^ port % 2 = 1 → k.state = false → exec i s = .next (s.ownDone port 2)) := by
  subst hr hk heffect
  have hrun : exec i s = .next (State.ownCommand port check act s) := hi.trans (congrArg _ (own_eq_run hf hidle hwait hcmd _))
  have hfault : ∀ st, s.ownFaults port f.ownRecord (check s.firmware f.ownRecord) = [st] → exec i s = .next (s.ownDone port st) :=
    fun st h => hrun.trans (congrArg _ (ownCommand_of_fault hf h))
  exact ⟨fun h => hrun.trans (congrArg _ (ownCommand_of_no_fault hf h)), hfault, fun h => hfault 6 (ownFaults_of_denied h),
    fun h hstate => hfault 2 (ownFaults_of_bad_state h hstate)⟩

end

/-- Settles O49: each command by its check and its effect. -/
theorem ownershipCommands : Obligations.OwnershipCommands := by
  intro port s f r keys hf hidle hwait hr hkeys fw done owner next decides sets
  subst hkeys
  refine ⟨?_, ?_, ?_, ?_, ?_, ?_, ?_, ?_⟩ <;> exact own_decides hf hidle hwait hr rfl rfl rfl

end Sys2Proof.Machine

/-! Objects and handles (spec/12 R365). -/

namespace Sys2Proof.Machine

/-- Context 0, whose object load waits for the grant of die 0 to copy its data; it has no page mapped. -/
def loadWaitsForGrant : State :=
  { State.reset with contexts := [unmappedContext], arbiters := [{ queue := [.engine (.strip 0 16)], granted := [] }] }

/-- Refutes O35: its clause about a load that fails leaves out that the load gives up its requests and grants of engine commits
(R187, R189). Here an attempt that waits has asked for the grant of die 0, the next one finds the container unmapped, and the
request is gone afterwards, where the clause leaves the arbiters as the reading left them. -/
theorem not_objectsAreBoundToHandles : ¬ Obligations.ObjectsAreBoundToHandles := by
  intro h
  obtain ⟨hload, -, -, -⟩ := h 0 0 loadWaitsForGrant unmappedContext rfl (by decide)
  obtain ⟨-, hbad⟩ := hload (by decide) (by decide)
  have hread : (match loadWaitsForGrant.loadObject 0 0 unmappedContext.page with
      | .bad t _ => t.arbiters == loadWaitsForGrant.arbiters
      | _ => false) = true := by decide +kernel
  cases hx : loadWaitsForGrant.loadObject 0 0 unmappedContext.page with
  | wait t => simp [hx] at hread
  | ok t o => simp [hx] at hread
  | bad t cause =>
    have hkept : t.arbiters = loadWaitsForGrant.arbiters := by simpa [hx] using hread
    have hexec : exec (.objectLoad 0 0) loadWaitsForGrant =
        .next ((t.dropRequests (.engine (.strip 0 16))).updCtx 0 (·.objDone cause [])) := by
      show execObjectLoad 0 0 loadWaitsForGrant = _
      unfold execObjectLoad
      rw [show loadWaitsForGrant.ctx? 0 = some unmappedContext from rfl]
      dsimp only
      rw [if_neg (by decide), if_neg (by decide), hx]
      rfl
    have hstates := Host.Outcome.next.inj (hexec.symm.trans (hbad t cause hx))
    have harbiters : t.arbiters.map (Arbiter.without (fun x => x = .engine (.strip 0 16))) = t.arbiters :=
      congrArg State.arbiters hstates
    rw [hkept] at harbiters
    exact absurd harbiters (by decide)

end Sys2Proof.Machine

/-! Queues and measurement (spec/12 R366-R369, R381-R388). -/

namespace Sys2Proof.Machine

section
variable {s t u : State} {ctx q : Nat} {c : Context} {p : Packet} {m : Measured}

/-! ### Queue registers (R366-R369) -/

theorem State.queue_updQueue (hc : s.ctx? ctx = some c) {k : Queue} (hk : c.queues[q]? = some k) (f : Queue → Queue) :
    ((s.updCtx ctx (fun c => c.updQueue q f)).ctx? ctx).bind (fun c => c.queues[q]?) = some (f k) := by
  rw [State.ctx_updCtx_same s ctx (fun c => c.updQueue q f) (fun _ => rfl), hc]
  simp [Context.updQueue, hk]

theorem clampTo_of_mem {lo hi v : Nat} (hlo : lo ≤ v) (hhi : v ≤ hi) : clampTo lo hi v = v := by
  simp [clampTo, hlo, hhi]

/-! ### Taking a packet (R366, R368) -/

theorem exec_packetTake_of_other_visit (hc : s.ctx? ctx = some c) (hq : c.visit ≠ q) : exec (.packetTake ctx q) s = .next s := by
  show execPacketTake ctx q s = _
  unfold execPacketTake
  rw [hc]
  cases hk : c.queues[q]? with
  | none => simp only [hk]
  | some k => simp only [hk, if_pos hq]

theorem exec_packetTake_of_read {k : Queue} {bytes : List Byte} (hc : s.ctx? ctx = some c) (hq : c.visit = q)
    (hk : c.queues[q]? = some k) (hen : k.en = true) (herr : k.err = false) (hptr : k.qrptr < k.qwptr)
    (hfree : c.queueFree q = true) (hlive : c.dying = none)
    (hread : (s.updCtx ctx (Context.visited q)).readVa ctx (k.packetVa k.qrptr) 64 .load false = (.ok bytes, t))
    (hp : p = Packet.fresh q k.qrptr c.regs.hseed (leWords 8 bytes)) (hlo : 1 ≤ p.type) (hhi : p.type ≤ 7)
    (hone : p.type ≤ 2 → ∀ x ∈ c.packets, x.type ≠ 1 ∧ x.type ≠ 2) :
    exec (.packetTake ctx q) s = .next (t.addPacket ctx q p) := by
  have htake : (!k.en || k.err || decide (k.qwptr ≤ k.qrptr) || !c.queueFree q || c.dying.isSome) = false := by
    simp [hen, herr, hfree, hlive, hptr]
  have hkernel : ((decide (p.type = 1) || decide (p.type = 2)) && c.packets.any (fun x => x.type = 1 || x.type = 2)) = false := by
    by_cases htwo : p.type ≤ 2
    · have hnone : c.packets.any (fun x => x.type = 1 || x.type = 2) = false :=
        List.any_eq_false.2 fun x hx => by simp [hone htwo x hx]
      simp [hnone]
    · simp [show p.type ≠ 1 by omega, show p.type ≠ 2 by omega]
  have hgood : (decide (p.type = 0) || decide (7 < p.type)) = false := by simp; omega
  subst hp
  show execPacketTake ctx q s = _
  unfold execPacketTake
  simp only [hc, hk, hq, ne_eq, not_true_eq_false, if_false, htake, hread, hkernel, hgood, Bool.false_eq_true]

/-! ### MEASURE (R381) -/

theorem exec_measure_of_bad_format (hp : s.takenPacket ctx q 7 = some p) (hf : p.formatOk = false) :
    exec (.measure ctx q) s = .next (s.failBegin ctx p cPacketFormat) := by
  show execMeasure ctx q s = _
  simp [execMeasure, hp, hf]

/-- A MEASURE packet is measured, so it is opened. -/
theorem exec_measure_of_format (hp : s.takenPacket ctx q 7 = some p) (hf : p.formatOk = true) :
    exec (.measure ctx q) s = .next (match s.openMeasured ctx p { image := none, arg := none } with
      | .wait t => t
      | .bad t cause => t.failBegin ctx p cause
      | .ok t => t.setStage ctx p .retired) := by
  have hmeasured : p.isMeasured = true := by simp [Packet.isMeasured, State.takenPacket_type hp]
  show execMeasure ctx q s = _
  simp only [execMeasure, hp, hf, State.withOpening, hmeasured, Bool.not_true, Bool.false_eq_true, if_false] <;> rfl

/-! ### Closing a measured packet (R382, R384) -/

/-- What the hashing of its result ranges leaves of a packet that has retired. -/
theorem exec_packetClose_of_retired {i : Nat} (hc : s.ctx? ctx = some c) (hp : c.packet? q i = some p) (hm : p.measured = some m)
    (hstage : p.stage = .retired) :
    exec (.packetClose ctx q i) s = .next (if p.outcome.isSome then s.setStage ctx p .closed
      else match s.hashResults ctx p m.ranges with
        | (.park _, t) => s.onlyMigrations t
        | (.bad c _, t) => (t.setStage ctx p .closed).updCtx ctx (fun x => x.updPacket q i (fun p => { p with cause := some c }))
        | (.ok hs, t) => (t.updMeasured ctx p (fun m => { m with resHash := hs })).setStage ctx p .closed) := by
  show execPacketClose ctx q i s = _
  simp only [execPacketClose, hc, Option.bind_some, hp, hm, hstage, ne_eq, not_true_eq_false, if_false] <;> rfl

/-! ### The record of a measurement (R383) -/

theorem length_zeros (n : Nat) : (zeros n).length = n := List.length_replicate

theorem length_hash48 (h : List Byte) : (hash48 h).length = 48 := by
  simp [hash48, zeros]

/-- A record up to its flag, from there to its code hash, its result hashes and what follows them. -/
theorem measurementRecord_eq (p : Packet) (m : Measured) :
    measurementRecord p m = (leBytes 8 m.n ++ leBytes 8 p.index ++ leBytes 1 p.type ++ leBytes 1 p.q) ++
      (leBytes 1 (if p.outcome.isSome then 1 else 0) ++ zeros 1) ++ leBytes 2 (p.outcome.getD 0) ++
      (zeros 10 ++ hash48 m.codeHash ++ hash48 m.argHash) ++
      (List.range 4).flatMap (fun k => if p.outcome.isSome then zeros 48 else hash48 (m.resHash.getD k [])) ++
      (List.range 8).flatMap (fun k => leBytes 8 (m.desc.getD (8 + k) 0).toNat) := by
  simp only [measurementRecord, List.append_assoc]

theorem length_flatMap_const {α : Type} {n : Nat} {f : Nat → List α} (hf : ∀ k, (f k).length = n) (xs : List Nat) :
    (xs.flatMap f).length = xs.length * n := by
  rw [List.length_flatMap, List.map_congr_left (fun k _ => hf k), List.map_const', List.sum_replicate, smul_eq_mul]

theorem length_resultHashes (p : Packet) (m : Measured) :
    ((List.range 4).flatMap (fun k => if p.outcome.isSome then zeros 48 else hash48 (m.resHash.getD k []))).length = 192 :=
  length_flatMap_const (n := 48) (fun k => by split <;> simp [zeros, length_hash48]) _

theorem length_measurementRecord (p : Packet) (m : Measured) : (measurementRecord p m).length = 384 := by
  have hdesc : ((List.range 8).flatMap (fun k => leBytes 8 (m.desc.getD (8 + k) 0).toNat)).length = 64 :=
    length_flatMap_const (fun _ => leBytes_length ..) _
  simp only [measurementRecord_eq, List.length_append, leBytes_length, length_hash48, length_zeros, length_resultHashes, hdesc]

theorem measurementRecord_flag (p : Packet) (m : Measured) :
    (measurementRecord p m)[18]? = some (if p.outcome = none then 0 else 1) := by
  rw [measurementRecord_eq, List.append_assoc, List.append_assoc, List.append_assoc, List.append_assoc,
    List.getElem?_append_right (by simp)]
  cases p.outcome <;> simp [leBytes]

theorem measurementRecord_cause (p : Packet) (m : Measured) :
    ((measurementRecord p m).drop 20).take 2 = leBytes 2 (p.outcome.getD 0) := by
  have hhead : (leBytes 8 m.n ++ leBytes 8 p.index ++ leBytes 1 p.type ++ leBytes 1 p.q ++
      (leBytes 1 (if p.outcome.isSome then 1 else 0) ++ zeros 1)).length = 20 := by simp [zeros]
  rw [measurementRecord_eq, List.append_assoc, List.append_assoc, List.append_assoc, List.drop_left' hhead,
    List.take_left' (leBytes_length ..)]

theorem measurementRecord_results (p : Packet) (m : Measured) (hfail : p.outcome ≠ none) :
    ((measurementRecord p m).drop 128).take 192 = List.replicate 192 0 := by
  have hhead : (leBytes 8 m.n ++ leBytes 8 p.index ++ leBytes 1 p.type ++ leBytes 1 p.q ++
      (leBytes 1 (if p.outcome.isSome then 1 else 0) ++ zeros 1) ++ leBytes 2 (p.outcome.getD 0) ++
      (zeros 10 ++ hash48 m.codeHash ++ hash48 m.argHash)).length = 128 := by simp [zeros, length_hash48]
  rw [measurementRecord_eq, List.append_assoc, List.drop_left' hhead, List.take_left' (length_resultHashes p m)]
  refine List.eq_replicate_iff.2 ⟨length_resultHashes p m, fun b hb => ?_⟩
  simp only [if_pos (Option.isSome_iff_ne_none.mpr hfail), List.mem_flatMap] at hb
  obtain ⟨-, -, hb⟩ := hb
  exact List.eq_of_mem_replicate hb

/-! ### Extending the chain (R383, R386, R388) -/

/-- The state in which the chain holds a packet's record and its queue the cause of its failure. -/
def State.chained (s : State) (ctx : Nat) (c : Context) (p : Packet) (m : Measured) : State :=
  (s.updCtx ctx (·.updPage (CtxPage.extended (extendChain c.page.mchain (measurementRecord p m)) m.n))).reportFailure ctx p

theorem exec_chainExtend_of_next (hc : s.ctx? ctx = some c) (hnext : c.chainNext = some (p, m)) (hn : m.n = c.page.mseq + 1) :
    exec (.chainExtend ctx) s = .next (if !p.wantsWaybill || c.dying.isSome then (s.chained ctx c p m).completeNow ctx p
      else match (s.chained ctx c p m).writeChecked ctx m.out
          (waybill s c m (extendChain c.page.mchain (measurementRecord p m)) (measurementRecord p m)) with
        | (.park _, t) => (s.onlyMigrations t).dropRequests (.engine (.strip ctx p.q))
        | (.bad e _, t) => (t.waybillFault ctx p e).completeNow ctx p
        | (.ok ps, t) =>
          match t.mayCommit (.strip ctx p.q) ps with
          | (false, t) => s.onlyMigrations t
          | (true, t) => (t.commitAs (.strip ctx p.q) ps).completeNow ctx p) := by
  have hnew : ¬ m.n ≤ c.page.mseq := by omega
  show execChainExtend ctx s = _
  simp only [execChainExtend, hc, hnext, if_neg hnew]
  rfl

end

/-- Settles O44: the queue registers by the queue they leave, each packet by what its read, opening, hashing or waybill comes to. -/
theorem queuesAndMeasurement : Obligations.QueuesAndMeasurement := by
  intro ctx q s c hc
  refine ⟨fun k v hk => ⟨_, rfl, ?_⟩, fun k hk => ⟨_, rfl, s.queue_updQueue hc hk _⟩, fun k en n hk hlo hhi => ⟨_, rfl, ?_⟩,
    exec_packetTake_of_other_visit hc, ?_, fun p hp => ⟨?_, ?_, exec_measure_of_bad_format hp⟩,
    fun i p m hp hm hstage => ⟨?_, ?_, ?_⟩, fun p m => ⟨length_measurementRecord p m, measurementRecord_flag p m,
      measurementRecord_cause p m, measurementRecord_results p m⟩,
    fun p m hnext hn => ?_⟩
  · refine (State.queue_updQueue hc hk _).trans ?_
    simp
  · refine (State.queue_updQueue hc hk _).trans ?_
    rw [Nat.mod_eq_of_lt (by omega), clampTo_of_mem hlo hhi]
  · exact fun k bytes t hq hk hen herr hptr hfree hlive hread hlo hhi hone =>
      exec_packetTake_of_read hc hq hk hen herr hptr hfree hlive hread rfl hlo hhi hone
  · intro t hf ht
    rw [exec_measure_of_format hp hf, ht]
  · intro t cause hf ht
    rw [exec_measure_of_format hp hf, ht]
  · intro hfail
    rw [exec_packetClose_of_retired hc hp hm hstage, if_pos (Option.isSome_iff_ne_none.mpr hfail)]
  · intro hs t hgood ht
    rw [exec_packetClose_of_retired hc hp hm hstage, hgood, ht]
    rfl
  · intro cause a t hgood ht
    rw [exec_packetClose_of_retired hc hp hm hstage, hgood, ht]
    rfl
  · intro record chain linked t
    have ht : t = s.chained ctx c p m := by
      simp only [t, State.chained, State.reportFailure]
      cases p.cause <;> rfl
    rw [exec_chainExtend_of_next hc hnext hn, ← ht]
    refine ⟨fun hdone => ?_, fun hwants hlive => ⟨fun ps u v hu hv => ?_, fun e a u hu => ?_⟩⟩
    · rw [if_pos (by simpa [Option.isSome_iff_ne_none] using hdone)]
    · rw [if_neg (by simp [hwants, hlive])]
      simp only [chain, record] at hu
      simp only [extendChain, hu, hv]
    · rw [if_neg (by simp [hwants, hlive])]
      simp only [chain, record] at hu
      simp only [extendChain, hu]
      rfl

end Sys2Proof.Machine

/-! Context commands and the failure of a die (spec/12 R333, R335, R336, spec/13 R404). -/

namespace Sys2Proof.Machine

section
variable {s t : State} {port fn : Nat} {f : Function}

/-! ### A command that is taken, waits, or is ignored (R335) -/

theorem State.submit_busy (hf : s.func? port fn = some f) (hbusy : f.busy = true) (cmd : Command) (run : State → State) :
    s.submit port fn cmd run = s := by
  simp [State.submit, hf, hbusy]

theorem State.submit_waits (hf : s.func? port fn = some f) (hidle : f.busy = false) (hrun : s.commandRuns = true ∨ s.commands ≠ [])
    (cmd : Command) (run : State → State) :
    s.submit port fn cmd run = { s.updFunc port fn (fun f => { f with ctxstat := 2 ^ 63 }) with
      commands := s.commands ++ [{ port := port, fn := fn, cmd := cmd }] } := by
  have hwaits : (s.commandRuns || !s.commands.isEmpty) = true := by simpa using hrun
  simp [State.submit, hf, hidle, hwaits]

/-- The three commands of CTXCMD are submitted. -/
theorem exec_command_eq_submit {ctx : Nat} {cmd : Command} {i : Instr} (hctx : ctx < 64)
    (hi : (cmd, i) ∈ [(Command.create, Instr.create port fn), (.destroy ctx, .destroy port fn ctx), (.grant, .grant port fn)]) :
    ∃ run, exec i s = .next (s.submit port fn cmd run) := by
  simp only [List.mem_cons, Prod.mk.injEq, List.not_mem_nil, or_false] at hi
  obtain ⟨rfl, rfl⟩ | ⟨rfl, rfl⟩ | ⟨rfl, rfl⟩ := hi
  · exact ⟨_, rfl⟩
  · exact ⟨_, congrArg _ (if_pos hctx)⟩
  · exact ⟨_, rfl⟩

/-! ### The status of a command -/

theorem func_commandStatus (hf : s.func? port fn = some f) (st : Nat) :
    (s.commandStatus port fn st).func? port fn = some { f with ctxstat := st * 2 ^ 48 } := by
  rw [State.commandStatus, State.func_updFunc_same, hf]
  rfl

/-! ### CREATE (R333) -/

/-- Two states of the same contexts and functions. -/
def SameTables (s t : State) : Prop := t.contexts = s.contexts ∧ t.functions = s.functions

theorem SameTables.fillRange {key r : Nat} (h : SameTables s t) : SameTables s (t.fillRange key r) := by
  unfold State.fillRange
  split
  · split <;> exact h
  · exact h

/-- A context is created in a state in which its key slots are allotted and its ranges filled. -/
theorem createContext_eq (s : State) (port fn n : Nat) (f : Function) : ∃ t, SameTables s t ∧
    s.createContext port fn n f = ({ t with contexts := t.contexts ++ [Context.fresh n (funcIndex port fn) f.ctxrec
      ((s.freeKeys port).take (recKeys f.ctxrec))] } : State).updFunc port fn (Function.created n) := by
  refine ⟨_, ?_, rfl⟩
  have hkeys : SameTables s (((s.freeKeys port).take (recKeys f.ctxrec)).foldl (State.allotKey n) s) :=
    List.foldlRecOn (motive := SameTables s) _ _ ⟨rfl, rfl⟩ fun _ ht _ _ => ht
  exact List.foldlRecOn (motive := SameTables s) _ _ hkeys fun _ ht _ _ => ht.fillRange

theorem ctx_createContext {n : Nat} (hfree : s.freeNumber = some n) :
    (s.createContext port fn n f).ctx? n =
      some (Context.fresh n (32 * port + fn) f.ctxrec ((s.freeKeys port).take (recKeys f.ctxrec))) := by
  have hisNone : (s.ctx? n).isNone = true := List.find?_some (p := fun n => (s.ctx? n).isNone) hfree
  have hnone : s.contexts.find? (fun c => decide (c.num = n)) = none := Option.isNone_iff_eq_none.mp hisNone
  obtain ⟨t, ⟨hcontexts, -⟩, heq⟩ := createContext_eq s port fn n f
  rw [heq]
  simp only [State.updFunc, State.ctx?, hcontexts, List.find?_append, hnone]
  exact List.find?_cons_of_pos (p := fun c : Context => decide (c.num = n)) (decide_eq_true rfl)

theorem ctxstat_createContext {n : Nat} (hf : s.func? port fn = some f) :
    ((s.createContext port fn n f).func? port fn).map (·.ctxstat) = some (n * 2 ^ 40) := by
  obtain ⟨t, ⟨-, hfunctions⟩, heq⟩ := createContext_eq s port fn n f
  have ht : ({ t with contexts := t.contexts ++ [Context.fresh n (funcIndex port fn) f.ctxrec
      ((s.freeKeys port).take (recKeys f.ctxrec))] } : State).func? port fn = some f := by
    unfold State.func? at hf ⊢
    rwa [show ({ t with contexts := _ } : State).functions = s.functions from hfunctions]
  rw [heq, State.func_updFunc_same, ht]
  rfl

theorem runCreate_of_ok {n : Nat} (hf : s.func? port fn = some f) (hst : s.createStatus port fn f = 0)
    (hfree : s.freeNumber = some n) :
    State.runCreate port fn s = s.createContext port fn n f := by
  simp only [State.runCreate, hf, hst, hfree]

theorem runCreate_of_bad (hf : s.func? port fn = some f) (hst : s.createStatus port fn f ≠ 0) :
    State.runCreate port fn s = s.commandStatus port fn (s.createStatus port fn f) := by
  simp only [State.runCreate, hf]
  split
  next hzero _ => exact absurd hzero hst
  · rfl

theorem createStatus_of_refused (h : s.firmware.state ≠ .owned ∨ s.firmware.provision = true) : s.createStatus port fn f = 7 :=
  if_pos (by simpa using h)

/-! ### GRANT (R336) -/

theorem runGrant_of_no_fault (hf : s.func? port fn = some f) (hfaults : s.grantFaults port fn f = []) :
    State.runGrant port fn s = (s.commandStatus port fn 0).updFunc port (field (recWord f.ctxrec 0) 0 5)
      (Function.take (recWord f.ctxrec 1) (quotaPeers f.quota) (recRanges f.ctxrec)) := by
  simp only [State.runGrant, hf, hfaults, State.oneStatus, List.isEmpty_nil, if_true]

theorem runGrant_of_fault {st : Nat} (hf : s.func? port fn = some f) (hfaults : s.grantFaults port fn f = [st]) :
    State.runGrant port fn s = s.commandStatus port fn st := by
  simp only [State.runGrant, hf, hfaults, State.oneStatus, List.isEmpty_cons, Bool.false_eq_true, if_false]

/-! ### The failure of a die (spec/13 R404) -/

theorem exec_dieFailed_of_failures {die : Nat} {l : SessionLink} (hl : s.sessions[die]? = some l) (hfailures : 3 ≤ l.failures)
    (hnew : die ∉ s.tarat.dieFail) :
    exec (.dieFailed die) s = .next (((s.contexts.filter (s.dieConcerns die)).map Context.num).foldl
      (fun (t : State) n => t.beginReset cDieFailed false n)
      ({ s with io := s.io.map (IoDie.failDie die) } : State)).settleAll := by
  have hfails : (decide (l.failures < 3) || s.tarat.dieFail.contains die) = false := by simp [hnew, hfailures]
  show execDieFailed die s = _
  simp only [execDieFailed, hl, hfails, Bool.false_eq_true, if_false]

end

/-- Settles O48: a command by whether it is submitted, and what its run comes to. -/
theorem contextCommands : Obligations.ContextCommands := by
  intro port fn ctx die s
  refine ⟨fun f cmd i hf hctx hi => ?_, fun f hf hidle hrun hcmds => ?_, fun l => exec_dieFailed_of_failures⟩
  · obtain ⟨run, hexec⟩ := exec_command_eq_submit hctx hi
    exact ⟨fun hbusy => hexec.trans (congrArg _ (State.submit_busy hf hbusy cmd run)),
      fun hidle hrun => hexec.trans (congrArg _ (State.submit_waits hf hidle hrun cmd run))⟩
  · have hcreate : exec (.create port fn) s = .next (State.runCreate port fn s) :=
      congrArg _ (State.submit_idle hf hidle hrun hcmds ..)
    have hgrant : exec (.grant port fn) s = .next (State.runGrant port fn s) :=
      congrArg _ (State.submit_idle hf hidle hrun hcmds ..)
    have hdestroy : ctx < 64 → exec (.destroy port fn ctx) s = .next (State.runDestroy port fn ctx s) := fun hctx =>
      congrArg _ ((if_pos hctx).trans (State.submit_idle hf hidle hrun hcmds ..))
    refine ⟨fun n hst hfree => ⟨hcreate.trans (congrArg _ (runCreate_of_ok hf hst hfree)), ctx_createContext hfree,
        ctxstat_createContext hf⟩,
      fun hst => ⟨_, hcreate.trans (congrArg _ (runCreate_of_bad hf hst)), func_commandStatus hf _, rfl⟩, createStatus_of_refused,
      fun hfn => if_pos hfn, fun hctx hmay => (hdestroy hctx).trans (congrArg _ (if_pos hmay)),
      fun hctx hmay => ⟨_, (hdestroy hctx).trans (congrArg _ (if_neg (by simp [hmay]))), func_commandStatus hf _, rfl⟩,
      fun hfaults => hgrant.trans (congrArg _ (runGrant_of_no_fault hf hfaults)),
      fun st hfaults => ⟨_, hgrant.trans (congrArg _ (runGrant_of_fault hf hfaults)), func_commandStatus hf _⟩⟩

end Sys2Proof.Machine

/-! Regions and pre-emption (spec/12 R294, spec/13 R404-R416). -/

namespace Sys2Proof.Machine

/-- A LAUNCH packet that runs. -/
def runningLaunch : Packet := { Packet.fresh 0 0 0 [1, 0, 0, 0, 0, 0, 0, 0] with stage := .running }

/-- A context whose packet runs and has a snapshot still to be written, its DIAGBASE cleared. -/
def stalledContext : Context := { unmappedContext with packets := [runningLaunch], stall := some [] }

/-- Its core, with a thread still to be admitted, quiet for as long as QLIMIT says. -/
def quietLane : Lane := { Lane.reset 0 0 SysRegs.reset with pendingLeft := 1, quiet := 2 ^ 20 }

def stalledState : State :=
  { State.reset with contexts := [stalledContext], regions := [Region.at_ 0 0 1 1 0], lanes := [quietLane] }

/-- The stall that a write of the snapshot leaves behind ends with the packet's failure (R294 step 4). -/
theorem exec_quiescentStall_stalled :
    exec (.quiescentStall 0) stalledState =
      .next ((stalledState.failPacket 0 cQuiescentStall).updCtx 0 (fun c => { c with stall := none })) := by
  show execQuiescentStall 0 stalledState = _
  rfl

/-- Refutes O47: its clause about a quiescent region with DIAGBASE 0 has the packet fail and nothing else change, also in a context
that has a snapshot still to be written; QUIESCENT_STALL then ends that stall too. Here a core of the context is quiet for 2^QLIMIT
cycles and not frozen, and the event leaves no snapshot to be written, where the clause leaves the one there was. -/
theorem not_regionsAndPreemption : ¬ Obligations.RegionsAndPreemption := by
  intro h
  obtain ⟨-, -, -, -, -, -, -, -, -, hstall⟩ := h 0 stalledState
  have hclause := hstall stalledContext (Region.at_ 0 0 1 1 0) runningLaunch rfl rfl rfl rfl (by decide) rfl
  have hstates := Host.Outcome.next.inj (exec_quiescentStall_stalled.symm.trans hclause)
  have hleft : ((stalledState.failPacket 0 cQuiescentStall).ctx? 0).map (·.stall) = some (some []) := by decide +kernel
  have hended : (((stalledState.failPacket 0 cQuiescentStall).updCtx 0 (fun c => { c with stall := none })).ctx? 0).map (·.stall) =
      some none := by decide +kernel
  rw [hstates] at hended
  exact absurd (hleft.symm.trans hended) (by decide)

end Sys2Proof.Machine
